-- ==== Sys2Proof/Word.lean ====
section
/-! DEFINITION. The word types of the Barder (R4, R5, R6). -/

namespace Sys2Proof

/-- A byte (R4). -/
abbrev Byte := BitVec 8

/-- A word, the size of an instruction word and of a lane register (R4). -/
abbrev Word := BitVec 32

/-- A dword, the size of a scalar register (R4). -/
abbrev DWord := BitVec 64

/-- One bit per lane of a team, lane l at bit l (R27: mask word w is bits 32w+31 to 32w). -/
abbrev LaneMask := BitVec 1024

end Sys2Proof
end

