-- ==== Sys2Proof/Config.lean ====
section
/-! DEFINITION. What the spec leaves open or to the implementation: constants with no body, so that no proof can see a
value of them. A function of a number is applied to State.free, which a step advances (log 6). -/

namespace Sys2Proof.Config

/-- A free choice among alternatives, taken modulo their number (R264, R265, R39; log 6). -/
opaque choice : Nat → Nat

/-- Arithmetic-clock cycles that pass before a step (log 4). -/
opaque elapsed : Nat → Nat

/-- SHAKE256 with a 512-bit output (R304; log 8). -/
opaque shake512 : List Byte → BitVec 512

/-- Whether a Falcon-1024 signature over the bytes verifies under Yunahan's image key (R305, R309; log 8). -/
opaque falconOk : List Byte → List Byte → Bool

/-- The signature of a measurement report by the alias key of a seed (R307; log 8). -/
opaque aliasSign : BitVec 512 → List Byte → List Byte

/-- The certificate chain of the alias key of a seed, which the identity key signs (R307; log 8): identity private key, seed. -/
opaque aliasChain : List Byte → BitVec 512 → List Byte

/-- The bytes of an SPDM response the spec names and does not lay out: request code, snapshot (R308; log 8). -/
opaque spdmResponse : Nat → List Byte → List Byte

/-- The syndrome an error detection logs (R355; log 6). -/
opaque syndrome : Nat → Nat

/-- A value the spec gives no result for, by an index (log 6). -/
opaque freeValue : Nat → BitVec 64

/-- The channel of a stack, modulo 32, that an address of local HBM lies in (R386; log 20). -/
opaque channelOf : Nat → Nat

/-- The entries of a section of a RESYNC result, 32 bytes each, 96 in section 5: section type, the values it shows (R385; log 21). -/
opaque resyncEntry : Nat → List Nat → List Byte

/-- Packets that the buffer of a virtual channel holds beyond two (R288; log 61). -/
opaque netDepth : Nat

/-- Requests that a core's network injection queue holds beyond two (R285; log 61). -/
opaque injectDepth : Nat

/-- The head flit of a packet: its load's kind and numbers, its flits, stop, destination and channel (R289; log 61). -/
opaque headFlit : List Nat → BitVec 512

/-- What training finds at a port: lanes that came up, one bit per lane of 16 (R303 step 6; log 4). -/
opaque trained : Nat → Nat

end Sys2Proof.Config
end

