-- ==== Sys2Proof/Syntax.lean ====
section
/-! DEFINITION. The instructions and events of the Barder, one constructor of Instr per row of spec/opcode_table.json:
159 instructions (R129, R130) in the order of the opcode map, then 131 events, each one indivisible step (R11) of the
agents that spec/ describes. -/

namespace Sys2Proof

/-- A register field (R118): v0-v95, s0-s23, q0-q7. -/
inductive Reg where
  | v (n : Fin 96)
  | s (n : Fin 24)
  | q (n : Fin 8)
  deriving DecidableEq, Repr

/-- A second source (R116, R117): a register, or with X = 1 the literal word. -/
inductive Src where
  | reg (r : Reg)
  | lit (w : Word)
  deriving DecidableEq, Repr

/-- The conditions of CMP (R123), by their codes 0 to 14. -/
inductive Cond where
  | eq
  | ne
  | lt
  | le
  | gt
  | ge
  | equ
  | neu
  | ltu
  | leu
  | gtu
  | geu
  | num
  | nan
  | tst
  deriving DecidableEq, Repr

/-- The kinds of VOTE (R146). -/
inductive VoteKind where
  | any
  | all
  | uni
  deriving DecidableEq, Repr

/-- The specials of SRD (R125), by their numbers 0 to 17. -/
inductive Special where
  | lane
  | quadlane
  | teamlanes
  | team
  | group
  | gang
  | launch
  | core
  | pair
  | die
  | dev
  | phase
  | clock
  | task
  | context
  | helper
  | carve
  | quarter
  deriving DecidableEq, Repr

/-- Source type of PACK (R158). -/
inductive PackSrc where
  | f32
  | s32
  | n32
  deriving DecidableEq, Repr

/-- Partner lane of QSWAP (R165): xor 1, 2 or 3. -/
inductive QuadX where
  | x1
  | x2
  | x3
  deriving DecidableEq, Repr

/-- Modes of SHFL (R165). -/
inductive ShflMode where
  | idx
  | up
  | dn
  | xor
  deriving DecidableEq, Repr

/-- Modes of SCAN (R165). -/
inductive ScanMode where
  | add
  | xadd
  | max
  | min
  deriving DecidableEq, Repr

/-- Modes of REDX (R165). -/
inductive RedxMode where
  | add
  | min
  | max
  | or
  deriving DecidableEq, Repr

/-- Modes of TSHFL (R165). -/
inductive TshflMode where
  | idx
  | up
  | dn
  deriving DecidableEq, Repr

/-- Access classes of loads (R83). -/
inductive LdClass where
  | plain
  | inv
  | rlx
  | acq
  deriving DecidableEq, Repr

/-- Access classes of stores (R83). -/
inductive StClass where
  | plain
  | strm
  | rlx
  | rel
  deriving DecidableEq, Repr

/-- Ordering classes of fetch-atomics (R181). -/
inductive AtOrder where
  | rlx
  | acq
  | rel
  | ar
  deriving DecidableEq, Repr

/-- Kinds of PF (R180). -/
inductive PfKind where
  | l1
  | l2
  | ex
  deriving DecidableEq, Repr

/-- Fields of PHRD (R196). -/
inductive PhField where
  | phase
  | exp
  | next
  | flags
  deriving DecidableEq, Repr

/-- Kinds of FENCE (R198). -/
inductive FenceKind where
  | all
  | st
  | ld
  deriving DecidableEq, Repr

/-- Scopes of FENCE (R124). -/
inductive Scope where
  | team
  | group
  | gang
  | die
  | device
  | domain
  | system
  deriving DecidableEq, Repr

/-- The management registers with no row of their own in the table: REGISTER_WRITE stores to them (R9). Context-owned
registers carry the context number. -/
inductive MReg where
  | crBase (ctx : Nat) | crHead (ctx : Nat) | crTag (ctx : Nat)
  | pgrBase | pgrHead
  | levelFloor (f : Fin 17)
  | xlinvAddr
  | holdLim (c : Fin 6)
  | l2VerCfg
  | fyWin (n : Fin 16) | fyCtr (die : Fin 2) | fyLnk (port : Fin 8) | fyE2e | fyRtBase | mctBase
  | mdJoin (n : Fin 64) | mdList (n : Fin 64) | mdAckTo
  | scrubCfg (n : Fin 4) | errLog (n : Fin 4)
  | dbgCtl (ctx : Nat)
  | svcCtl
  | cjRange (ctx : Nat) (die : Fin 2)
  | ckLog
  deriving DecidableEq, Repr

/-- The requests of SPDM (R308, R384), with the nonce of those that carry one. -/
inductive SpdmReq where
  | version | capabilities | algorithms | digests | certificate
  | challenge (nonce : List Byte) | measurements (nonce : List Byte)
  | unsupported (request : Byte)
  deriving DecidableEq, Repr

/-- An inbound Fyolo request (R294) as its packet carries it; spdm is a management message (R308). -/
inductive InKind where
  | load | store | atomic (op : Fin 9) | reduction (op : Fin 6) | put | get | bulk | send | trigger
  | spdm (q : SpdmReq)
  deriving DecidableEq, Repr

/-- What a peer's commit message names: its launch and the phase that is settled (R297). -/
structure PeerPhase where
  launch : Nat
  phase  : Nat
  deriving DecidableEq, Repr

/-- What an update names: a unit and the address of its image in the flash (R314). -/
structure UnitImage where
  unit : Nat
  addr : Nat
  deriving DecidableEq, Repr

/-- Bytes, each with its poison mark (R351). -/
abbrev Marked := List (Byte × Bool)

/-- An inbound request: its source device and sequence number, what it asks, the address and element type, its data or
operands, and the counter (RCTR) and pending-signal words it carries. An address with bit 63 set is an offset [47:0] in the
multicast group [61:48] (R77, log 12). For a load or get, data has the length asked for. A load or store of a team carries its tag in
these words (R295, R297): rctr its context [63:48], core and slot [47:36] and phase [15:0], pd its launch [63:32] and task [31:0] (log 12). -/
structure InboundReq where
  src   : Nat
  seq   : Nat
  kind  : InKind
  addr  : DWord
  etype : Nat
  data  : Marked
  rctr  : DWord
  pd    : DWord
  deriving DecidableEq, Repr

/-- What a scrub reads (R354-R358): a granule of HBM, the chip scratchpad, a counter, a register, an accumulator element, a sector in an L1, a
granule of a core scratchpad, a member share, a lane-private part, a pending version or a lock checkpoint, control storage of a matrix engine,
of the Conjunction Engine or of a team, a directory entry. -/
inductive ScrubTarget where
  | hbm (granule : Nat)
  | chip (granule : Nat)
  | counter (die : Fin 2) (n : Nat)
  | vector (team reg lane : Nat)
  | scalar (team reg : Nat)
  | predicate (team reg : Nat)
  | accumulator (pair : Fin 128) (index : Nat)
  | l1 (core : Fin 256) (sector : Nat)
  | scratch (launch group granule : Nat)
  | share (launch group granule : Nat)
  | priv (team granule : Nat)
  | version (team granule : Nat)
  | checkpoint (granule : Nat)
  | matrixTags (pair : Fin 128)
  | conjunction (die : Fin 2) (slot : Nat)
  | teamControl (team : Nat)
  | directory (line : Nat)
  deriving DecidableEq, Repr

/-- What a scrub read finds: nothing, a corrected error, an uncorrectable one. -/
inductive ScrubOutcome where
  | clean | corrected | uncorrectable | metCorrected | metUncorrectable
  deriving DecidableEq, Repr

/-- The instructions and events of the part. -/
inductive Instr where
  /-- NOP. R141: no effect. -/
  | nop
  /-- BRA. R141: branch of the whole fragment. -/
  | bra (b : Src)
  /-- BRC. R142: conditional branch; splits, transfers or falls through. -/
  | brc (neg : Bool) (pa : Fin 8) (b : Src)
  /-- BRANY. R141: branch when some non-helper active lane passes. -/
  | brany (neg : Bool) (pa : Fin 8) (b : Src)
  /-- BRALL. R141: branch when every non-helper active lane passes. -/
  | brall (neg : Bool) (pa : Fin 8) (b : Src)
  /-- JMP. R141: absolute jump. -/
  | jmp (b : Src)
  /-- CALL. R141: call, link in a scalar. -/
  | call (d : Reg) (b : Src)
  /-- RET. R141: return to the address in a scalar. -/
  | ret (b : Reg)
  /-- LOOP. R141: decrement and branch while non-zero. -/
  | loop (d : Reg) (b : Src)
  /-- FUSE. R32, R35: move to the join. -/
  | fuse
  /-- YIELD. R141: lose the next issue choice. -/
  | yield
  /-- EXIT. R141: active lanes leave the mask. -/
  | exit
  /-- STOP. R141: every lane of the team leaves. -/
  | stop
  /-- SIGCHK. R144: compare the signature register. -/
  | sigchk (b : Src)
  /-- SIGRD. R144: read the signature register. -/
  | sigrd (d : Reg)
  /-- ELECT. R145: predicate of the lowest active lane. -/
  | elect (p : Fin 8)
  /-- MOOD. R147: write a mood register. -/
  | mood (md : Fin 4) (b : Src)
  /-- MOODRD. R147: read a mood register. -/
  | moodrd (d : Reg) (ma : Fin 4)
  /-- CMP. R148: compare into a predicate. -/
  | cmp (p : Fin 8) (c : Cond) (a : Reg) (b : Src)
  /-- PAND. R149. -/
  | pand (p : Fin 8) (pa : Fin 8) (pb : Fin 8)
  /-- POR. R149. -/
  | por (p : Fin 8) (pa : Fin 8) (pb : Fin 8)
  /-- PXOR. R149. -/
  | pxor (p : Fin 8) (pa : Fin 8) (pb : Fin 8)
  /-- PNOT. R149. -/
  | pnot (p : Fin 8) (pa : Fin 8)
  /-- PMOV. R149: a bit of a into a predicate. -/
  | pmov (p : Fin 8) (a : Reg) (b : Src)
  /-- VOTE. R149. -/
  | vote (p : Fin 8) (k : VoteKind) (pa : Fin 8)
  /-- BALLOT. R149. -/
  | ballot (d : Reg) (pa : Fin 8) (b : Src)
  /-- SELP. R149. -/
  | selp (d : Reg) (a : Reg) (pb : Fin 8)
  /-- SRD. R150: read a special. -/
  | srd (d : Reg) (sp : Special)
  /-- SWR_GEN. R150: set rounding generators. -/
  | swrGen (b : Src)
  /-- SWR_SIG. R150: set the signature. -/
  | swrSig (b : Src)
  /-- MOV. R151. -/
  | mov (d : Reg) (a : Reg)
  /-- MOVI. R151. -/
  | movi (d : Reg) (b : Src)
  /-- ADD. R153. -/
  | add (d : Reg) (a : Reg) (b : Src)
  /-- SUB. R153. -/
  | sub (d : Reg) (a : Reg) (b : Src)
  /-- MUL. R153. -/
  | mul (d : Reg) (a : Reg) (b : Src)
  /-- MULHI. R153. -/
  | mulhi (d : Reg) (a : Reg) (b : Src)
  /-- FMA. R153: reads and writes d. -/
  | fma (d : Reg) (a : Reg) (b : Src)
  /-- FMS. R153: reads and writes d. -/
  | fms (d : Reg) (a : Reg) (b : Src)
  /-- FNMA. R153: reads and writes d. -/
  | fnma (d : Reg) (a : Reg) (b : Src)
  /-- MIN. R153. -/
  | min (d : Reg) (a : Reg) (b : Src)
  /-- MAX. R153. -/
  | max (d : Reg) (a : Reg) (b : Src)
  /-- ABS. R153. -/
  | abs (d : Reg) (a : Reg)
  /-- NEG. R153. -/
  | neg (d : Reg) (a : Reg)
  /-- CLAMP. R153: reads and writes d. -/
  | clamp (d : Reg) (a : Reg) (b : Src)
  /-- DIV. R154. -/
  | div (d : Reg) (a : Reg) (b : Src)
  /-- REM. R154. -/
  | rem (d : Reg) (a : Reg) (b : Src)
  /-- SQRT. R155. -/
  | sqrt (d : Reg) (a : Reg)
  /-- RSQ. R155. -/
  | rsq (d : Reg) (a : Reg)
  /-- RCP. R155. -/
  | rcp (d : Reg) (a : Reg)
  /-- EXP2. R155. -/
  | exp2 (d : Reg) (a : Reg)
  /-- LOG2. R155. -/
  | log2 (d : Reg) (a : Reg)
  /-- SIN. R155. -/
  | sin (d : Reg) (a : Reg)
  /-- COS. R155. -/
  | cos (d : Reg) (a : Reg)
  /-- TANH. R155. -/
  | tanh (d : Reg) (a : Reg)
  /-- CVT. R157: convert from the source type b. -/
  | cvt (e : Fin 4) (d : Reg) (a : Reg) (st : Fin 15)
  /-- PACK. R158. -/
  | pack (src : PackSrc) (d : Reg) (a : Reg) (b : Src)
  /-- UNPACK. R158. -/
  | unpack (d : Reg) (a : Reg) (b : Src)
  /-- DOT4. R159. -/
  | dot4 (d : Reg) (a : Reg) (b : Src)
  /-- DOT2. R159. -/
  | dot2 (d : Reg) (a : Reg) (b : Src)
  /-- FRC. R156. -/
  | frc (d : Reg) (a : Reg)
  /-- RND. R156. -/
  | rnd (d : Reg) (a : Reg)
  /-- AND. R161. -/
  | and (d : Reg) (a : Reg) (b : Src)
  /-- OR. R161. -/
  | or (d : Reg) (a : Reg) (b : Src)
  /-- XOR. R161. -/
  | xor (d : Reg) (a : Reg) (b : Src)
  /-- NOT. R161. -/
  | not (d : Reg) (a : Reg)
  /-- SHL. R161. -/
  | shl (d : Reg) (a : Reg) (b : Src)
  /-- SHR. R161. -/
  | shr (d : Reg) (a : Reg) (b : Src)
  /-- SAR. R161. -/
  | sar (d : Reg) (a : Reg) (b : Src)
  /-- ROT. R161. -/
  | rot (d : Reg) (a : Reg) (b : Src)
  /-- POPC. R161. -/
  | popc (d : Reg) (a : Reg)
  /-- CLZ. R161. -/
  | clz (d : Reg) (a : Reg)
  /-- BREV. R161. -/
  | brev (d : Reg) (a : Reg)
  /-- BFE. R162. -/
  | bfe (d : Reg) (a : Reg) (b : Src)
  /-- BFI. R162. -/
  | bfi (d : Reg) (a : Reg) (b : Src)
  /-- ADDC. R163. -/
  | addc (d : Reg) (a : Reg) (b : Src)
  /-- LEA. R164. -/
  | lea (d : Reg) (a : Reg) (b : Src)
  /-- QSWAP. R166. -/
  | qswap (x : QuadX) (d : Reg) (a : Reg)
  /-- QBCAST. R166. -/
  | qbcast (l : Fin 4) (d : Reg) (a : Reg)
  /-- SHFL. R166. -/
  | shfl (m : ShflMode) (d : Reg) (a : Reg) (b : Src)
  /-- SCAN. R167. -/
  | scan (m : ScanMode) (d : Reg) (a : Reg)
  /-- REDX. R167. -/
  | redx (m : RedxMode) (d : Reg) (a : Reg)
  /-- MATCH_ROW. R168. -/
  | matchRow (d : Reg) (a : Reg)
  /-- MATCH_ALL. R168. -/
  | matchAll (p : Fin 8) (a : Reg)
  /-- TSHFL. R166. -/
  | tshfl (m : TshflMode) (d : Reg) (a : Reg) (b : Src)
  /-- LD8. R176. -/
  | ld8 (cls : LdClass) (d : Reg) (a : Reg) (b : Src)
  /-- LD16. R176. -/
  | ld16 (cls : LdClass) (d : Reg) (a : Reg) (b : Src)
  /-- LD32. R176. -/
  | ld32 (cls : LdClass) (d : Reg) (a : Reg) (b : Src)
  /-- LD64. R176. -/
  | ld64 (cls : LdClass) (d : Reg) (a : Reg) (b : Src)
  /-- LD128. R176. -/
  | ld128 (cls : LdClass) (d : Reg) (a : Reg) (b : Src)
  /-- ST8. R177. -/
  | st8 (cls : StClass) (d : Reg) (a : Reg) (b : Src)
  /-- ST16. R177. -/
  | st16 (cls : StClass) (d : Reg) (a : Reg) (b : Src)
  /-- ST32. R177. -/
  | st32 (cls : StClass) (d : Reg) (a : Reg) (b : Src)
  /-- ST64. R177. -/
  | st64 (cls : StClass) (d : Reg) (a : Reg) (b : Src)
  /-- ST128. R177. -/
  | st128 (cls : StClass) (d : Reg) (a : Reg) (b : Src)
  /-- PF. R180. -/
  | pf (k : PfKind) (a : Reg) (b : Src)
  /-- ATADD. R181-R183. -/
  | atadd (ord : AtOrder) (d : Reg) (a : Reg) (b : Src)
  /-- ATMIN. R181-R183. -/
  | atmin (ord : AtOrder) (d : Reg) (a : Reg) (b : Src)
  /-- ATMAX. R181-R183. -/
  | atmax (ord : AtOrder) (d : Reg) (a : Reg) (b : Src)
  /-- ATAND. R181-R183. -/
  | atand (ord : AtOrder) (d : Reg) (a : Reg) (b : Src)
  /-- ATOR. R181-R183. -/
  | ator (ord : AtOrder) (d : Reg) (a : Reg) (b : Src)
  /-- ATXOR. R181-R183. -/
  | atxor (ord : AtOrder) (d : Reg) (a : Reg) (b : Src)
  /-- ATXCH. R181-R183. -/
  | atxch (ord : AtOrder) (d : Reg) (a : Reg) (b : Src)
  /-- ATCAS. R181-R183. -/
  | atcas (ord : AtOrder) (d : Reg) (a : Reg) (b : Src)
  /-- ATINC. R181-R183. -/
  | atinc (ord : AtOrder) (d : Reg) (a : Reg) (b : Src)
  /-- RDADD. R184, R185. -/
  | rdadd (rel : Bool) (d : Reg) (a : Reg) (b : Src)
  /-- RDMIN. R184, R185. -/
  | rdmin (rel : Bool) (d : Reg) (a : Reg) (b : Src)
  /-- RDMAX. R184, R185. -/
  | rdmax (rel : Bool) (d : Reg) (a : Reg) (b : Src)
  /-- RDAND. R184, R185. -/
  | rdand (rel : Bool) (d : Reg) (a : Reg) (b : Src)
  /-- RDOR. R184, R185. -/
  | rdor (rel : Bool) (d : Reg) (a : Reg) (b : Src)
  /-- RDXOR. R184, R185. -/
  | rdxor (rel : Bool) (d : Reg) (a : Reg) (b : Src)
  /-- LOCK. R186-R188. -/
  | lock (d : Reg) (a : Reg) (b : Src)
  /-- TRYLK. R186-R188. -/
  | trylk (d : Reg) (a : Reg)
  /-- UNLOCK. R188, R190. -/
  | unlock (d : Reg) (a : Reg)
  /-- LKQRY. R190. -/
  | lkqry (d : Reg) (a : Reg)
  /-- PHHDR. R194. -/
  | phhdr (cur : Bool) (b : Src)
  /-- PHEND. R195. -/
  | phend
  /-- PHWAIT. R197. -/
  | phwait (d : Reg) (a : Reg) (pb : Fin 8)
  /-- PHRD. R196. -/
  | phrd (fld : PhField) (d : Reg)
  /-- FENCE. R200. -/
  | fence (k : FenceKind) (sc : Scope)
  /-- BAR. R201. -/
  | bar
  /-- GBAR. R201. -/
  | gbar
  /-- WAITP. R202. -/
  | waitp (path : Fin 7) (b : Src)
  /-- WAITCT. R203. -/
  | waitct (a : Reg) (b : Src)
  /-- CTSET. R204, R205. -/
  | ctset (rel : Bool) (a : Reg) (b : Src)
  /-- CTADD. R204, R205. -/
  | ctadd (rel : Bool) (d : Reg) (a : Reg) (b : Src)
  /-- CTRD. R204. -/
  | ctrd (d : Reg) (a : Reg)
  /-- BLD. R207, R220, R221. -/
  | bld (fb : Bool) (sq : Bool) (d : Reg) (a : Reg) (b : Reg)
  /-- MMA. R207, R220, R221. -/
  | mma (fb : Bool) (sq : Bool) (d : Reg) (a : Reg) (b : Reg)
  /-- MMAS. R207, R220, R221. -/
  | mmas (fb : Bool) (sq : Bool) (d : Reg) (a : Reg) (b : Reg)
  /-- ACCZ. R222. -/
  | accz (fb : Bool) (sq : Bool) (d : Reg)
  /-- ACCLD. R222. -/
  | accld (fb : Bool) (sq : Bool) (d : Reg) (a : Reg) (b : Src)
  /-- ACCST. R222. -/
  | accst (fb : Bool) (sq : Bool) (d : Reg) (a : Reg) (b : Src)
  /-- ACCRD. R223. -/
  | accrd (d : Reg) (a : Reg)
  /-- ACCWR. R223. -/
  | accwr (d : Reg) (a : Reg)
  /-- SPMLD. R224. -/
  | spmld (fb : Bool) (sq : Bool) (d : Reg) (a : Reg) (b : Src)
  /-- QNT. R225. -/
  | qnt (fb : Bool) (sq : Bool) (d : Reg) (a : Reg) (b : Src)
  /-- DQNT. R226. -/
  | dqnt (fb : Bool) (sq : Bool) (d : Reg) (a : Reg) (b : Src)
  /-- MXQRY. R227. -/
  | mxqry (d : Reg)
  /-- CPSL. R229. -/
  | cpsl (fb : Bool) (sq : Bool) (d : Reg) (a : Reg) (b : Src)
  /-- HBIND. R228. -/
  | hbind (d : Reg) (a : Reg) (b : Src)
  /-- HWAIT. R231. -/
  | hwait (d : Reg) (a : Reg)
  /-- HREL. R231. -/
  | hrel (d : Reg) (a : Reg)
  /-- HSTAT. R231. -/
  | hstat (d : Reg) (a : Reg)
  /-- PUT. R240. -/
  | put (fb : Bool) (sq : Bool) (d : Reg) (a : Reg) (b : Reg)
  /-- GET. R240. -/
  | get (fb : Bool) (sq : Bool) (d : Reg) (a : Reg) (b : Reg)
  /-- BULK. R241. -/
  | bulk (fb : Bool) (sq : Bool) (d : Reg)
  /-- SEND. R242. -/
  | send (fb : Bool) (sq : Bool) (d : Reg) (a : Reg)
  /-- RECV. R242. -/
  | recv (a : Reg)
  /-- FXQRY. R243. -/
  | fxqry (d : Reg) (b : Src)
  /-- CJPOST. R246, R248. -/
  | cjpost (fb : Bool) (sq : Bool) (d : Reg)
  /-- CJCANCEL. R249, R251. -/
  | cjcancel (d : Reg) (a : Reg)
  /-- CJQRY. R251. -/
  | cjqry (d : Reg) (a : Reg)
  /-- TRAP. R253. -/
  | trap (b : Src)
  /-- CHKERR. R256. -/
  | chkerr (d : Reg) (b : Src)
  /-- BKPT. R255. -/
  | bkpt (b : Src)
  /-- ERET. R260. -/
  | eret
  /-- SYSRD. R257. -/
  | sysrd (d : Reg) (reg : Fin 12)
  /-- SYSWR. R257. -/
  | syswr (reg : Fin 12) (b : Src)
  /-- TASKRD. R259. -/
  | taskrd (d : Reg) (item : Fin 6)
  /-- DEVICE_RESET (R303): Device reset runs the boot order: measured firmware, configuration records, training, opening functions. -/
  | deviceReset
  /-- NOTIFY_WRITE (R47): A write to a queue's notify register raises WAKE by an atomic maximum. -/
  | notifyWrite (desc : Nat) (x : DWord)
  /-- RECORD_FETCH (R50): An Idle slot whose WAKE exceeds READIX starts fetching its next record. -/
  | recordFetch (n : Fin 64)
  /-- RECORD_CHECK (R54): When a fetched record's reads complete, it is checked and held, or the slot stops with a cause. -/
  | recordCheck (n : Fin 64)
  /-- RECORD_RELEASE (R52): A held record whose dependences and ordering are met is released to Dispatch. -/
  | recordRelease (n : Fin 64)
  /-- GROUP_PLACE (R57): The dispatcher places one group per die per cycle on an accepting core near its data. -/
  | groupPlace (die : Fin 2)
  /-- GANG_PLACE (R58): All members of a gang are placed on a block, natively or with reservation. -/
  | gangPlace (die : Fin 2)
  /-- AFFINITY_WIDEN (R57): A group's wait passing 1,024 or 4,096 cycles widens its candidate cores. -/
  | affinityWiden (n : Fin 64)
  /-- PREEMPT (R61): The front end evicts lower-priority teams from a core to fit a waiting group. -/
  | preempt (n : Fin 64)
  /-- TEAM_EVICT (R62): A victim team stops at clause boundaries, bounces its queued requests and saves its state. -/
  | teamEvict (team : Nat)
  /-- TEAM_RESTORE (R63): An evicted team's saved state is restored before it becomes eligible. -/
  | teamRestore (team : Nat)
  /-- TEAM_RETIRE (R42): A finished team stops being resident and frees its space, slot and lane-private part. -/
  | teamRetire (team : Nat)
  /-- LAUNCH_COMPLETE (R53): A launch completes when its groups have ended and its final phase committed, adding DONECT. -/
  | launchComplete (launch : Nat)
  /-- WATCHDOG_EXPIRE (R340): A context's watchdog value passing its limit halts the context. -/
  | watchdogExpire (ctx : Nat)
  /-- XLINV_DONE (R80): The invalidation completes and BUSY returns to 0. -/
  | xlinvDone
  /-- TRANSLATION_WALK (R75): A page walk completes with a leaf, a fault or a page miss. -/
  | translationWalk (req : Nat)
  /-- PAGE_REQUEST_WRITE (R346): A waiting page request is written to the page-request ring when a record frees. -/
  | pageRequestWrite
  /-- MEMORY_RESPONSE (R82): A load's data or a write's acceptance returns, writing registers and lowering in-flight counters. -/
  | memoryResponse (req : Nat) (data : Marked) (status : Nat)
  /-- HOLD_LIMIT_BOUNCE (R285): A request whose wait at the head of a queue reaches its hold limit is bounced to its team's Parenthesis. -/
  | holdLimitBounce (req : Nat)
  /-- PARENTHESIS_REISSUE (R286): An eligible Parenthesis entry whose cause has cleared is reissued ahead of new requests. -/
  | parenthesisReissue (req : Nat)
  /-- BACKOFF_EXPIRE (R286): An entry's back-off of twice its queue's limit expires and makes it eligible. -/
  | backoffExpire (req : Nat)
  /-- HOME_LOAD (R279): The home answers a plain or invariant load with committed data. -/
  | homeLoad (req : Nat)
  /-- WRITE_NOTICE (R278): A first dirty byte's notice opens a pending version and invalidates other copies. -/
  | writeNotice (req : Nat)
  /-- SECTOR_FLUSH (R278): A flushed dirty sector's bytes go into their writers' pending versions at the home. -/
  | sectorFlush (core : Fin 256) (sector : Nat)
  /-- HOME_SYNC_STORE (R279): A sync-class store writes the committed version and every pending version. -/
  | homeSyncStore (req : Nat)
  /-- HOME_ATOMIC (R183): The home merges the line early and performs an atomic. -/
  | homeAtomic (req : Nat)
  /-- HOME_REDUCTION (R185): The home records a core as a U holder of a sector for reductions. -/
  | homeReduction (req : Nat)
  /-- RECALL (R288): A recall or invalidation reaches an L1 or requester-side copy, which flushes or drops and acknowledges. -/
  | recall (core : Fin 256) (sector : Nat)
  /-- WRITE_UPDATE (R282): New bytes reach a read-only copy of a sync page, which stores them as tentative and acknowledges. -/
  | writeUpdate (upd core : Nat)
  /-- UPDATE_SWITCH (R282): A switch makes a read-only copy return the new bytes. -/
  | updateSwitch (upd : Nat)
  /-- MISS_FILL (R284): An HBM fill arrives and the requests merged on its miss-status register are applied in order. -/
  | missFill (slice line : Nat)
  /-- PHASE_RAISE (R192): With flushes acknowledged and EXPECT at or below zero, the core raises its phase line. -/
  | phaseRaise (launch core : Nat)
  /-- PHASE_COMMIT (R192): With the tree all raised, every pending version of the launch commits and the phase advances. -/
  | phaseCommit (launch : Nat)
  /-- COMMIT_BROADCAST (R281): A commit broadcast reaches a die, settling homes and dropping tagged L1 sectors. -/
  | commitBroadcast (launch : Nat) (die : Fin 2)
  /-- LOCK_TIMEOUT (R187): A waiting LOCK's timeout expires and it leaves the queue with status 1. -/
  | lockTimeout (team : Nat)
  /-- ABSENCE_TIMER_EXPIRE (R188): An absent lock holder's timer expires, passing the lock on or restarting the timer. -/
  | absenceTimerExpire (line : Nat)
  /-- DEADLOCK_PROBE (R364): A waiter's probe runs every 65,536 cycles and raises a lock-cycle fault when a cycle is found. -/
  | deadlockProbe (team : Nat)
  /-- ENGINE_OP_START (R212): A submitted matrix-engine operation starts when its lane is free and no conflict remains. -/
  | engineOpStart (op : Nat)
  /-- ENGINE_OP_COMPLETE (R213): An engine operation completes, lowering its flag and pushing status when asked. -/
  | engineOpComplete (op : Nat)
  /-- MATRIX_QUERY_COMMAND (R215): A q0 command with [63:60] = 1 pushes the MXQRY word. -/
  | matrixQueryCommand (team : Nat)
  /-- MATRIX_BAD_COMMAND (R215): Any other q0 command pushes a word with OP 0xFF. -/
  | matrixBadCommand (team : Nat)
  /-- COPY_LINE_LAND (R393): A copy or engine write to a destination line lands. -/
  | copyLineLand (op : Nat)
  /-- COPY_FULL (R230): A copy's last byte lands: the handle becomes Full and submitters and waiters are released. -/
  | copyFull (group : Nat) (handle : Fin 8)
  /-- HANDLE_DRAIN_DONE (R230): The releasing team's loads have returned and a Draining handle becomes Free. -/
  | handleDrainDone (group : Nat) (handle : Fin 8)
  /-- COPY_CANCEL (R232): A q1 cancel command aborts a Filling copy that is not running. -/
  | copyCancel (team : Nat)
  /-- COPY_PROGRESS (R232): A q1 progress command pushes a record with the handle's BYTES. -/
  | copyProgress (team : Nat)
  /-- COPY_BAD_COMMAND (R232): Any other q1 command gives a record with status 15. -/
  | copyBadCommand (team : Nat)
  /-- CONJUNCTION_QUERY_COMMAND (R251): A q2 query pushes a slot's CJQRY word. -/
  | conjunctionQueryCommand (team : Nat)
  /-- CONJUNCTION_BAD_COMMAND (R251): Any other q2 command pushes a word with OP 0xFF. -/
  | conjunctionBadCommand (team : Nat)
  /-- FABRIC_QUERY_COMMAND (R244): A q3 query pushes a port's FXQRY word. -/
  | fabricQueryCommand (team : Nat)
  /-- FABRIC_BAD_COMMAND (R244): Any other q3 command pushes a word with OP 0xFF. -/
  | fabricBadCommand (team : Nat)
  /-- PACKET_FORM (R388): A transfer forms its next packet when its port is UP and the window has room. -/
  | packetForm (transfer : Nat)
  /-- FYOLO_INBOUND (R294): An inbound Fyolo request is performed inside the target's grants or refused. -/
  | fyoloInbound (r : InboundReq)
  /-- MULTICAST_FORWARD (R298): The multicast root performs a request and forwards it to members in order. -/
  | multicastForward (mc : Nat)
  /-- ACKTO_EXPIRE (R371): No acknowledgement within ACKTO triggers a link replay. -/
  | acktoExpire (port : Fin 8)
  /-- RETRAIN_DONE (R373): Retraining ends with the port UP and DEGRADED, resuming replay. -/
  | retrainDone (port : Fin 8)
  /-- END_TO_END_TIMEOUT (R374): A packet's end-to-end timeout resends it on another path or fails it as unreachable. -/
  | endToEndTimeout (transfer packet : Nat)
  /-- CONJUNCTION_ROUND_ISSUE (R250): The engine issues a fired round from its queue, checking its window places and counters. -/
  | conjunctionRoundIssue (die : Fin 2)
  /-- CONJUNCTION_ROUND_COMPLETE (R247): A round's last acknowledgement or byte arrives; DONE rises and the slot may close. -/
  | conjunctionRoundComplete (round status : Nat) (data : Marked)
  /-- FAULT_RECORD_DRAIN (R331): A buffered fault record is written to the call ring when a record frees. -/
  | faultRecordDrain (ctx : Nat)
  /-- TEAM_RESTART (R333): After a restart reply and completion of its operations the team restarts at its restart label. -/
  | teamRestart (team : Nat)
  /-- MATRIX_RESET_DONE (R338): After 2,048 cycles the pair's matrix engine comes out of reset. -/
  | matrixResetDone (pair : Fin 128)
  /-- SWITCH_UNIT_COMMIT (R342): One team of the switching context has been saved. -/
  | switchUnitCommit (ctx : Nat)
  /-- UNIT_EMPTY (R314): A draining unit becomes empty and goes Out. -/
  | unitEmpty (cls unit : Nat)
  /-- UNIT_READY (R314): A returning unit becomes ready and goes back into service. -/
  | unitReady (cls unit : Nat)
  /-- MD_ACK_TIMEOUT (R381): The acknowledgement timeout passes and the initiator sends abort. -/
  | mdAckTimeout (slot : Fin 64)
  /-- MD_SELF_ABORT_TIMEOUT (R381): A tentative member hearing neither confirm nor abort aborts of itself. -/
  | mdSelfAbortTimeout (slot : Fin 64)
  /-- REPLAY_STORE_REISSUE (R250): A Conjunction Engine round request set aside in the engine's replay store is reissued from there. -/
  | replayStoreReissue (round : Nat)
  /-- FAILED_PATH_MARK_EXPIRE (R374): The 1 ms failed mark on a route path ends and its held score of 15 is released. -/
  | failedPathMarkExpire (port : Fin 8) (dev path : Nat)
  /-- SLOT_MAP (R50): A non-zero SLOTMAP write maps a queue into a free slot owned by its function. -/
  | slotMap (n : Fin 64) (addr : DWord)
  /-- SLOT_UNMAP (R50): A zero SLOTMAP write unmaps the slot, writing READIX back and snooping WAKE. -/
  | slotUnmap (n : Fin 64)
  /-- CLOCK_THROTTLE (R22): Near the power limit the core clock of the cores concerned is lowered. -/
  | clockThrottle (core : Fin 256)
  /-- SLOT_OWNER_WRITE (R64): Assigns a hardware slot to a function, ignoring values 17 to 31. -/
  | slotOwnerWrite (n : Fin 64) (v : DWord)
  /-- CTXDESC_WRITE (R74): Registers a context descriptor under a context number. -/
  | ctxdescWrite (addr : DWord) (ctx : Nat)
  /-- XLINV_PAGE (R80): Invalidates translations of one page of one context. -/
  | xlinvPage (keepG : Bool) (ctx : Nat)
  /-- XLINV_CONTEXT (R80): Invalidates all translations of one context. -/
  | xlinvContext (keepG : Bool) (ctx : Nat)
  /-- XLINV_ALL (R80): Invalidates translations of all contexts. -/
  | xlinvAll (keepG : Bool)
  /-- PGRDONE_FILLED (R347): The host reports a page filled, and every waiting request is reissued. -/
  | pgrdoneFilled (seq : Nat)
  /-- PGRDONE_TRANSLATION_FAULT (R347): The host reports a translation fault, and each waiting team faults with cause 12. -/
  | pgrdoneTranslationFault (seq : Nat)
  /-- PGRDONE_PROTECTION_FAULT (R347): The host reports a protection fault, and each waiting team faults with cause 13. -/
  | pgrdoneProtectionFault (seq : Nat)
  /-- ARRIVAL (R191): An arrival is counted in a core's phase header or sets LATE. -/
  | arrival (core : Fin 256) (slot : Fin 64) (phase : Nat)
  /-- PEER_COMMIT_MESSAGE (R297): A commit message makes a peer settle the launch's versions there and acknowledge. -/
  | peerCommitMessage (src : Nat) (what : PeerPhase)
  /-- PEER_DISCARD_MESSAGE (R328): A discard message makes a peer drop a rolled-back task's pending bytes. -/
  | peerDiscardMessage (src task : Nat)
  /-- SPARSITY_ENTRY_ARRIVE (R221): An entry reaches the sparsity queue and a stalled MMAS sequencer resumes. -/
  | sparsityEntryArrive (pair : Fin 128) (entry : List Byte)
  /-- PACKET_ACK (R239): An end-to-end acknowledgement returns; the last one completes the transfer. -/
  | packetAck (transfer packet status : Nat) (data : Marked)
  /-- FLIT_RECEIVE (R371): A link receiver accepts the next expected flit or sends a negative acknowledgement. -/
  | flitReceive (port : Fin 8) (seq : Nat) (ok : Bool)
  /-- LINK_ACK (R371): A link-level acknowledgement frees sent flits. -/
  | linkAck (port : Fin 8) (seq : Nat)
  /-- LINK_NAK (R371): A negative acknowledgement makes the sender replay unacknowledged flits. -/
  | linkNak (port : Fin 8) (seq : Nat)
  /-- LANE_LOSS (R373): A lane fails and the port clears UP and retrains on the other half. -/
  | laneLoss (port : Fin 8) (lane : Nat)
  /-- FYSELF_WRITE (R290): Sets the device number, opening the trained ports on the first write. -/
  | fyselfWrite (v : DWord)
  /-- FYRTINV_WRITE (R291): Invalidates the route-table cache. -/
  | fyrtinvWrite (v : DWord)
  /-- CALL_REPLY_WRITE (R254): A CRRVAL write delivers a reply to the parked team named by CRRTAG, or is ignored. -/
  | callReplyWrite (ctx : Nat) (value : DWord)
  /-- MXRESET_WRITE (R338): A write to MXRESET starts a reset of a pair's matrix engine. -/
  | mxresetWrite (v : DWord)
  /-- MATRIX_RESET_ERROR (R338): An uncorrectable control error starts a matrix-engine reset. -/
  | matrixResetError (pair : Fin 128)
  /-- CTX_RESUME (R341): Resumes a halted context. -/
  | ctxResume (ctx : Nat)
  /-- CTX_DESTROY (R341): Destroys a context, ending its teams and freeing its resources. -/
  | ctxDestroy (ctx : Nat)
  /-- VFSWITCH_WRITE (R342): A guest starts switching a context off the device. -/
  | vfswitchWrite (v : DWord)
  /-- FUNC_PREEMPT (R342): The physical function pre-empts a whole function. -/
  | funcPreempt (f : Nat)
  /-- FUNC_RESTORE (R342): The physical function restores a pre-empted function. -/
  | funcRestore (f : Nat)
  /-- CK_OPEN (R360): Opens a checkpoint interval. -/
  | ckOpen (ctx : Nat)
  /-- CK_ROLLBACK (R362): Rolls a halted context back to the interval's open. -/
  | ckRollback (ctx : Nat)
  /-- CK_CLOSE (R360): Closes a checkpoint interval. -/
  | ckClose (ctx : Nat)
  /-- SVC_DRAIN (R314): Starts draining a service unit. -/
  | svcDrain (cls unit : Nat)
  /-- SVC_RETURN (R314): Returns a service unit to service. -/
  | svcReturn (cls unit : Nat)
  /-- SVC_REPAIR (R314): Repairs an Out unit. -/
  | svcRepair (cls unit : Nat)
  /-- SVC_UPDATE (R314): Updates an Out unit's firmware from a verified image. -/
  | svcUpdate (cls : Nat) (what : UnitImage)
  /-- SCRUB_LINE (R356): The scrubber reads, corrects or marks one line or row. -/
  | scrubLine (target : ScrubTarget) (outcome : ScrubOutcome)
  /-- RESYNC (R385): MBCMD RESYNC writes the snapshot sections to the host buffer. -/
  | resync (v : DWord)
  /-- SPDM_GET_VERSION (R308): Answers GET_VERSION. -/
  | spdmGetVersion
  /-- SPDM_GET_CAPABILITIES (R308): Answers GET_CAPABILITIES. -/
  | spdmGetCapabilities
  /-- SPDM_NEGOTIATE_ALGORITHMS (R308): Answers NEGOTIATE_ALGORITHMS. -/
  | spdmNegotiateAlgorithms
  /-- SPDM_GET_DIGESTS (R308): Answers GET_DIGESTS. -/
  | spdmGetDigests
  /-- SPDM_GET_CERTIFICATE (R308): Answers GET_CERTIFICATE. -/
  | spdmGetCertificate
  /-- SPDM_CHALLENGE (R308): Answers CHALLENGE. -/
  | spdmChallenge (nonce : List Byte)
  /-- SPDM_GET_MEASUREMENTS (R308): Returns MEAS0 to MEAS7 as one snapshot with the device number. -/
  | spdmGetMeasurements (nonce : List Byte)
  /-- SPDM_UNSUPPORTED (R384): Any other SPDM request receives an UnsupportedRequest error. -/
  | spdmUnsupported (request : Byte)
  /-- FUNCTION_LEVEL_RESET (R383): A function-level reset destroys the function's contexts and unmaps its slots. -/
  | functionLevelReset (f : Nat)
  /-- HOST_COMPLETION_ERROR (R378): A host request ends with an error or timeout and faults or is reissued. -/
  | hostCompletionError (req code : Nat)
  /-- HOST_LINK_DOWN (R379): A host link goes down and its die's host traffic moves to the other link. -/
  | hostLinkDown (die : Fin 2)
  /-- MD_LAUNCH_MESSAGE (R299): A member receives a launch message and releases its held record. -/
  | mdLaunchMessage (slot : Fin 64) (dev : Nat)
  /-- MD_ACK (R299): The initiator receives a member's acknowledgement and sends confirm after the last. -/
  | mdAck (slot : Fin 64) (dev : Nat)
  /-- MD_CONFIRM (R380): A member receives confirm and the launch stops being tentative. -/
  | mdConfirm (slot : Fin 64)
  /-- MD_ABORT (R382): A member aborts the launch, ending its teams and discarding its versions. -/
  | mdAbort (slot : Fin 64)
  /-- MD_RAISED (R299): The initiator receives a member's raised message and sends commit after the last. -/
  | mdRaised (slot : Fin 64) (dev : Nat)
  /-- MD_COMMIT (R299): A member applies the commit and replies applied. -/
  | mdCommit (slot : Fin 64)
  /-- MD_APPLIED (R299): The initiator receives applied and sends release after the last. -/
  | mdApplied (slot : Fin 64) (dev : Nat)
  /-- MD_RELEASE (R299): A member releases the launch's phase waiters. -/
  | mdRelease (slot : Fin 64)
  /-- REGISTER_WRITE (R9): A write to a management register with no row of its own stores the value. -/
  | registerWrite (r : MReg) (v : DWord)
  /-- PEER_COMMIT_ACK (R297): A listed peer's acknowledgement of a commit message reaches the issuing device, and the last one releases PHWAIT waiters and held stores and clears the peer list. -/
  | peerCommitAck (launch dev : Nat)
  /-- THROTTLE_END (R22): A throttled core's clock returns to the arithmetic clock rate when the package moves back from its power limit. -/
  | throttleEnd (core : Fin 256)
  /-- HOST_LINK_UP (R300): A host link that was down comes back up and its die's host traffic leaves by it again instead of crossing the bridge. -/
  | hostLinkUp (die : Fin 2)
  deriving DecidableEq, Repr

end Sys2Proof
end

