-- ==== Sys2Proof/WellFormed.lean ====
section
/-! DEFINITION. Which operand forms an instruction accepts: the field kinds of R134, R175, R181, R207 and R233. -/

namespace Sys2Proof

/-- v0-v95, s0-s23 or q0-q7 (kind "any" of R134). -/
def Reg.isAny : Reg → Bool
  | .v _ => true
  | .s _ => true
  | .q _ => true

/-- A destination of kind "any": a push to q5 is an illegal encoding (R120). -/
def Reg.isDst : Reg → Bool
  | .v _ => true
  | .s _ => true
  | .q n => n.val != 5

/-- A vector or scalar register (kind "v, s"). -/
def Reg.isVS : Reg → Bool
  | .v _ => true
  | .s _ => true
  | .q _ => false

/-- A scalar register. -/
def Reg.isS : Reg → Bool
  | .v _ => false
  | .s _ => true
  | .q _ => false

/-- A vector register. -/
def Reg.isV : Reg → Bool
  | .v _ => true
  | .s _ => false
  | .q _ => false

/-- An even vector register or a scalar (kind "64"). -/
def Reg.is64 : Reg → Bool
  | .v n => n.val % 2 == 0
  | .s _ => true
  | .q _ => false

/-- A vector register with d mod 4 = 0 (R175). -/
def Reg.isV4 : Reg → Bool
  | .v n => n.val % 4 == 0
  | .s _ => false
  | .q _ => false

/-- The D field of ATCAS (R181): a vector register, or a scalar but s23. -/
def Reg.isCas : Reg → Bool
  | .v _ => true
  | .s n => n.val < 23
  | .q _ => false

/-- s0-s20, the first of four scalars (R233). -/
def Reg.isS20 : Reg → Bool
  | .v _ => false
  | .s n => n.val ≤ 20
  | .q _ => false

/-- s0-s16, the first of eight scalars (R233). -/
def Reg.isS16 : Reg → Bool
  | .v _ => false
  | .s n => n.val ≤ 16
  | .q _ => false

/-- s0-s22, the first of a scalar pair (R207). -/
def Reg.isS22 : Reg → Bool
  | .v _ => false
  | .s n => n.val ≤ 22
  | .q _ => false

/-- A second source accepted where the B column lists a kind and lit. -/
def Src.ok (k : Reg → Bool) : Src → Bool
  | .reg r => k r
  | .lit _ => true


/-- The operand forms the encoding tables accept (R134, R175-R233); an event concerns what its arguments name and has
no encoding. -/
def Instr.wf : Instr → Bool
  | .nop => true
  | .bra b => b.ok Reg.isS
  | .brc _ _ b => b.ok Reg.isS
  | .brany _ _ b => b.ok Reg.isS
  | .brall _ _ b => b.ok Reg.isS
  | .jmp b => b.ok Reg.isS
  | .call d b => Reg.isS d && b.ok Reg.isS
  | .ret b => Reg.isS b
  | .loop d b => Reg.isS d && b.ok Reg.isS
  | .fuse => true
  | .yield => true
  | .exit => true
  | .stop => true
  | .sigchk b => b.ok Reg.isS
  | .sigrd d => Reg.isDst d
  | .elect _ => true
  | .mood _ b => b.ok Reg.isAny
  | .moodrd d _ => Reg.isDst d
  | .cmp _ _ a b => Reg.isAny a && b.ok Reg.isAny
  | .pand _ _ _ => true
  | .por _ _ _ => true
  | .pxor _ _ _ => true
  | .pnot _ _ => true
  | .pmov _ a b => Reg.isAny a && b.ok Reg.isAny
  | .vote _ _ _ => true
  | .ballot d _ b => Reg.isDst d && b.ok Reg.isAny
  | .selp d a _ => Reg.isVS d && Reg.isAny a
  | .srd d _ => Reg.isDst d
  | .swrGen b => b.ok Reg.isAny
  | .swrSig b => b.ok Reg.isAny
  | .mov d a => Reg.isDst d && Reg.isAny a
  | .movi d b => Reg.isDst d && b.ok Reg.isAny
  | .add d a b => Reg.isDst d && Reg.isAny a && b.ok Reg.isAny
  | .sub d a b => Reg.isDst d && Reg.isAny a && b.ok Reg.isAny
  | .mul d a b => Reg.isDst d && Reg.isAny a && b.ok Reg.isAny
  | .mulhi d a b => Reg.isDst d && Reg.isAny a && b.ok Reg.isAny
  | .fma d a b => Reg.isVS d && Reg.isAny a && b.ok Reg.isAny
  | .fms d a b => Reg.isVS d && Reg.isAny a && b.ok Reg.isAny
  | .fnma d a b => Reg.isVS d && Reg.isAny a && b.ok Reg.isAny
  | .min d a b => Reg.isDst d && Reg.isAny a && b.ok Reg.isAny
  | .max d a b => Reg.isDst d && Reg.isAny a && b.ok Reg.isAny
  | .abs d a => Reg.isDst d && Reg.isAny a
  | .neg d a => Reg.isDst d && Reg.isAny a
  | .clamp d a b => Reg.isVS d && Reg.isAny a && b.ok Reg.isAny
  | .div d a b => Reg.isDst d && Reg.isAny a && b.ok Reg.isAny
  | .rem d a b => Reg.isDst d && Reg.isAny a && b.ok Reg.isAny
  | .sqrt d a => Reg.isDst d && Reg.isAny a
  | .rsq d a => Reg.isDst d && Reg.isAny a
  | .rcp d a => Reg.isDst d && Reg.isAny a
  | .exp2 d a => Reg.isDst d && Reg.isAny a
  | .log2 d a => Reg.isDst d && Reg.isAny a
  | .sin d a => Reg.isDst d && Reg.isAny a
  | .cos d a => Reg.isDst d && Reg.isAny a
  | .tanh d a => Reg.isDst d && Reg.isAny a
  | .cvt _ d a _ => Reg.isVS d && Reg.isAny a
  | .pack _ d a b => Reg.isVS d && Reg.isAny a && b.ok Reg.isAny
  | .unpack d a b => Reg.isDst d && Reg.isAny a && b.ok Reg.isAny
  | .dot4 d a b => Reg.isVS d && Reg.isAny a && b.ok Reg.isAny
  | .dot2 d a b => Reg.isVS d && Reg.isAny a && b.ok Reg.isAny
  | .frc d a => Reg.isDst d && Reg.isAny a
  | .rnd d a => Reg.isDst d && Reg.isAny a
  | .and d a b => Reg.isDst d && Reg.isAny a && b.ok Reg.isAny
  | .or d a b => Reg.isDst d && Reg.isAny a && b.ok Reg.isAny
  | .xor d a b => Reg.isDst d && Reg.isAny a && b.ok Reg.isAny
  | .not d a => Reg.isDst d && Reg.isAny a
  | .shl d a b => Reg.isDst d && Reg.isAny a && b.ok Reg.isAny
  | .shr d a b => Reg.isDst d && Reg.isAny a && b.ok Reg.isAny
  | .sar d a b => Reg.isDst d && Reg.isAny a && b.ok Reg.isAny
  | .rot d a b => Reg.isDst d && Reg.isAny a && b.ok Reg.isAny
  | .popc d a => Reg.isDst d && Reg.isAny a
  | .clz d a => Reg.isDst d && Reg.isAny a
  | .brev d a => Reg.isDst d && Reg.isAny a
  | .bfe d a b => Reg.isDst d && Reg.isAny a && b.ok Reg.isAny
  | .bfi d a b => Reg.isVS d && Reg.isAny a && b.ok Reg.isAny
  | .addc d a b => Reg.isDst d && Reg.isAny a && b.ok Reg.isAny
  | .lea d a b => Reg.is64 d && Reg.is64 a && b.ok Reg.isAny
  | .qswap _ d a => Reg.isV d && Reg.isV a
  | .qbcast _ d a => Reg.isV d && Reg.isV a
  | .shfl _ d a b => Reg.isV d && Reg.isV a && b.ok Reg.isAny
  | .scan _ d a => Reg.isV d && Reg.isV a
  | .redx _ d a => Reg.isVS d && Reg.isV a
  | .matchRow d a => Reg.isV d && Reg.isV a
  | .matchAll _ a => Reg.isV a
  | .tshfl _ d a b => Reg.isV d && Reg.isV a && b.ok Reg.isAny
  | .ld8 _ d a b => Reg.isVS d && Reg.is64 a && b.ok Reg.isVS
  | .ld16 _ d a b => Reg.isVS d && Reg.is64 a && b.ok Reg.isVS
  | .ld32 _ d a b => Reg.isVS d && Reg.is64 a && b.ok Reg.isVS
  | .ld64 _ d a b => Reg.is64 d && Reg.is64 a && b.ok Reg.isVS
  | .ld128 _ d a b => Reg.isV4 d && Reg.is64 a && b.ok Reg.isVS
  | .st8 _ d a b => Reg.isVS d && Reg.is64 a && b.ok Reg.isVS
  | .st16 _ d a b => Reg.isVS d && Reg.is64 a && b.ok Reg.isVS
  | .st32 _ d a b => Reg.isVS d && Reg.is64 a && b.ok Reg.isVS
  | .st64 _ d a b => Reg.is64 d && Reg.is64 a && b.ok Reg.isVS
  | .st128 _ d a b => Reg.isV4 d && Reg.is64 a && b.ok Reg.isVS
  | .pf _ a b => Reg.is64 a && b.ok Reg.isVS
  | .atadd _ d a b => Reg.isVS d && Reg.is64 a && b.ok Reg.isVS
  | .atmin _ d a b => Reg.isVS d && Reg.is64 a && b.ok Reg.isVS
  | .atmax _ d a b => Reg.isVS d && Reg.is64 a && b.ok Reg.isVS
  | .atand _ d a b => Reg.isVS d && Reg.is64 a && b.ok Reg.isVS
  | .ator _ d a b => Reg.isVS d && Reg.is64 a && b.ok Reg.isVS
  | .atxor _ d a b => Reg.isVS d && Reg.is64 a && b.ok Reg.isVS
  | .atxch _ d a b => Reg.isVS d && Reg.is64 a && b.ok Reg.isVS
  | .atcas _ d a b => Reg.isCas d && Reg.is64 a && b.ok Reg.isVS
  | .atinc _ d a b => Reg.isVS d && Reg.is64 a && b.ok Reg.isVS
  | .rdadd _ d a b => Reg.isVS d && Reg.is64 a && b.ok Reg.isVS
  | .rdmin _ d a b => Reg.isVS d && Reg.is64 a && b.ok Reg.isVS
  | .rdmax _ d a b => Reg.isVS d && Reg.is64 a && b.ok Reg.isVS
  | .rdand _ d a b => Reg.isVS d && Reg.is64 a && b.ok Reg.isVS
  | .rdor _ d a b => Reg.isVS d && Reg.is64 a && b.ok Reg.isVS
  | .rdxor _ d a b => Reg.isVS d && Reg.is64 a && b.ok Reg.isVS
  | .lock d a b => Reg.isVS d && Reg.is64 a && b.ok Reg.isVS
  | .trylk d a => Reg.isVS d && Reg.is64 a
  | .unlock d a => Reg.isVS d && Reg.is64 a
  | .lkqry d a => Reg.isVS d && Reg.is64 a
  | .phhdr _ b => b.ok Reg.isVS
  | .phend => true
  | .phwait d a _ => Reg.isDst d && Reg.isVS a
  | .phrd _ d => Reg.isDst d
  | .fence _ _ => true
  | .bar => true
  | .gbar => true
  | .waitp _ b => b.ok Reg.isVS
  | .waitct a b => Reg.isS a && b.ok Reg.isVS
  | .ctset _ a b => Reg.isS a && b.ok Reg.isVS
  | .ctadd _ d a b => Reg.isVS d && Reg.isS a && b.ok Reg.isVS
  | .ctrd d a => Reg.isVS d && Reg.isS a
  | .bld _ _ d a b => Reg.isVS d && Reg.is64 a && Reg.is64 b
  | .mma _ _ d a b => Reg.isVS d && Reg.is64 a && Reg.is64 b
  | .mmas _ _ d a b => Reg.isVS d && Reg.is64 a && Reg.is64 b
  | .accz _ _ d => Reg.isVS d
  | .accld _ _ d a b => Reg.isVS d && Reg.is64 a && b.ok Reg.isVS
  | .accst _ _ d a b => Reg.isVS d && Reg.is64 a && b.ok Reg.isVS
  | .accrd d a => Reg.isV d && Reg.isVS a
  | .accwr d a => Reg.isV d && Reg.isVS a
  | .spmld _ _ d a b => Reg.isVS d && Reg.is64 a && b.ok Reg.isVS
  | .qnt _ _ d a b => Reg.isS22 d && Reg.is64 a && b.ok Reg.isVS
  | .dqnt _ _ d a b => Reg.isS22 d && Reg.is64 a && b.ok Reg.isVS
  | .mxqry d => Reg.isVS d
  | .cpsl _ _ d a b => Reg.is64 d && Reg.is64 a && b.ok Reg.isVS
  | .hbind d a b => Reg.isVS d && Reg.is64 a && b.ok Reg.is64
  | .hwait d a => Reg.isVS d && Reg.isVS a
  | .hrel d a => Reg.isVS d && Reg.isVS a
  | .hstat d a => Reg.isVS d && Reg.isVS a
  | .put _ _ d a b => Reg.isS d && Reg.is64 a && Reg.is64 b
  | .get _ _ d a b => Reg.isS d && Reg.is64 a && Reg.is64 b
  | .bulk _ _ d => Reg.isS20 d
  | .send _ _ d a => Reg.isS d && Reg.is64 a
  | .recv a => Reg.is64 a
  | .fxqry d b => Reg.isVS d && b.ok Reg.isVS
  | .cjpost _ _ d => Reg.isS16 d
  | .cjcancel d a => Reg.isVS d && Reg.isVS a
  | .cjqry d a => Reg.isVS d && Reg.isVS a
  | .trap b => b.ok Reg.isVS
  | .chkerr d b => Reg.isVS d && b.ok Reg.isVS
  | .bkpt b => b.ok Reg.isVS
  | .eret => true
  | .sysrd d _ => Reg.isVS d
  | .syswr _ b => b.ok Reg.isVS
  | .taskrd d _ => Reg.isVS d
  | .deviceReset => true
  | .notifyWrite _ _ => true
  | .slotMap _ _ => true
  | .slotUnmap _ => true
  | .recordFetch _ => true
  | .recordCheck _ => true
  | .recordRelease _ => true
  | .groupPlace _ => true
  | .gangPlace _ => true
  | .affinityWiden _ => true
  | .preempt _ => true
  | .teamEvict _ => true
  | .teamRestore _ => true
  | .teamRetire _ => true
  | .launchComplete _ => true
  | .watchdogExpire _ => true
  | .clockThrottle _ => true
  | .slotOwnerWrite _ _ => true
  | .ctxdescWrite _ _ => true
  | .xlinvPage _ _ => true
  | .xlinvContext _ _ => true
  | .xlinvAll _ => true
  | .xlinvDone => true
  | .translationWalk _ => true
  | .pageRequestWrite => true
  | .pgrdoneFilled _ => true
  | .pgrdoneTranslationFault _ => true
  | .pgrdoneProtectionFault _ => true
  | .memoryResponse _ _ _ => true
  | .holdLimitBounce _ => true
  | .parenthesisReissue _ => true
  | .backoffExpire _ => true
  | .homeLoad _ => true
  | .writeNotice _ => true
  | .sectorFlush _ _ => true
  | .homeSyncStore _ => true
  | .homeAtomic _ => true
  | .homeReduction _ => true
  | .recall _ _ => true
  | .writeUpdate _ _ => true
  | .updateSwitch _ => true
  | .missFill _ _ => true
  | .arrival _ _ _ => true
  | .phaseRaise _ _ => true
  | .phaseCommit _ => true
  | .commitBroadcast _ _ => true
  | .peerCommitMessage _ _ => true
  | .peerDiscardMessage _ _ => true
  | .lockTimeout _ => true
  | .absenceTimerExpire _ => true
  | .deadlockProbe _ => true
  | .engineOpStart _ => true
  | .engineOpComplete _ => true
  | .sparsityEntryArrive _ _ => true
  | .matrixQueryCommand _ => true
  | .matrixBadCommand _ => true
  | .copyLineLand _ => true
  | .copyFull _ _ => true
  | .handleDrainDone _ _ => true
  | .copyCancel _ => true
  | .copyProgress _ => true
  | .copyBadCommand _ => true
  | .conjunctionQueryCommand _ => true
  | .conjunctionBadCommand _ => true
  | .fabricQueryCommand _ => true
  | .fabricBadCommand _ => true
  | .packetForm _ => true
  | .fyoloInbound _ => true
  | .packetAck _ _ _ _ => true
  | .multicastForward _ => true
  | .flitReceive _ _ _ => true
  | .linkAck _ _ => true
  | .linkNak _ _ => true
  | .acktoExpire _ => true
  | .laneLoss _ _ => true
  | .retrainDone _ => true
  | .endToEndTimeout _ _ => true
  | .fyselfWrite _ => true
  | .fyrtinvWrite _ => true
  | .conjunctionRoundIssue _ => true
  | .conjunctionRoundComplete _ _ _ => true
  | .callReplyWrite _ _ => true
  | .faultRecordDrain _ => true
  | .teamRestart _ => true
  | .mxresetWrite _ => true
  | .matrixResetError _ => true
  | .matrixResetDone _ => true
  | .ctxResume _ => true
  | .ctxDestroy _ => true
  | .vfswitchWrite _ => true
  | .switchUnitCommit _ => true
  | .funcPreempt _ => true
  | .funcRestore _ => true
  | .ckOpen _ => true
  | .ckRollback _ => true
  | .ckClose _ => true
  | .svcDrain _ _ => true
  | .svcReturn _ _ => true
  | .svcRepair _ _ => true
  | .svcUpdate _ _ => true
  | .unitEmpty _ _ => true
  | .unitReady _ _ => true
  | .scrubLine _ _ => true
  | .resync _ => true
  | .spdmGetVersion => true
  | .spdmGetCapabilities => true
  | .spdmNegotiateAlgorithms => true
  | .spdmGetDigests => true
  | .spdmGetCertificate => true
  | .spdmChallenge _ => true
  | .spdmGetMeasurements _ => true
  | .spdmUnsupported _ => true
  | .functionLevelReset _ => true
  | .hostCompletionError _ _ => true
  | .hostLinkDown _ => true
  | .mdLaunchMessage _ _ => true
  | .mdAck _ _ => true
  | .mdConfirm _ => true
  | .mdAckTimeout _ => true
  | .mdSelfAbortTimeout _ => true
  | .mdAbort _ => true
  | .mdRaised _ _ => true
  | .mdCommit _ => true
  | .mdApplied _ _ => true
  | .mdRelease _ => true
  | .registerWrite _ _ => true
  | .replayStoreReissue _ => true
  | .failedPathMarkExpire _ _ _ => true
  | .peerCommitAck _ _ => true
  | .throttleEnd _ => true
  | .hostLinkUp _ => true

/-- Whether a row is an event: it has no instruction word. -/
def Instr.isEvent : Instr → Bool
  | .nop => false
  | .bra _ => false
  | .brc _ _ _ => false
  | .brany _ _ _ => false
  | .brall _ _ _ => false
  | .jmp _ => false
  | .call _ _ => false
  | .ret _ => false
  | .loop _ _ => false
  | .fuse => false
  | .yield => false
  | .exit => false
  | .stop => false
  | .sigchk _ => false
  | .sigrd _ => false
  | .elect _ => false
  | .mood _ _ => false
  | .moodrd _ _ => false
  | .cmp _ _ _ _ => false
  | .pand _ _ _ => false
  | .por _ _ _ => false
  | .pxor _ _ _ => false
  | .pnot _ _ => false
  | .pmov _ _ _ => false
  | .vote _ _ _ => false
  | .ballot _ _ _ => false
  | .selp _ _ _ => false
  | .srd _ _ => false
  | .swrGen _ => false
  | .swrSig _ => false
  | .mov _ _ => false
  | .movi _ _ => false
  | .add _ _ _ => false
  | .sub _ _ _ => false
  | .mul _ _ _ => false
  | .mulhi _ _ _ => false
  | .fma _ _ _ => false
  | .fms _ _ _ => false
  | .fnma _ _ _ => false
  | .min _ _ _ => false
  | .max _ _ _ => false
  | .abs _ _ => false
  | .neg _ _ => false
  | .clamp _ _ _ => false
  | .div _ _ _ => false
  | .rem _ _ _ => false
  | .sqrt _ _ => false
  | .rsq _ _ => false
  | .rcp _ _ => false
  | .exp2 _ _ => false
  | .log2 _ _ => false
  | .sin _ _ => false
  | .cos _ _ => false
  | .tanh _ _ => false
  | .cvt _ _ _ _ => false
  | .pack _ _ _ _ => false
  | .unpack _ _ _ => false
  | .dot4 _ _ _ => false
  | .dot2 _ _ _ => false
  | .frc _ _ => false
  | .rnd _ _ => false
  | .and _ _ _ => false
  | .or _ _ _ => false
  | .xor _ _ _ => false
  | .not _ _ => false
  | .shl _ _ _ => false
  | .shr _ _ _ => false
  | .sar _ _ _ => false
  | .rot _ _ _ => false
  | .popc _ _ => false
  | .clz _ _ => false
  | .brev _ _ => false
  | .bfe _ _ _ => false
  | .bfi _ _ _ => false
  | .addc _ _ _ => false
  | .lea _ _ _ => false
  | .qswap _ _ _ => false
  | .qbcast _ _ _ => false
  | .shfl _ _ _ _ => false
  | .scan _ _ _ => false
  | .redx _ _ _ => false
  | .matchRow _ _ => false
  | .matchAll _ _ => false
  | .tshfl _ _ _ _ => false
  | .ld8 _ _ _ _ => false
  | .ld16 _ _ _ _ => false
  | .ld32 _ _ _ _ => false
  | .ld64 _ _ _ _ => false
  | .ld128 _ _ _ _ => false
  | .st8 _ _ _ _ => false
  | .st16 _ _ _ _ => false
  | .st32 _ _ _ _ => false
  | .st64 _ _ _ _ => false
  | .st128 _ _ _ _ => false
  | .pf _ _ _ => false
  | .atadd _ _ _ _ => false
  | .atmin _ _ _ _ => false
  | .atmax _ _ _ _ => false
  | .atand _ _ _ _ => false
  | .ator _ _ _ _ => false
  | .atxor _ _ _ _ => false
  | .atxch _ _ _ _ => false
  | .atcas _ _ _ _ => false
  | .atinc _ _ _ _ => false
  | .rdadd _ _ _ _ => false
  | .rdmin _ _ _ _ => false
  | .rdmax _ _ _ _ => false
  | .rdand _ _ _ _ => false
  | .rdor _ _ _ _ => false
  | .rdxor _ _ _ _ => false
  | .lock _ _ _ => false
  | .trylk _ _ => false
  | .unlock _ _ => false
  | .lkqry _ _ => false
  | .phhdr _ _ => false
  | .phend => false
  | .phwait _ _ _ => false
  | .phrd _ _ => false
  | .fence _ _ => false
  | .bar => false
  | .gbar => false
  | .waitp _ _ => false
  | .waitct _ _ => false
  | .ctset _ _ _ => false
  | .ctadd _ _ _ _ => false
  | .ctrd _ _ => false
  | .bld _ _ _ _ _ => false
  | .mma _ _ _ _ _ => false
  | .mmas _ _ _ _ _ => false
  | .accz _ _ _ => false
  | .accld _ _ _ _ _ => false
  | .accst _ _ _ _ _ => false
  | .accrd _ _ => false
  | .accwr _ _ => false
  | .spmld _ _ _ _ _ => false
  | .qnt _ _ _ _ _ => false
  | .dqnt _ _ _ _ _ => false
  | .mxqry _ => false
  | .cpsl _ _ _ _ _ => false
  | .hbind _ _ _ => false
  | .hwait _ _ => false
  | .hrel _ _ => false
  | .hstat _ _ => false
  | .put _ _ _ _ _ => false
  | .get _ _ _ _ _ => false
  | .bulk _ _ _ => false
  | .send _ _ _ _ => false
  | .recv _ => false
  | .fxqry _ _ => false
  | .cjpost _ _ _ => false
  | .cjcancel _ _ => false
  | .cjqry _ _ => false
  | .trap _ => false
  | .chkerr _ _ => false
  | .bkpt _ => false
  | .eret => false
  | .sysrd _ _ => false
  | .syswr _ _ => false
  | .taskrd _ _ => false
  | .deviceReset => true
  | .notifyWrite _ _ => true
  | .slotMap _ _ => true
  | .slotUnmap _ => true
  | .recordFetch _ => true
  | .recordCheck _ => true
  | .recordRelease _ => true
  | .groupPlace _ => true
  | .gangPlace _ => true
  | .affinityWiden _ => true
  | .preempt _ => true
  | .teamEvict _ => true
  | .teamRestore _ => true
  | .teamRetire _ => true
  | .launchComplete _ => true
  | .watchdogExpire _ => true
  | .clockThrottle _ => true
  | .slotOwnerWrite _ _ => true
  | .ctxdescWrite _ _ => true
  | .xlinvPage _ _ => true
  | .xlinvContext _ _ => true
  | .xlinvAll _ => true
  | .xlinvDone => true
  | .translationWalk _ => true
  | .pageRequestWrite => true
  | .pgrdoneFilled _ => true
  | .pgrdoneTranslationFault _ => true
  | .pgrdoneProtectionFault _ => true
  | .memoryResponse _ _ _ => true
  | .holdLimitBounce _ => true
  | .parenthesisReissue _ => true
  | .backoffExpire _ => true
  | .homeLoad _ => true
  | .writeNotice _ => true
  | .sectorFlush _ _ => true
  | .homeSyncStore _ => true
  | .homeAtomic _ => true
  | .homeReduction _ => true
  | .recall _ _ => true
  | .writeUpdate _ _ => true
  | .updateSwitch _ => true
  | .missFill _ _ => true
  | .arrival _ _ _ => true
  | .phaseRaise _ _ => true
  | .phaseCommit _ => true
  | .commitBroadcast _ _ => true
  | .peerCommitMessage _ _ => true
  | .peerDiscardMessage _ _ => true
  | .lockTimeout _ => true
  | .absenceTimerExpire _ => true
  | .deadlockProbe _ => true
  | .engineOpStart _ => true
  | .engineOpComplete _ => true
  | .sparsityEntryArrive _ _ => true
  | .matrixQueryCommand _ => true
  | .matrixBadCommand _ => true
  | .copyLineLand _ => true
  | .copyFull _ _ => true
  | .handleDrainDone _ _ => true
  | .copyCancel _ => true
  | .copyProgress _ => true
  | .copyBadCommand _ => true
  | .conjunctionQueryCommand _ => true
  | .conjunctionBadCommand _ => true
  | .fabricQueryCommand _ => true
  | .fabricBadCommand _ => true
  | .packetForm _ => true
  | .fyoloInbound _ => true
  | .packetAck _ _ _ _ => true
  | .multicastForward _ => true
  | .flitReceive _ _ _ => true
  | .linkAck _ _ => true
  | .linkNak _ _ => true
  | .acktoExpire _ => true
  | .laneLoss _ _ => true
  | .retrainDone _ => true
  | .endToEndTimeout _ _ => true
  | .fyselfWrite _ => true
  | .fyrtinvWrite _ => true
  | .conjunctionRoundIssue _ => true
  | .conjunctionRoundComplete _ _ _ => true
  | .callReplyWrite _ _ => true
  | .faultRecordDrain _ => true
  | .teamRestart _ => true
  | .mxresetWrite _ => true
  | .matrixResetError _ => true
  | .matrixResetDone _ => true
  | .ctxResume _ => true
  | .ctxDestroy _ => true
  | .vfswitchWrite _ => true
  | .switchUnitCommit _ => true
  | .funcPreempt _ => true
  | .funcRestore _ => true
  | .ckOpen _ => true
  | .ckRollback _ => true
  | .ckClose _ => true
  | .svcDrain _ _ => true
  | .svcReturn _ _ => true
  | .svcRepair _ _ => true
  | .svcUpdate _ _ => true
  | .unitEmpty _ _ => true
  | .unitReady _ _ => true
  | .scrubLine _ _ => true
  | .resync _ => true
  | .spdmGetVersion => true
  | .spdmGetCapabilities => true
  | .spdmNegotiateAlgorithms => true
  | .spdmGetDigests => true
  | .spdmGetCertificate => true
  | .spdmChallenge _ => true
  | .spdmGetMeasurements _ => true
  | .spdmUnsupported _ => true
  | .functionLevelReset _ => true
  | .hostCompletionError _ _ => true
  | .hostLinkDown _ => true
  | .mdLaunchMessage _ _ => true
  | .mdAck _ _ => true
  | .mdConfirm _ => true
  | .mdAckTimeout _ => true
  | .mdSelfAbortTimeout _ => true
  | .mdAbort _ => true
  | .mdRaised _ _ => true
  | .mdCommit _ => true
  | .mdApplied _ _ => true
  | .mdRelease _ => true
  | .registerWrite _ _ => true
  | .replayStoreReissue _ => true
  | .failedPathMarkExpire _ _ _ => true
  | .peerCommitAck _ _ => true
  | .throttleEnd _ => true
  | .hostLinkUp _ => true

end Sys2Proof
end

