-- ==== Sys2Proof/Decode.lean ====
section
/-! DEFINITION. The decoder, total on any bytes, which rejects by name (R111, R112, R116-R118, R122-R126, R131), and
after it the encoder, written from the same encoding tables. -/

namespace Sys2Proof

/-- Why a word is an illegal encoding, in the order of the checks of R131. -/
inductive DecodeError where
  | opcode | classModifier | literal | subField | short
  deriving DecidableEq, Repr

/-- The fields of an instruction word (R116) and, with X = 1, the literal word that follows (none: the word is the last
of its clause). -/
structure Fields where
  op  : Nat
  x   : Bool
  cm  : Nat
  d   : Nat
  a   : Nat
  b   : Nat
  lit : Option Word
  deriving DecidableEq, Repr

/-- Bits [hi:lo] of a number (R133). -/
def bitsN (x hi lo : Nat) : Nat := x / 2 ^ lo % 2 ^ (hi - lo + 1)

/-- A word's fields (R116). -/
def splitWord (w : Word) (lit : Option Word) : Fields :=
  { op := bitsN w.toNat 31 24, x := bitsN w.toNat 23 23 == 1, cm := bitsN w.toNat 22 21, d := bitsN w.toNat 20 14
    a := bitsN w.toNat 13 7, b := bitsN w.toNat 6 0, lit := lit }

/-- A 7-bit register field (R118). -/
def regOf (n : Nat) : Option Reg :=
  if h : n < 96 then some (.v ⟨n, h⟩)
  else if h : n - 96 < 24 then some (.s ⟨n - 96, h⟩)
  else if h : n - 120 < 8 then some (.q ⟨n - 120, h⟩)
  else none

/-- The number of a register (R118). -/
def Reg.code : Reg → Nat
  | .v n => n.val
  | .s n => 96 + n.val
  | .q n => 120 + n.val

/-- The B field of a second source: zero beside a literal (R117). -/
def Src.code : Src → Nat
  | .reg r => r.code
  | .lit _ => 0

/-- Whether a second source is the literal: the X bit. -/
def Src.isLit : Src → Bool
  | .reg _ => false
  | .lit _ => true

/-- The literal word of a second source. -/
def Src.litWord : Src → Option Word
  | .reg _ => none
  | .lit w => some w

/-- The codes of Cond. -/
def Cond.code : Cond → Nat
  | .eq => 0
  | .ne => 1
  | .lt => 2
  | .le => 3
  | .gt => 4
  | .ge => 5
  | .equ => 6
  | .neu => 7
  | .ltu => 8
  | .leu => 9
  | .gtu => 10
  | .geu => 11
  | .num => 12
  | .nan => 13
  | .tst => 14

/-- Cond from its code; the rest are reserved. -/
def Cond.ofCode : Nat → Option Cond
  | 0 => some .eq
  | 1 => some .ne
  | 2 => some .lt
  | 3 => some .le
  | 4 => some .gt
  | 5 => some .ge
  | 6 => some .equ
  | 7 => some .neu
  | 8 => some .ltu
  | 9 => some .leu
  | 10 => some .gtu
  | 11 => some .geu
  | 12 => some .num
  | 13 => some .nan
  | 14 => some .tst
  | _ => none

/-- The codes of VoteKind. -/
def VoteKind.code : VoteKind → Nat
  | .any => 0
  | .all => 1
  | .uni => 2

/-- VoteKind from its code; the rest are reserved. -/
def VoteKind.ofCode : Nat → Option VoteKind
  | 0 => some .any
  | 1 => some .all
  | 2 => some .uni
  | _ => none

/-- The codes of Special. -/
def Special.code : Special → Nat
  | .lane => 0
  | .quadlane => 1
  | .teamlanes => 2
  | .team => 3
  | .group => 4
  | .gang => 5
  | .launch => 6
  | .core => 7
  | .pair => 8
  | .die => 9
  | .dev => 10
  | .phase => 11
  | .clock => 12
  | .task => 13
  | .context => 14
  | .helper => 15
  | .carve => 16
  | .quarter => 17

/-- Special from its code; the rest are reserved. -/
def Special.ofCode : Nat → Option Special
  | 0 => some .lane
  | 1 => some .quadlane
  | 2 => some .teamlanes
  | 3 => some .team
  | 4 => some .group
  | 5 => some .gang
  | 6 => some .launch
  | 7 => some .core
  | 8 => some .pair
  | 9 => some .die
  | 10 => some .dev
  | 11 => some .phase
  | 12 => some .clock
  | 13 => some .task
  | 14 => some .context
  | 15 => some .helper
  | 16 => some .carve
  | 17 => some .quarter
  | _ => none

/-- The codes of PackSrc. -/
def PackSrc.code : PackSrc → Nat
  | .f32 => 0
  | .s32 => 1
  | .n32 => 2

/-- PackSrc from its code; the rest are reserved. -/
def PackSrc.ofCode : Nat → Option PackSrc
  | 0 => some .f32
  | 1 => some .s32
  | 2 => some .n32
  | _ => none

/-- The codes of QuadX. -/
def QuadX.code : QuadX → Nat
  | .x1 => 0
  | .x2 => 1
  | .x3 => 2

/-- QuadX from its code; the rest are reserved. -/
def QuadX.ofCode : Nat → Option QuadX
  | 0 => some .x1
  | 1 => some .x2
  | 2 => some .x3
  | _ => none

/-- The codes of ShflMode. -/
def ShflMode.code : ShflMode → Nat
  | .idx => 0
  | .up => 1
  | .dn => 2
  | .xor => 3

/-- ShflMode from its code; the rest are reserved. -/
def ShflMode.ofCode : Nat → Option ShflMode
  | 0 => some .idx
  | 1 => some .up
  | 2 => some .dn
  | 3 => some .xor
  | _ => none

/-- The codes of ScanMode. -/
def ScanMode.code : ScanMode → Nat
  | .add => 0
  | .xadd => 1
  | .max => 2
  | .min => 3

/-- ScanMode from its code; the rest are reserved. -/
def ScanMode.ofCode : Nat → Option ScanMode
  | 0 => some .add
  | 1 => some .xadd
  | 2 => some .max
  | 3 => some .min
  | _ => none

/-- The codes of RedxMode. -/
def RedxMode.code : RedxMode → Nat
  | .add => 0
  | .min => 1
  | .max => 2
  | .or => 3

/-- RedxMode from its code; the rest are reserved. -/
def RedxMode.ofCode : Nat → Option RedxMode
  | 0 => some .add
  | 1 => some .min
  | 2 => some .max
  | 3 => some .or
  | _ => none

/-- The codes of TshflMode. -/
def TshflMode.code : TshflMode → Nat
  | .idx => 0
  | .up => 1
  | .dn => 2

/-- TshflMode from its code; the rest are reserved. -/
def TshflMode.ofCode : Nat → Option TshflMode
  | 0 => some .idx
  | 1 => some .up
  | 2 => some .dn
  | _ => none

/-- The codes of LdClass. -/
def LdClass.code : LdClass → Nat
  | .plain => 0
  | .inv => 1
  | .rlx => 2
  | .acq => 3

/-- LdClass from its code; the rest are reserved. -/
def LdClass.ofCode : Nat → Option LdClass
  | 0 => some .plain
  | 1 => some .inv
  | 2 => some .rlx
  | 3 => some .acq
  | _ => none

/-- The codes of StClass. -/
def StClass.code : StClass → Nat
  | .plain => 0
  | .strm => 1
  | .rlx => 2
  | .rel => 3

/-- StClass from its code; the rest are reserved. -/
def StClass.ofCode : Nat → Option StClass
  | 0 => some .plain
  | 1 => some .strm
  | 2 => some .rlx
  | 3 => some .rel
  | _ => none

/-- The codes of AtOrder. -/
def AtOrder.code : AtOrder → Nat
  | .rlx => 0
  | .acq => 1
  | .rel => 2
  | .ar => 3

/-- AtOrder from its code; the rest are reserved. -/
def AtOrder.ofCode : Nat → Option AtOrder
  | 0 => some .rlx
  | 1 => some .acq
  | 2 => some .rel
  | 3 => some .ar
  | _ => none

/-- The codes of PfKind. -/
def PfKind.code : PfKind → Nat
  | .l1 => 0
  | .l2 => 1
  | .ex => 2

/-- PfKind from its code; the rest are reserved. -/
def PfKind.ofCode : Nat → Option PfKind
  | 0 => some .l1
  | 1 => some .l2
  | 2 => some .ex
  | _ => none

/-- The codes of PhField. -/
def PhField.code : PhField → Nat
  | .phase => 0
  | .exp => 1
  | .next => 2
  | .flags => 3

/-- PhField from its code; the rest are reserved. -/
def PhField.ofCode : Nat → Option PhField
  | 0 => some .phase
  | 1 => some .exp
  | 2 => some .next
  | 3 => some .flags
  | _ => none

/-- The codes of FenceKind. -/
def FenceKind.code : FenceKind → Nat
  | .all => 0
  | .st => 1
  | .ld => 2

/-- FenceKind from its code; the rest are reserved. -/
def FenceKind.ofCode : Nat → Option FenceKind
  | 0 => some .all
  | 1 => some .st
  | 2 => some .ld
  | _ => none

/-- The codes of Scope. -/
def Scope.code : Scope → Nat
  | .team => 0
  | .group => 1
  | .gang => 2
  | .die => 3
  | .device => 4
  | .domain => 5
  | .system => 6

/-- Scope from its code; the rest are reserved. -/
def Scope.ofCode : Nat → Option Scope
  | 0 => some .team
  | 1 => some .group
  | 2 => some .gang
  | 3 => some .die
  | 4 => some .device
  | 5 => some .domain
  | 6 => some .system
  | _ => none

/-- A field marked 0 must be zero (R134). -/
def zero (n : Nat) : Except DecodeError Unit := if n = 0 then pure () else throw .subField

/-- A field that must hold one value. -/
def constK (k n : Nat) : Except DecodeError Unit := if n = k then pure () else throw .subField

/-- A register field of a kind (R134). -/
def regK (k : Reg → Bool) (n : Nat) : Except DecodeError Reg :=
  match regOf n with
  | some r => if k r then pure r else throw .subField
  | none => throw .subField

/-- The second source: the literal with X = 1, else a register of a kind (R117). -/
def srcK (k : Reg → Bool) (f : Fields) : Except DecodeError Src :=
  if f.x then
    match f.lit with
    | some w => pure (.lit w)
    | none => throw .literal
  else do
    let r ← regK k f.b
    return .reg r

/-- A number below n. -/
def finK (n : Nat) (x : Nat) : Except DecodeError (Fin n) := if h : x < n then pure ⟨x, h⟩ else throw .subField

/-- A destination predicate with a zero sub-field (kind "pd" of R134). -/
def pdK (d : Nat) : Except DecodeError (Fin 8) :=
  if d % 16 = 0 then finK 8 (d / 16) else throw .subField

/-- A destination predicate beside a sub-field (R123). -/
def pdSub (d : Nat) : Except DecodeError (Fin 8) := finK 8 (d / 16)

/-- A named sub-field. -/
def enumK {α : Type} (o : Option α) : Except DecodeError α :=
  match o with
  | some x => pure x
  | none => throw .subField

/-- A named class modifier (R122). -/
def enumC {α : Type} (o : Option α) : Except DecodeError α :=
  match o with
  | some x => pure x
  | none => throw .classModifier

/-- A class modifier that must hold one value (R122). -/
def cmIs (k : Nat) (f : Fields) : Except DecodeError Unit := if f.cm = k then pure () else throw .classModifier

/-- CM [22] alone; [21] must be 0 (R122, R184). -/
def cmN (f : Fields) : Except DecodeError Bool :=
  match f.cm with
  | 0 => pure false
  | 2 => pure true
  | _ => throw .classModifier

/-- CM 00 or 11 (R204). -/
def cmRel3 (f : Fields) : Except DecodeError Bool :=
  match f.cm with
  | 0 => pure false
  | 3 => pure true
  | _ => throw .classModifier

/-- CM 00 or 01 (R194). -/
def cmCur (f : Fields) : Except DecodeError Bool :=
  match f.cm with
  | 0 => pure false
  | 1 => pure true
  | _ => throw .classModifier

/-- CM [22], the flag select (R115). -/
def cmHi (f : Fields) : Bool := f.cm / 2 == 1

/-- CM [21], the status push. -/
def cmLo (f : Fields) : Bool := f.cm % 2 == 1

/-- R117: with X = 1 the B field is zero and a literal word follows. -/
def litOk (f : Fields) : Except DecodeError Unit :=
  if f.x then (if f.b = 0 && f.lit.isSome then pure () else throw .literal) else pure ()

/-- R117: X = 1 is illegal where the entry reads no b operand. -/
def noLit (f : Fields) : Except DecodeError Unit := if f.x then throw .literal else pure ()


/-- The instruction a word's fields name, each check in the order of R131. -/
def decodeFields (f : Fields) : Except DecodeError Instr :=
  match f.op with
  | 0x00 => do
    cmIs 0 f
    noLit f
    zero f.d
    zero f.a
    zero f.b
    return .nop
  | 0x01 => do
    cmIs 0 f
    litOk f
    zero f.d
    zero f.a
    let b ← srcK Reg.isS f
    return .bra b
  | 0x02 => do
    let neg ← cmN f
    litOk f
    zero f.d
    let pa ← finK 8 f.a
    let b ← srcK Reg.isS f
    return .brc neg pa b
  | 0x03 => do
    let neg ← cmN f
    litOk f
    zero f.d
    let pa ← finK 8 f.a
    let b ← srcK Reg.isS f
    return .brany neg pa b
  | 0x04 => do
    let neg ← cmN f
    litOk f
    zero f.d
    let pa ← finK 8 f.a
    let b ← srcK Reg.isS f
    return .brall neg pa b
  | 0x05 => do
    cmIs 0 f
    litOk f
    zero f.d
    zero f.a
    let b ← srcK Reg.isS f
    return .jmp b
  | 0x06 => do
    cmIs 0 f
    litOk f
    let d ← regK Reg.isS f.d
    zero f.a
    let b ← srcK Reg.isS f
    return .call d b
  | 0x07 => do
    cmIs 0 f
    noLit f
    zero f.d
    zero f.a
    let b ← regK Reg.isS f.b
    return .ret b
  | 0x08 => do
    cmIs 0 f
    litOk f
    let d ← regK Reg.isS f.d
    zero f.a
    let b ← srcK Reg.isS f
    return .loop d b
  | 0x09 => do
    cmIs 0 f
    noLit f
    zero f.d
    zero f.a
    zero f.b
    return .fuse
  | 0x0A => do
    cmIs 0 f
    noLit f
    zero f.d
    zero f.a
    zero f.b
    return .yield
  | 0x0B => do
    cmIs 0 f
    noLit f
    zero f.d
    zero f.a
    zero f.b
    return .exit
  | 0x0C => do
    cmIs 0 f
    noLit f
    zero f.d
    zero f.a
    zero f.b
    return .stop
  | 0x0D => do
    cmIs 0 f
    litOk f
    zero f.d
    zero f.a
    let b ← srcK Reg.isS f
    return .sigchk b
  | 0x0E => do
    cmIs 0 f
    noLit f
    let d ← regK Reg.isDst f.d
    zero f.a
    zero f.b
    return .sigrd d
  | 0x0F => do
    cmIs 0 f
    noLit f
    let p ← pdK f.d
    zero f.a
    zero f.b
    return .elect p
  | 0x10 => do
    cmIs 0 f
    litOk f
    let md ← finK 4 f.d
    zero f.a
    let b ← srcK Reg.isAny f
    return .mood md b
  | 0x11 => do
    cmIs 0 f
    noLit f
    let d ← regK Reg.isDst f.d
    let ma ← finK 4 f.a
    zero f.b
    return .moodrd d ma
  | 0x12 => do
    cmIs 0 f
    litOk f
    let p ← pdSub f.d
    let c ← enumK (Cond.ofCode (f.d % 16))
    let a ← regK Reg.isAny f.a
    let b ← srcK Reg.isAny f
    return .cmp p c a b
  | 0x13 => match f.cm with
    | 0 => do
      noLit f
      let p ← pdK f.d
      let pa ← finK 8 f.a
      let pb ← finK 8 f.b
      return .pand p pa pb
    | 1 => do
      noLit f
      let p ← pdK f.d
      let pa ← finK 8 f.a
      let pb ← finK 8 f.b
      return .por p pa pb
    | 2 => do
      noLit f
      let p ← pdK f.d
      let pa ← finK 8 f.a
      let pb ← finK 8 f.b
      return .pxor p pa pb
    | 3 => do
      noLit f
      let p ← pdK f.d
      let pa ← finK 8 f.a
      zero f.b
      return .pnot p pa
    | _ => throw .classModifier
  | 0x14 => do
    cmIs 0 f
    litOk f
    let p ← pdK f.d
    let a ← regK Reg.isAny f.a
    let b ← srcK Reg.isAny f
    return .pmov p a b
  | 0x15 => do
    cmIs 0 f
    noLit f
    let p ← pdSub f.d
    let k ← enumK (VoteKind.ofCode (f.d % 16))
    let pa ← finK 8 f.a
    zero f.b
    return .vote p k pa
  | 0x16 => do
    cmIs 0 f
    litOk f
    let d ← regK Reg.isDst f.d
    let pa ← finK 8 f.a
    let b ← srcK Reg.isAny f
    return .ballot d pa b
  | 0x17 => do
    cmIs 0 f
    noLit f
    let d ← regK Reg.isVS f.d
    let a ← regK Reg.isAny f.a
    let pb ← finK 8 f.b
    return .selp d a pb
  | 0x18 => do
    cmIs 0 f
    noLit f
    let d ← regK Reg.isDst f.d
    let sp ← enumK (Special.ofCode f.a)
    zero f.b
    return .srd d sp
  | 0x19 => do
    cmIs 0 f
    litOk f
    let b ← srcK Reg.isAny f
    zero f.a
    match f.d with
    | 0 => return .swrGen b
    | 1 => return .swrSig b
    | _ => throw .subField
  | 0x1A => do
    cmIs 0 f
    noLit f
    let d ← regK Reg.isDst f.d
    let a ← regK Reg.isAny f.a
    zero f.b
    return .mov d a
  | 0x1B => do
    cmIs 0 f
    litOk f
    let d ← regK Reg.isDst f.d
    zero f.a
    let b ← srcK Reg.isAny f
    return .movi d b
  | 0x20 => do
    cmIs 0 f
    litOk f
    let d ← regK Reg.isDst f.d
    let a ← regK Reg.isAny f.a
    let b ← srcK Reg.isAny f
    return .add d a b
  | 0x21 => do
    cmIs 0 f
    litOk f
    let d ← regK Reg.isDst f.d
    let a ← regK Reg.isAny f.a
    let b ← srcK Reg.isAny f
    return .sub d a b
  | 0x22 => do
    cmIs 0 f
    litOk f
    let d ← regK Reg.isDst f.d
    let a ← regK Reg.isAny f.a
    let b ← srcK Reg.isAny f
    return .mul d a b
  | 0x23 => do
    cmIs 0 f
    litOk f
    let d ← regK Reg.isDst f.d
    let a ← regK Reg.isAny f.a
    let b ← srcK Reg.isAny f
    return .mulhi d a b
  | 0x24 => do
    cmIs 0 f
    litOk f
    let d ← regK Reg.isVS f.d
    let a ← regK Reg.isAny f.a
    let b ← srcK Reg.isAny f
    return .fma d a b
  | 0x25 => do
    cmIs 0 f
    litOk f
    let d ← regK Reg.isVS f.d
    let a ← regK Reg.isAny f.a
    let b ← srcK Reg.isAny f
    return .fms d a b
  | 0x26 => do
    cmIs 0 f
    litOk f
    let d ← regK Reg.isVS f.d
    let a ← regK Reg.isAny f.a
    let b ← srcK Reg.isAny f
    return .fnma d a b
  | 0x27 => do
    cmIs 0 f
    litOk f
    let d ← regK Reg.isDst f.d
    let a ← regK Reg.isAny f.a
    let b ← srcK Reg.isAny f
    return .min d a b
  | 0x28 => do
    cmIs 0 f
    litOk f
    let d ← regK Reg.isDst f.d
    let a ← regK Reg.isAny f.a
    let b ← srcK Reg.isAny f
    return .max d a b
  | 0x29 => do
    cmIs 0 f
    noLit f
    let d ← regK Reg.isDst f.d
    let a ← regK Reg.isAny f.a
    zero f.b
    return .abs d a
  | 0x2A => do
    cmIs 0 f
    noLit f
    let d ← regK Reg.isDst f.d
    let a ← regK Reg.isAny f.a
    zero f.b
    return .neg d a
  | 0x2B => do
    cmIs 0 f
    litOk f
    let d ← regK Reg.isVS f.d
    let a ← regK Reg.isAny f.a
    let b ← srcK Reg.isAny f
    return .clamp d a b
  | 0x2C => do
    cmIs 0 f
    litOk f
    let d ← regK Reg.isDst f.d
    let a ← regK Reg.isAny f.a
    let b ← srcK Reg.isAny f
    return .div d a b
  | 0x2D => do
    cmIs 0 f
    litOk f
    let d ← regK Reg.isDst f.d
    let a ← regK Reg.isAny f.a
    let b ← srcK Reg.isAny f
    return .rem d a b
  | 0x2E => do
    cmIs 0 f
    noLit f
    let d ← regK Reg.isDst f.d
    let a ← regK Reg.isAny f.a
    zero f.b
    return .sqrt d a
  | 0x2F => do
    cmIs 0 f
    noLit f
    let d ← regK Reg.isDst f.d
    let a ← regK Reg.isAny f.a
    zero f.b
    return .rsq d a
  | 0x30 => do
    cmIs 0 f
    noLit f
    let d ← regK Reg.isDst f.d
    let a ← regK Reg.isAny f.a
    zero f.b
    return .rcp d a
  | 0x31 => do
    cmIs 0 f
    noLit f
    let d ← regK Reg.isDst f.d
    let a ← regK Reg.isAny f.a
    zero f.b
    return .exp2 d a
  | 0x32 => do
    cmIs 0 f
    noLit f
    let d ← regK Reg.isDst f.d
    let a ← regK Reg.isAny f.a
    zero f.b
    return .log2 d a
  | 0x33 => do
    cmIs 0 f
    noLit f
    let d ← regK Reg.isDst f.d
    let a ← regK Reg.isAny f.a
    zero f.b
    return .sin d a
  | 0x34 => do
    cmIs 0 f
    noLit f
    let d ← regK Reg.isDst f.d
    let a ← regK Reg.isAny f.a
    zero f.b
    return .cos d a
  | 0x35 => do
    cmIs 0 f
    noLit f
    let d ← regK Reg.isDst f.d
    let a ← regK Reg.isAny f.a
    zero f.b
    return .tanh d a
  | 0x36 => do
    let e ← finK 4 f.cm
    noLit f
    let d ← regK Reg.isVS f.d
    let a ← regK Reg.isAny f.a
    let st ← finK 15 f.b
    return .cvt e d a st
  | 0x37 => do
    let src ← enumC (PackSrc.ofCode f.cm)
    litOk f
    let d ← regK Reg.isVS f.d
    let a ← regK Reg.isAny f.a
    let b ← srcK Reg.isAny f
    return .pack src d a b
  | 0x38 => do
    cmIs 0 f
    litOk f
    let d ← regK Reg.isDst f.d
    let a ← regK Reg.isAny f.a
    let b ← srcK Reg.isAny f
    return .unpack d a b
  | 0x39 => do
    cmIs 0 f
    litOk f
    let d ← regK Reg.isVS f.d
    let a ← regK Reg.isAny f.a
    let b ← srcK Reg.isAny f
    return .dot4 d a b
  | 0x3A => do
    cmIs 0 f
    litOk f
    let d ← regK Reg.isVS f.d
    let a ← regK Reg.isAny f.a
    let b ← srcK Reg.isAny f
    return .dot2 d a b
  | 0x3B => do
    cmIs 0 f
    noLit f
    let d ← regK Reg.isDst f.d
    let a ← regK Reg.isAny f.a
    zero f.b
    return .frc d a
  | 0x3C => do
    cmIs 0 f
    noLit f
    let d ← regK Reg.isDst f.d
    let a ← regK Reg.isAny f.a
    zero f.b
    return .rnd d a
  | 0x40 => do
    cmIs 0 f
    litOk f
    let d ← regK Reg.isDst f.d
    let a ← regK Reg.isAny f.a
    let b ← srcK Reg.isAny f
    return .and d a b
  | 0x41 => do
    cmIs 0 f
    litOk f
    let d ← regK Reg.isDst f.d
    let a ← regK Reg.isAny f.a
    let b ← srcK Reg.isAny f
    return .or d a b
  | 0x42 => do
    cmIs 0 f
    litOk f
    let d ← regK Reg.isDst f.d
    let a ← regK Reg.isAny f.a
    let b ← srcK Reg.isAny f
    return .xor d a b
  | 0x43 => do
    cmIs 0 f
    noLit f
    let d ← regK Reg.isDst f.d
    let a ← regK Reg.isAny f.a
    zero f.b
    return .not d a
  | 0x44 => do
    cmIs 0 f
    litOk f
    let d ← regK Reg.isDst f.d
    let a ← regK Reg.isAny f.a
    let b ← srcK Reg.isAny f
    return .shl d a b
  | 0x45 => do
    cmIs 0 f
    litOk f
    let d ← regK Reg.isDst f.d
    let a ← regK Reg.isAny f.a
    let b ← srcK Reg.isAny f
    return .shr d a b
  | 0x46 => do
    cmIs 0 f
    litOk f
    let d ← regK Reg.isDst f.d
    let a ← regK Reg.isAny f.a
    let b ← srcK Reg.isAny f
    return .sar d a b
  | 0x47 => do
    cmIs 0 f
    litOk f
    let d ← regK Reg.isDst f.d
    let a ← regK Reg.isAny f.a
    let b ← srcK Reg.isAny f
    return .rot d a b
  | 0x48 => do
    cmIs 0 f
    noLit f
    let d ← regK Reg.isDst f.d
    let a ← regK Reg.isAny f.a
    zero f.b
    return .popc d a
  | 0x49 => do
    cmIs 0 f
    noLit f
    let d ← regK Reg.isDst f.d
    let a ← regK Reg.isAny f.a
    zero f.b
    return .clz d a
  | 0x4A => do
    cmIs 0 f
    noLit f
    let d ← regK Reg.isDst f.d
    let a ← regK Reg.isAny f.a
    zero f.b
    return .brev d a
  | 0x4B => do
    cmIs 0 f
    litOk f
    let d ← regK Reg.isDst f.d
    let a ← regK Reg.isAny f.a
    let b ← srcK Reg.isAny f
    return .bfe d a b
  | 0x4C => do
    cmIs 0 f
    litOk f
    let d ← regK Reg.isVS f.d
    let a ← regK Reg.isAny f.a
    let b ← srcK Reg.isAny f
    return .bfi d a b
  | 0x4D => do
    cmIs 0 f
    litOk f
    let d ← regK Reg.isDst f.d
    let a ← regK Reg.isAny f.a
    let b ← srcK Reg.isAny f
    return .addc d a b
  | 0x4E => do
    cmIs 0 f
    litOk f
    let d ← regK Reg.is64 f.d
    let a ← regK Reg.is64 f.a
    let b ← srcK Reg.isAny f
    return .lea d a b
  | 0x50 => do
    let x ← enumC (QuadX.ofCode f.cm)
    noLit f
    let d ← regK Reg.isV f.d
    let a ← regK Reg.isV f.a
    zero f.b
    return .qswap x d a
  | 0x51 => do
    let l ← finK 4 f.cm
    noLit f
    let d ← regK Reg.isV f.d
    let a ← regK Reg.isV f.a
    zero f.b
    return .qbcast l d a
  | 0x52 => do
    let m ← enumC (ShflMode.ofCode f.cm)
    litOk f
    let d ← regK Reg.isV f.d
    let a ← regK Reg.isV f.a
    let b ← srcK Reg.isAny f
    return .shfl m d a b
  | 0x53 => do
    let m ← enumC (ScanMode.ofCode f.cm)
    noLit f
    let d ← regK Reg.isV f.d
    let a ← regK Reg.isV f.a
    zero f.b
    return .scan m d a
  | 0x54 => do
    let m ← enumC (RedxMode.ofCode f.cm)
    noLit f
    let d ← regK Reg.isVS f.d
    let a ← regK Reg.isV f.a
    zero f.b
    return .redx m d a
  | 0x55 => match f.cm with
    | 0 => do
      noLit f
      let d ← regK Reg.isV f.d
      let a ← regK Reg.isV f.a
      zero f.b
      return .matchRow d a
    | 1 => do
      noLit f
      let p ← pdK f.d
      let a ← regK Reg.isV f.a
      zero f.b
      return .matchAll p a
    | _ => throw .classModifier
  | 0x56 => do
    let m ← enumC (TshflMode.ofCode f.cm)
    litOk f
    let d ← regK Reg.isV f.d
    let a ← regK Reg.isV f.a
    let b ← srcK Reg.isAny f
    return .tshfl m d a b
  | 0x58 => do
    let cls ← enumC (LdClass.ofCode f.cm)
    litOk f
    let d ← regK Reg.isVS f.d
    let a ← regK Reg.is64 f.a
    let b ← srcK Reg.isVS f
    return .ld8 cls d a b
  | 0x59 => do
    let cls ← enumC (LdClass.ofCode f.cm)
    litOk f
    let d ← regK Reg.isVS f.d
    let a ← regK Reg.is64 f.a
    let b ← srcK Reg.isVS f
    return .ld16 cls d a b
  | 0x5A => do
    let cls ← enumC (LdClass.ofCode f.cm)
    litOk f
    let d ← regK Reg.isVS f.d
    let a ← regK Reg.is64 f.a
    let b ← srcK Reg.isVS f
    return .ld32 cls d a b
  | 0x5B => do
    let cls ← enumC (LdClass.ofCode f.cm)
    litOk f
    let d ← regK Reg.is64 f.d
    let a ← regK Reg.is64 f.a
    let b ← srcK Reg.isVS f
    return .ld64 cls d a b
  | 0x5C => do
    let cls ← enumC (LdClass.ofCode f.cm)
    litOk f
    let d ← regK Reg.isV4 f.d
    let a ← regK Reg.is64 f.a
    let b ← srcK Reg.isVS f
    return .ld128 cls d a b
  | 0x5D => do
    let cls ← enumC (StClass.ofCode f.cm)
    litOk f
    let d ← regK Reg.isVS f.d
    let a ← regK Reg.is64 f.a
    let b ← srcK Reg.isVS f
    return .st8 cls d a b
  | 0x5E => do
    let cls ← enumC (StClass.ofCode f.cm)
    litOk f
    let d ← regK Reg.isVS f.d
    let a ← regK Reg.is64 f.a
    let b ← srcK Reg.isVS f
    return .st16 cls d a b
  | 0x5F => do
    let cls ← enumC (StClass.ofCode f.cm)
    litOk f
    let d ← regK Reg.isVS f.d
    let a ← regK Reg.is64 f.a
    let b ← srcK Reg.isVS f
    return .st32 cls d a b
  | 0x60 => do
    let cls ← enumC (StClass.ofCode f.cm)
    litOk f
    let d ← regK Reg.is64 f.d
    let a ← regK Reg.is64 f.a
    let b ← srcK Reg.isVS f
    return .st64 cls d a b
  | 0x61 => do
    let cls ← enumC (StClass.ofCode f.cm)
    litOk f
    let d ← regK Reg.isV4 f.d
    let a ← regK Reg.is64 f.a
    let b ← srcK Reg.isVS f
    return .st128 cls d a b
  | 0x62 => do
    let k ← enumC (PfKind.ofCode f.cm)
    litOk f
    zero f.d
    let a ← regK Reg.is64 f.a
    let b ← srcK Reg.isVS f
    return .pf k a b
  | 0x64 => do
    let ord ← enumC (AtOrder.ofCode f.cm)
    litOk f
    let d ← regK Reg.isVS f.d
    let a ← regK Reg.is64 f.a
    let b ← srcK Reg.isVS f
    return .atadd ord d a b
  | 0x65 => do
    let ord ← enumC (AtOrder.ofCode f.cm)
    litOk f
    let d ← regK Reg.isVS f.d
    let a ← regK Reg.is64 f.a
    let b ← srcK Reg.isVS f
    return .atmin ord d a b
  | 0x66 => do
    let ord ← enumC (AtOrder.ofCode f.cm)
    litOk f
    let d ← regK Reg.isVS f.d
    let a ← regK Reg.is64 f.a
    let b ← srcK Reg.isVS f
    return .atmax ord d a b
  | 0x67 => do
    let ord ← enumC (AtOrder.ofCode f.cm)
    litOk f
    let d ← regK Reg.isVS f.d
    let a ← regK Reg.is64 f.a
    let b ← srcK Reg.isVS f
    return .atand ord d a b
  | 0x68 => do
    let ord ← enumC (AtOrder.ofCode f.cm)
    litOk f
    let d ← regK Reg.isVS f.d
    let a ← regK Reg.is64 f.a
    let b ← srcK Reg.isVS f
    return .ator ord d a b
  | 0x69 => do
    let ord ← enumC (AtOrder.ofCode f.cm)
    litOk f
    let d ← regK Reg.isVS f.d
    let a ← regK Reg.is64 f.a
    let b ← srcK Reg.isVS f
    return .atxor ord d a b
  | 0x6A => do
    let ord ← enumC (AtOrder.ofCode f.cm)
    litOk f
    let d ← regK Reg.isVS f.d
    let a ← regK Reg.is64 f.a
    let b ← srcK Reg.isVS f
    return .atxch ord d a b
  | 0x6B => do
    let ord ← enumC (AtOrder.ofCode f.cm)
    litOk f
    let d ← regK Reg.isCas f.d
    let a ← regK Reg.is64 f.a
    let b ← srcK Reg.isVS f
    return .atcas ord d a b
  | 0x6C => do
    let ord ← enumC (AtOrder.ofCode f.cm)
    litOk f
    let d ← regK Reg.isVS f.d
    let a ← regK Reg.is64 f.a
    let b ← srcK Reg.isVS f
    return .atinc ord d a b
  | 0x6D => do
    let rel ← cmN f
    litOk f
    let d ← regK Reg.isVS f.d
    let a ← regK Reg.is64 f.a
    let b ← srcK Reg.isVS f
    return .rdadd rel d a b
  | 0x6E => do
    let rel ← cmN f
    litOk f
    let d ← regK Reg.isVS f.d
    let a ← regK Reg.is64 f.a
    let b ← srcK Reg.isVS f
    return .rdmin rel d a b
  | 0x6F => do
    let rel ← cmN f
    litOk f
    let d ← regK Reg.isVS f.d
    let a ← regK Reg.is64 f.a
    let b ← srcK Reg.isVS f
    return .rdmax rel d a b
  | 0x70 => do
    let rel ← cmN f
    litOk f
    let d ← regK Reg.isVS f.d
    let a ← regK Reg.is64 f.a
    let b ← srcK Reg.isVS f
    return .rdand rel d a b
  | 0x71 => do
    let rel ← cmN f
    litOk f
    let d ← regK Reg.isVS f.d
    let a ← regK Reg.is64 f.a
    let b ← srcK Reg.isVS f
    return .rdor rel d a b
  | 0x72 => do
    let rel ← cmN f
    litOk f
    let d ← regK Reg.isVS f.d
    let a ← regK Reg.is64 f.a
    let b ← srcK Reg.isVS f
    return .rdxor rel d a b
  | 0x73 => do
    cmIs 0 f
    litOk f
    let d ← regK Reg.isVS f.d
    let a ← regK Reg.is64 f.a
    let b ← srcK Reg.isVS f
    return .lock d a b
  | 0x74 => do
    cmIs 0 f
    noLit f
    let d ← regK Reg.isVS f.d
    let a ← regK Reg.is64 f.a
    zero f.b
    return .trylk d a
  | 0x75 => do
    cmIs 0 f
    noLit f
    let d ← regK Reg.isVS f.d
    let a ← regK Reg.is64 f.a
    zero f.b
    return .unlock d a
  | 0x76 => do
    cmIs 0 f
    noLit f
    let d ← regK Reg.isVS f.d
    let a ← regK Reg.is64 f.a
    zero f.b
    return .lkqry d a
  | 0x77 => do
    let cur ← cmCur f
    litOk f
    zero f.d
    zero f.a
    let b ← srcK Reg.isVS f
    return .phhdr cur b
  | 0x78 => do
    cmIs 0 f
    noLit f
    zero f.d
    zero f.a
    zero f.b
    return .phend
  | 0x79 => do
    cmIs 0 f
    noLit f
    let d ← regK Reg.isDst f.d
    let a ← regK Reg.isVS f.a
    let pb ← finK 8 f.b
    return .phwait d a pb
  | 0x7A => do
    let fld ← enumC (PhField.ofCode f.cm)
    noLit f
    let d ← regK Reg.isDst f.d
    zero f.a
    zero f.b
    return .phrd fld d
  | 0x7B => do
    let k ← enumC (FenceKind.ofCode f.cm)
    noLit f
    zero f.d
    let sc ← enumK (Scope.ofCode f.a)
    zero f.b
    return .fence k sc
  | 0x7C => do
    cmIs 0 f
    noLit f
    zero f.d
    zero f.a
    zero f.b
    return .bar
  | 0x7D => do
    cmIs 0 f
    noLit f
    zero f.d
    zero f.a
    zero f.b
    return .gbar
  | 0x7E => do
    cmIs 0 f
    litOk f
    zero f.d
    let path ← finK 7 f.a
    let b ← srcK Reg.isVS f
    return .waitp path b
  | 0x7F => do
    cmIs 0 f
    litOk f
    zero f.d
    let a ← regK Reg.isS f.a
    let b ← srcK Reg.isVS f
    return .waitct a b
  | 0x80 => do
    let rel ← cmRel3 f
    litOk f
    zero f.d
    let a ← regK Reg.isS f.a
    let b ← srcK Reg.isVS f
    return .ctset rel a b
  | 0x81 => do
    let rel ← cmRel3 f
    litOk f
    let d ← regK Reg.isVS f.d
    let a ← regK Reg.isS f.a
    let b ← srcK Reg.isVS f
    return .ctadd rel d a b
  | 0x82 => do
    cmIs 0 f
    noLit f
    let d ← regK Reg.isVS f.d
    let a ← regK Reg.isS f.a
    zero f.b
    return .ctrd d a
  | 0x88 => do
    let fb := cmHi f
    let sq := cmLo f
    noLit f
    let d ← regK Reg.isVS f.d
    let a ← regK Reg.is64 f.a
    let b ← regK Reg.is64 f.b
    return .bld fb sq d a b
  | 0x89 => do
    let fb := cmHi f
    let sq := cmLo f
    noLit f
    let d ← regK Reg.isVS f.d
    let a ← regK Reg.is64 f.a
    let b ← regK Reg.is64 f.b
    return .mma fb sq d a b
  | 0x8A => do
    let fb := cmHi f
    let sq := cmLo f
    noLit f
    let d ← regK Reg.isVS f.d
    let a ← regK Reg.is64 f.a
    let b ← regK Reg.is64 f.b
    return .mmas fb sq d a b
  | 0x8B => do
    let fb := cmHi f
    let sq := cmLo f
    noLit f
    let d ← regK Reg.isVS f.d
    zero f.a
    zero f.b
    return .accz fb sq d
  | 0x8C => do
    let fb := cmHi f
    let sq := cmLo f
    litOk f
    let d ← regK Reg.isVS f.d
    let a ← regK Reg.is64 f.a
    let b ← srcK Reg.isVS f
    return .accld fb sq d a b
  | 0x8D => do
    let fb := cmHi f
    let sq := cmLo f
    litOk f
    let d ← regK Reg.isVS f.d
    let a ← regK Reg.is64 f.a
    let b ← srcK Reg.isVS f
    return .accst fb sq d a b
  | 0x8E => do
    cmIs 0 f
    noLit f
    let d ← regK Reg.isV f.d
    let a ← regK Reg.isVS f.a
    zero f.b
    return .accrd d a
  | 0x8F => do
    cmIs 0 f
    noLit f
    let d ← regK Reg.isV f.d
    let a ← regK Reg.isVS f.a
    zero f.b
    return .accwr d a
  | 0x90 => do
    let fb := cmHi f
    let sq := cmLo f
    litOk f
    let d ← regK Reg.isVS f.d
    let a ← regK Reg.is64 f.a
    let b ← srcK Reg.isVS f
    return .spmld fb sq d a b
  | 0x91 => do
    let fb := cmHi f
    let sq := cmLo f
    litOk f
    let d ← regK Reg.isS22 f.d
    let a ← regK Reg.is64 f.a
    let b ← srcK Reg.isVS f
    return .qnt fb sq d a b
  | 0x92 => do
    let fb := cmHi f
    let sq := cmLo f
    litOk f
    let d ← regK Reg.isS22 f.d
    let a ← regK Reg.is64 f.a
    let b ← srcK Reg.isVS f
    return .dqnt fb sq d a b
  | 0x93 => do
    cmIs 0 f
    noLit f
    let d ← regK Reg.isVS f.d
    zero f.a
    zero f.b
    return .mxqry d
  | 0x98 => do
    let fb := cmHi f
    let sq := cmLo f
    litOk f
    let d ← regK Reg.is64 f.d
    let a ← regK Reg.is64 f.a
    let b ← srcK Reg.isVS f
    return .cpsl fb sq d a b
  | 0x99 => do
    cmIs 0 f
    litOk f
    let d ← regK Reg.isVS f.d
    let a ← regK Reg.is64 f.a
    let b ← srcK Reg.is64 f
    return .hbind d a b
  | 0x9A => do
    cmIs 0 f
    noLit f
    let d ← regK Reg.isVS f.d
    let a ← regK Reg.isVS f.a
    zero f.b
    return .hwait d a
  | 0x9B => do
    cmIs 0 f
    noLit f
    let d ← regK Reg.isVS f.d
    let a ← regK Reg.isVS f.a
    zero f.b
    return .hrel d a
  | 0x9C => do
    cmIs 0 f
    noLit f
    let d ← regK Reg.isVS f.d
    let a ← regK Reg.isVS f.a
    zero f.b
    return .hstat d a
  | 0xA0 => do
    let fb := cmHi f
    let sq := cmLo f
    noLit f
    let d ← regK Reg.isS f.d
    let a ← regK Reg.is64 f.a
    let b ← regK Reg.is64 f.b
    return .put fb sq d a b
  | 0xA1 => do
    let fb := cmHi f
    let sq := cmLo f
    noLit f
    let d ← regK Reg.isS f.d
    let a ← regK Reg.is64 f.a
    let b ← regK Reg.is64 f.b
    return .get fb sq d a b
  | 0xA2 => do
    let fb := cmHi f
    let sq := cmLo f
    noLit f
    let d ← regK Reg.isS20 f.d
    zero f.a
    zero f.b
    return .bulk fb sq d
  | 0xA3 => do
    let fb := cmHi f
    let sq := cmLo f
    noLit f
    let d ← regK Reg.isS f.d
    let a ← regK Reg.is64 f.a
    zero f.b
    return .send fb sq d a
  | 0xA4 => do
    cmIs 0 f
    noLit f
    zero f.d
    let a ← regK Reg.is64 f.a
    zero f.b
    return .recv a
  | 0xA5 => do
    cmIs 0 f
    litOk f
    let d ← regK Reg.isVS f.d
    zero f.a
    let b ← srcK Reg.isVS f
    return .fxqry d b
  | 0xA8 => do
    let fb := cmHi f
    let sq := cmLo f
    noLit f
    let d ← regK Reg.isS16 f.d
    zero f.a
    zero f.b
    return .cjpost fb sq d
  | 0xA9 => do
    cmIs 0 f
    noLit f
    let d ← regK Reg.isVS f.d
    let a ← regK Reg.isVS f.a
    zero f.b
    return .cjcancel d a
  | 0xAA => do
    cmIs 0 f
    noLit f
    let d ← regK Reg.isVS f.d
    let a ← regK Reg.isVS f.a
    zero f.b
    return .cjqry d a
  | 0xB0 => do
    cmIs 0 f
    litOk f
    zero f.d
    zero f.a
    let b ← srcK Reg.isVS f
    return .trap b
  | 0xB1 => do
    cmIs 0 f
    litOk f
    let d ← regK Reg.isVS f.d
    zero f.a
    let b ← srcK Reg.isVS f
    return .chkerr d b
  | 0xB2 => do
    cmIs 0 f
    litOk f
    zero f.d
    zero f.a
    let b ← srcK Reg.isVS f
    return .bkpt b
  | 0xB3 => do
    cmIs 0 f
    noLit f
    zero f.d
    zero f.a
    zero f.b
    return .eret
  | 0xB4 => do
    cmIs 0 f
    noLit f
    let d ← regK Reg.isVS f.d
    let reg ← finK 12 f.a
    zero f.b
    return .sysrd d reg
  | 0xB5 => do
    cmIs 0 f
    litOk f
    zero f.d
    let reg ← finK 12 f.a
    let b ← srcK Reg.isVS f
    return .syswr reg b
  | 0xB6 => do
    cmIs 0 f
    noLit f
    let d ← regK Reg.isVS f.d
    let item ← finK 6 f.a
    zero f.b
    return .taskrd d item
  | _ => throw .opcode

/-- One instruction word and the word after it in its clause. -/
def decodeWord (w : Word) (lit : Option Word) : Except DecodeError Instr := decodeFields (splitWord w lit)

/-- A word from four bytes, the lowest first (R6). -/
def wordOf (b0 b1 b2 b3 : Byte) : Word :=
  BitVec.ofNat 32 (b0.toNat + b1.toNat * 2 ^ 8 + b2.toNat * 2 ^ 16 + b3.toNat * 2 ^ 24)

/-- The instruction at the head of a list of bytes, and the bytes after it. -/
def decode : List Byte → Except DecodeError (Instr × List Byte)
  | b0 :: b1 :: b2 :: b3 :: rest =>
    let w := wordOf b0 b1 b2 b3
    match rest with
    | c0 :: c1 :: c2 :: c3 :: rest' =>
      match decodeWord w (some (wordOf c0 c1 c2 c3)) with
      | .ok i => .ok (i, if bitsN w.toNat 23 23 == 1 then rest' else rest)
      | .error e => .error e
    | _ =>
      match decodeWord w none with
      | .ok i => .ok (i, rest)
      | .error e => .error e
  | _ => .error .short

/-- The instruction the decoder reads from a table row's bits; the literal word a row with X = 1 needs is zero. -/
def decodeTableWord (nbits w : Nat) : Option Instr :=
  match decode (((List.range (nbits / 8)).map (fun i => BitVec.ofNat 8 (w / 2 ^ (8 * i)))) ++ [0, 0, 0, 0]) with
  | .ok (i, _) => some i
  | .error _ => none

/-- A clause header (R111). -/
structure Header where
  len   : Nat
  wait  : BitVec 12
  setA  : Nat
  setB  : Nat
  msel  : Fin 4
  yield : Bool
  deriving DecidableEq, Repr

/-- A clause header, refused in the cases of R112. -/
def decodeHeader (w : Word) : Option Header :=
  let len := bitsN w.toNat 31 28
  let setA := bitsN w.toNat 15 12
  let setB := bitsN w.toNat 11 8
  if len == 0 || bitsN w.toNat 4 0 != 0 || (12 ≤ setA && setA ≤ 14) || (12 ≤ setB && setB ≤ 14)
      || (setA == setB && setA < 12) then none
  else some { len := len, wait := BitVec.ofNat 12 (bitsN w.toNat 27 16), setA := setA, setB := setB,
              msel := ⟨bitsN w.toNat 7 6, Nat.mod_lt _ (by decide)⟩, yield := bitsN w.toNat 5 5 == 1 }

/-- Fields of a word by name. -/
def mkF (op : Nat) (x : Bool) (cm d a b : Nat) (lit : Option Word) : Fields :=
  { op := op, x := x, cm := cm, d := d, a := a, b := b, lit := lit }

/-- The fields of an instruction's word and its literal (R116, R117); an event has no word. -/
def encodeFields : Instr → Option Fields
  | .nop => some (mkF 0x00 false 0 0 0 0 none)
  | .bra b => some (mkF 0x01 b.isLit 0 0 0 b.code b.litWord)
  | .brc neg pa b => some (mkF 0x02 b.isLit (2 * neg.toNat) 0 pa.val b.code b.litWord)
  | .brany neg pa b => some (mkF 0x03 b.isLit (2 * neg.toNat) 0 pa.val b.code b.litWord)
  | .brall neg pa b => some (mkF 0x04 b.isLit (2 * neg.toNat) 0 pa.val b.code b.litWord)
  | .jmp b => some (mkF 0x05 b.isLit 0 0 0 b.code b.litWord)
  | .call d b => some (mkF 0x06 b.isLit 0 d.code 0 b.code b.litWord)
  | .ret b => some (mkF 0x07 false 0 0 0 b.code none)
  | .loop d b => some (mkF 0x08 b.isLit 0 d.code 0 b.code b.litWord)
  | .fuse => some (mkF 0x09 false 0 0 0 0 none)
  | .yield => some (mkF 0x0A false 0 0 0 0 none)
  | .exit => some (mkF 0x0B false 0 0 0 0 none)
  | .stop => some (mkF 0x0C false 0 0 0 0 none)
  | .sigchk b => some (mkF 0x0D b.isLit 0 0 0 b.code b.litWord)
  | .sigrd d => some (mkF 0x0E false 0 d.code 0 0 none)
  | .elect p => some (mkF 0x0F false 0 (p.val * 16) 0 0 none)
  | .mood md b => some (mkF 0x10 b.isLit 0 md.val 0 b.code b.litWord)
  | .moodrd d ma => some (mkF 0x11 false 0 d.code ma.val 0 none)
  | .cmp p c a b => some (mkF 0x12 b.isLit 0 (p.val * 16 + c.code) a.code b.code b.litWord)
  | .pand p pa pb => some (mkF 0x13 false 0 (p.val * 16) pa.val pb.val none)
  | .por p pa pb => some (mkF 0x13 false 1 (p.val * 16) pa.val pb.val none)
  | .pxor p pa pb => some (mkF 0x13 false 2 (p.val * 16) pa.val pb.val none)
  | .pnot p pa => some (mkF 0x13 false 3 (p.val * 16) pa.val 0 none)
  | .pmov p a b => some (mkF 0x14 b.isLit 0 (p.val * 16) a.code b.code b.litWord)
  | .vote p k pa => some (mkF 0x15 false 0 (p.val * 16 + k.code) pa.val 0 none)
  | .ballot d pa b => some (mkF 0x16 b.isLit 0 d.code pa.val b.code b.litWord)
  | .selp d a pb => some (mkF 0x17 false 0 d.code a.code pb.val none)
  | .srd d sp => some (mkF 0x18 false 0 d.code sp.code 0 none)
  | .swrGen b => some (mkF 0x19 b.isLit 0 0 0 b.code b.litWord)
  | .swrSig b => some (mkF 0x19 b.isLit 0 1 0 b.code b.litWord)
  | .mov d a => some (mkF 0x1A false 0 d.code a.code 0 none)
  | .movi d b => some (mkF 0x1B b.isLit 0 d.code 0 b.code b.litWord)
  | .add d a b => some (mkF 0x20 b.isLit 0 d.code a.code b.code b.litWord)
  | .sub d a b => some (mkF 0x21 b.isLit 0 d.code a.code b.code b.litWord)
  | .mul d a b => some (mkF 0x22 b.isLit 0 d.code a.code b.code b.litWord)
  | .mulhi d a b => some (mkF 0x23 b.isLit 0 d.code a.code b.code b.litWord)
  | .fma d a b => some (mkF 0x24 b.isLit 0 d.code a.code b.code b.litWord)
  | .fms d a b => some (mkF 0x25 b.isLit 0 d.code a.code b.code b.litWord)
  | .fnma d a b => some (mkF 0x26 b.isLit 0 d.code a.code b.code b.litWord)
  | .min d a b => some (mkF 0x27 b.isLit 0 d.code a.code b.code b.litWord)
  | .max d a b => some (mkF 0x28 b.isLit 0 d.code a.code b.code b.litWord)
  | .abs d a => some (mkF 0x29 false 0 d.code a.code 0 none)
  | .neg d a => some (mkF 0x2A false 0 d.code a.code 0 none)
  | .clamp d a b => some (mkF 0x2B b.isLit 0 d.code a.code b.code b.litWord)
  | .div d a b => some (mkF 0x2C b.isLit 0 d.code a.code b.code b.litWord)
  | .rem d a b => some (mkF 0x2D b.isLit 0 d.code a.code b.code b.litWord)
  | .sqrt d a => some (mkF 0x2E false 0 d.code a.code 0 none)
  | .rsq d a => some (mkF 0x2F false 0 d.code a.code 0 none)
  | .rcp d a => some (mkF 0x30 false 0 d.code a.code 0 none)
  | .exp2 d a => some (mkF 0x31 false 0 d.code a.code 0 none)
  | .log2 d a => some (mkF 0x32 false 0 d.code a.code 0 none)
  | .sin d a => some (mkF 0x33 false 0 d.code a.code 0 none)
  | .cos d a => some (mkF 0x34 false 0 d.code a.code 0 none)
  | .tanh d a => some (mkF 0x35 false 0 d.code a.code 0 none)
  | .cvt e d a st => some (mkF 0x36 false e.val d.code a.code st.val none)
  | .pack src d a b => some (mkF 0x37 b.isLit src.code d.code a.code b.code b.litWord)
  | .unpack d a b => some (mkF 0x38 b.isLit 0 d.code a.code b.code b.litWord)
  | .dot4 d a b => some (mkF 0x39 b.isLit 0 d.code a.code b.code b.litWord)
  | .dot2 d a b => some (mkF 0x3A b.isLit 0 d.code a.code b.code b.litWord)
  | .frc d a => some (mkF 0x3B false 0 d.code a.code 0 none)
  | .rnd d a => some (mkF 0x3C false 0 d.code a.code 0 none)
  | .and d a b => some (mkF 0x40 b.isLit 0 d.code a.code b.code b.litWord)
  | .or d a b => some (mkF 0x41 b.isLit 0 d.code a.code b.code b.litWord)
  | .xor d a b => some (mkF 0x42 b.isLit 0 d.code a.code b.code b.litWord)
  | .not d a => some (mkF 0x43 false 0 d.code a.code 0 none)
  | .shl d a b => some (mkF 0x44 b.isLit 0 d.code a.code b.code b.litWord)
  | .shr d a b => some (mkF 0x45 b.isLit 0 d.code a.code b.code b.litWord)
  | .sar d a b => some (mkF 0x46 b.isLit 0 d.code a.code b.code b.litWord)
  | .rot d a b => some (mkF 0x47 b.isLit 0 d.code a.code b.code b.litWord)
  | .popc d a => some (mkF 0x48 false 0 d.code a.code 0 none)
  | .clz d a => some (mkF 0x49 false 0 d.code a.code 0 none)
  | .brev d a => some (mkF 0x4A false 0 d.code a.code 0 none)
  | .bfe d a b => some (mkF 0x4B b.isLit 0 d.code a.code b.code b.litWord)
  | .bfi d a b => some (mkF 0x4C b.isLit 0 d.code a.code b.code b.litWord)
  | .addc d a b => some (mkF 0x4D b.isLit 0 d.code a.code b.code b.litWord)
  | .lea d a b => some (mkF 0x4E b.isLit 0 d.code a.code b.code b.litWord)
  | .qswap x d a => some (mkF 0x50 false x.code d.code a.code 0 none)
  | .qbcast l d a => some (mkF 0x51 false l.val d.code a.code 0 none)
  | .shfl m d a b => some (mkF 0x52 b.isLit m.code d.code a.code b.code b.litWord)
  | .scan m d a => some (mkF 0x53 false m.code d.code a.code 0 none)
  | .redx m d a => some (mkF 0x54 false m.code d.code a.code 0 none)
  | .matchRow d a => some (mkF 0x55 false 0 d.code a.code 0 none)
  | .matchAll p a => some (mkF 0x55 false 1 (p.val * 16) a.code 0 none)
  | .tshfl m d a b => some (mkF 0x56 b.isLit m.code d.code a.code b.code b.litWord)
  | .ld8 cls d a b => some (mkF 0x58 b.isLit cls.code d.code a.code b.code b.litWord)
  | .ld16 cls d a b => some (mkF 0x59 b.isLit cls.code d.code a.code b.code b.litWord)
  | .ld32 cls d a b => some (mkF 0x5A b.isLit cls.code d.code a.code b.code b.litWord)
  | .ld64 cls d a b => some (mkF 0x5B b.isLit cls.code d.code a.code b.code b.litWord)
  | .ld128 cls d a b => some (mkF 0x5C b.isLit cls.code d.code a.code b.code b.litWord)
  | .st8 cls d a b => some (mkF 0x5D b.isLit cls.code d.code a.code b.code b.litWord)
  | .st16 cls d a b => some (mkF 0x5E b.isLit cls.code d.code a.code b.code b.litWord)
  | .st32 cls d a b => some (mkF 0x5F b.isLit cls.code d.code a.code b.code b.litWord)
  | .st64 cls d a b => some (mkF 0x60 b.isLit cls.code d.code a.code b.code b.litWord)
  | .st128 cls d a b => some (mkF 0x61 b.isLit cls.code d.code a.code b.code b.litWord)
  | .pf k a b => some (mkF 0x62 b.isLit k.code 0 a.code b.code b.litWord)
  | .atadd ord d a b => some (mkF 0x64 b.isLit ord.code d.code a.code b.code b.litWord)
  | .atmin ord d a b => some (mkF 0x65 b.isLit ord.code d.code a.code b.code b.litWord)
  | .atmax ord d a b => some (mkF 0x66 b.isLit ord.code d.code a.code b.code b.litWord)
  | .atand ord d a b => some (mkF 0x67 b.isLit ord.code d.code a.code b.code b.litWord)
  | .ator ord d a b => some (mkF 0x68 b.isLit ord.code d.code a.code b.code b.litWord)
  | .atxor ord d a b => some (mkF 0x69 b.isLit ord.code d.code a.code b.code b.litWord)
  | .atxch ord d a b => some (mkF 0x6A b.isLit ord.code d.code a.code b.code b.litWord)
  | .atcas ord d a b => some (mkF 0x6B b.isLit ord.code d.code a.code b.code b.litWord)
  | .atinc ord d a b => some (mkF 0x6C b.isLit ord.code d.code a.code b.code b.litWord)
  | .rdadd rel d a b => some (mkF 0x6D b.isLit (2 * rel.toNat) d.code a.code b.code b.litWord)
  | .rdmin rel d a b => some (mkF 0x6E b.isLit (2 * rel.toNat) d.code a.code b.code b.litWord)
  | .rdmax rel d a b => some (mkF 0x6F b.isLit (2 * rel.toNat) d.code a.code b.code b.litWord)
  | .rdand rel d a b => some (mkF 0x70 b.isLit (2 * rel.toNat) d.code a.code b.code b.litWord)
  | .rdor rel d a b => some (mkF 0x71 b.isLit (2 * rel.toNat) d.code a.code b.code b.litWord)
  | .rdxor rel d a b => some (mkF 0x72 b.isLit (2 * rel.toNat) d.code a.code b.code b.litWord)
  | .lock d a b => some (mkF 0x73 b.isLit 0 d.code a.code b.code b.litWord)
  | .trylk d a => some (mkF 0x74 false 0 d.code a.code 0 none)
  | .unlock d a => some (mkF 0x75 false 0 d.code a.code 0 none)
  | .lkqry d a => some (mkF 0x76 false 0 d.code a.code 0 none)
  | .phhdr cur b => some (mkF 0x77 b.isLit cur.toNat 0 0 b.code b.litWord)
  | .phend => some (mkF 0x78 false 0 0 0 0 none)
  | .phwait d a pb => some (mkF 0x79 false 0 d.code a.code pb.val none)
  | .phrd fld d => some (mkF 0x7A false fld.code d.code 0 0 none)
  | .fence k sc => some (mkF 0x7B false k.code 0 sc.code 0 none)
  | .bar => some (mkF 0x7C false 0 0 0 0 none)
  | .gbar => some (mkF 0x7D false 0 0 0 0 none)
  | .waitp path b => some (mkF 0x7E b.isLit 0 0 path.val b.code b.litWord)
  | .waitct a b => some (mkF 0x7F b.isLit 0 0 a.code b.code b.litWord)
  | .ctset rel a b => some (mkF 0x80 b.isLit (3 * rel.toNat) 0 a.code b.code b.litWord)
  | .ctadd rel d a b => some (mkF 0x81 b.isLit (3 * rel.toNat) d.code a.code b.code b.litWord)
  | .ctrd d a => some (mkF 0x82 false 0 d.code a.code 0 none)
  | .bld fb sq d a b => some (mkF 0x88 false (2 * fb.toNat + sq.toNat) d.code a.code b.code none)
  | .mma fb sq d a b => some (mkF 0x89 false (2 * fb.toNat + sq.toNat) d.code a.code b.code none)
  | .mmas fb sq d a b => some (mkF 0x8A false (2 * fb.toNat + sq.toNat) d.code a.code b.code none)
  | .accz fb sq d => some (mkF 0x8B false (2 * fb.toNat + sq.toNat) d.code 0 0 none)
  | .accld fb sq d a b => some (mkF 0x8C b.isLit (2 * fb.toNat + sq.toNat) d.code a.code b.code b.litWord)
  | .accst fb sq d a b => some (mkF 0x8D b.isLit (2 * fb.toNat + sq.toNat) d.code a.code b.code b.litWord)
  | .accrd d a => some (mkF 0x8E false 0 d.code a.code 0 none)
  | .accwr d a => some (mkF 0x8F false 0 d.code a.code 0 none)
  | .spmld fb sq d a b => some (mkF 0x90 b.isLit (2 * fb.toNat + sq.toNat) d.code a.code b.code b.litWord)
  | .qnt fb sq d a b => some (mkF 0x91 b.isLit (2 * fb.toNat + sq.toNat) d.code a.code b.code b.litWord)
  | .dqnt fb sq d a b => some (mkF 0x92 b.isLit (2 * fb.toNat + sq.toNat) d.code a.code b.code b.litWord)
  | .mxqry d => some (mkF 0x93 false 0 d.code 0 0 none)
  | .cpsl fb sq d a b => some (mkF 0x98 b.isLit (2 * fb.toNat + sq.toNat) d.code a.code b.code b.litWord)
  | .hbind d a b => some (mkF 0x99 b.isLit 0 d.code a.code b.code b.litWord)
  | .hwait d a => some (mkF 0x9A false 0 d.code a.code 0 none)
  | .hrel d a => some (mkF 0x9B false 0 d.code a.code 0 none)
  | .hstat d a => some (mkF 0x9C false 0 d.code a.code 0 none)
  | .put fb sq d a b => some (mkF 0xA0 false (2 * fb.toNat + sq.toNat) d.code a.code b.code none)
  | .get fb sq d a b => some (mkF 0xA1 false (2 * fb.toNat + sq.toNat) d.code a.code b.code none)
  | .bulk fb sq d => some (mkF 0xA2 false (2 * fb.toNat + sq.toNat) d.code 0 0 none)
  | .send fb sq d a => some (mkF 0xA3 false (2 * fb.toNat + sq.toNat) d.code a.code 0 none)
  | .recv a => some (mkF 0xA4 false 0 0 a.code 0 none)
  | .fxqry d b => some (mkF 0xA5 b.isLit 0 d.code 0 b.code b.litWord)
  | .cjpost fb sq d => some (mkF 0xA8 false (2 * fb.toNat + sq.toNat) d.code 0 0 none)
  | .cjcancel d a => some (mkF 0xA9 false 0 d.code a.code 0 none)
  | .cjqry d a => some (mkF 0xAA false 0 d.code a.code 0 none)
  | .trap b => some (mkF 0xB0 b.isLit 0 0 0 b.code b.litWord)
  | .chkerr d b => some (mkF 0xB1 b.isLit 0 d.code 0 b.code b.litWord)
  | .bkpt b => some (mkF 0xB2 b.isLit 0 0 0 b.code b.litWord)
  | .eret => some (mkF 0xB3 false 0 0 0 0 none)
  | .sysrd d reg => some (mkF 0xB4 false 0 d.code reg.val 0 none)
  | .syswr reg b => some (mkF 0xB5 b.isLit 0 0 reg.val b.code b.litWord)
  | .taskrd d item => some (mkF 0xB6 false 0 d.code item.val 0 none)
  | .deviceReset => none
  | .notifyWrite _ _ => none
  | .slotMap _ _ => none
  | .slotUnmap _ => none
  | .recordFetch _ => none
  | .recordCheck _ => none
  | .recordRelease _ => none
  | .groupPlace _ => none
  | .gangPlace _ => none
  | .affinityWiden _ => none
  | .preempt _ => none
  | .teamEvict _ => none
  | .teamRestore _ => none
  | .teamRetire _ => none
  | .launchComplete _ => none
  | .watchdogExpire _ => none
  | .clockThrottle _ => none
  | .slotOwnerWrite _ _ => none
  | .ctxdescWrite _ _ => none
  | .xlinvPage _ _ => none
  | .xlinvContext _ _ => none
  | .xlinvAll _ => none
  | .xlinvDone => none
  | .translationWalk _ => none
  | .pageRequestWrite => none
  | .pgrdoneFilled _ => none
  | .pgrdoneTranslationFault _ => none
  | .pgrdoneProtectionFault _ => none
  | .memoryResponse _ _ _ => none
  | .holdLimitBounce _ => none
  | .parenthesisReissue _ => none
  | .backoffExpire _ => none
  | .homeLoad _ => none
  | .writeNotice _ => none
  | .sectorFlush _ _ => none
  | .homeSyncStore _ => none
  | .homeAtomic _ => none
  | .homeReduction _ => none
  | .recall _ _ => none
  | .writeUpdate _ _ => none
  | .updateSwitch _ => none
  | .missFill _ _ => none
  | .arrival _ _ _ => none
  | .phaseRaise _ _ => none
  | .phaseCommit _ => none
  | .commitBroadcast _ _ => none
  | .peerCommitMessage _ _ => none
  | .peerDiscardMessage _ _ => none
  | .lockTimeout _ => none
  | .absenceTimerExpire _ => none
  | .deadlockProbe _ => none
  | .engineOpStart _ => none
  | .engineOpComplete _ => none
  | .sparsityEntryArrive _ _ => none
  | .matrixQueryCommand _ => none
  | .matrixBadCommand _ => none
  | .copyLineLand _ => none
  | .copyFull _ _ => none
  | .handleDrainDone _ _ => none
  | .copyCancel _ => none
  | .copyProgress _ => none
  | .copyBadCommand _ => none
  | .conjunctionQueryCommand _ => none
  | .conjunctionBadCommand _ => none
  | .fabricQueryCommand _ => none
  | .fabricBadCommand _ => none
  | .packetForm _ => none
  | .fyoloInbound _ => none
  | .packetAck _ _ _ _ => none
  | .multicastForward _ => none
  | .flitReceive _ _ _ => none
  | .linkAck _ _ => none
  | .linkNak _ _ => none
  | .acktoExpire _ => none
  | .laneLoss _ _ => none
  | .retrainDone _ => none
  | .endToEndTimeout _ _ => none
  | .fyselfWrite _ => none
  | .fyrtinvWrite _ => none
  | .conjunctionRoundIssue _ => none
  | .conjunctionRoundComplete _ _ _ => none
  | .callReplyWrite _ _ => none
  | .faultRecordDrain _ => none
  | .teamRestart _ => none
  | .mxresetWrite _ => none
  | .matrixResetError _ => none
  | .matrixResetDone _ => none
  | .ctxResume _ => none
  | .ctxDestroy _ => none
  | .vfswitchWrite _ => none
  | .switchUnitCommit _ => none
  | .funcPreempt _ => none
  | .funcRestore _ => none
  | .ckOpen _ => none
  | .ckRollback _ => none
  | .ckClose _ => none
  | .svcDrain _ _ => none
  | .svcReturn _ _ => none
  | .svcRepair _ _ => none
  | .svcUpdate _ _ => none
  | .unitEmpty _ _ => none
  | .unitReady _ _ => none
  | .scrubLine _ _ => none
  | .resync _ => none
  | .spdmGetVersion => none
  | .spdmGetCapabilities => none
  | .spdmNegotiateAlgorithms => none
  | .spdmGetDigests => none
  | .spdmGetCertificate => none
  | .spdmChallenge _ => none
  | .spdmGetMeasurements _ => none
  | .spdmUnsupported _ => none
  | .functionLevelReset _ => none
  | .hostCompletionError _ _ => none
  | .hostLinkDown _ => none
  | .mdLaunchMessage _ _ => none
  | .mdAck _ _ => none
  | .mdConfirm _ => none
  | .mdAckTimeout _ => none
  | .mdSelfAbortTimeout _ => none
  | .mdAbort _ => none
  | .mdRaised _ _ => none
  | .mdCommit _ => none
  | .mdApplied _ _ => none
  | .mdRelease _ => none
  | .registerWrite _ _ => none
  | .replayStoreReissue _ => none
  | .failedPathMarkExpire _ _ _ => none
  | .peerCommitAck _ _ => none
  | .throttleEnd _ => none
  | .hostLinkUp _ => none

/-- The word of the fields (R116). -/
def Fields.word (f : Fields) : Word :=
  BitVec.ofNat 32 (f.op * 2 ^ 24 + f.x.toNat * 2 ^ 23 + f.cm * 2 ^ 21 + f.d * 2 ^ 14 + f.a * 2 ^ 7 + f.b)

/-- The words of an instruction: its word and, where it carries one, its literal. Events have none. -/
def encode (i : Instr) : List Word :=
  match encodeFields i with
  | none => []
  | some f => f.word :: f.lit.toList

/-- A literal word after X = 1 and none otherwise: what a decoder needs beside the word. -/
def decodeWords : List Word → Except DecodeError Instr
  | [] => .error .short
  | [w] => decodeWord w none
  | w :: l :: _ => decodeWord w (some l)

/-- The words an instruction takes in its clause: one, and one more with X = 1. -/
def wordsOf (w : Word) : Nat := if bitsN w.toNat 23 23 == 1 then 2 else 1

end Sys2Proof
end

