-- ==== Sys2Proof/Machine/Maps.lean ====
section
/-! DEFINITION. Maps and memories as sorted lists of plain data, in one canonical form each: keys strictly rising, and no
entry equal to what an unlisted key reads as. -/

namespace Sys2Proof.Machine

/-- A finite map from numbers, keys strictly rising. -/
abbrev NMap (α : Type) := List (Nat × α)

/-- The entry of a key. -/
def NMap.look {α : Type} : NMap α → Nat → Option α
  | [], _ => none
  | (k, v) :: m, x => if k = x then some v else NMap.look m x

/-- The value of a key, d where the key is not listed. -/
def NMap.getD {α : Type} (m : NMap α) (x : Nat) (d : α) : α :=
  match NMap.look m x with
  | some v => v
  | none => d

/-- The map without a key. -/
def NMap.del {α : Type} : NMap α → Nat → NMap α
  | [], _ => []
  | (k, v) :: m, x => if k = x then NMap.del m x else (k, v) :: NMap.del m x

/-- The map with a key set. -/
def NMap.put {α : Type} : NMap α → Nat → α → NMap α
  | [], x, w => [(x, w)]
  | (k, v) :: m, x, w => if k = x then (x, w) :: m else if x < k then (x, w) :: (k, v) :: m else (k, v) :: NMap.put m x w

/-- The map with a key set, unlisted where the value is the default. -/
def NMap.set {α : Type} [DecidableEq α] (d : α) (m : NMap α) (x : Nat) (w : α) : NMap α :=
  if w = d then NMap.del m x else NMap.put m x w

/-- Keys strictly rising, each above a bound. -/
def NMap.above {α : Type} : Nat → NMap α → Bool
  | _, [] => true
  | b, (k, _) :: m => decide (b ≤ k) && NMap.above (k + 1) m

/-- The canonical form of a map whose unlisted keys read as d. -/
def NMap.wf {α : Type} [DecidableEq α] (d : α) (m : NMap α) : Bool :=
  NMap.above 0 m && m.all (fun e => decide (e.2 ≠ d))

/-- A byte memory: (address, byte) pairs, addresses strictly rising, no entry equal to what an unlisted address reads
as. -/
abbrev Memory := List Host.Cell

/-- What an unlisted address reads as (DESIGN CHOICE, log 2): 0. -/
def Memory.blank : Byte := 0

/-- The byte at an address. -/
def Memory.read (m : Memory) (a : Nat) : Byte := NMap.getD m a Memory.blank

/-- The memory with one byte written. -/
def Memory.write (m : Memory) (a : Nat) (b : Byte) : Memory := NMap.set Memory.blank m a b

/-- The canonical form. -/
def Memory.wf (m : Memory) : Bool := NMap.wf Memory.blank m

/-- Bytes from an address upward. -/
def Memory.readN (m : Memory) (a n : Nat) : List Byte := (List.range n).map (fun i => Memory.read m (a + i))

/-- Bytes written from an address upward. -/
def Memory.writeN (m : Memory) : Nat → List Byte → Memory
  | _, [] => m
  | a, b :: bs => Memory.writeN (Memory.write m a b) (a + 1) bs

/-- Bytes as a number, the first lowest (R6). -/
def leNat : List Byte → Nat
  | [] => 0
  | b :: bs => b.toNat + 256 * leNat bs

/-- A number as n bytes, the lowest first (R6). -/
def leBytes : Nat → Nat → List Byte
  | 0, _ => []
  | n + 1, x => BitVec.ofNat 8 x :: leBytes n (x / 256)

/-- A set of numbers as a strictly rising list. -/
abbrev NSet := List Nat

/-- Membership. -/
def NSet.has (s : NSet) (x : Nat) : Bool := s.contains x

/-- The set with a number added. -/
def NSet.add : NSet → Nat → NSet
  | [], x => [x]
  | k :: s, x => if k = x then k :: s else if x < k then x :: k :: s else k :: NSet.add s x

/-- The set with a number removed. -/
def NSet.rem : NSet → Nat → NSet
  | [], _ => []
  | k :: s, x => if k = x then NSet.rem s x else k :: NSet.rem s x

/-- Insertion by a numeric key, before equal keys. -/
def insertKey {α : Type} (key : α → Nat) (x : α) : List α → List α
  | [] => [x]
  | y :: ys => if key x ≤ key y then x :: y :: ys else y :: insertKey key x ys

/-- A list in ascending order of a numeric key, equal keys in their order. -/
def sortKey {α : Type} (key : α → Nat) : List α → List α
  | [] => []
  | x :: xs => insertKey key x (sortKey key xs)

/-- Storage with poison marks (R350): bytes, and the 8-byte granules that are marked. -/
structure Store where
  bytes  : Memory
  poison : NSet
  deriving DecidableEq, Repr

/-- Empty storage. -/
def Store.empty : Store := { bytes := [], poison := [] }

/-- Bytes of a storage. -/
def Store.read (s : Store) (a n : Nat) : List Byte := Memory.readN s.bytes a n

/-- The granules that n bytes at a touch. -/
def granules (a n : Nat) : List Nat :=
  if n = 0 then [] else (List.range ((a + n - 1) / 8 - a / 8 + 1)).map (fun i => a / 8 + i)

/-- Whether a marked granule holds one of the bytes. -/
def Store.tagged (s : Store) (a n : Nat) : Bool := (granules a n).any (fun g => NSet.has s.poison g)

/-- A write (R350): tagged data marks the granules it touches, untagged data clears those it covers whole. -/
def Store.write (s : Store) (a : Nat) (data : List Byte) (tag : Bool) : Store :=
  let n := data.length
  let marks := (granules a n).foldl (fun p g =>
    if tag then NSet.add p g else if a ≤ 8 * g && 8 * g + 8 ≤ a + n then NSet.rem p g else p) s.poison
  { bytes := Memory.writeN s.bytes a data, poison := marks }

/-- Bytes of a storage with their marks. -/
def Store.readM (s : Store) (a n : Nat) : List (Byte × Bool) := (List.range n).map (fun i => (s.bytes.read (a + i), s.tagged (a + i) 1))

/-- The bytes of marked data, and whether one is marked. -/
def bytesOf (d : List (Byte × Bool)) : List Byte := d.map Prod.fst
def anyMarked (d : List (Byte × Bool)) : Bool := d.any Prod.snd

/-- Data with one mark for all of it. -/
def markAll (t : Bool) (bs : List Byte) : List (Byte × Bool) := bs.map (fun b => (b, t))

/-- Consecutive data as runs of one mark: offset, bytes, mark. -/
def markRuns (a : Nat) : List (Byte × Bool) → List (Nat × List Byte × Bool)
  | [] => []
  | (b, m) :: rest =>
    match markRuns (a + 1) rest with
    | [] => [(a, [b], m)]
    | (a', bs, m') :: rs => if m = m' then (a, b :: bs, m) :: rs else (a, [b], m) :: (a', bs, m') :: rs

/-- The 4-byte words, by address, in which two memories may differ after a write of n bytes at a, with both values. -/
def changedWords (old new : Memory) (a n : Nat) : List (Nat × Word × Word) :=
  let word (m : Memory) (x : Nat) : Word := BitVec.ofNat 32 (leNat (Memory.readN m x 4))
  if n = 0 then [] else
  ((List.range ((a + n - 1) / 4 - a / 4 + 1)).map (fun i => (a / 4 + i) * 4)).filterMap (fun x =>
    if word old x == word new x then none else some (x, word old x, word new x))

/-- A dword of a storage (R6). -/
def Store.dword (s : Store) (a : Nat) : DWord := BitVec.ofNat 64 (leNat (s.read a 8))

/-- A storage with a dword written. -/
def Store.setDword (s : Store) (a : Nat) (x : DWord) : Store := s.write a (leBytes 8 x.toNat) false

end Sys2Proof.Machine
end

