-- ==== Sys2Proof/Machine/State.lean ====
section
/-! DEFINITION. The state of one Barder: everything the spec gives it, as plain data (INVENTORY.md, "State", lists each
piece with its rule and its reset value). -/

namespace Sys2Proof.Machine

/-! ### Teams -/

/-- The states of a fragment entry (R30). -/
inductive FragSt where
  | ready | parked | blocked | serial
  deriving DecidableEq, Repr

/-- The clause a fragment is in (R60, R111): header address, body length, set flags, the mood as read when the header
issued (R128), the yield bit. -/
structure Clause where
  hdr   : Nat
  len   : Nat
  setA  : Nat
  setB  : Nat
  mood  : Word
  yield : Bool
  deriving DecidableEq, Repr

/-- What a blocked fragment has already done about its wait: nothing, the wait is registered, or it is over and the
instruction completes with a value when it issues again (R43, R187, R197, R201, R203, R231). page and fetch wait for page
service of an address, at an instruction with its lane and at a fetch (R348); pending: it waits on a register that a request of its team
still has to write, or behind such a request (R34, R173). -/
inductive Latch where
  | none
  | pending
  | page (va lane : Nat)
  | fetch (va : Nat)
  | waiting (key : Nat)
  | counter (addr thresh : Nat)
  | done (value : Nat)
  deriving DecidableEq, Repr

/-- A fragment (R30). join 15 is none; sig is its signature register (R143). -/
structure Fragment where
  st      : FragSt
  pc      : Nat
  mask    : LaneMask
  join    : Nat
  age     : Nat
  sig     : Word
  clause  : Option Clause
  latch   : Latch
  yielded : Bool
  starve  : Nat
  deriving DecidableEq, Repr

/-- A join record (R30). -/
structure Join where
  addr     : Nat
  expected : Nat
  arrived  : Nat
  outer    : Nat
  deriving DecidableEq, Repr

/-- A serial record (R35), with the fragment entry it belongs to and the join that was current when it was pushed: a join opened later
lies inside it. -/
structure SerialRec where
  entry  : Nat
  join   : Nat
  lanes  : LaneMask
  addr   : Nat
  reconv : Nat
  side   : Bool
  deriving DecidableEq, Repr

/-- Running states of a team (R43, R253, R327); halted is parked in a BKPT (R255). -/
inductive TeamSt where
  | running | parked | halted | stopped | ended
  deriving DecidableEq, Repr

/-- A queue port side (R120): entries, oldest first, and a pending OVF mark. -/
structure Port where
  q   : List DWord
  ovf : Bool
  deriving DecidableEq, Repr

/-- A resident, evicted or Stopped team. phMark: requests below this number were issued before its last PHEND. -/
structure Team where
  id      : Nat
  launch  : Nat
  group   : Nat
  num     : Nat
  core    : Nat
  quarter : Nat
  slot    : Nat
  n       : Nat
  k       : Nat
  tg      : Nat
  evicted : Bool
  status  : TeamSt
  frags   : NMap Fragment
  joins   : NMap Join
  serial  : List SerialRec
  vec     : NMap Word
  scal    : NMap DWord
  pred    : NMap LaneMask
  moods   : NMap Word
  flags   : NMap Nat
  gen     : NMap Word
  vtag    : NSet
  stag    : NSet
  ports   : NMap Port
  paths   : NMap (List Nat)
  ovflow  : List Nat
  priv    : Store
  initMask : LaneMask
  real    : LaneMask
  record  : Option Nat
  lockOut : Bool
  irrev   : Nat
  restarts : Nat
  retries : Nat
  rpc     : Nat
  restartMode : Bool
  restartPending : Bool
  restartMask : LaneMask
  lastPhase : Nat
  phMark  : Nat
  phaseDone : Bool
  early   : Bool
  acq     : Nat
  savedReply : Option Nat
  victim  : Bool
  deriving DecidableEq, Repr

/-! ### Groups and launches -/

/-- Handle states (R230). -/
inductive HandleSt where
  | free | filling | full | draining
  deriving DecidableEq, Repr

/-- A located byte (R67-R73, R77). space: 0 local HBM by physical address; 1 core scratchpad and 2 member share of group y
of launch x; 3 chip scratchpad; 4 counter storage; 5 host; 6 lane-private part of team x; 7 a peer, device x;
8 multicast group x. -/
structure Loc where
  space : Nat
  x     : Nat
  y     : Nat
  addr  : Nat
  deriving DecidableEq, Repr

/-- A run of located bytes. -/
structure Seg where
  loc : Loc
  len : Nat
  deriving DecidableEq, Repr

/-! ### Pairs -/

/-- A B buffer (R210, R220, R227): its tag fields and contents. -/
structure BBuf where
  valid  : Bool
  double : Bool
  bctl   : Nat
  cols   : Nat
  depth  : Nat
  elems  : NMap Nat
  scales : NMap Nat
  tags   : NSet
  deriving DecidableEq, Repr

/-- Bytes of one line that an engine operation lands together (R393), by address, each with its poison mark. -/
structure Landing where
  loc   : Loc
  bytes : NMap (Byte × Bool)
  deriving DecidableEq, Repr

/-- A submitted engine operation (R206-R232): what it was issued with, the resources it reads and writes (R212), whether it
has started, and from its reading of memory on, the lines that have still to land; gens are the generators it draws from
(R225), spm the sparsity entries popped so far (R221), tag the phase current at issue. since: from when its next access waits; held: the team in
whose Parenthesis that access is, and since when (R285). -/
structure EngineOp where
  id     : Nat
  op     : Nat
  team   : Nat
  entry  : Nat
  pc     : Nat
  group  : Nat
  pair   : Nat
  flag   : Nat
  sq     : Bool
  d      : DWord
  a      : DWord
  b      : DWord
  recd   : List Byte
  srcs   : List Seg
  dsts   : List Seg
  ty     : Nat
  mood   : Word
  lane   : Nat
  inst   : Nat
  rd     : List Nat
  wr     : List Nat
  started : Bool
  loaded : Bool
  outs   : List Landing
  gens   : NMap Word
  spm    : List (List Byte)
  tag    : Nat
  since  : Nat
  held   : Option (Nat × Nat)
  deriving DecidableEq, Repr

/-- A core pair's engines (R210-R212). -/
structure PairSt where
  tile     : NMap Word
  tileTag  : NSet
  rowGen   : NMap Word
  bufs     : NMap BBuf
  side     : Store
  spq      : List (List Byte)
  tileOwner : NMap Nat
  bufOwner : NMap Nat
  sideOwner : Option Nat
  spqOwner : Option Nat
  ops      : List EngineOp
  mmaCount : Nat
  resetAt  : Option Nat
  resetBy  : Bool
  deriving DecidableEq, Repr

/-! ### Handles and groups -/

/-- A slice recorded in a handle (R229), its source and destination as probed at CPSL. -/
structure Slice where
  team  : Nat
  off   : Nat
  len   : Nat
  src   : List Seg
  dst   : List Seg
  flag  : Nat
  sq    : Bool
  inst  : Nat
  deriving DecidableEq, Repr

/-- A copy handle (R228-R232). release and mark: the releasing team and the serial number its HREL issued at. -/
structure Handle where
  st      : HandleSt
  bound   : Bool
  kind    : Nat
  base    : Nat
  len     : Nat
  arr     : Bool
  aborted : Bool
  running : Bool
  slices  : List Slice
  bytes   : Nat
  release : Nat
  mark    : Nat
  pending : List (Nat × DWord)
  deriving DecidableEq, Repr

/-- A resident group: its scratchpad allocation and member share (R71), its handles. saved: evicted whole (R62), kept then holds its
matrix resources (R211). -/
structure Group where
  launch  : Nat
  num     : Nat
  core    : Nat
  off     : Nat
  len     : Nat
  scratch : Store
  shareLen : Nat
  share   : Store
  handles : NMap Handle
  endedTeams : NSet
  lost    : Bool
  saved   : Bool
  kept    : PairSt
  deriving DecidableEq, Repr

/-- A phase header (R191). -/
structure PhaseHdr where
  late    : Bool
  overrun : Bool
  phase   : Nat
  nextexp : Int
  expect  : Int
  deriving DecidableEq, Repr

/-- The states of a core for a launch (R192). -/
inductive PhaseSt where
  | isOpen | flushing | raised
  deriving DecidableEq, Repr

/-- A core's phase header and state for one launch. -/
structure CorePhase where
  hdr : PhaseHdr
  st  : PhaseSt
  deriving DecidableEq, Repr

/-- A launch that spans devices (R299, R380-R382): whether this device initiates it, the members that have acknowledged, raised and
applied, whether it has been confirmed, since when, whether this device has raised, and whether its commit waits for the release. -/
structure MdState where
  initiator : Bool
  members   : List Nat
  acked     : NSet
  raised    : NSet
  applied   : NSet
  confirmed : Bool
  since     : Nat
  sentRaised : Bool
  held      : Bool
  deriving DecidableEq, Repr

/-- A launch in progress. icache: words written since its release, by their place, with the values they have held in order, the first as it
stood then, each marked where its fetches may see it: the first, and those that the launch itself wrote (R84, R114). landed: engine and fabric bytes landed (R376). queue: its queue's descriptor; level: its queue's PRIO
(R64); peers: the peer list of its channel on each die (R297); waited: how far
its next group's candidates have widened, since waitSince (R57); block: the first core of the block its gang reserves (R58); dies: those
that a commit's broadcast has still to reach (R281); dead: aborted or destroyed, it ends without DONECT (R341, R382). -/
structure Launch where
  id      : Nat
  slot    : Nat
  ctx     : Nat
  func    : Nat
  level   : Nat
  record  : List Byte
  next    : Nat
  ended   : Nat
  phase   : Nat
  chan    : NMap Nat
  heads   : NMap CorePhase
  peers   : NMap (List Nat)
  peerWait : List Nat
  md      : Option MdState
  icache  : NMap (List (Word × Bool))
  reported : NSet
  waited  : Nat
  waitSince : Nat
  landed : Nat
  queue  : Nat
  block  : Option Nat
  dies   : List Nat
  dead   : Bool
  deriving DecidableEq, Repr

/-! ### Cores -/

/-- A cached translation (R79): context, first virtual address, size, leaf entry and the entry's local physical
address. -/
structure Tlb where
  ctx   : Nat
  va    : Nat
  size  : Nat
  leaf  : DWord
  entry : Nat
  deriving DecidableEq, Repr

/-- A core. clean: L1 sectors held clean; ro: read-only copies of sectors of sync pages (R282); gang: the launch and gang it is reserved to (R58); watch: watchdog count per
context (R65); holder: the fragment that keeps each quarter, in its clause (R60); busy: until when the word last issued holds each
quarter's datapath (R28). -/
structure CoreSt where
  carve     : Nat
  throttled : Bool
  fifos     : NMap (List DWord)
  tlb       : List Tlb
  clean     : NSet
  ro        : NSet
  gang      : Option (Nat × Nat)
  waiters   : List Nat
  watch     : NMap Nat
  holder    : NMap (Nat × Nat)
  busy      : NMap Nat
  deriving DecidableEq, Repr

/-! ### The front end and contexts -/

/-- The states of a hardware slot (R50). -/
inductive SlotSt where
  | free | idle | fetch | held | dispatch | unmapping | stopped
  deriving DecidableEq, Repr

/-- A hardware slot (R50, R64). desc is the descriptor read at the map; hold: the dependences of the record held have been met (R52);
prev: the launch of the queue's previous record, for ORDERED (R53); mdMsg: launch messages of an initiator that have arrived for records still to be released (R299). -/
structure Slot where
  st     : SlotSt
  map    : Nat
  desc   : List Byte
  readix : Nat
  record : List Byte
  launch : Nat
  owner  : Nat
  prev   : Nat
  hold   : Bool
  mdMsg  : Nat
  deriving DecidableEq, Repr

/-- A page request (R346): context, page, joined access bits, the bits of the last record written, its sequence
numbers, the time of the first miss. -/
structure PageReq where
  ctx     : Nat
  page    : Nat
  bits    : Nat
  written : Nat
  seqs    : List Nat
  since   : Nat
  deriving DecidableEq, Repr

/-- The front end: level floors (R64), the slot last placed from per die and level (R56), page service (R346), notifies that wait at
their lines (R47). -/
structure FrontSt where
  floor   : NMap Nat
  rr      : NMap Nat
  pages   : List PageReq
  answered : NSet
  pgrTail : Nat
  pgrHead : Nat
  pgrBase : DWord
  notifies : List (Nat × DWord)
  deriving DecidableEq, Repr

/-- Checkpoint interval of a context (R360-R362): its CKLOG fields and the logged lines, newest first. -/
structure Ckpt where
  offset : Nat
  size   : Nat
  en     : Bool
  isOpen : Bool
  overflowed : Bool
  full   : NSet
  log    : List (Nat × List Byte × List Nat)
  deriving DecidableEq, Repr

/-- A registered context (R74). buffer: fault records that wait for the ring, each with the team that its number answers, or 0 (R331, R332). -/
structure Ctx where
  num    : Nat
  addr   : Nat
  desc   : List Byte
  func   : Nat
  user   : NMap DWord
  dbg    : DWord
  cjRange : NMap DWord
  check  : DWord
  halted : Bool
  crBase : DWord
  crTail : Nat
  crHead : Nat
  crTag  : Nat
  buffer : List (Nat × List Byte)
  dropped : Nat
  ck     : Ckpt
  exhausted : NSet
  switching : Bool
  deriving DecidableEq, Repr

/-! ### Memory -/

/-- A pending byte (R263, R280): value, poison mark of its granule in the version (R350), order among plain stores, whether it is still dirty
in the writer's L1, whether that L1 holds it since its flush, whether another team's store overwrote it there while it was dirty (R278), and
the values that its group's teams may have to see, newest first, each with the mark of the fence or barrier that published it (R265). -/
structure PByte where
  val   : Byte
  tag   : Bool
  seq   : Nat
  inL1  : Bool
  kept  : Bool
  lost  : Bool
  pubs  : List (Nat × Byte × Bool)
  deriving DecidableEq, Repr

/-- A team's pending versions of a phase: the team with its launch, group and core, its bytes by local physical address, and the lines
whose version lies in the spill area (R280). They stay when the team has ended. -/
structure Pend where
  team   : Nat
  launch : Nat
  group  : Nat
  core   : Nat
  phase  : Nat
  bytes  : NMap PByte
  spilled : NSet
  deriving DecidableEq, Repr

/-- Pending versions of a peer's team on this device (R295, R297): the sending device, context and team slot, the launch and phase, the
task that a discard names (R328), the bytes, the lines spilled. -/
structure PeerPend where
  dev    : Nat
  ctx    : Nat
  slot   : Nat
  launch : Nat
  phase  : Nat
  task   : Nat
  bytes  : NMap PByte
  spilled : NSet
  deriving DecidableEq, Repr

/-- Partials of one sector on one core (R185): one operation and one element type, values by element address. -/
structure Partial where
  ctx    : Nat
  core   : Nat
  sector : Nat
  op     : Fin 6
  ty     : Nat
  vals   : NMap DWord
  tags   : NSet
  deriving DecidableEq, Repr

/-- A line lock (R188): the line, its holder, whether the holder is absent, the checkpoint, the locked copy, waiting
teams in order, handoffs, the absence timer, the order of acquisition. -/
structure LineLock where
  line    : Nat
  holder  : Nat
  absent  : Bool
  check   : Store
  copy    : Store
  queue   : List (Nat × Nat)
  handoffs : Nat
  timer   : Nat
  order   : Nat
  deriving DecidableEq, Repr

/-- A write-update of a sync page under way (R282): the request it completes, or the inbound one by device and number, its sectors, and the
holders of copies that have still to acknowledge: cores, and the front end as number 256 (R49). -/
structure Update where
  id      : Nat
  req     : Nat
  inb     : Option (Nat × Nat)
  sectors : NSet
  waiting : List Nat
  deriving DecidableEq, Repr

/-- Memory and its homes. hbm is the committed data of local HBM by local physical address (R77). posted: by host link, the posted writes
accepted at its egress, each with its context and address (R301). owned: by line, the engine operations that have claimed it, in order (R214).
xcopies: sectors that the slice of a line's index on the other die holds in S (R283). tags: by set, the lines whose committed data its L2 ways
hold (R276, R284). -/
structure MemSt where
  hbm     : Store
  chip    : Store
  ctr     : Store
  host    : Store
  posted  : NMap (List (Nat × Nat × List Byte))
  pend    : List Pend
  peerPend : List PeerPend
  parts   : List Partial
  locks   : List LineLock
  owned   : NMap (List Nat)
  updates : List Update
  xcopies : NSet
  tags    : NMap (List Nat)
  seq     : Nat
  deriving DecidableEq, Repr

/-! ### Requests -/

/-- What a memory request does at its performer. -/
inductive ReqOp where
  | load (cls : LdClass) (size : Nat) (dst : Reg)
  | store (cls : StClass) (size : Nat)
  | atomic (op : Fin 9) (ty : Nat) (dst : Reg)
  | reduce (op : Fin 6) (ty : Nat)
  | lock (dst : Reg) (deadline : Nat) (hasDeadline : Bool) (tryOnly : Bool)
  deriving DecidableEq, Repr

/-- One lane's part of a request: the lane, its virtual address, the part's offset in the element and its length, data
or operands, whether the data is tagged. -/
structure LanePart where
  lane : Nat
  va   : Nat
  off  : Nat
  len  : Nat
  data : List Byte
  tag  : Bool
  deriving DecidableEq, Repr

/-- Where a request waits: in a queue of a class (R285), on a walk, in its team's Parenthesis with a cause (R286), on a
miss register, at the link to a peer or the host, at its issue behind an earlier one to its line at a peer (R296), on the network (R287), or performed
with its answer on the way back. -/
inductive Place where
  | queue (cls : Fin 6)
  | paren (cause : Nat)
  | miss
  | remote
  | lockWait
  | update
  | atIssue
  | net
  | answered
  deriving DecidableEq, Repr

/-- A packet that has left for another device and is not acknowledged (R239, R292, R374): its number, its offset and length in what it is a
packet of, the port and path it left by, when it left, its resends. -/
structure Packet where
  num     : Nat
  off     : Nat
  len     : Nat
  port    : Nat
  path    : Nat
  since   : Nat
  resends : Nat
  deriving DecidableEq, Repr

/-- A request of a team (R81), not yet returned or accepted. counted: a consumption of its instruction is recorded (R352). twins: lanes of the
same store, each with its virtual address and length, whose bytes in another half-line may be another name of bytes of this one (R29).
arrived: when it reached the ingress of its home; again: it is a reissued one (R283); via: its packet, once it has left for another device. -/
structure Req where
  id     : Nat
  inst   : Nat
  team   : Nat
  entry  : Nat
  pc     : Nat
  op     : ReqOp
  path   : Nat
  half   : Nat
  parts  : List LanePart
  signed : Bool
  ty     : Nat
  place  : Place
  since  : Nat
  pa     : Option Nat
  answer : List (List Byte × Bool)
  counted : Bool
  twins  : List (Nat × Nat × Nat)
  arrived : Nat
  again  : Bool
  via    : Option Packet
  deriving DecidableEq, Repr

/-! ### The network of the dies (R287-R289) -/

/-- The message classes, in the order in which an output serves them (R288). -/
inductive NetClass where
  | response | handoff | update | recall | trigger | request
  deriving DecidableEq, Repr

/-- What a packet carries (R288), by the numbers that name it: a team's request, its answer, its bounce; a recall or invalidation of a sector in a
core, and its acknowledgement; the new bytes of a write-update, their acknowledgement, their switch; a commit broadcast to a die; a locked line;
a round, a phase-tree join. -/
inductive NetLoad where
  | request (req : Nat)
  | answer (req : Nat)
  | bounce (req : Nat)
  | recall (core sector : Nat)
  | recalled (core sector : Nat)
  | update (upd core : Nat)
  | updated (upd core : Nat)
  | switch (upd core : Nat)
  | commit (launch die : Nat)
  | handoff (line : Nat)
  | round (id : Nat)
  | join (launch core : Nat)
  deriving DecidableEq, Repr

/-- A packet: a head flit and 0 to 4 data flits (R289), its destination, the stop it stands at or is on the way to, both as die × 64 + stop, and from
when it waits there. link: how it came there, 0 from an agent of the stop, 1 to 4 along x and y, 5 over the bridge; vc: the channel whose buffer it
fills, 4 the escape channel; crossed: it has crossed the dateline of its ring. -/
structure NetPkt where
  id      : Nat
  load    : NetLoad
  flits   : Nat
  dst     : Nat
  stop    : Nat
  ready   : Nat
  link    : Nat
  vc      : Nat
  crossed : Bool
  deriving DecidableEq, Repr

/-- The networks of both dies. busy: until when an output's link moves flits; served: the channel last served of a class at an output. -/
structure NetSt where
  pkts   : List NetPkt
  count  : Nat
  busy   : NMap Nat
  served : NMap Nat
  deriving DecidableEq, Repr

/-! ### The Conjunction Engine and the fabric -/

/-- The states of a Conjunction slot (R249). -/
inductive CjSt where
  | free | armed | firing | closing
  deriving DecidableEq, Repr

/-- A Conjunction slot: its descriptor and its held translations, rounds issued and in flight, the current threshold, the phase
number at its posting; ends: it issues no further round. -/
structure CjSlot where
  st      : CjSt
  ctx     : Nat
  desc    : List DWord
  srcs    : List Seg
  dsts    : List Seg
  issued  : Nat
  flight  : Nat
  thresh  : Nat
  phase   : Nat
  ends    : Bool
  deriving DecidableEq, Repr

/-- A round in flight (R247, R249): the slot's key and descriptor, its number, the context, the phase tag. ready: its source has
been read into data; off: bytes landed here, or formed into packets for another device; old: an atomic's old value that waits for its place; far: it
goes to another device; aside: it is in the replay store (R250); packets: those that have left. -/
structure CjRound where
  id     : Nat
  key    : Nat
  num    : Nat
  ctx    : Nat
  desc   : List DWord
  srcs   : List Seg
  dsts   : List Seg
  tag    : Nat
  ready  : Bool
  data   : Marked
  off    : Nat
  old    : Option Marked
  status : Nat
  counted : Bool
  far    : Bool
  aside  : Bool
  since  : Nat
  packets : List Packet
  deriving DecidableEq, Repr

/-- The Conjunction Engines: slots by die × 8192 + number, the issue queues of fired slots, rounds in flight. -/
structure ConjSt where
  slots  : NMap CjSlot
  queue  : NMap (List Nat)
  rounds : List CjRound
  deriving DecidableEq, Repr

/-- An outstanding fabric transfer (R234-R244). kind: 0 PUT, 1 GET, 2 BULK, 3 SEND. srcs and dsts hold its translations
(R237); dev is the destination device; formed the bytes formed into packets; stalled the cycle from which its next packet waits
for a pinned port that is not UP (R388); data the message of a SEND, or an answer that waits for its line. -/
structure Transfer where
  id     : Nat
  kind   : Nat
  team   : Nat
  ctx    : Nat
  launch : Nat
  core   : Nat
  slot   : Nat
  dev    : Nat
  src    : Nat
  dst    : Nat
  len    : Nat
  srcs   : List Seg
  dsts   : List Seg
  lctr   : Nat
  rctr   : Nat
  pd     : DWord
  pin    : Option Nat
  flag   : Nat
  sq     : Bool
  inst   : Nat
  formed : Nat
  packets : List Packet
  status : Nat
  stalled : Option Nat
  data   : Marked
  counted : Bool
  deriving DecidableEq, Repr

/-- A port's link layer (R371, R373). out: for each packet that has passed into the port and still has flits to leave, their number, the first
one's first (R388); since: when it last sent, was acknowledged, or began to retrain. -/
structure PortSt where
  up       : Bool
  degraded : Bool
  retrain  : Bool
  half     : Bool
  laneOk   : Nat
  nextSeq  : Nat
  out      : List Nat
  unacked  : List Nat
  recvSeq  : Nat
  nakOut   : Bool
  replays  : Nat
  since    : Nat
  deriving DecidableEq, Repr

/-- A multicast request at its root (R298): the members it is still to be forwarded to, and the worst status so far. -/
structure Mcast where
  id     : Nat
  group  : Nat
  req    : InboundReq
  left   : List Nat
  status : Nat
  deriving DecidableEq, Repr

/-- The Fyolo interface. waiting are inbound requests that wait at their lines; routes are the cached entries by port and device; scores and marks are keyed by port, device and
path; discards are the discard messages to peers that have still to be sent: device, launch, task (R328). -/
structure FabSt where
  self    : Nat
  opened  : Bool
  ports   : NMap PortSt
  transfers : List Transfer
  routes  : NMap Nat
  scores  : NMap Nat
  marks   : NMap Nat
  performed : List (Nat × Nat)
  waiting : List InboundReq
  mcast   : List Mcast
  discards : List (Nat × Nat × Nat)
  deriving DecidableEq, Repr

/-! ### Management -/

/-- States of a service unit (R313, R314). -/
inductive UnitSt where
  | inService | draining | out | returning
  deriving DecidableEq, Repr

/-- A function's switch state (R342): its cursor (ACTIVE, CTX, UNITS), and the units of an interrupted switch that were still to commit. -/
structure FuncSt where
  switching : Bool
  preempted : Bool
  ctx       : Nat
  units     : Nat
  active    : Bool
  left      : Nat
  deriving DecidableEq, Repr

/-- An invalidation of translations under way (R80): its scope, context, whether global entries stay, the page, and the first and last 4 KiB part of
the pages that held it in a cache. -/
structure Xlinv where
  scope : Nat
  ctx   : Nat
  keepG : Bool
  page  : Nat
  first : Nat
  last  : Nat
  deriving DecidableEq, Repr

/-- Management registers stored as written, and management state. ckCtl is CKCTL's OP, RESULT and CTX (R360), svcLast and svcResult the unit
of the last service command and its RESULT (R313), badChan the HBM channels left Out after a failed repair (R386), xlinvCtl the fields last written to XLINVCTL (R80),
mxPair the PAIR last written to MXRESET (R338), svcCtl, ctxCtl, funcPre and mbCmd the fields below GO or BUSY last taken by SVCCTL (R313), CTXCTL
(R341), FUNCPRE (R342) and MBCMD (R385). -/
structure MgmtSt where
  regs     : NMap DWord
  errTail  : NMap Nat
  errCnt   : NMap Nat
  errors   : NMap Nat
  vectors  : List (Nat × Nat)
  func     : NMap FuncSt
  xlinv    : Option Xlinv
  xlinvCtl : DWord
  mxPair   : Nat
  ckCtl    : DWord
  svcLast  : Nat
  svcResult : Nat
  svcCtl   : DWord
  ctxCtl   : DWord
  funcPre  : DWord
  mbCmd    : DWord
  badChan  : NSet
  deriving DecidableEq, Repr

/-- A firmware image or configuration record in the flash (R305, R309): its bytes. -/
abbrev Image := List Byte

/-- Boot, measurements and attestation (R303-R310). flash: images that an update names by their address (R314); identity: the private half of
the device identity key; aliasSeed: the seed of the alias key, once derived (R307); spdm and spdmPeer: the responses left in the mailbox and sent to
Fyolo peers by device (R308). -/
structure BootSt where
  stage   : Nat
  failed  : Option Nat
  meas    : NMap (BitVec 512)
  imagesA : NMap Image
  imagesB : NMap Image
  records : List Image
  flash   : NMap Image
  identity : List Byte
  aliasSeed : Option (BitVec 512)
  applied : NMap DWord
  minSvn  : NMap Nat
  idReadable : Bool
  spdm    : Option (List Byte)
  spdmPeer : NMap (List Byte)
  deriving DecidableEq, Repr

/-- Which side moves next when no event is due (MODEL'S OWN, log 1). -/
inductive Turn where
  | cores | engines
  deriving DecidableEq, Repr

/-- The machine. xlats: the entries of each die's translation service (R79). -/
structure State where
  clk     : Nat
  free    : Nat
  turn    : Turn
  agenda  : List Instr
  delays  : List Bool
  upsets  : Nat
  nextId  : Nat
  issuing : Option (Nat × Nat)
  teams   : NMap Team
  groups  : List Group
  launches : NMap Launch
  cores   : NMap CoreSt
  xlats   : NMap (List Tlb)
  pairs   : NMap PairSt
  slots   : NMap Slot
  ctxs    : NMap Ctx
  mem     : MemSt
  reqs    : List Req
  net     : NetSt
  conj    : ConjSt
  fab     : FabSt
  front   : FrontSt
  mgmt    : MgmtSt
  svc     : NMap UnitSt
  boot    : BootSt
  hostUp  : NMap Bool
  deriving DecidableEq, Repr

/-- Model stops. -/
inductive Fault where
  /-- Raised by an access the model makes for an agent whose fault for it the spec does not name, to a physical address
  that R77 says does not exist. Safe: the model stops where the hardware would go on in a way the spec does not give. -/
  | noSuchAddress (pa : Nat)
  deriving DecidableEq, Repr

/-- Refusals. -/
inductive Refusal where
  /-- Raised by exec's own arm of an instruction that has no meaning yet. Safe: the model stops. -/
  | notModelled (mnemonic : String)
  deriving DecidableEq, Repr

/-! ### Reset -/

/-- A core after device reset (R59). -/
def CoreSt.reset : CoreSt :=
  { carve := 0, throttled := false, fifos := [], tlb := [], clean := [], ro := [], gang := none, waiters := [], watch := []
    holder := [], busy := [] }

/-- A pair after device reset (R338; tiles by log 3). -/
def PairSt.reset : PairSt :=
  { tile := [], tileTag := [], rowGen := [], bufs := [], side := Store.empty, spq := [], tileOwner := [], bufOwner := []
    sideOwner := none, spqOwner := none, ops := [], mmaCount := 0, resetAt := none, resetBy := false }

/-- A slot after device reset (R50, R64). -/
def Slot.reset : Slot :=
  { st := .free, map := 0, desc := [], readix := 0, record := [], launch := 0, owner := 0, prev := 0, hold := false, mdMsg := 0 }

/-- A port before training (R243, R303). -/
def PortSt.reset : PortSt :=
  { up := false, degraded := false, retrain := false, half := false, laneOk := 0, nextSeq := 0, out := [], unacked := [], recvSeq := 0
    nakOut := false, replays := 0, since := 0 }

/-- Memory with nothing listed. -/
def MemSt.reset : MemSt :=
  { hbm := Store.empty, chip := Store.empty, ctr := Store.empty, host := Store.empty, posted := [], pend := []
    peerPend := [], parts := [], locks := [], owned := [], updates := [], xcopies := [], tags := [], seq := 0 }

/-- The networks after device reset: empty. -/
def NetSt.reset : NetSt := { pkts := [], count := 0, busy := [], served := [] }

/-- The Conjunction Engines after device reset: every slot Free (R246). -/
def ConjSt.reset : ConjSt := { slots := [], queue := [], rounds := [] }

/-- The fabric after device reset (R290). -/
def FabSt.reset : FabSt :=
  { self := 0, opened := false, ports := [], transfers := [], routes := [], scores := [], marks := [], performed := [], waiting := []
    mcast := [], discards := [] }

/-- The front end after device reset (R50, R64, R346). -/
def FrontSt.reset : FrontSt :=
  { floor := [], rr := [], pages := [], answered := [], pgrTail := 0, pgrHead := 0, pgrBase := 0, notifies := [] }

/-- Management state after device reset. -/
def MgmtSt.reset : MgmtSt :=
  { regs := [], errTail := [], errCnt := [], errors := [], vectors := [], func := [], xlinv := none, xlinvCtl := 0, mxPair := 0, ckCtl := 0, svcLast := 0, svcResult := 0, svcCtl := 0, ctxCtl := 0
    funcPre := 0, mbCmd := 0, badChan := [] }

/-- Boot before its first step (R303): measurement registers zero (R304), the flash and the identity key's region empty (log 2). -/
def BootSt.reset : BootSt :=
  { stage := 0, failed := none, meas := [], imagesA := [], imagesB := [], records := [], flash := [], identity := [], aliasSeed := none
    applied := [], minSvn := [], idReadable := true, spdm := none, spdmPeer := [] }

/-- The machine right after device reset: nothing resident, boot not started, memory with nothing listed. -/
def State.reset : State :=
  { clk := 0, free := 0, turn := .cores, agenda := [], delays := [], upsets := 0, nextId := 1, issuing := none
    teams := [], groups := [], launches := [], cores := [], xlats := [], pairs := [], slots := [], ctxs := [], mem := MemSt.reset
    reqs := [], net := NetSt.reset, conj := ConjSt.reset, fab := FabSt.reset, front := FrontSt.reset, mgmt := MgmtSt.reset, svc := []
    boot := BootSt.reset, hostUp := [] }

end Sys2Proof.Machine
end

