-- ==== Sys2Proof/Machine/Access.lean ====
section
/-! DEFINITION. Reading and updating the parts of the state, fields of records, and places (R15, R18, R20, R26). -/

namespace Sys2Proof.Machine

/-- Bits [hi:lo] of bytes taken as one number, the first byte lowest (R6). -/
def recBits (r : List Byte) (hi lo : Nat) : Nat := bitsN (leNat r) hi lo

/-- Bits [hi:lo] of a dword (R133). -/
def dw (x : DWord) (hi lo : Nat) : Nat := bitsN x.toNat hi lo

/-- Sign extension of the low n bits (R133). -/
def sext (x n : Nat) : Int :=
  let y := x % 2 ^ n
  if 2 ^ (n - 1) ≤ y then (y : Int) - ((2 ^ n : Nat) : Int) else (y : Int)

/-- An integer modulo 2^n. -/
def wrapI (x : Int) (n : Nat) : Nat := (x % ((2 ^ n : Nat) : Int)).toNat

/-! ### Places -/

/-- Die of a core (R15). -/
def coreDie (c : Nat) : Nat := c / 128

/-- Pair of a core (R15). -/
def corePair (c : Nat) : Nat := c / 2

/-- Die of a pair (R15). -/
def pairDie (p : Nat) : Nat := p / 64

/-- Hops between two stops of one die (R20). -/
def hops (p q : Nat) : Nat :=
  let d (a b : Nat) : Nat := let x := if a < b then b - a else a - b; min x (8 - x)
  d (p % 8) (q % 8) + d (p / 8) (q / 8)

/-- The anchor stop of a stack (R18). -/
def anchorStop (s : Nat) : Nat :=
  match s % 6 with
  | 0 => 0 | 1 => 3 | 2 => 6 | 3 => 56 | 4 => 59
  | _ => 62

/-- Stack of a local physical address (R77). -/
def stackOf (pa : Nat) : Nat := pa / 2 ^ 37

/-- Whether a local physical address exists (R77). -/
def paExists (pa : Nat) : Bool := decide (stackOf pa < 12) && decide (pa % 2 ^ 37 < 96 * 10 ^ 9)

/-- The home slice of a line of local HBM (R275), before any slice is out of service. -/
def homeSlice (pa : Nat) : Nat :=
  let n := pa / 256
  64 * (stackOf pa / 6) + Nat.xor (Nat.xor (bitsN n 5 0) (bitsN n 11 6)) (bitsN n 17 12)

/-! ### Parts of the state -/

/-- A free choice among n alternatives. -/
def State.pick (s : State) (n : Nat) : Nat × State := (Config.choice s.free % n, { s with free := s.free + 1 })

/-- A fresh serial number. -/
def State.fresh (s : State) : Nat × State := (s.nextId, { s with nextId := s.nextId + 1 })

def State.team? (s : State) (t : Nat) : Option Team := NMap.look s.teams t
def State.setTeam (s : State) (t : Team) : State := { s with teams := NMap.put s.teams t.id t }
def State.updTeam (s : State) (t : Nat) (f : Team → Team) : State :=
  match s.team? t with
  | some x => { s with teams := NMap.put s.teams t (f x) }
  | none => s

def State.launch? (s : State) (l : Nat) : Option Launch := NMap.look s.launches l
def State.updLaunch (s : State) (l : Nat) (f : Launch → Launch) : State :=
  match s.launch? l with
  | some x => { s with launches := NMap.put s.launches l (f x) }
  | none => s

def State.ctx? (s : State) (c : Nat) : Option Ctx := NMap.look s.ctxs c
def State.updCtx (s : State) (c : Nat) (f : Ctx → Ctx) : State :=
  match s.ctx? c with
  | some x => { s with ctxs := NMap.put s.ctxs c (f x) }
  | none => s

def State.coreSt (s : State) (c : Nat) : CoreSt := NMap.getD s.cores c CoreSt.reset
def State.updCore (s : State) (c : Nat) (f : CoreSt → CoreSt) : State :=
  { s with cores := NMap.set CoreSt.reset s.cores c (f (s.coreSt c)) }

def State.pairSt (s : State) (p : Nat) : PairSt := NMap.getD s.pairs p PairSt.reset
def State.updPair (s : State) (p : Nat) (f : PairSt → PairSt) : State :=
  { s with pairs := NMap.set PairSt.reset s.pairs p (f (s.pairSt p)) }

def State.slot (s : State) (n : Nat) : Slot := NMap.getD s.slots n Slot.reset
def State.updSlot (s : State) (n : Nat) (f : Slot → Slot) : State :=
  { s with slots := NMap.set Slot.reset s.slots n (f (s.slot n)) }

def State.group? (s : State) (l g : Nat) : Option Group := s.groups.find? (fun x => x.launch == l && x.num == g)
def State.updGroup (s : State) (l g : Nat) (f : Group → Group) : State :=
  { s with groups := s.groups.map (fun x => if x.launch == l && x.num == g then f x else x) }

def State.port (s : State) (p : Nat) : PortSt := NMap.getD s.fab.ports p PortSt.reset
def State.updPort (s : State) (p : Nat) (f : PortSt → PortSt) : State :=
  { s with fab := { s.fab with ports := NMap.set PortSt.reset s.fab.ports p (f (s.port p)) } }

def State.updMem (s : State) (f : MemSt → MemSt) : State := { s with mem := f s.mem }
def State.updFront (s : State) (f : FrontSt → FrontSt) : State := { s with front := f s.front }
def State.updMgmt (s : State) (f : MgmtSt → MgmtSt) : State := { s with mgmt := f s.mgmt }
def State.updFab (s : State) (f : FabSt → FabSt) : State := { s with fab := f s.fab }
def State.updConj (s : State) (f : ConjSt → ConjSt) : State := { s with conj := f s.conj }
def State.updBoot (s : State) (f : BootSt → BootSt) : State := { s with boot := f s.boot }

/-- Teams as a list, in order of their numbers. -/
def State.teamList (s : State) : List Team := s.teams.map Prod.snd

/-- The context of a launch. -/
def State.ctxOf (s : State) (l : Nat) : Nat :=
  match s.launch? l with
  | some x => x.ctx
  | none => 0

/-! ### Launch records (R51) and context descriptors (R74) -/

def Launch.restart (l : Launch) : Nat := recBits l.record 440 384
def Launch.entry (l : Launch) : Nat := recBits l.record 56 0
def Launch.extent (l : Launch) : Nat := recBits l.record 171 128
def Launch.groups (l : Launch) : Nat := recBits l.record 127 96 + 1
def Launch.tg (l : Launch) : Nat := recBits l.record 81 80 + 1
def Launch.gang (l : Launch) : Nat := recBits l.record 79 76
def Launch.carve (l : Launch) : Nat := recBits l.record 75 73
def Launch.k (l : Launch) : Nat := 8 * (recBits l.record 72 69 + 1)
def Launch.n (l : Launch) : Nat := 32 * (recBits l.record 68 64 + 1)
def Launch.scratch (l : Launch) : Nat := recBits l.record 181 172 * 4096
def Launch.argLen (l : Launch) : Nat := recBits l.record 87 84 * 64
def Launch.argSrc (l : Launch) : Nat := recBits l.record 504 448
def Launch.phSrc (l : Launch) : Nat := recBits l.record 376 320
def Launch.affBase (l : Launch) : Nat := recBits l.record 248 192
def Launch.affStride (l : Launch) : Nat := recBits l.record 319 256
def Launch.compat (l : Launch) : Bool := recBits l.record 82 82 == 1
def Launch.ordered (l : Launch) : Bool := recBits l.record 83 83 == 1
def Launch.donect (l : Launch) : Nat := recBits l.record 591 576

/-- Lowest and highest counter of a die for a context (R74). -/
def Ctx.ctrLo (c : Ctx) (d : Nat) : Nat := if d == 0 then recBits c.desc 171 160 else recBits c.desc 203 192
def Ctx.ctrHi (c : Ctx) (d : Nat) : Nat := if d == 0 then recBits c.desc 187 176 else recBits c.desc 219 208
/-- Lowest and highest chip-scratchpad unit of a die; unit 511 does not exist (R72, R74). -/
def Ctx.cspLo (c : Ctx) (d : Nat) : Nat := if d == 0 then recBits c.desc 104 96 else recBits c.desc 136 128
def Ctx.cspHi (c : Ctx) (d : Nat) : Nat := min 510 (if d == 0 then recBits c.desc 120 112 else recBits c.desc 152 144)
def Ctx.tblRoot (c : Ctx) : Nat := recBits c.desc 56 12 * 4096
def Ctx.wdLimit (c : Ctx) : Nat := recBits c.desc 479 448
def Ctx.pasid (c : Ctx) : Nat := recBits c.desc 83 64
def Ctx.vspillSize (c : Ctx) : Nat := recBits c.desc 351 320 * 2 ^ 21

/-- The peer list of a launch's channel on a die (R297), and the devices of all of them. -/
def Launch.peersOn (l : Launch) (die : Nat) : List Nat := NMap.getD l.peers die []
def Launch.peerDevs (l : Launch) : NSet := l.peers.foldl (fun acc e => e.2.foldl NSet.add acc) ([] : NSet)

/-- The carve of a code, in KiB (R59): L1, local scratchpad, cluster export, lane-private. -/
def carveL1 (c : Nat) : Nat :=
  match c with
  | 0 => 1024 | 1 => 512 | 2 => 512 | 5 => 2048 | 7 => 768
  | _ => 256
def carveL (c : Nat) : Nat :=
  match c with
  | 0 => 1536 | 1 => 2048 | 2 => 1536 | 3 => 1536 | 4 => 2560 | 5 => 512 | 6 => 1024
  | _ => 1280
def carveX (c : Nat) : Nat :=
  match c with
  | 2 => 512 | 3 => 1024 | 6 => 1536 | 7 => 768
  | _ => 0
def carveP (c : Nat) : Nat :=
  match c with
  | 0 => 512 | 1 => 512 | 2 => 512 | 5 => 512
  | _ => 256

/-- A lane's slice of the lane-private carve: the largest power of two not above C / (16 × N), at most 4,096 (R69). -/
def privSlice (carve n : Nat) : Nat := min 4096 (2 ^ Nat.log2 (carveP carve * 1024 / (16 * n)))

/-! ### Lanes, registers and ports -/

/-- Lanes of a mask, ascending. -/
def lanesOf (m : LaneMask) (n : Nat) : List Nat := (List.range n).filter (fun l => m.getLsbD l)

/-- The mask of a list of lanes. -/
def maskOf (ls : List Nat) : LaneMask := ls.foldl (fun m l => m ||| (1#1024 <<< l)) 0

/-- A mask word of 32 lanes (R27). -/
def maskWord (m : LaneMask) (w : Nat) : Nat := m.toNat / 2 ^ (32 * w) % 2 ^ 32

/-- Passes of an instruction over a mask: its non-empty mask words (R28). -/
def passes (m : LaneMask) (n : Nat) : Nat := ((List.range (n / 32)).filter (fun w => maskWord m w != 0)).length

/-- The key of a vector register's lane. -/
def vkey (r l : Nat) : Nat := r * 1024 + l

def Team.v (t : Team) (r l : Nat) : Word := NMap.getD t.vec (vkey r l) 0
def Team.setV (t : Team) (r l : Nat) (x : Word) (tag : Bool) : Team :=
  { t with vec := NMap.set 0 t.vec (vkey r l) x
           vtag := if tag then NSet.add t.vtag (vkey r l) else NSet.rem t.vtag (vkey r l) }
def Team.s (t : Team) (r : Nat) : DWord := NMap.getD t.scal r 0
def Team.setS (t : Team) (r : Nat) (x : DWord) (tag : Bool) : Team :=
  { t with scal := NMap.set 0 t.scal r x
           stag := if tag then NSet.add t.stag r else NSet.rem t.stag r }
def Team.p (t : Team) (r l : Nat) : Bool := (NMap.getD t.pred r 0).getLsbD l
def Team.setP (t : Team) (r : Nat) (m : LaneMask) : Team := { t with pred := NMap.set 0 t.pred r m }
/-- Writes a predicate in the lanes of a mask alone. -/
def Team.writeP (t : Team) (r : Nat) (at' val : LaneMask) : Team :=
  t.setP r ((NMap.getD t.pred r 0 &&& ~~~at') ||| (val &&& at'))
def Team.mood (t : Team) (m : Nat) : Word := NMap.getD t.moods m 0
def Team.flag (t : Team) (f : Nat) : Nat := NMap.getD t.flags f 0
def Team.setFlag (t : Team) (f n : Nat) : Team := { t with flags := NMap.set 0 t.flags f n }
def Team.path (t : Team) (p : Nat) : List Nat := NMap.getD t.paths p []
def Team.setPath (t : Team) (p : Nat) (l : List Nat) : Team := { t with paths := NMap.set [] t.paths p l }
/-- Port sides: 0 to 5 are popped, 8 to 12 pushed. -/
def Team.port (t : Team) (p : Nat) : Port := NMap.getD t.ports p { q := [], ovf := false }
def Team.setPort (t : Team) (p : Nat) (x : Port) : Team :=
  { t with ports := NMap.set { q := [], ovf := false } t.ports p x }

/-- Global lane index (R26). -/
def Team.global (t : Team) (l : Nat) : Nat := (t.group * t.tg + t.num) * t.n + l

/-- Rounding generator of a lane; a generator never written holds its start value (R92). -/
def Team.g (t : Team) (l : Nat) : Word :=
  let x := t.global l
  let i := BitVec.ofNat 32 ((x + 1) * 0x9E3779B9)
  NMap.getD t.gen l (if i == 0 then 1 else i)
def Team.setG (t : Team) (l : Nat) (x : Word) : Team := { t with gen := NMap.put t.gen l x }

def Team.frag? (t : Team) (e : Nat) : Option Fragment := NMap.look t.frags e
def Team.setFrag (t : Team) (e : Nat) (f : Fragment) : Team := { t with frags := NMap.put t.frags e f }

/-- Depth of a port side (R120). -/
def portDepth (p : Nat) : Nat :=
  match p with
  | 4 => 16 | 12 => 16 | 5 => 4
  | _ => 8

/-- Pushes a status word to a reply side; a word that finds it full is dropped, and bit ovfBit is set in the next word
pushed (R215, R244, R251). -/
def Team.reply (t : Team) (p : Nat) (x : DWord) (ovfBit : Nat) : Team :=
  let pt := t.port p
  if portDepth p ≤ pt.q.length then t.setPort p { pt with ovf := true }
  else
    let x' := if pt.ovf then x ||| BitVec.ofNat 64 (2 ^ ovfBit) else x
    t.setPort p { q := pt.q ++ [x'], ovf := false }

/-! ### Phases and tasks -/

/-- The phase header and state of a core for a launch (R191, R192). -/
def Launch.head (l : Launch) (core : Nat) : CorePhase :=
  NMap.getD l.heads core
    { hdr := { late := false, overrun := false, phase := 0, nextexp := 0, expect := 0 }, st := .isOpen }

/-- The current phase number of a team (R125). -/
def State.phaseOf (s : State) (t : Team) : Nat :=
  match s.launch? t.launch with
  | some l => (l.head t.core).hdr.phase
  | none => 0

/-- Whether a team has passed its PHEND in a phase that has not been committed (R195). phaseDone stays until held stores are released
(R281). -/
def Team.passed (t : Team) (phase : Nat) : Bool := t.phaseDone && t.lastPhase == phase

/-- The task word: group × T + team above the phase number (R125). -/
def taskWord (t : Team) (phase : Nat) : DWord := BitVec.ofNat 64 ((t.group * t.tg + t.num) * 65536 + phase % 65536)

/-- Whether a service unit takes work (R314). -/
def State.inService (s : State) (kind unit : Nat) : Bool :=
  match NMap.look s.svc (kind * 65536 + unit) with
  | some u => u == .inService
  | none => true

/-- Whether a function has been pre-empted (R342). -/
def State.preempted (s : State) (f : Nat) : Bool := match NMap.look s.mgmt.func f with | some x => x.preempted | none => false

/-- Whether a context may place and restore nothing: halted, being switched off, or of a pre-empted function (R340, R342). -/
def State.ctxHeld (s : State) (c : Nat) : Bool :=
  match s.ctx? c with
  | some x => x.halted || x.switching || s.preempted x.func
  | none => true

/-- Level a launch runs at (R64): its queue's PRIO, or its function's floor where that is lower. -/
def State.levelOf (s : State) (l : Launch) : Nat := max l.level (NMap.getD s.front.floor l.func 0)

/-- The home slice of a line (R275): while its slice is out of service, the slice with its index on the other die. With both
out of service, for which the spec names no home, the line stays with its own (DESIGN CHOICE, log 10). -/
def State.homeOf (s : State) (pa : Nat) : Nat :=
  let h := homeSlice pa
  let o := (h + 64) % 128
  if !s.inService 1 h && s.inService 1 o then o else h

/-- Whether a host link is up, and whether one of the two is (R300, R379). -/
def State.linkUp (s : State) (link : Nat) : Bool := NMap.getD s.hostUp link true
def State.hostReach (s : State) : Bool := s.linkUp 0 || s.linkUp 1

/-- The link that a die's host traffic leaves by: its own, or the other one while its own is down or drained. -/
def State.hostLink (s : State) (die : Nat) : Nat :=
  let o := 1 - die
  if s.linkUp die && s.inService 4 die then die
  else if s.linkUp o && s.inService 4 o then o
  else if s.linkUp die then die
  else if s.linkUp o then o
  else die

/-- Whether a die's host traffic can leave by a link (R300, R379). -/
def State.hostOpen (s : State) (die : Nat) : Bool := s.linkUp (s.hostLink die)

/-! ### Words that launches may still see, and host memory -/

/-- Who writes: a context and a launch, the launch 0 where none is known; none for the machine's own agents and for other devices. -/
abbrev Writer := Option (Nat × Nat)

/-- A changed word joins the values that a launch may still see at its place (R84, R114). -/
def Launch.keepWord (by' : Writer) (l : Launch) (w : Nat × Word × Word) : Launch :=
  let own := match by' with | some (_, x) => x == l.id | none => false
  let h := NMap.getD l.icache w.1 [(w.2.1, true)]
  if h.contains (w.2.2, own) then l else { l with icache := NMap.put l.icache w.1 (h ++ [(w.2.2, own)]) }

/-- Changed words are kept for the launches in progress. -/
def State.keepWords (s : State) (by' : Writer) (ws : List (Nat × Word × Word)) : State :=
  if ws.isEmpty then s else { s with launches := s.launches.map (fun (k, l) => (k, ws.foldl (Launch.keepWord by') l)) }

/-- Place of a word of host memory among the kept words. -/
def hostWordKey : Nat := 2 ^ 64

/-- A write to host memory is performed. -/
def State.hostWrite (s : State) (by' : Writer) (a : Nat) (data : List Byte) : State :=
  let s1 := s.updMem (fun m => { m with host := m.host.write a data false })
  s1.keepWords by' ((changedWords s.mem.host.bytes s1.mem.host.bytes a data.length).map (fun w => (hostWordKey + w.1, w.2)))

/-! ### Management counts, vectors, call rings -/

/-- Management error counts. -/
def State.countError (s : State) (k : Nat) : State :=
  s.updMgmt (fun m => { m with errors := NMap.set 0 m.errors k (NMap.getD m.errors k 0 + 1) })

/-- An MSI-X vector of a function raised. -/
def State.raiseVector (s : State) (func v : Nat) : State :=
  s.updMgmt (fun m => { m with vectors := m.vectors ++ [(func, v)] })

/-- Whether a context's call ring is enabled (R252). -/
def Ctx.ringOn (c : Ctx) : Bool := let g := dw c.crBase 4 0; decide (4 ≤ g ∧ g ≤ 16)
/-- Whether it has a free record. -/
def Ctx.ringRoom (c : Ctx) : Bool := c.ringOn && decide (c.crTail < c.crHead + 2 ^ dw c.crBase 4 0)

/-- Writes a record as record TAIL of a context's ring and raises VECTOR (R252, R253). -/
def State.ringWrite (s : State) (c : Ctx) (r : List Byte) : State :=
  let a := dw c.crBase 59 12 * 4096 + 64 * (c.crTail % 2 ^ dw c.crBase 4 0)
  let s1 := s.hostWrite none a r
  let s2 := s1.updCtx c.num (fun c => { c with crTail := c.crTail + 1 })
  s2.raiseVector c.func (dw c.crBase 11 5)

/-- A fault or event record never waits (R331): to the ring, else to the buffer of 16, else dropped and counted. team: the team that an answer
to it is for (R332). -/
def State.record (s : State) (ctx : Nat) (r : List Byte) (team : Nat := 0) : State :=
  match s.ctx? ctx with
  | none => s.countError 0
  | some c =>
    if s.hostReach && c.ringRoom && c.buffer.isEmpty then s.ringWrite c r
    else if c.buffer.length < 16 then s.updCtx ctx (fun c => { c with buffer := c.buffer ++ [(team, r)] })
    else (s.updCtx ctx (fun c => { c with dropped := c.dropped + 1 })).countError 1

/-- A context event record (R394): KIND, bits [47:36], bits [31:0], DETAIL0, DETAIL1. -/
def eventRecord (ctx kind core slot low : Nat) (d0 d1 : Nat) : List Byte :=
  leBytes 8 (ctx * 2 ^ 48 + core * 2 ^ 40 + slot * 2 ^ 36 + kind * 2 ^ 32 + low % 2 ^ 32)
    ++ leBytes 16 0 ++ leBytes 8 d0 ++ leBytes 8 d1 ++ leBytes 24 0

/-- Raises a context event (R344, R394). -/
def State.event (s : State) (ctx kind core slot low d0 d1 : Nat) : State :=
  s.record ctx (eventRecord ctx kind core slot low d0 d1)

/-- A consumption of poison recorded in a context's check-interval register (R352, R256). -/
def State.consume (s : State) (ctx : Nat) (task : DWord) : State :=
  s.updCtx ctx (fun c =>
    let count := dw c.check 47 32
    let first := if count == 0 then dw task 31 0 else dw c.check 31 0
    let sat := dw c.check 62 62 == 1 || count == 65535
    let x := 2 ^ 63 + (if sat then 2 ^ 62 else 0) + min 65535 (count + 1) * 2 ^ 32 + first
    { c with check := BitVec.ofNat 64 x })

/-- A consumption by an instruction of a team. -/
def State.consumeBy (s : State) (t : Team) : State := s.consume (s.ctxOf t.launch) (taskWord t (s.phaseOf t))

/-- Boot.stage once the boot order has ended (R303). -/
def bootReady : Nat := 8

end Sys2Proof.Machine
end

