-- ==== Sys2Proof/Machine/Network.lean ====
section
/-! DEFINITION. The network of each die and the bridge (R287-R289, R312): routes, channels and their buffers, arbitration at the outputs. How long
a buffer is, and which of two free channels a packet takes, is the model's choice (log 61). -/

namespace Sys2Proof.Machine

/-! ### Packets -/

/-- The class of what a packet carries (R288). -/
def NetLoad.cls : NetLoad → NetClass
  | .request _ => .request
  | .answer _ => .response
  | .bounce _ => .response
  | .recall _ _ => .recall
  | .recalled _ _ => .response
  | .update _ _ => .update
  | .updated _ _ => .response
  | .switch _ _ => .update
  | .commit _ _ => .update
  | .handoff _ => .handoff
  | .round _ => .trigger
  | .join _ _ => .trigger

/-- Place of a class in the order of service (R288). -/
def NetClass.rank : NetClass → Nat
  | .response => 0 | .handoff => 1 | .update => 2 | .recall => 3 | .trigger => 4 | .request => 5

/-- Numbers of a load, as its head flit shows them. -/
def NetLoad.nums : NetLoad → List Nat
  | .request r => [0, r, 0]
  | .answer r => [1, r, 0]
  | .bounce r => [2, r, 0]
  | .recall c x => [3, c, x]
  | .recalled c x => [4, c, x]
  | .update u c => [5, u, c]
  | .updated u c => [6, u, c]
  | .switch u c => [7, u, c]
  | .commit l d => [8, l, d]
  | .handoff l => [9, l, 0]
  | .round r => [10, r, 0]
  | .join l c => [11, l, c]

/-- Data flits of some bytes (R289). -/
def dataFlits (n : Nat) : Nat := min 4 ((n + 63) / 64)

/-- Whether a packet that carries something is on its way. -/
def NetSt.carries (n : NetSt) (l : NetLoad) : Bool := n.pkts.any (fun k => k.load == l)

/-- A packet enters at a stop; for the stop itself it is there at once. -/
def State.send (s : State) (load : NetLoad) (flits src dst : Nat) : State :=
  let k : NetPkt := { id := s.net.count, load := load, flits := flits, dst := dst, stop := src, ready := s.clk, link := 0, vc := 0, crossed := false }
  { s with net := { s.net with pkts := s.net.pkts ++ [k], count := s.net.count + 1 } }

/-- A packet that carries something is taken off. -/
def State.unsend (s : State) (load : NetLoad) : State :=
  { s with net := { s.net with pkts := s.net.pkts.filter (fun k => k.load != load) } }

/-! ### Stops (R15, R17) -/

/-- The stop of a core. -/
def coreStop (core : Nat) : Nat := corePair core
/-- The stop of a die's Conjunction Engine, of a Fyolo port, of a host link. -/
def conjStop (die : Nat) : Nat := 64 * die + 27
def portStop (port : Nat) : Nat :=
  let y := match port % 4 with
    | 0 => 1 | 1 => 3 | 2 => 4
    | _ => 6
  if port < 4 then 8 * y else 64 + 8 * y + 7
def hostStop (link : Nat) : Nat := if link == 0 then 40 else 64 + 23

/-! ### Routes (R287) -/

/-- The way along a ring from a coordinate to another: 0 none, 1 ascending, 2 descending; ascending at a distance of 4. -/
def ringWay (a b : Nat) : Nat :=
  let d := (b + 8 - a) % 8
  if d == 0 then 0 else if d ≤ 4 then 1 else 2

/-- The output by which a packet leaves a stop on its way to another: 0 none, 1 and 2 along its row, 3 and 4 along its column, 5 the bridge. -/
def netOut (stop dst : Nat) : Nat :=
  let far := stop / 64 != dst / 64
  let x := stop % 8
  let y := stop / 8 % 8
  let tx := if far then (if stop / 64 == 0 then 7 else 0) else dst % 8
  let ty := dst / 8 % 8
  let wx := ringWay x tx
  let wy := ringWay y ty
  if wx != 0 then wx else if wy != 0 then wy + 2 else if far then 5 else 0

/-- The stop that an output leads to. -/
def netNext (stop out : Nat) : Nat :=
  let die := stop / 64
  let x := stop % 8
  let y := stop / 8 % 8
  match out with
  | 1 => 64 * die + 8 * y + (x + 1) % 8
  | 2 => 64 * die + 8 * y + (x + 7) % 8
  | 3 => 64 * die + 8 * ((y + 1) % 8) + x
  | 4 => 64 * die + 8 * ((y + 7) % 8) + x
  | 5 => 64 * (1 - die) + 8 * y + (if die == 0 then 0 else 7)
  | _ => stop

/-- Whether an output crosses its ring's dateline, between the coordinates 7 and 0. -/
def netCrosses (stop out : Nat) : Bool :=
  match out with
  | 1 => stop % 8 == 7
  | 2 => stop % 8 == 0
  | 3 => stop / 8 % 8 == 7
  | 4 => stop / 8 % 8 == 0
  | _ => false

/-! ### Channels and their buffers (R288) -/

/-- Packets that a channel's buffer holds. -/
def netRoom : Nat := Config.netDepth + 2

/-- The buffer of a channel at the input of a stop: how it comes there, the class, the channel. -/
def NetPkt.fills (k : NetPkt) (stop link : Nat) (c : NetClass) (vc : Nat) : Bool := k.stop == stop && k.link == link && k.load.cls == c && k.vc == vc

/-- The credits of a channel: the packets that its buffer still takes. -/
def NetSt.credits (n : NetSt) (stop link : Nat) (c : NetClass) (vc : Nat) : Nat := netRoom - (n.pkts.filter (fun k => k.fills stop link c vc)).length

/-- The channel a packet takes over an output, and whether it has crossed the dateline of the ring it is then on; none while no buffer takes it. A
packet is on the ring it came along, and on a new one where it turns or has crossed the bridge. Of two free channels it takes the first. -/
def NetSt.channel (n : NetSt) (k : NetPkt) (out : Nat) : Option (Nat × Bool) :=
  let stop := netNext k.stop out
  let same := k.link != 0 && out != 5 && (k.link + 1) / 2 == (out + 1) / 2
  let crossed := (same && k.crossed) || netCrosses k.stop out
  let free (vc : Nat) : Bool := decide (0 < n.credits stop out k.load.cls vc)
  let room := n.credits stop out k.load.cls 4
  let escape := if decide ((if same && k.vc == 4 then 1 else 2) ≤ room) then some (4, crossed) else none
  let lo := if crossed then 2 else 0
  if k.vc == 4 then escape else if free lo then some (lo, crossed) else if free (lo + 1) then some (lo + 1, crossed) else escape

/-! ### A cycle -/

/-- Key of an output. -/
def outKey (stop out : Nat) : Nat := stop * 8 + out

/-- Whether a packet is the first of its buffer. -/
def NetSt.first (n : NetSt) (k : NetPkt) : Bool := (n.pkts.find? (fun x => x.fills k.stop k.link k.load.cls k.vc)).map (fun x => x.id) == some k.id

/-- The packets that an output could move in a cycle. -/
def NetSt.movers (n : NetSt) (clk key : Nat) : List NetPkt :=
  n.pkts.filter (fun k => decide (k.ready ≤ clk) && k.stop != k.dst && outKey k.stop (netOut k.stop k.dst) == key && n.first k
    && (n.channel k (netOut k.stop k.dst)).isSome)

/-- The channel of a packet at its output, and the distance of its turn from the channel served last. -/
def NetPkt.chan (k : NetPkt) : Nat := k.link * 5 + k.vc
def NetSt.turn (n : NetSt) (key : Nat) (k : NetPkt) : Nat := (k.chan + 59 - NMap.getD n.served (key * 8 + k.load.cls.rank) 29) % 30

/-- Which of them it moves (R288): the one that has waited longest, from 64 cycles on; else the highest class, within it the next channel. -/
def NetSt.winner (n : NetSt) (clk key : Nat) : Option NetPkt :=
  let ks := n.movers clk key
  let old := ks.filter (fun k => decide (k.ready + 64 ≤ clk))
  if old.isEmpty then (sortKey (fun k => k.load.cls.rank * 32 + n.turn key k) ks).head? else (sortKey (fun k => k.ready) old).head?

/-- A packet moves over an output: its link moves a flit a cycle, and its head is at the next stop after 2 cycles, over the bridge after 8 (R20). -/
def NetSt.move (n : NetSt) (clk key : Nat) (k : NetPkt) : NetSt :=
  let out := netOut k.stop k.dst
  match n.channel k out with
  | none => n
  | some (vc, crossed) =>
    let k' : NetPkt := { k with stop := netNext k.stop out, ready := clk + (if out == 5 then 8 else 2), link := out, vc := vc, crossed := crossed }
    { n with pkts := n.pkts.filter (fun x => x.id != k.id) ++ [k'], busy := NMap.put n.busy key (clk + 1 + k.flits)
             served := NMap.put n.served (key * 8 + k.load.cls.rank) k.chan }

/-- The outputs at which packets stand. -/
def NetSt.outputs (n : NetSt) : NSet :=
  n.pkts.foldl (fun acc k => if k.stop == k.dst then acc else NSet.add acc (outKey k.stop (netOut k.stop k.dst))) ([] : NSet)

/-- One cycle of the network: each free output moves the packet whose turn it is. -/
def NetSt.cycle (n : NetSt) (clk : Nat) : NetSt :=
  let n0 : NetSt := { n with busy := n.busy.filter (fun e => decide (clk < e.2)) }
  n0.outputs.foldl (fun n key =>
    if clk < NMap.getD n.busy key 0 then n
    else match n.winner clk key with
      | some k => n.move clk key k
      | none => n) n0

/-- The packets that have arrived by a cycle, in order. -/
def NetSt.arrived (n : NetSt) (clk : Nat) : List NetPkt := n.pkts.filter (fun k => k.stop == k.dst && decide (k.ready ≤ clk))

/-! ### The diagnostic port's view (R312) -/

/-- The head flit of a packet. -/
def NetPkt.head (k : NetPkt) : BitVec 512 := Config.headFlit (k.load.nums ++ [k.flits, k.stop, k.dst, k.link, k.vc])

/-- The head flits that stand at a stop, in order. -/
def NetSt.heads (n : NetSt) (stop : Nat) : List (BitVec 512) := (n.pkts.filter (fun k => k.stop == stop)).map NetPkt.head

end Sys2Proof.Machine
end

