-- ==== Sys2Proof/Machine/Num.lean ====
section
/-! DEFINITION. Element types, exact values and rounding (R85-R92, R392), and the exact functions of R155. Values are
exact fractions; nothing is rounded but by roundF and roundI. -/

namespace Sys2Proof.Machine

/-- The element types of R85, in the order of their codes; code 15 is reserved. -/
inductive Ty where
  | s32 | n32 | s16x2 | f32 | bf16x2 | f16x2 | e4m3x4 | e5m2x4 | s8x4 | n8x4 | s64 | n64 | f64 | b32 | q4x8
  deriving DecidableEq, Repr

/-- The type a code names (R85). -/
def Ty.ofCode : Nat → Option Ty
  | 0 => some .s32 | 1 => some .n32 | 2 => some .s16x2 | 3 => some .f32 | 4 => some .bf16x2 | 5 => some .f16x2
  | 6 => some .e4m3x4 | 7 => some .e5m2x4 | 8 => some .s8x4 | 9 => some .n8x4 | 10 => some .s64 | 11 => some .n64
  | 12 => some .f64 | 13 => some .b32 | 14 => some .q4x8
  | _ => none

/-- Width of an operand of the type: 64 for s64, n64, f64, else 32 (R133). -/
def Ty.width : Ty → Nat
  | .s64 => 64 | .n64 => 64 | .f64 => 64
  | .s32 => 32 | .n32 => 32 | .s16x2 => 32 | .f32 => 32 | .bf16x2 => 32 | .f16x2 => 32 | .e4m3x4 => 32 | .e5m2x4 => 32
  | .s8x4 => 32 | .n8x4 => 32 | .b32 => 32 | .q4x8 => 32

/-- Width of one element (R85). -/
def Ty.ew : Ty → Nat
  | .s64 => 64 | .n64 => 64 | .f64 => 64
  | .s32 => 32 | .n32 => 32 | .f32 => 32 | .b32 => 32
  | .s16x2 => 16 | .bf16x2 => 16 | .f16x2 => 16
  | .e4m3x4 => 8 | .e5m2x4 => 8 | .s8x4 => 8 | .n8x4 => 8
  | .q4x8 => 4

/-- Number of elements (R85). -/
def Ty.count (t : Ty) : Nat := t.width / t.ew

/-- Two's-complement types. -/
def Ty.isS : Ty → Bool
  | .s32 => true | .s16x2 => true | .s8x4 => true | .s64 => true
  | .n32 => false | .f32 => false | .bf16x2 => false | .f16x2 => false | .e4m3x4 => false | .e5m2x4 => false
  | .n8x4 => false | .n64 => false | .f64 => false | .b32 => false | .q4x8 => false

/-- Unsigned types; b32 acts as n32 (R86). -/
def Ty.isN : Ty → Bool
  | .n32 => true | .n8x4 => true | .n64 => true | .b32 => true
  | .s32 => false | .s16x2 => false | .s8x4 => false | .s64 => false | .f32 => false | .bf16x2 => false
  | .f16x2 => false | .e4m3x4 => false | .e5m2x4 => false | .f64 => false | .q4x8 => false

/-- Integer types (R86). -/
def Ty.isInt (t : Ty) : Bool := t.isS || t.isN

/-- Floating types (R87). -/
def Ty.isFloat : Ty → Bool
  | .f32 => true | .bf16x2 => true | .f16x2 => true | .e4m3x4 => true | .e5m2x4 => true | .f64 => true
  | .s32 => false | .n32 => false | .s16x2 => false | .s8x4 => false | .n8x4 => false | .s64 => false | .n64 => false
  | .b32 => false | .q4x8 => false

/-- A floating format (R87): exponent bits, fraction bits, bias, the code of the largest finite value, whether it has
infinities, the canonical NaN (R88). -/
structure Fmt where
  ebits : Nat
  fbits : Nat
  bias  : Nat
  maxc  : Nat
  inf   : Bool
  nan   : Nat
  deriving DecidableEq, Repr

/-- The formats of R87 and R88; an integer type has none and is given f32's. -/
def Ty.fmt : Ty → Fmt
  | .f64 => { ebits := 11, fbits := 52, bias := 1023, maxc := 0x7FEFFFFFFFFFFFFF, inf := true, nan := 0x7FF8000000000000 }
  | .bf16x2 => { ebits := 8, fbits := 7, bias := 127, maxc := 0x7F7F, inf := true, nan := 0x7FC0 }
  | .f16x2 => { ebits := 5, fbits := 10, bias := 15, maxc := 0x7BFF, inf := true, nan := 0x7E00 }
  | .e4m3x4 => { ebits := 4, fbits := 3, bias := 7, maxc := 0x7E, inf := false, nan := 0x7F }
  | .e5m2x4 => { ebits := 5, fbits := 2, bias := 15, maxc := 0x7B, inf := true, nan := 0x7E }
  | .f32 => { ebits := 8, fbits := 23, bias := 127, maxc := 0x7F7FFFFF, inf := true, nan := 0x7FC00000 }
  | .s32 => { ebits := 8, fbits := 23, bias := 127, maxc := 0x7F7FFFFF, inf := true, nan := 0x7FC00000 }
  | .n32 => { ebits := 8, fbits := 23, bias := 127, maxc := 0x7F7FFFFF, inf := true, nan := 0x7FC00000 }
  | .s16x2 => { ebits := 8, fbits := 23, bias := 127, maxc := 0x7F7FFFFF, inf := true, nan := 0x7FC00000 }
  | .s8x4 => { ebits := 8, fbits := 23, bias := 127, maxc := 0x7F7FFFFF, inf := true, nan := 0x7FC00000 }
  | .n8x4 => { ebits := 8, fbits := 23, bias := 127, maxc := 0x7F7FFFFF, inf := true, nan := 0x7FC00000 }
  | .s64 => { ebits := 8, fbits := 23, bias := 127, maxc := 0x7F7FFFFF, inf := true, nan := 0x7FC00000 }
  | .n64 => { ebits := 8, fbits := 23, bias := 127, maxc := 0x7F7FFFFF, inf := true, nan := 0x7FC00000 }
  | .b32 => { ebits := 8, fbits := 23, bias := 127, maxc := 0x7F7FFFFF, inf := true, nan := 0x7FC00000 }
  | .q4x8 => { ebits := 8, fbits := 23, bias := 127, maxc := 0x7F7FFFFF, inf := true, nan := 0x7FC00000 }

/-- An exact value: a NaN, an infinity, or a signed fraction num / den (den ≠ 0), in which a zero keeps its sign. -/
inductive EVal where
  | nan
  | inf (neg : Bool)
  | fin (neg : Bool) (num den : Nat)
  deriving DecidableEq, Repr

/-- An integer as an exact value. -/
def EVal.ofInt (x : Int) : EVal := .fin (decide (x < 0)) x.natAbs 1

/-- The integer part toward zero of a finite value; NaN and infinities give 0. -/
def EVal.truncI : EVal → Int
  | .nan => 0
  | .inf _ => 0
  | .fin s n d => if s then -((n / d : Nat) : Int) else ((n / d : Nat) : Int)

/-- The greatest integer not above a finite value. -/
def EVal.floorI : EVal → Int
  | .nan => 0
  | .inf _ => 0
  | .fin s n d => if s then -(((n + d - 1) / d : Nat) : Int) else ((n / d : Nat) : Int)

/-- The two's-complement or unsigned reading of w bits. -/
def intOfBits (signed : Bool) (w x : Nat) : Int :=
  let y := x % 2 ^ w
  if signed && decide (2 ^ (w - 1) ≤ y) then (y : Int) - ((2 ^ w : Nat) : Int) else (y : Int)

/-- An integer modulo 2^w as bits. -/
def bitsOfInt (w : Nat) (x : Int) : Nat := (x % ((2 ^ w : Nat) : Int)).toNat

/-- The value of a floating code (R87, R88). -/
def Fmt.value (f : Fmt) (code : Nat) : EVal :=
  let s := code / 2 ^ (f.ebits + f.fbits) % 2 == 1
  let m := code % 2 ^ (f.ebits + f.fbits)
  if f.maxc < m then
    if f.inf && m == f.maxc + 1 then .inf s else .nan
  else
    let e := m / 2 ^ f.fbits
    let fr := m % 2 ^ f.fbits
    let sig := if e == 0 then fr else 2 ^ f.fbits + fr
    let ex := if e == 0 then 1 else e
    if f.bias + f.fbits ≤ ex then .fin s (sig * 2 ^ (ex - (f.bias + f.fbits))) 1
    else .fin s sig (2 ^ (f.bias + f.fbits - ex))

/-- Whether a code is subnormal. -/
def Fmt.isSub (f : Fmt) (code : Nat) : Bool :=
  let m := code % 2 ^ (f.ebits + f.fbits)
  m != 0 && decide (m < 2 ^ f.fbits)

/-- The sign bit in place. -/
def Fmt.signBit (f : Fmt) (s : Bool) : Nat := if s then 2 ^ (f.ebits + f.fbits) else 0

/-- Value(e, t) of R133; with flush set, a subnormal reads as a zero of its sign (R89). -/
def valueOf (t : Ty) (ftz : Bool) (e : Nat) : EVal :=
  if t.isFloat then
    let f := t.fmt
    if ftz && f.isSub e then .fin (e / 2 ^ (f.ebits + f.fbits) % 2 == 1) 0 1 else f.value e
  else EVal.ofInt (intOfBits t.isS t.ew e)

/-- Element i of a register value (R133). -/
def element (t : Ty) (x i : Nat) : Nat := x / 2 ^ (t.ew * i) % 2 ^ t.ew

/-- A register value from its elements, element 0 lowest (R85). -/
def ofElements (w : Nat) : List Nat → Nat
  | [] => 0
  | e :: es => e % 2 ^ w + 2 ^ w * ofElements w es

/-- The six rounding modes (R90). -/
inductive Mode where
  | rne | rtz | rdn | rup | rna | rst
  deriving DecidableEq, Repr

/-- The mode a code names; 110 and 111 are reserved (R90). -/
def Mode.ofCode : Nat → Option Mode
  | 0 => some .rne | 1 => some .rtz | 2 => some .rdn | 3 => some .rup | 4 => some .rna | 5 => some .rst
  | _ => none

/-- One step of a rounding generator (R92). -/
def genStep (g : Word) : Word :=
  let g1 := g ^^^ (g <<< 13)
  let g2 := g1 ^^^ (g1 >>> 17)
  g2 ^^^ (g2 <<< 5)

/-- The start value of a generator of index g (R92, R99). -/
def genInit (g : Nat) : Word :=
  let x := BitVec.ofNat 32 ((g + 1) * 0x9E3779B9)
  if x == 0 then 1 else x

/-- A value n / d between grid points q and q + 1 of a magnitude grid, or at the extra step (extra, R91 step 5), by mode:
the magnitude picked. neg is the sign of the value, u the draw of R92. -/
def pickMag (mode : Mode) (neg extra : Bool) (q n d : Nat) (u : Word) : Nat :=
  if extra then
    match mode with
    | .rne => q + 1
    | .rna => q + 1
    | .rst => q + 1
    | .rtz => q
    | .rup => if neg then q else q + 1
    | .rdn => if neg then q + 1 else q
  else if n == 0 then q
  else
    match mode with
    | .rtz => q
    | .rdn => if neg then q + 1 else q
    | .rup => if neg then q else q + 1
    | .rna => if d ≤ 2 * n then q + 1 else q
    | .rne => if 2 * n == d then (if q % 2 == 0 then q else q + 1) else if d < 2 * n then q + 1 else q
    | .rst =>
      if neg then (if u.toNat < (d - n) * 2 ^ 32 / d then q else q + 1)
      else (if u.toNat < n * 2 ^ 32 / d then q + 1 else q)

/-- Floor of log2 of a positive fraction, as an integer. -/
def log2Frac (n d : Nat) : Int :=
  let e : Int := (Nat.log2 n : Int) - (Nat.log2 d : Int)
  let ge := if 0 ≤ e then decide (d * 2 ^ e.toNat ≤ n) else decide (d ≤ n * 2 ^ (-e).toNat)
  if ge then e else e - 1

/-- A fraction times 2^k. -/
def scaleFrac (n d : Nat) (k : Int) : Nat × Nat :=
  if 0 ≤ k then (n * 2 ^ k.toNat, d) else (n, d * 2 ^ (-k).toNat)

/-- Round of R91 to a floating format, on a finite non-zero magnitude n / d with draw u: the code without its sign. -/
def roundMag (f : Fmt) (mode : Mode) (sat ftz neg : Bool) (n d : Nat) (u : Word) : Nat :=
  let e := log2Frac n d
  let emin : Int := 1 - (f.bias : Int)
  let e' := if e < emin then emin else e
  let (sn, sd) := scaleFrac n d ((f.fbits : Int) - e')
  let q := sn / sd
  -- the code of the grid point at or below the magnitude: consecutive codes are consecutive grid points
  let low := q + ((e' - emin).toNat) * 2 ^ f.fbits
  let flush := ftz && decide (e < emin) &&
    (let (un, ud) := scaleFrac n d ((f.fbits : Int) - e)
     let p := pickMag mode neg false (un / ud) (un % ud) ud u
     !(decide (e + 1 = emin) && p == 2 ^ (f.fbits + 1)))
  if flush then 0
  else
    let big := decide (f.maxc < low)
    -- half a step above the largest finite value overflows under rne whichever code is even
    let tie := mode == .rne && low == f.maxc && 2 * (sn % sd) == sd
    let p := if big || tie then pickMag mode neg true f.maxc 1 1 u else pickMag mode neg false low (sn % sd) sd u
    if f.maxc < p then (if sat then f.maxc else if f.inf then f.maxc + 1 else f.nan) else p

/-- Round of R91 to a floating type: the code and the generator after it; under rst every Round steps it once (R92). -/
def roundF (t : Ty) (mode : Mode) (sat ftz : Bool) (x : EVal) (g : Word) : Nat × Word :=
  let f := t.fmt
  let g' := if mode == .rst then genStep g else g
  let code :=
    match x with
    | .nan => f.nan
    | .inf s => if f.inf then f.signBit s + f.maxc + 1 else if sat then f.signBit s + f.maxc else f.nan
    | .fin s n d =>
      if n == 0 then f.signBit s
      else
        let m := roundMag f mode sat ftz s n d g'
        if m == f.nan && !f.inf then f.nan else f.signBit s + m
  (code, g')

/-- Round of R91 to an integer, before any clamp. -/
def roundToInt (mode : Mode) (s : Bool) (n d : Nat) (u : Word) : Int :=
  let p := pickMag mode s false (n / d) (n % d) d u
  if s then -(p : Int) else (p : Int)

/-- The range of an integer type. -/
def Ty.minI (t : Ty) : Int := if t.isS then -((2 ^ (t.ew - 1) : Nat) : Int) else 0

/-- The greatest value of an integer type. -/
def Ty.maxI (t : Ty) : Int := if t.isS then ((2 ^ (t.ew - 1) : Nat) : Int) - 1 else ((2 ^ t.ew : Nat) : Int) - 1

/-- An integer clamped to a type's range. -/
def clampI (t : Ty) (x : Int) : Int := if x < t.minI then t.minI else if t.maxI < x then t.maxI else x

/-- Narrow of R86 and R133. -/
def narrow (t : Ty) (sat : Bool) (x : Int) : Nat := bitsOfInt t.ew (if sat then clampI t x else x)

/-- Round to an integer type (R91): NaN gives 0, anything out of range is clamped. -/
def roundI (t : Ty) (mode : Mode) (x : EVal) (g : Word) : Nat × Word :=
  let g' := if mode == .rst then genStep g else g
  let v : Int :=
    match x with
    | .nan => 0
    | .inf s => if s then t.minI else t.maxI
    | .fin s n d => clampI t (roundToInt mode s n d g')
  (bitsOfInt t.ew v, g')

/-! ### Exact arithmetic -/

/-- Sign change. -/
def EVal.neg : EVal → EVal
  | .nan => .nan
  | .inf s => .inf (!s)
  | .fin s n d => .fin (!s) n d

/-- Magnitude. -/
def EVal.abs : EVal → EVal
  | .nan => .nan
  | .inf _ => .inf false
  | .fin _ n d => .fin false n d

/-- Sum, with the sign of an exact zero by R392. -/
def EVal.add (mode : Mode) : EVal → EVal → EVal
  | .nan, _ => .nan
  | .inf _, .nan => .nan
  | .inf s, .inf s' => if s == s' then .inf s else .nan
  | .inf s, .fin _ _ _ => .inf s
  | .fin _ _ _, .nan => .nan
  | .fin _ _ _, .inf s => .inf s
  | .fin s n d, .fin s' n' d' =>
    let (x, y, dd) := if d % d' == 0 then (n, n' * (d / d'), d) else if d' % d == 0 then (n * (d' / d), n', d')
                      else (n * d', n' * d, d * d')
    if s == s' then .fin s (x + y) dd
    else if x == y then .fin (mode == .rdn) 0 1
    else if y < x then .fin s (x - y) dd else .fin s' (y - x) dd

/-- Product; an infinity times a zero is a NaN (R135). -/
def EVal.mul : EVal → EVal → EVal
  | .nan, _ => .nan
  | .inf _, .nan => .nan
  | .inf s, .inf s' => .inf (s != s')
  | .inf s, .fin s' n _ => if n == 0 then .nan else .inf (s != s')
  | .fin _ _ _, .nan => .nan
  | .fin s n _, .inf s' => if n == 0 then .nan else .inf (s != s')
  | .fin s n d, .fin s' n' d' => .fin (s != s') (n * n') (d * d')

/-- Floating quotient (R154). -/
def EVal.div : EVal → EVal → EVal
  | .nan, _ => .nan
  | .inf _, .nan => .nan
  | .inf _, .inf _ => .nan
  | .inf s, .fin s' _ _ => .inf (s != s')
  | .fin _ _ _, .nan => .nan
  | .fin s _ _, .inf s' => .fin (s != s') 0 1
  | .fin s n d, .fin s' n' d' =>
    if n' == 0 then (if n == 0 then .nan else .inf (s != s')) else .fin (s != s') (n * d') (d * n')

/-- Floating remainder (R154): exact, with the sign of a. -/
def EVal.rem : EVal → EVal → EVal
  | .nan, _ => .nan
  | .inf _, _ => .nan
  | .fin _ _ _, .nan => .nan
  | .fin s n d, .inf _ => .fin s n d
  | .fin s n d, .fin _ n' d' => if n' == 0 then .nan else .fin s ((n * d') % (n' * d)) (d * d')

/-- Whether a value is a NaN. -/
def EVal.isNan : EVal → Bool
  | .nan => true
  | .inf _ => false
  | .fin _ _ _ => false

/-- Order of two numbers, −0 and +0 equal; a NaN is below nothing. -/
def EVal.lt : EVal → EVal → Bool
  | .nan, _ => false
  | .inf _, .nan => false
  | .inf s, .inf s' => s && !s'
  | .inf s, .fin _ _ _ => s
  | .fin _ _ _, .nan => false
  | .fin _ _ _, .inf s => !s
  | .fin s n d, .fin s' n' d' =>
    let x : Int := if s then -((n * d' : Nat) : Int) else ((n * d' : Nat) : Int)
    let y : Int := if s' then -((n' * d : Nat) : Int) else ((n' * d : Nat) : Int)
    decide (x < y)

/-- Equality by value, −0 = +0; false with a NaN. -/
def EVal.eqv (a b : EVal) : Bool := !a.isNan && !b.isNan && !a.lt b && !b.lt a

/-- The sign of a value. -/
def EVal.sign : EVal → Bool
  | .nan => false
  | .inf s => s
  | .fin s _ _ => s

/-- Whether a value is a zero of either sign. -/
def EVal.isZero : EVal → Bool
  | .nan => false
  | .inf _ => false
  | .fin _ n _ => n == 0

/-- MIN of R153: one NaN gives the other operand, −0 is less than +0. -/
def EVal.min (a b : EVal) : EVal :=
  if a.isNan then b else if b.isNan then a
  else if a.lt b then a else if b.lt a then b else if a.sign then a else b

/-- MAX of R153. -/
def EVal.max (a b : EVal) : EVal :=
  if a.isNan then b else if b.isNan then a
  else if a.lt b then b else if b.lt a then a else if a.sign then b else a

/-! ### The exact functions of R155, as fractions close enough to round alike (log 7) -/

/-- A non-negative fraction known to lie strictly between k / 2^q and (k + 1) / 2^q. -/
def sticky (k q : Nat) : Nat × Nat := (2 * k + 1, 2 ^ (q + 1))

/-- Integer square root by bits, highest first. -/
def isqrtGo : Nat → Nat → Nat → Nat
  | 0, _, r => r
  | k + 1, x, r => let r' := r + 2 ^ k; if r' * r' ≤ x then isqrtGo k x r' else isqrtGo k x r

/-- Floor of the square root. -/
def isqrt (x : Nat) : Nat := isqrtGo (Nat.log2 x / 2 + 1) x 0

/-- Square root of a positive fraction: exact where it is a fraction with a denominator a power of two. -/
def sqrtFrac (n d : Nat) : Nat × Nat :=
  let q := 200 + Nat.log2 d + Nat.log2 n
  let y := n * 2 ^ (2 * q) / d
  let r := isqrt y
  if r * r * d == n * 2 ^ (2 * q) then (r, 2 ^ q) else sticky r q

/-- Terms of a series in fixed point with q fraction bits: term := term × xn / xd / (i-th divisor), alternating when
alt, until a term vanishes. sum starts at the first term. -/
def seriesGo (fuel : Nat) (alt : Bool) (xn xd : Nat) (step : Nat → Nat) (i : Nat) (term : Nat) (neg : Bool)
    (sum : Int) : Int :=
  match fuel with
  | 0 => sum
  | fuel + 1 =>
    if term == 0 then sum
    else
      let t := term * xn / (xd * step i)
      let neg' := if alt then !neg else neg
      seriesGo fuel alt xn xd step (i + 1) t neg' (if neg' then sum - (t : Int) else sum + (t : Int))

/-- arctan (1/m) × 2^q by its series: powers p of 1/m², each divided by its odd number. -/
def atanInvGo : Nat → Nat → Nat → Nat → Bool → Int → Int
  | 0, _, _, _, _, s => s
  | fuel + 1, m2, k, p, neg, s =>
    if p == 0 then s
    else atanInvGo fuel m2 (k + 2) (p / m2) (!neg) (if neg then s - ((p / k : Nat) : Int) else s + ((p / k : Nat) : Int))

/-- π × 2^q, by 16 arctan (1/5) − 4 arctan (1/239). -/
def piFix (q : Nat) : Nat :=
  let g := q + 32
  let a := atanInvGo g 25 1 (2 ^ g / 5) false 0
  let b := atanInvGo g (239 * 239) 1 (2 ^ g / 239) false 0
  ((16 * a - 4 * b).toNat) / 2 ^ 32

/-- 2 artanh (n/d) × 2^q for 0 ≤ n/d < 1. -/
def atanhGo : Nat → Nat → Nat → Nat → Nat → Nat → Nat
  | 0, _, _, _, _, s => s
  | fuel + 1, n, d, k, p, s => if p == 0 then s else atanhGo fuel n d (k + 2) (p * n * n / (d * d)) (s + 2 * p / k)

/-- ln 2 × 2^q. -/
def ln2Fix (q : Nat) : Nat := atanhGo q 1 3 1 (2 ^ q / 3) 0

/-- e^(n/d) × 2^q for n/d ≥ 0: the argument is divided by 2^16 and the result squared 16 times. -/
def expFix (q n d : Nat) : Nat :=
  let g := q + 64 + 4 * (n / d)
  let s := seriesGo g false n (d * 2 ^ 16) (fun i => i + 1) 0 (2 ^ g) false (2 ^ g : Nat)
  let r := (List.range 16).foldl (fun acc _ => acc * acc / 2 ^ g) s.toNat
  r / 2 ^ (g - q)

/-- Working precision for a value of the least exponent e (log 7). -/
def workBits (n d : Nat) : Nat := 320 + 3 * (log2Frac n d).natAbs

/-- 2^a of R155. -/
def exp2E : EVal → EVal
  | .nan => .nan
  | .inf s => if s then .fin false 0 1 else .inf false
  | .fin s n d =>
    let v : EVal := .fin s n d
    let k := v.floorI
    if 6000 < k then .fin false (2 ^ 6000) 1
    else if k < -6000 then .fin false 1 (2 ^ 6000)
    else if n % d == 0 then
      if 0 ≤ k then .fin false (2 ^ k.toNat) 1 else .fin false 1 (2 ^ (-k).toNat)
    else
      let q := workBits n d
      -- fraction part f = a − k in (0, 1)
      let fnum : Nat := ((if s then -((n : Int)) else (n : Int)) - k * (d : Int)).toNat
      let l := ln2Fix (q + 64)
      let e := expFix q (fnum * l) (d * 2 ^ (q + 64))
      let (a, b) := sticky e q
      let (a', b') := scaleFrac a b k
      .fin false a' b'

/-- log2 a of R155. -/
def log2E : EVal → EVal
  | .nan => .nan
  | .inf s => if s then .nan else .inf false
  | .fin s n d =>
    if n == 0 then .inf true
    else if s then .nan
    else
      let e0 := log2Frac n d
      let (m0, md0) := scaleFrac n d (-e0)
      if m0 == md0 then (if e0 == 0 then .fin false 0 1 else EVal.ofInt e0)
      else
        -- mantissa in [3/4, 3/2)
        let big := decide (3 * md0 ≤ 2 * m0)
        let e := if big then e0 + 1 else e0
        let md := if big then 2 * md0 else md0
        let q := 400
        let below := decide (m0 < md)
        let diff := if below then md - m0 else m0 - md
        let ln := atanhGo q diff (m0 + md) 1 (2 ^ q * diff / (m0 + md)) 0
        let l2 := ln * 2 ^ q / ln2Fix q
        let x : Int := e * ((2 ^ q : Nat) : Int) + (if below then -(l2 : Int) else (l2 : Int))
        let (a, b) := sticky x.natAbs q
        .fin (decide (x < 0)) a b

/-- (sin r, cos r) × 2^q for 0 ≤ r = rn / 2^q. -/
def sinFix (q rn : Nat) : Int :=
  let x2 := rn * rn
  seriesGo q true x2 (2 ^ (2 * q)) (fun i => (2 * i + 2) * (2 * i + 3)) 0 rn false (rn : Int)

/-- cos r × 2^q for r = rn / 2^q. -/
def cosFix (q rn : Nat) : Int :=
  let x2 := rn * rn
  seriesGo q true x2 (2 ^ (2 * q)) (fun i => (2 * i + 1) * (2 * i + 2)) 0 (2 ^ q) false ((2 ^ q : Nat) : Int)

/-- sin or cos of a magnitude, as a signed fixed-point value with its precision: the argument is reduced by quarter
turns. -/
def trigMag (cosine : Bool) (n d : Nat) : Int × Nat :=
  let q := workBits n d
  let e := (log2Frac n d).natAbs
  let p := q + e + 64
  let x := n * 2 ^ p / d
  let half := piFix p / 2
  let k := x / half
  let r := (x % half) / 2 ^ (p - q)
  let turn := (k + if cosine then 1 else 0) % 4
  let v := match turn with
    | 0 => sinFix q r
    | 1 => cosFix q r
    | 2 => -(sinFix q r)
    | _ => -(cosFix q r)
  (v, q)

/-- A signed fixed-point value, known not to be exact. -/
def stickyI (v : Int) (q : Nat) : EVal :=
  let (a, b) := sticky v.natAbs q
  .fin (decide (v < 0)) a b

/-- sin a of R155. -/
def sinE : EVal → EVal
  | .nan => .nan
  | .inf _ => .nan
  | .fin s n d =>
    if n == 0 then .fin s 0 1
    else
      let (v, q) := trigMag false n d
      let r := stickyI v q
      if s then r.neg else r

/-- cos a of R155. -/
def cosE : EVal → EVal
  | .nan => .nan
  | .inf _ => .nan
  | .fin _ n d =>
    if n == 0 then .fin false 1 1
    else
      let (v, q) := trigMag true n d
      -- just below 1 the fixed-point value may reach 1
      if decide (((2 ^ q : Nat) : Int) ≤ v) then .fin false (2 ^ (q + 1) - 1) (2 ^ (q + 1)) else stickyI v q

/-- tanh a of R155. -/
def tanhE : EVal → EVal
  | .nan => .nan
  | .inf s => .fin s 1 1
  | .fin s n d =>
    if n == 0 then .fin s 0 1
    else if 400 * d < n then .fin s (2 ^ 1100 - 1) (2 ^ 1100)
    else
      let q := workBits n d + 1200
      let e := expFix q (2 * n) d
      let one := 2 ^ q
      let (a, b) := sticky ((e - one) * 2 ^ q / (e + one)) q
      -- tanh a < a: the fixed-point value never reaches it
      .fin s a b

/-- √a of R155. -/
def sqrtE : EVal → EVal
  | .nan => .nan
  | .inf s => if s then .nan else .inf false
  | .fin s n d => if n == 0 then .fin s 0 1 else if s then .nan else let (a, b) := sqrtFrac n d; .fin false a b

/-- 1/√a of R155. -/
def rsqE : EVal → EVal
  | .nan => .nan
  | .inf s => if s then .nan else .fin false 0 1
  | .fin s n d => if n == 0 then .inf s else if s then .nan else let (a, b) := sqrtFrac d n; .fin false a b

/-- 1/a of R155. -/
def rcpE : EVal → EVal
  | .nan => .nan
  | .inf s => .fin s 0 1
  | .fin s n d => if n == 0 then .inf s else .fin s d n

end Sys2Proof.Machine
end

