-- ==== Sys2Proof/Machine/Home.lean ====
section
/-! DEFINITION. Memory at its homes: committed data, pending versions, partials, locked lines (R179-R190, R261-R265,
R275-R282, R359-R361), translation and page requests (R74-R80, R345-R349). -/

namespace Sys2Proof.Machine

/-! ### Atomic arithmetic (R181, R182) -/

/-- One element of an atomic's addition, minimum or maximum, at the performer: rne, no flush, no saturation. -/
def atomElem (t : Ty) (op : Nat) (o x : Nat) : Nat :=
  let a := valueOf t false o
  let b := valueOf t false x
  let e := match op with
    | 0 => EVal.add .rne a b
    | 1 => EVal.min a b
    | _ => EVal.max a b
  if t.isFloat then (roundF t .rne false false e 1).1 else narrow t false e.truncI

/-- The new value of R181 from the old value o, the operand x and, for ATCAS, the second operand x2. -/
def atomNew (t : Ty) (op : Nat) (o x x2 : Nat) : Nat :=
  let w := t.width
  match op with
  | 0 => ofElements t.ew ((List.range t.count).map (fun i => atomElem t 0 (element t o i) (element t x i)))
  | 1 => ofElements t.ew ((List.range t.count).map (fun i => atomElem t 1 (element t o i) (element t x i)))
  | 2 => ofElements t.ew ((List.range t.count).map (fun i => atomElem t 2 (element t o i) (element t x i)))
  | 3 => Nat.land o x
  | 4 => Nat.lor o x
  | 5 => Nat.xor o x
  | 6 => x % 2 ^ w
  | 7 => if o = x then x2 % 2 ^ w else o
  | _ => if x ≤ o then 0 else o + 1

/-- The types an atomic or reduction accepts (R181, R184). -/
def atomTypes (t : Ty) (op : Nat) : Bool :=
  match op with
  | 0 => t == .s32 || t == .n32 || t == .b32 || t == .s64 || t == .n64 || t == .f32 || t == .f64 || t == .bf16x2 || t == .f16x2
  | 1 => t == .s32 || t == .n32 || t == .b32 || t == .s64 || t == .n64 || t == .f32 || t == .f64
  | 2 => t == .s32 || t == .n32 || t == .b32 || t == .s64 || t == .n64 || t == .f32 || t == .f64
  | 8 => t == .n32 || t == .n64
  | _ => t != .q4x8

/-! ### Committed data -/

/-- Line of a physical address. -/
def lineOf (pa : Nat) : Nat := pa / 256 * 256
/-- Sector of a physical address. -/
def sectorOf (pa : Nat) : Nat := pa / 64

/-- The lock on the line of an address. -/
def State.lockAt (s : State) (pa : Nat) : Option LineLock := s.mem.locks.find? (fun k => k.line == lineOf pa)

/-- The engine operation that claimed the line of an address first, of those whose write has still to land (R214). -/
def State.ownerAt (s : State) (pa : Nat) : Option Nat := (NMap.look s.mem.owned (lineOf pa)).bind List.head?

/-- Marked granules of a line. -/
def markedIn (p : NSet) (line : Nat) : List Nat := (granules line 256).filter (fun g => NSet.has p g)

/-- The first home-order write of a context to a line in an open interval logs the line (R361). -/
def State.logLine (s : State) (by' : Writer) (pa : Nat) : State :=
  match by' with
  | none => s
  | some (c, _) =>
    match s.ctx? c with
    | none => s
    | some x =>
      let l := lineOf pa
      if !x.ck.isOpen || !x.ck.en || x.ck.log.any (fun e => e.1 == l) then s
      else
        let stack := stackOf l
        let used := (x.ck.log.filter (fun e => stackOf e.1 == stack)).length
        if NSet.has x.ck.full stack then s
        else if x.ck.size * 2 ^ 21 < (used + 1) * 256 then
          let s1 := s.updCtx c (fun x => { x with ck := { x.ck with overflowed := true, full := NSet.add x.ck.full stack } })
          s1.event c 12 0 0 0 l 0
        else
          let e := (l, s.mem.hbm.read l 256, markedIn s.mem.hbm.poison l)
          s.updCtx c (fun x => { x with ck := { x.ck with log := e :: x.ck.log } })

/-- Writes the committed version alone. -/
def State.commitWrite (s : State) (by' : Writer) (pa : Nat) (data : List Byte) (tag : Bool) : State :=
  let s1 := (s.logLine by' pa).logLine by' (pa + data.length - 1)
  let s2 := s1.updMem (fun m => { m with hbm := m.hbm.write pa data tag })
  s2.keepWords by' (changedWords s.mem.hbm.bytes s2.mem.hbm.bytes pa data.length)

/-- Invalidates every copy of the sectors of some bytes: clean and read-only ones in the L1s, and those of the slices of the other die
(R261, R278, R283). -/
def State.invalidate (s : State) (pa n : Nat) : State :=
  let secs := (List.range (sectorOf (pa + n - 1) - sectorOf pa + 1)).map (fun i => sectorOf pa + i)
  let s1 := s.updMem (fun m => { m with xcopies := secs.foldl NSet.rem m.xcopies })
  { s1 with cores := s1.cores.filterMap (fun (c, x) =>
      let y := { x with clean := secs.foldl NSet.rem x.clean, ro := secs.foldl NSet.rem x.ro }
      if y = CoreSt.reset then none else some (c, y)) }

/-- Some bytes put into a pending version, f giving each its entry from the value and the one it had; the marks go by granule (R350): tagged
data marks the granules it touches, untagged data clears those it covers whole and takes the mark of the others. -/
def putBytes (f : Byte → Bool → Option PByte → Option PByte) (bytes : NMap PByte) (pa : Nat) (data : List Byte) (tag : Bool) : NMap PByte :=
  let n := data.length
  let marked (g : Nat) : Bool := (List.range 8).any (fun i => (NMap.look bytes (8 * g + i)).any PByte.tag)
  let mark (a : Nat) : Bool := let g := a / 8; tag || (marked g && !(decide (pa ≤ 8 * g) && decide (8 * g + 8 ≤ pa + n)))
  let m1 := (data.zipIdx).foldl (fun m (b, i) =>
    match f b (mark (pa + i)) (NMap.look m (pa + i)) with
    | some x => NMap.put m (pa + i) x
    | none => m) bytes
  if tag then (granules pa n).foldl (fun m g => (List.range 8).foldl (fun m i => match NMap.look m (8 * g + i) with
    | some x => NMap.put m (8 * g + i) { x with tag := true }
    | none => m) m) m1
  else m1

/-- The same bytes of every pending version that holds them take the value (R179); what was published before gives way to it. -/
def pendUpdate (bytes : NMap PByte) (pa : Nat) (data : List Byte) (tag : Bool) : NMap PByte :=
  putBytes (fun b t old => old.map (fun p => { p with val := b, tag := t, pubs := [] })) bytes pa data tag

/-- A write in the home order (R261): a sync-class store, an atomic, an engine or fabric write. It writes the committed
version and the same bytes of every pending version, and invalidates the copies. -/
def State.homeWrite (s : State) (by' : Writer) (pa : Nat) (data : List Byte) (tag : Bool) : State :=
  if data.isEmpty then s
  else
    let s1 := (s.commitWrite by' pa data tag).invalidate pa data.length
    s1.updMem (fun m => { m with
      pend := m.pend.map (fun p => { p with bytes := pendUpdate p.bytes pa data tag })
      peerPend := m.peerPend.map (fun p => { p with bytes := pendUpdate p.bytes pa data tag }) })

/-- A home-order write of marked data. -/
def State.homeWriteM (s : State) (by' : Writer) (pa : Nat) (data : List (Byte × Bool)) : State :=
  (markRuns pa data).foldl (fun (s : State) r => s.homeWrite by' r.1 r.2.1 r.2.2) s

/-! ### Settling pending versions (R263, R264) -/

/-- Addresses of pending bytes a selection takes. -/
def pendKeys (ps : List Pend) (sel : Pend → Nat → Bool) : NSet :=
  ps.foldl (fun acc p => p.bytes.foldl (fun acc e => if sel p e.1 then NSet.add acc e.1 else acc) acc) []

/-- The 8-byte granules of some addresses. -/
def granulesOf (as : NSet) : NSet := as.foldl (fun acc a => NSet.add acc (a / 8)) ([] : NSet)

/-- The lines of a set in which some bytes lie. -/
def keepLines (lines : NSet) (bytes : NMap PByte) : NSet := lines.filter (fun l => bytes.any (fun e => lineOf e.1 == l))

/-- What the versions that a selection takes offer at an address, with their writers. A byte that another team overwrote in the shared L1
while it was dirty is in no version, as long as the other's stands (R278). -/
def State.offered (s : State) (sel : Pend → Nat → Bool) (pa : Nat) : List (Writer × PByte) :=
  let holds (p : Pend) : Option PByte := NMap.look p.bytes pa
  let stands := s.mem.pend.any (fun p => (holds p).any (fun b => !b.lost))
  s.mem.pend.filterMap (fun p => match holds p with
    | some b => if sel p pa && !(b.lost && stands) then some (some (s.ctxOf p.launch, p.launch), b) else none
    | none => none)

/-- What the versions of peers offer. -/
def State.offeredPeer (s : State) (sel : PeerPend → Nat → Bool) (pa : Nat) : List (Writer × PByte) :=
  s.mem.peerPend.filterMap (fun p => if sel p pa then (NMap.look p.bytes pa).map (fun b => (none, b)) else none)

/-- One of the teams is chosen for each byte of a granule (R264). -/
def chooseBytes (offer : State → Nat → List (Writer × PByte)) (g : Nat) (s : State) : List (Nat × Writer × PByte) × State :=
  (List.range 8).foldl (fun (got, s) i =>
    match offer s (8 * g + i) with
    | [] => (got, s)
    | [x] => (got ++ [(8 * g + i, x)], s)
    | x :: xs =>
      let (k, s1) := s.pick (xs.length + 1)
      (got ++ [(8 * g + i, ((x :: xs)[k]?).getD x)], s1)) ([], s)

/-- Settles the bytes that are offered in one granule: they go into the committed version, all eight as one write (R350). -/
def State.settleGranule (offer : State → Nat → List (Writer × PByte)) (s : State) (g : Nat) : State :=
  let (got, s1) := chooseBytes offer g s
  let s2 := got.foldl (fun s x => s.logLine x.2.1 x.1) s1
  let s3 := match got with
    | [] => s2
    | (_, w, _) :: _ =>
      if got.length == 8 then s2.commitWrite w (8 * g) (got.map (fun x => x.2.2.val)) (got.any (fun x => x.2.2.tag))
      else got.foldl (fun (s : State) x => s.commitWrite x.2.1 x.1 [x.2.2.val] x.2.2.tag) s2
  if got.isEmpty then s3 else s3.invalidate (8 * g) 8

/-- Settles every selected pending byte of this device's teams and of peers', lowest granule first, one of the teams chosen for each byte (R264,
R295). What was settled leaves the selected versions. -/
def State.settle (s : State) (sel : Pend → Nat → Bool) (selp : PeerPend → Nat → Bool) : State :=
  let keys := (pendKeys s.mem.pend sel).filter (fun pa => !(s.offered sel pa).isEmpty)
  let peerKeys := s.mem.peerPend.foldl (fun acc p => p.bytes.foldl (fun acc e => if selp p e.1 then NSet.add acc e.1 else acc) acc) keys
  let s1 := (granulesOf peerKeys).foldl (State.settleGranule (fun s pa => s.offered sel pa ++ s.offeredPeer selp pa)) s
  s1.updMem (fun m => { m with
    pend := (m.pend.map (fun p =>
      let bytes := p.bytes.filter (fun e => !(sel p e.1 && NSet.has keys e.1))
      { p with bytes := bytes, spilled := keepLines p.spilled bytes })).filter (fun p => !p.bytes.isEmpty)
    peerPend := (m.peerPend.map (fun p =>
      let bytes := p.bytes.filter (fun e => !selp p e.1)
      { p with bytes := bytes, spilled := keepLines p.spilled bytes })).filter (fun p => !p.bytes.isEmpty) })

/-- No version of a team, of a peer. -/
def noPend : Pend → Nat → Bool := fun _ _ => false
def noPeer : PeerPend → Nat → Bool := fun _ _ => false

/-- Marks the teams whose bytes a selection takes as merged early in their phase (R328). -/
def State.markEarly (s : State) (sel : Pend → Nat → Bool) : State :=
  s.mem.pend.foldl (fun s p =>
    if p.bytes.any (fun e => sel p e.1) then s.updTeam p.team (fun t => { t with early := true }) else s) s

/-- Merges a line early (R263 event 2): every pending plain byte of the line settles into the committed version. -/
def State.mergeLine (s : State) (line : Nat) : State :=
  let sel : Pend → Nat → Bool := fun _ pa => lineOf pa == line
  (s.markEarly sel).settle sel (fun _ pa => lineOf pa == line)

/-! ### Partials of reductions (R185) -/

/-- Applies one core's partial of a sector to the home, element by element. -/
def State.applyPartial (s : State) (p : Partial) : State :=
  match Ty.ofCode p.ty with
  | none => s
  | some t =>
    p.vals.foldl (fun s (pa, x) =>
      let n := t.width / 8
      let o := leNat (s.mem.hbm.read pa n)
      let tag := s.mem.hbm.tagged pa n || NSet.has p.tags pa
      s.homeWrite (some (p.ctx, 0)) pa (leBytes n (atomNew t p.op.val o x.toNat 0)) tag) s

/-- A combine merges the line early (R263) and applies every partial of a sector in ascending core order. -/
def State.combine (s : State) (sector : Nat) : State :=
  let mine := (List.range 256).filterMap (fun c => s.mem.parts.find? (fun p => p.core == c && p.sector == sector))
  if mine.isEmpty then s
  else
    let s1 := (s.mergeLine (sector * 64 / 256 * 256)).updMem (fun m => { m with parts := m.parts.filter (fun p => p.sector != sector) })
    mine.foldl State.applyPartial s1

/-- Combines the four sectors of a line. -/
def State.combineLine (s : State) (line : Nat) : State :=
  (List.range 4).foldl (fun s i => s.combine (line / 64 + i)) s

/-- The home prepares a line for an atomic, a lock or an engine's claim: partials combined, pending bytes merged. -/
def State.claimLine (s : State) (line : Nat) : State := (s.combineLine line).mergeLine line

/-! ### Reads -/

/-- A team's own pending byte. -/
def State.ownByte (s : State) (u : Team) (pa : Nat) : Option PByte :=
  (s.mem.pend.find? (fun p => p.team == u.id)).bind (fun p => NMap.look p.bytes pa)

/-- What a load of a team finds at the home: the committed byte, or that of the copy of a line that it has locked (R189). -/
def State.homeByte (s : State) (u : Team) (pa : Nat) : Byte × Bool :=
  match s.lockAt pa with
  | some k => if k.holder == u.id && !k.absent then (k.copy.bytes.read pa, k.copy.tagged pa 1) else (s.mem.hbm.bytes.read pa, s.mem.hbm.tagged pa 1)
  | none => (s.mem.hbm.bytes.read pa, s.mem.hbm.tagged pa 1)

/-- The pending bytes of a team's group at an address, the latest store first. -/
def State.groupBytes (s : State) (u : Team) (pa : Nat) : List PByte :=
  let bs := s.mem.pend.filterMap (fun p => if p.launch == u.launch && p.group == u.group then NMap.look p.bytes pa else none)
  sortKey (fun b => 2 ^ 64 - b.seq) bs

/-- The value of a pending byte that is ordered before the loads of a team of its group (R265): the latest published by a mark that an
acquire of the team has passed. -/
def PByte.ordered (b : PByte) (u : Team) : Option (Byte × Bool) := (b.pubs.find? (fun x => decide (x.1 ≤ u.acq))).map Prod.snd

/-- The two views that a plain load of a page with C = 1 may have of a byte through the shared L1 (R265): what is ordered before it, and the
latest store of its group. -/
def State.orderedView (s : State) (u : Team) (pa : Nat) : Byte × Bool :=
  match s.ownByte u pa with
  | some b => (b.val, b.tag)
  | none => ((s.groupBytes u pa).findSome? (fun b => b.ordered u)).getD (s.homeByte u pa)
def State.latestView (s : State) (u : Team) (pa : Nat) : Byte × Bool :=
  match s.ownByte u pa with
  | some b => (b.val, b.tag)
  | none => ((s.groupBytes u pa).head?.map (fun b => (b.val, b.tag))).getD (s.homeByte u pa)

/-- What the home may answer for a byte to a plain load of a page with C = 0 (R265). -/
def State.homeAlts (s : State) (u : Team) (pa : Nat) : List (Byte × Bool) :=
  match s.ownByte u pa with
  | some b => [(b.val, b.tag)]
  | none =>
    let group := s.groupBytes u pa
    let ord := group.filter (fun b => (b.ordered u).isSome)
    if ord.isEmpty then s.homeByte u pa :: group.map (fun b => (b.val, b.tag)) else ord.map (fun b => (b.val, b.tag))

/-- Byte i of a word. -/
def wordByte (w : Word) (i : Nat) : Byte := BitVec.ofNat 8 (w.toNat / 2 ^ (8 * i))

/-- What an invariant load may return for a byte (R84): its value before, or one after a write in the life of the launch. -/
def State.invAlts (s : State) (u : Team) (pa : Nat) : List (Byte × Bool) :=
  let kept := match s.launch? u.launch with | some l => NMap.getD l.icache (pa / 4 * 4) [] | none => []
  (s.homeByte u pa :: (s.groupBytes u pa).map (fun b => (b.val, b.tag))) ++ kept.map (fun w => (wordByte w.1 (pa % 4), false))

/-- One of some alternatives, freely chosen where they differ. -/
def State.oneOf {α : Type} [DecidableEq α] (s : State) (d : α) (xs : List α) : α × State :=
  match xs with
  | [] => (d, s)
  | x :: rest => if rest.all (fun y => y == x) then (x, s) else let (i, s1) := s.pick (rest.length + 1); (((x :: rest)[i]?).getD x, s1)

/-- How a load sees its bytes (R83, R84, R179): in the home order, as a plain one of a page with the C bit, in views that its whole request
shares or that each part chooses, or as an invariant one. -/
inductive Sight where
  | home
  | plain (c : Bool) (view : Option Bool)
  | inv
  deriving DecidableEq, Repr

/-- Each byte chosen by itself. -/
def State.bytewise (s : State) (alts : State → Nat → List (Byte × Bool)) (pa n : Nat) : Marked × State :=
  (List.range n).foldl (fun (bs, s) i => let (b, s1) := s.oneOf (0, false) (alts s (pa + i)); (bs ++ [b], s1)) ([], s)

/-- Bytes a load of a team returns, with their marks (R178, R179, R189, R262, R263, R265). An invariant load waits for nothing: no partial
is combined for it (R84). -/
def State.loadBytes (s : State) (u : Team) (k : Sight) (pa n : Nat) : Marked × State :=
  let s0 := if k == .inv then s
    else (List.range (sectorOf (pa + n - 1) - sectorOf pa + 1)).foldl (fun s i => s.combine (sectorOf pa + i)) s
  let at' (f : Nat → Byte × Bool) : Marked := (List.range n).map (fun i => f (pa + i))
  match k with
  | .home => (at' (fun a => match s0.ownByte u a with | some b => (b.val, b.tag) | none => s0.homeByte u a), s0)
  | .plain true view =>
    let old := at' (s0.orderedView u)
    let new := at' (s0.latestView u)
    match view with
    | some v => (if v then new else old, s0)
    | none => s0.oneOf old [old, new]
  | .plain false _ => s0.bytewise (fun s a => s.homeAlts u a) pa n
  | .inv => s0.bytewise (fun s a => s.invAlts u a) pa n

/-! ### Plain stores (R179, R263, R278) -/

/-- A team's store into the L1 that it shares overwrites the dirty bytes of the core's other teams there (R278). -/
def overwritten (core team pa n : Nat) (p : Pend) : Pend :=
  if p.core == core && p.team != team then
    { p with bytes := (List.range n).foldl (fun m i => match NMap.look m (pa + i) with
        | some b => if b.inL1 then NMap.put m (pa + i) { b with inL1 := false, lost := true } else m
        | none => m) p.bytes }
  else p

/-- A plain store into a team's pending version (R263, R278). -/
def State.pendWrite (s : State) (t : Team) (pa : Nat) (data : List Byte) (tag : Bool) (l1 : Bool) : State :=
  let seq := s.mem.seq + 1
  let put (m : NMap PByte) : NMap PByte := putBytes (fun b g old => some { val := b, tag := g, seq := seq, inL1 := l1, kept := false, lost := false
                                                                           pubs := (old.map PByte.pubs).getD [] }) m pa data tag
  let others := if l1 then s.mem.pend.map (overwritten t.core t.id pa data.length) else s.mem.pend
  let pend := if others.any (fun p => p.team == t.id)
    then others.map (fun p => if p.team == t.id then { p with core := t.core, bytes := put p.bytes } else p)
    else others ++ [{ team := t.id, launch := t.launch, group := t.group, core := t.core, phase := s.phaseOf t, bytes := put [], spilled := [] }]
  (s.updMem (fun m => { m with pend := pend, seq := seq })).invalidate pa data.length

/-- A dirty byte leaves its L1 for its version; the sector stays there until the commit (R278). -/
def PByte.flush (b : PByte) : PByte := if b.inL1 then { b with inL1 := false, kept := true } else b

/-- Flushes the dirty bytes that a selection takes. -/
def State.flushBytes (s : State) (sel : Pend → Nat → Bool) : State :=
  s.updMem (fun m => { m with pend := m.pend.map (fun p => { p with bytes := p.bytes.map (fun (a, b) => (a, if sel p a then b.flush else b)) }) })

/-- Publishes the pending bytes of some teams to their groups with a new mark (R265). -/
def PByte.publish (mark : Nat) (b : PByte) : PByte :=
  match b.pubs with
  | (_, v) :: _ => if v == (b.val, b.tag) then b else { b with pubs := (mark, b.val, b.tag) :: b.pubs }
  | [] => { b with pubs := [(mark, b.val, b.tag)] }
def State.publish (s : State) (sel : Pend → Bool) : State :=
  let mark := s.mem.seq + 1
  s.updMem (fun m => { m with seq := mark, pend := m.pend.map (fun p =>
    if sel p then { p with bytes := p.bytes.map (fun (a, b) => (a, b.publish mark)) } else p) })

/-- Sectors that a core's L1 holds: clean and read-only copies, dirty and flushed bytes; and what its carve has room for (R59). -/
def State.l1Sectors (s : State) (core : Nat) : NSet :=
  let x := s.coreSt core
  let held := (x.clean ++ x.ro).foldl NSet.add ([] : NSet)
  s.mem.pend.foldl (fun acc p => if p.core == core then p.bytes.foldl (fun acc e => if e.2.inL1 || e.2.kept then NSet.add acc (sectorOf e.1) else acc) acc else acc) held
def State.l1Room (s : State) (core pa : Nat) : Bool :=
  let held := s.l1Sectors core
  NSet.has held (sectorOf pa) || decide (held.length < carveL1 (s.coreSt core).carve * 16)

/-! ### Version space (R280, R359) -/

/-- The set of the slice's L2 that a line falls in: 512 sets of 16 ways (log 10). -/
def State.setOf (s : State) (line : Nat) : Nat := s.homeOf line * 512 + line / 16384 % 512

/-- The lines of pending versions, and those that lie in version ways: one version of a line per team. -/
def versionLines (bytes : NMap PByte) : NSet := bytes.foldl (fun acc e => NSet.add acc (lineOf e.1)) ([] : NSet)
def State.wayLines (s : State) : List Nat :=
  s.mem.pend.flatMap (fun p => (versionLines p.bytes).filter (fun l => !NSet.has p.spilled l))
    ++ s.mem.peerPend.flatMap (fun p => (versionLines p.bytes).filter (fun l => !NSet.has p.spilled l))

/-- Versions of a context in its spill area. -/
def State.spiltOf (s : State) (ctx : Nat) : Nat :=
  ((s.mem.pend.filter (fun p => s.ctxOf p.launch == ctx)).map (fun p => p.spilled.length)).foldl (· + ·) 0
    + ((s.mem.peerPend.filter (fun p => p.ctx == ctx)).map (fun p => p.spilled.length)).foldl (· + ·) 0

/-- Ways per set that may hold pending versions. -/
def State.vways (s : State) : Nat := let v := dw (NMap.getD s.mgmt.regs 0 4) 3 0; v

/-- Where the first byte of a new version of a line would go: 0 a way of its set, 1 the spill area of a context, 2 nowhere. -/
def State.versionRoom (s : State) (ctx line : Nat) : Nat :=
  if (s.wayLines.filter (fun l => s.setOf l == s.setOf line)).length < s.vways then 0
  else if (s.ctx? ctx).any (fun c => decide ((s.spiltOf ctx + 1) * 288 ≤ c.vspillSize)) then 1
  else 2

/-! ### Translation (R74-R80) -/

/-- What a translated address reaches (R77): the aperture, the device or group number, the address there, the leaf's bits S, C, RAP, HA, and
the PASID of the context, which tags host accesses (R74). -/
structure Hit where
  ap   : Nat
  dev  : Nat
  addr : Nat
  sync : Bool
  c    : Bool
  rap  : Bool
  ha   : Bool
  pasid : Nat
  deriving DecidableEq, Repr

/-- How a translation ends (R349). -/
inductive Xlat where
  | hit (h : Hit)
  | miss
  | malformed
  | noPerm
  deriving DecidableEq, Repr

/-- Kinds of access a leaf permits (R78). -/
inductive Need where
  | read | write | both | exec
  deriving DecidableEq, Repr

/-- Bits of a leaf (R76). -/
def leafBit (x : DWord) (i : Nat) : Bool := x.getLsbD i

/-- Size of the page a leaf's PS names (R75). -/
def pageSize (x : DWord) : Nat :=
  match dw x 11 10 with
  | 0 => 4096 | 1 => 65536 | 2 => 2 ^ 21
  | _ => 2 ^ 30

/-- Level a leaf's PS names. -/
def pageLevel (x : DWord) : Nat :=
  match dw x 11 10 with
  | 0 => 0 | 1 => 0 | 2 => 1
  | _ => 2

/-- Whether a leaf found at a level is malformed (R75, R76, R77). -/
def leafBad (x : DWord) (level : Nat) : Bool :=
  let base := dw x 63 30 * 4096
  leafBit x 15 || pageLevel x != level || base % pageSize x != 0
    || (dw x 5 4 == 0 && (dw x 29 16 != 0 || !paExists base || !paExists (base + pageSize x - 1)
        || stackOf base != stackOf (base + pageSize x - 1)))

/-- Checks a leaf's permission (R78). -/
def permits (x : DWord) : Need → Bool
  | .read => leafBit x 1
  | .write => leafBit x 2
  | .both => leafBit x 1 && leafBit x 2
  | .exec => leafBit x 3

/-! ### Page requests (R346) -/

/-- Whether the page-request ring is enabled and has room. -/
def FrontSt.pgrRoom (f : FrontSt) : Bool :=
  let g := dw f.pgrBase 4 0
  decide (4 ≤ g ∧ g ≤ 16) && decide (f.pgrTail < f.pgrHead + 2 ^ g)

/-- Whether a page request is owed a record (R346). -/
def PageReq.owed (q : PageReq) : Bool := q.seqs.isEmpty || q.bits != q.written

/-- Writes the record of a page request, when one is owed and the ring has room. -/
def State.pgrWrite (s : State) (r : PageReq) : State :=
  if !r.owed || !s.front.pgrRoom || !s.hostReach then s
  else
    let n := s.front.pgrTail
    let b := s.front.pgrBase
    let rec' := leBytes 8 (r.ctx * 2 ^ 48 + r.bits * 2 ^ 45) ++ leBytes 8 (r.page * 4096) ++ leBytes 8 n ++ leBytes 8 r.since
    let a := dw b 59 12 * 4096 + 32 * (n % 2 ^ dw b 4 0)
    let s1 := s.hostWrite none a rec'
    let s2 := s1.updFront (fun f => { f with
      pgrTail := n + 1
      pages := f.pages.map (fun (q : PageReq) => if q.ctx == r.ctx && q.page == r.page
        then { q with written := q.bits, seqs := q.seqs ++ [n] } else q) })
    s2.raiseVector 0 (dw b 11 5)

/-- Raises or joins the page request of a context's page, with the access bits of the request: bit 2 write, bit 1
execute, bit 0 atomic or lock. Its record is written at once unless an older one waits for its own. -/
def State.pageMiss (s : State) (ctx va bits : Nat) : State :=
  let page := va / 4096
  let s1 := match s.front.pages.find? (fun (q : PageReq) => q.ctx == ctx && q.page == page) with
    | some _ => s.updFront (fun f => { f with pages := f.pages.map (fun (q : PageReq) =>
        if q.ctx == ctx && q.page == page then { q with bits := Nat.lor q.bits bits } else q) })
    | none =>
      let q : PageReq := { ctx := ctx, page := page, bits := bits, written := 0, seqs := [], since := s.clk }
      s.updFront (fun f => { f with pages := f.pages ++ [q] })
  match s1.front.pages.find? PageReq.owed with
  | some q => if q.ctx == ctx && q.page == page then s1.pgrWrite q else s1
  | none => s1

end Sys2Proof.Machine
end

