-- ==== Sys2Proof/Machine/Spans.lean ====
section
/-! DEFINITION. How many registers each vector operand of an instruction names (R118, R131, R175, R181), and the bits of
its word that the signature hashes (R143). -/

namespace Sys2Proof

/-- How many registers a vector field names: one; a pair; four, aligned; the width of the mood type; ATCAS's pair of
operands; the width of a named type; a run of scalars. -/
inductive Span where
  | one | pair | four | wide | cas
  | typed (code : Nat)
  | run (n : Nat)
  deriving DecidableEq, Repr

/-- A second source's register, if it is one. -/
def Src.spans (sp : Span) : Src → List (Reg × Span)
  | .reg r => [(r, sp)]
  | .lit _ => []

/-- The register operands of an instruction with their spans. -/
def Instr.spans : Instr → List (Reg × Span)
  | .nop => []
  | .bra b => b.spans .one
  | .brc _ _ b => b.spans .one
  | .brany _ _ b => b.spans .one
  | .brall _ _ b => b.spans .one
  | .jmp b => b.spans .one
  | .call d b => [(d, .one)] ++ b.spans .one
  | .ret b => [(b, .one)]
  | .loop d b => [(d, .one)] ++ b.spans .one
  | .fuse => []
  | .yield => []
  | .exit => []
  | .stop => []
  | .sigchk b => b.spans .one
  | .sigrd d => [(d, .wide)]
  | .elect _ => []
  | .mood _ b => b.spans .wide
  | .moodrd d _ => [(d, .wide)]
  | .cmp _ _ a b => [(a, .wide)] ++ b.spans .wide
  | .pand _ _ _ => []
  | .por _ _ _ => []
  | .pxor _ _ _ => []
  | .pnot _ _ => []
  | .pmov _ a b => [(a, .wide)] ++ b.spans .wide
  | .vote _ _ _ => []
  | .ballot d _ b => [(d, .wide)] ++ b.spans .wide
  | .selp d a _ => [(d, .wide)] ++ [(a, .wide)]
  | .srd d _ => [(d, .wide)]
  | .swrGen b => b.spans .wide
  | .swrSig b => b.spans .wide
  | .mov d a => [(d, .wide)] ++ [(a, .wide)]
  | .movi d b => [(d, .wide)] ++ b.spans .wide
  | .add d a b => [(d, .wide)] ++ [(a, .wide)] ++ b.spans .wide
  | .sub d a b => [(d, .wide)] ++ [(a, .wide)] ++ b.spans .wide
  | .mul d a b => [(d, .wide)] ++ [(a, .wide)] ++ b.spans .wide
  | .mulhi d a b => [(d, .wide)] ++ [(a, .wide)] ++ b.spans .wide
  | .fma d a b => [(d, .wide)] ++ [(a, .wide)] ++ b.spans .wide
  | .fms d a b => [(d, .wide)] ++ [(a, .wide)] ++ b.spans .wide
  | .fnma d a b => [(d, .wide)] ++ [(a, .wide)] ++ b.spans .wide
  | .min d a b => [(d, .wide)] ++ [(a, .wide)] ++ b.spans .wide
  | .max d a b => [(d, .wide)] ++ [(a, .wide)] ++ b.spans .wide
  | .abs d a => [(d, .wide)] ++ [(a, .wide)]
  | .neg d a => [(d, .wide)] ++ [(a, .wide)]
  | .clamp d a b => [(d, .wide)] ++ [(a, .wide)] ++ b.spans .wide
  | .div d a b => [(d, .wide)] ++ [(a, .wide)] ++ b.spans .wide
  | .rem d a b => [(d, .wide)] ++ [(a, .wide)] ++ b.spans .wide
  | .sqrt d a => [(d, .wide)] ++ [(a, .wide)]
  | .rsq d a => [(d, .wide)] ++ [(a, .wide)]
  | .rcp d a => [(d, .wide)] ++ [(a, .wide)]
  | .exp2 d a => [(d, .wide)] ++ [(a, .wide)]
  | .log2 d a => [(d, .wide)] ++ [(a, .wide)]
  | .sin d a => [(d, .wide)] ++ [(a, .wide)]
  | .cos d a => [(d, .wide)] ++ [(a, .wide)]
  | .tanh d a => [(d, .wide)] ++ [(a, .wide)]
  | .cvt _ d a st => [(d, .wide)] ++ [(a, (.typed st.val))]
  | .pack _ d a b => [(d, .wide)] ++ [(a, .one)] ++ b.spans .one
  | .unpack d a b => [(d, .wide)] ++ [(a, .wide)] ++ b.spans .wide
  | .dot4 d a b => [(d, .wide)] ++ [(a, .wide)] ++ b.spans .wide
  | .dot2 d a b => [(d, .wide)] ++ [(a, .wide)] ++ b.spans .wide
  | .frc d a => [(d, .wide)] ++ [(a, .wide)]
  | .rnd d a => [(d, .wide)] ++ [(a, .wide)]
  | .and d a b => [(d, .wide)] ++ [(a, .wide)] ++ b.spans .wide
  | .or d a b => [(d, .wide)] ++ [(a, .wide)] ++ b.spans .wide
  | .xor d a b => [(d, .wide)] ++ [(a, .wide)] ++ b.spans .wide
  | .not d a => [(d, .wide)] ++ [(a, .wide)]
  | .shl d a b => [(d, .wide)] ++ [(a, .wide)] ++ b.spans .wide
  | .shr d a b => [(d, .wide)] ++ [(a, .wide)] ++ b.spans .wide
  | .sar d a b => [(d, .wide)] ++ [(a, .wide)] ++ b.spans .wide
  | .rot d a b => [(d, .wide)] ++ [(a, .wide)] ++ b.spans .wide
  | .popc d a => [(d, .wide)] ++ [(a, .wide)]
  | .clz d a => [(d, .wide)] ++ [(a, .wide)]
  | .brev d a => [(d, .wide)] ++ [(a, .wide)]
  | .bfe d a b => [(d, .wide)] ++ [(a, .wide)] ++ b.spans .wide
  | .bfi d a b => [(d, .wide)] ++ [(a, .wide)] ++ b.spans .wide
  | .addc d a b => [(d, .wide)] ++ [(a, .wide)] ++ b.spans .wide
  | .lea d a b => [(d, .pair)] ++ [(a, .pair)] ++ b.spans .wide
  | .qswap _ d a => [(d, .wide)] ++ [(a, .wide)]
  | .qbcast _ d a => [(d, .wide)] ++ [(a, .wide)]
  | .shfl _ d a b => [(d, .wide)] ++ [(a, .wide)] ++ b.spans .one
  | .scan _ d a => [(d, .wide)] ++ [(a, .wide)]
  | .redx _ d a => [(d, .wide)] ++ [(a, .wide)]
  | .matchRow d a => [(d, .wide)] ++ [(a, .wide)]
  | .matchAll _ a => [(a, .wide)]
  | .tshfl _ d a b => [(d, .wide)] ++ [(a, .wide)] ++ b.spans .one
  | .ld8 _ d a b => [(d, .one)] ++ [(a, .pair)] ++ b.spans .one
  | .ld16 _ d a b => [(d, .one)] ++ [(a, .pair)] ++ b.spans .one
  | .ld32 _ d a b => [(d, .one)] ++ [(a, .pair)] ++ b.spans .one
  | .ld64 _ d a b => [(d, .pair)] ++ [(a, .pair)] ++ b.spans .one
  | .ld128 _ d a b => [(d, .four)] ++ [(a, .pair)] ++ b.spans .one
  | .st8 _ d a b => [(d, .one)] ++ [(a, .pair)] ++ b.spans .one
  | .st16 _ d a b => [(d, .one)] ++ [(a, .pair)] ++ b.spans .one
  | .st32 _ d a b => [(d, .one)] ++ [(a, .pair)] ++ b.spans .one
  | .st64 _ d a b => [(d, .pair)] ++ [(a, .pair)] ++ b.spans .one
  | .st128 _ d a b => [(d, .four)] ++ [(a, .pair)] ++ b.spans .one
  | .pf _ a b => [(a, .pair)] ++ b.spans .one
  | .atadd _ d a b => [(d, .wide)] ++ [(a, .pair)] ++ b.spans .one
  | .atmin _ d a b => [(d, .wide)] ++ [(a, .pair)] ++ b.spans .one
  | .atmax _ d a b => [(d, .wide)] ++ [(a, .pair)] ++ b.spans .one
  | .atand _ d a b => [(d, .wide)] ++ [(a, .pair)] ++ b.spans .one
  | .ator _ d a b => [(d, .wide)] ++ [(a, .pair)] ++ b.spans .one
  | .atxor _ d a b => [(d, .wide)] ++ [(a, .pair)] ++ b.spans .one
  | .atxch _ d a b => [(d, .wide)] ++ [(a, .pair)] ++ b.spans .one
  | .atcas _ d a b => [(d, .cas)] ++ [(a, .pair)] ++ b.spans .one
  | .atinc _ d a b => [(d, .wide)] ++ [(a, .pair)] ++ b.spans .one
  | .rdadd _ d a b => [(d, .wide)] ++ [(a, .pair)] ++ b.spans .one
  | .rdmin _ d a b => [(d, .wide)] ++ [(a, .pair)] ++ b.spans .one
  | .rdmax _ d a b => [(d, .wide)] ++ [(a, .pair)] ++ b.spans .one
  | .rdand _ d a b => [(d, .wide)] ++ [(a, .pair)] ++ b.spans .one
  | .rdor _ d a b => [(d, .wide)] ++ [(a, .pair)] ++ b.spans .one
  | .rdxor _ d a b => [(d, .wide)] ++ [(a, .pair)] ++ b.spans .one
  | .lock d a b => [(d, .one)] ++ [(a, .pair)] ++ b.spans .one
  | .trylk d a => [(d, .one)] ++ [(a, .pair)]
  | .unlock d a => [(d, .one)] ++ [(a, .pair)]
  | .lkqry d a => [(d, .wide)] ++ [(a, .pair)]
  | .phhdr _ b => b.spans .one
  | .phend => []
  | .phwait d a _ => [(d, .wide)] ++ [(a, .one)]
  | .phrd _ d => [(d, .wide)]
  | .fence _ _ => []
  | .bar => []
  | .gbar => []
  | .waitp _ b => b.spans .one
  | .waitct a b => [(a, .one)] ++ b.spans .one
  | .ctset _ a b => [(a, .one)] ++ b.spans .one
  | .ctadd _ d a b => [(d, .wide)] ++ [(a, .one)] ++ b.spans .one
  | .ctrd d a => [(d, .wide)] ++ [(a, .one)]
  | .bld _ _ d a b => [(d, .one)] ++ [(a, .pair)] ++ [(b, .pair)]
  | .mma _ _ d a b => [(d, .one)] ++ [(a, .pair)] ++ [(b, .pair)]
  | .mmas _ _ d a b => [(d, .one)] ++ [(a, .pair)] ++ [(b, .pair)]
  | .accz _ _ d => [(d, .one)]
  | .accld _ _ d a b => [(d, .one)] ++ [(a, .pair)] ++ b.spans .one
  | .accst _ _ d a b => [(d, .one)] ++ [(a, .pair)] ++ b.spans .one
  | .accrd d a => [(d, .one)] ++ [(a, .one)]
  | .accwr d a => [(d, .one)] ++ [(a, .one)]
  | .spmld _ _ d a b => [(d, .one)] ++ [(a, .pair)] ++ b.spans .one
  | .qnt _ _ d a b => [(d, (.run 2))] ++ [(a, .pair)] ++ b.spans .one
  | .dqnt _ _ d a b => [(d, (.run 2))] ++ [(a, .pair)] ++ b.spans .one
  | .mxqry d => [(d, .wide)]
  | .cpsl _ _ d a b => [(d, .pair)] ++ [(a, .pair)] ++ b.spans .one
  | .hbind d a b => [(d, .one)] ++ [(a, .pair)] ++ b.spans .pair
  | .hwait d a => [(d, .one)] ++ [(a, .one)]
  | .hrel d a => [(d, .one)] ++ [(a, .one)]
  | .hstat d a => [(d, .wide)] ++ [(a, .one)]
  | .put _ _ d a b => [(d, .one)] ++ [(a, .pair)] ++ [(b, .pair)]
  | .get _ _ d a b => [(d, .one)] ++ [(a, .pair)] ++ [(b, .pair)]
  | .bulk _ _ d => [(d, (.run 4))]
  | .send _ _ d a => [(d, .one)] ++ [(a, .pair)]
  | .recv a => [(a, .pair)]
  | .fxqry d b => [(d, .wide)] ++ b.spans .one
  | .cjpost _ _ d => [(d, (.run 8))]
  | .cjcancel d a => [(d, .one)] ++ [(a, .one)]
  | .cjqry d a => [(d, .wide)] ++ [(a, .one)]
  | .trap b => b.spans .one
  | .chkerr d b => [(d, .wide)] ++ b.spans .one
  | .bkpt b => b.spans .one
  | .eret => []
  | .sysrd d _ => [(d, .wide)]
  | .syswr _ b => b.spans .one
  | .taskrd d _ => [(d, .wide)]
  | .deviceReset => []
  | .notifyWrite _ _ => []
  | .slotMap _ _ => []
  | .slotUnmap _ => []
  | .recordFetch _ => []
  | .recordCheck _ => []
  | .recordRelease _ => []
  | .groupPlace _ => []
  | .gangPlace _ => []
  | .affinityWiden _ => []
  | .preempt _ => []
  | .teamEvict _ => []
  | .teamRestore _ => []
  | .teamRetire _ => []
  | .launchComplete _ => []
  | .watchdogExpire _ => []
  | .clockThrottle _ => []
  | .slotOwnerWrite _ _ => []
  | .ctxdescWrite _ _ => []
  | .xlinvPage _ _ => []
  | .xlinvContext _ _ => []
  | .xlinvAll _ => []
  | .xlinvDone => []
  | .translationWalk _ => []
  | .pageRequestWrite => []
  | .pgrdoneFilled _ => []
  | .pgrdoneTranslationFault _ => []
  | .pgrdoneProtectionFault _ => []
  | .memoryResponse _ _ _ => []
  | .holdLimitBounce _ => []
  | .parenthesisReissue _ => []
  | .backoffExpire _ => []
  | .homeLoad _ => []
  | .writeNotice _ => []
  | .sectorFlush _ _ => []
  | .homeSyncStore _ => []
  | .homeAtomic _ => []
  | .homeReduction _ => []
  | .recall _ _ => []
  | .writeUpdate _ _ => []
  | .updateSwitch _ => []
  | .missFill _ _ => []
  | .arrival _ _ _ => []
  | .phaseRaise _ _ => []
  | .phaseCommit _ => []
  | .commitBroadcast _ _ => []
  | .peerCommitMessage _ _ => []
  | .peerDiscardMessage _ _ => []
  | .lockTimeout _ => []
  | .absenceTimerExpire _ => []
  | .deadlockProbe _ => []
  | .engineOpStart _ => []
  | .engineOpComplete _ => []
  | .sparsityEntryArrive _ _ => []
  | .matrixQueryCommand _ => []
  | .matrixBadCommand _ => []
  | .copyLineLand _ => []
  | .copyFull _ _ => []
  | .handleDrainDone _ _ => []
  | .copyCancel _ => []
  | .copyProgress _ => []
  | .copyBadCommand _ => []
  | .conjunctionQueryCommand _ => []
  | .conjunctionBadCommand _ => []
  | .fabricQueryCommand _ => []
  | .fabricBadCommand _ => []
  | .packetForm _ => []
  | .fyoloInbound _ => []
  | .packetAck _ _ _ _ => []
  | .multicastForward _ => []
  | .flitReceive _ _ _ => []
  | .linkAck _ _ => []
  | .linkNak _ _ => []
  | .acktoExpire _ => []
  | .laneLoss _ _ => []
  | .retrainDone _ => []
  | .endToEndTimeout _ _ => []
  | .fyselfWrite _ => []
  | .fyrtinvWrite _ => []
  | .conjunctionRoundIssue _ => []
  | .conjunctionRoundComplete _ _ _ => []
  | .callReplyWrite _ _ => []
  | .faultRecordDrain _ => []
  | .teamRestart _ => []
  | .mxresetWrite _ => []
  | .matrixResetError _ => []
  | .matrixResetDone _ => []
  | .ctxResume _ => []
  | .ctxDestroy _ => []
  | .vfswitchWrite _ => []
  | .switchUnitCommit _ => []
  | .funcPreempt _ => []
  | .funcRestore _ => []
  | .ckOpen _ => []
  | .ckRollback _ => []
  | .ckClose _ => []
  | .svcDrain _ _ => []
  | .svcReturn _ _ => []
  | .svcRepair _ _ => []
  | .svcUpdate _ _ => []
  | .unitEmpty _ _ => []
  | .unitReady _ _ => []
  | .scrubLine _ _ => []
  | .resync _ => []
  | .spdmGetVersion => []
  | .spdmGetCapabilities => []
  | .spdmNegotiateAlgorithms => []
  | .spdmGetDigests => []
  | .spdmGetCertificate => []
  | .spdmChallenge _ => []
  | .spdmGetMeasurements _ => []
  | .spdmUnsupported _ => []
  | .functionLevelReset _ => []
  | .hostCompletionError _ _ => []
  | .hostLinkDown _ => []
  | .mdLaunchMessage _ _ => []
  | .mdAck _ _ => []
  | .mdConfirm _ => []
  | .mdAckTimeout _ => []
  | .mdSelfAbortTimeout _ => []
  | .mdAbort _ => []
  | .mdRaised _ _ => []
  | .mdCommit _ => []
  | .mdApplied _ _ => []
  | .mdRelease _ => []
  | .registerWrite _ _ => []
  | .replayStoreReissue _ => []
  | .failedPathMarkExpire _ _ _ => []
  | .peerCommitAck _ _ => []
  | .throttleEnd _ => []
  | .hostLinkUp _ => []

/-- Bits [31:21] of the instruction word (R143). -/
def Instr.sigBits (i : Instr) : Nat :=
  match encodeFields i with
  | some f => f.op * 8 + f.x.toNat * 4 + f.cm
  | none => 0

/-- Words of the instruction in its clause. -/
def Instr.words (i : Instr) : Nat := (encode i).length

end Sys2Proof
end

