-- ==== Sys2Proof/Machine/Ops.lean ====
section
/-! DEFINITION. The named operations: where an address lies, fragments and joins (R30-R36), line locks passed on (R188),
phases flushed (R192), copies started and withdrawn (R230), the end of a team, taking a fault (R327-R331) and the return
from one (R333), and the frame every instruction runs in. -/

namespace Sys2Proof.Machine

/-! ### Storage by location -/

/-- Base of a window (R67). -/
def winBase (i : Nat) : Nat := 0x1FF000000000000 + i * 2 ^ 32

/-- The storage of a space other than local HBM. -/
def State.store (s : State) (l : Loc) : Store :=
  match l.space with
  | 1 => match s.group? l.x l.y with | some g => g.scratch | none => Store.empty
  | 2 => match s.group? l.x l.y with | some g => g.share | none => Store.empty
  | 3 => s.mem.chip
  | 4 => s.mem.ctr
  | 5 => s.mem.host
  | 6 => match s.team? l.x with | some t => t.priv | none => Store.empty
  | _ => s.mem.hbm

/-- The state with the storage of a space other than local HBM changed. -/
def State.updStore (s : State) (l : Loc) (f : Store → Store) : State :=
  match l.space with
  | 1 => s.updGroup l.x l.y (fun g => { g with scratch := f g.scratch })
  | 2 => s.updGroup l.x l.y (fun g => { g with share := f g.share })
  | 3 => s.updMem (fun m => { m with chip := f m.chip })
  | 4 => s.updMem (fun m => { m with ctr := f m.ctr })
  | 5 => s.updMem (fun m => { m with host := f m.host })
  | 6 => s.updTeam l.x (fun t => { t with priv := f t.priv })
  | _ => s.updMem (fun m => { m with hbm := f m.hbm })

/-- In-flight path of a location (R82). -/
def Loc.path (l : Loc) : Nat :=
  match l.space with
  | 0 => 0 | 1 => 1 | 6 => 1 | 2 => 2 | 3 => 3 | 4 => 3 | 5 => 6
  | _ => 4

/-- Size of the gang a group belongs to: the last gang may be smaller (R58). -/
def Launch.gangSize (l : Launch) (g : Nat) : Nat := min l.gang (l.groups - g / l.gang * l.gang)

/-- A window address of a lane of a team (R67-R73): its location, or the cause of the fault. A gang member that is not on the device, not placed yet
or ended, is a window-bounds fault; the share of one that is evicted whole is kept, and is reached as it was saved (DESIGN CHOICE, log 47). -/
def locateWindow (s : State) (t : Team) (lane va : Nat) : Except Nat Loc :=
  match s.launch? t.launch with
  | none => .error 10
  | some l =>
    let w := (va - winBase 0) / 2 ^ 32
    let o := (va - winBase 0) % 2 ^ 32
    match w with
    | 0 =>
      let p := privSlice l.carve t.n
      if o < p then .ok { space := 6, x := t.id, y := 0, addr := lane * p + o } else .error 10
    | 1 => if o < l.scratch then .ok { space := 1, x := t.launch, y := t.group, addr := o } else .error 10
    | 2 =>
      match s.group? t.launch t.group with
      | none => .error 10
      | some g =>
        let size := l.gangSize t.group
        let m := t.group / l.gang * l.gang + o / 256 % size
        if o < size * g.shareLen && (s.group? t.launch m).isSome then
          .ok { space := 2, x := t.launch, y := m, addr := o / (256 * size) * 256 + o % 256 }
        else .error 10
    | 3 =>
      match s.ctx? l.ctx with
      | none => .error 10
      | some c =>
        let d := o / 2 ^ 25
        let u := o % 2 ^ 25 / 65536
        if o < 2 ^ 26 && c.cspLo d ≤ u && u ≤ c.cspHi d then .ok { space := 3, x := 0, y := 0, addr := o } else .error 10
    | 4 =>
      match s.ctx? l.ctx with
      | none => .error 10
      | some c =>
        let d := o / 32768
        let n := o % 32768 / 8
        if o < 65536 && c.ctrLo d ≤ n && n ≤ c.ctrHi d then .ok { space := 4, x := 0, y := 0, addr := o } else .error 10
    | _ => .error 10

/-- Whether an address is a window address (R66). -/
def isWindow (va : Nat) : Bool := decide (winBase 0 ≤ va)

/-- A counter (die, number) from a counter-window address (R73). -/
def counterAddr (d n : Nat) : Nat := d * 32768 + 8 * n

/-! ### In-flight paths (R82) -/

/-- Whether a request of an instruction is still outstanding on a path. -/
def State.instOut (s : State) (inst path : Nat) : Bool := s.reqs.any (fun r => r.inst == inst && r.path == path)

/-- Drops the returned instructions at the head of a path's list: the count falls with the oldest (R82). -/
def dropReturned (out : Nat → Bool) : List Nat → List Nat
  | [] => []
  | i :: is => if out i then i :: is else dropReturned out is

/-- Retires the returned instructions of a team's paths. Transfers and copies in progress count as outstanding. -/
def State.retire (s : State) (t : Nat) : State :=
  let out (p i : Nat) : Bool := s.instOut i p || s.fab.transfers.any (fun x => x.inst == i)
    || s.groups.any (fun g => g.handles.any (fun h => h.2.slices.any (fun c => c.inst == i)))
  s.updTeam t (fun x => { x with paths := x.paths.filterMap (fun (p, l) =>
    let l' := dropReturned (out p) l
    if l'.isEmpty then none else some (p, l')) })

/-- Counts an instruction on paths at issue. -/
def Team.countPaths (t : Team) (ps : List Nat) (inst : Nat) : Team :=
  ps.foldl (fun t p => t.setPath p (t.path p ++ [inst])) t

/-- Whether a path's counter has room (R82). -/
def Team.pathRoom (t : Team) (ps : List Nat) : Bool := ps.all (fun p => decide ((t.path p).length < 1023))

/-! ### Fragments, joins and serial mode (R30-R36) -/

/-- The innermost serial record a fragment pushed. -/
def topSerial (t : Team) (e : Nat) : Option SerialRec := t.serial.find? (fun r => r.entry == e)

/-- The serial stack with a fragment's innermost record changed; none removes it. Records are kept innermost first. -/
def updSerial (e : Nat) (f : SerialRec → Option SerialRec) : List SerialRec → List SerialRec
  | [] => []
  | r :: rs => if r.entry = e then (match f r with | some r' => r' :: rs | none => rs) else r :: updSerial e f rs

/-- The state of a fragment that may go on (R30, R35): serial while it has a serial record open, ready otherwise. -/
def Team.readySt (t : Team) (e : Nat) : FragSt := if (topSerial t e).isSome then .serial else .ready

/-- Records 9 to 64 of a team, which lie in its save area (R36): the innermost ones. -/
def Team.serialSaved (t : Team) : List SerialRec := t.serial.take (t.serial.length - 8)

/-- A join that is closed gives its place to its outer: in the fragments and serial records it was current for, and in the joins inside
it (R32). -/
def Team.closeJoin (t : Team) (j outer : Nat) : Team :=
  { t with
    frags := t.frags.map (fun (e, f) => if f.join == j then (e, { f with join := outer }) else (e, f))
    joins := (NMap.del t.joins j).map (fun (k, r) => if r.outer == j then (k, { r with outer := outer }) else (k, r))
    serial := t.serial.map (fun (r : SerialRec) => if r.join == j then { r with join := outer } else r) }

/-- Closes a join when one fragment is left and nothing is parked; else fuses when all that remain are parked (R32). Answers the entry whose
current join has changed by it: the fragment that is left, the fused one. -/
def Team.joinTest (t : Team) (j : Nat) : Team × Option Nat :=
  match NMap.look t.joins j with
  | none => (t, none)
  | some r =>
    if r.arrived == 0 && r.expected == 1 then (t.closeJoin j r.outer, (t.frags.find? (fun (_, f) => f.join == j)).map Prod.fst)
    else if r.arrived == r.expected && r.expected != 0 then
      let here (f : Fragment) : Bool := f.join == j && f.st == .parked
      match t.frags.filter (fun (_, f) => here f) with
      | [] => (t, none)
      | (e, f) :: rest =>
        -- records that enclose the join go with the fused fragment
        let t1 := { t with serial := t.serial.map (fun (x : SerialRec) => if rest.any (fun y => y.1 == x.entry) then { x with entry := e } else x) }
        let g : Fragment := { f with
          st := t1.readySt e, pc := r.addr, join := r.outer, sig := 0, clause := none, latch := .none
          mask := rest.foldl (fun m x => m ||| x.2.mask) f.mask
          age := rest.foldl (fun a x => max a x.2.age) f.age }
        ({ t1 with frags := NMap.put (t.frags.filter (fun (_, f) => !here f)) e g, joins := NMap.del t.joins j }, some e)
    else (t, none)

/-- Whether join k is join j or lies inside it. -/
def Team.joinIn (t : Team) (j : Nat) : Nat → Nat → Bool
  | 0, k => k == j
  | fuel + 1, k => k == j || (match NMap.look t.joins k with | some r => t.joinIn j fuel r.outer | none => false)

/-- A fragment whose last lane has left is gone (R32); the serial records that enclose its join stay with a fragment of that join. -/
def Team.dropFrag (t : Team) (e : Nat) (f : Fragment) : Team :=
  let t1 := { t with frags := NMap.del t.frags e }
  match t1.frags.find? (fun (_, x) => t.joinIn f.join 8 x.join) with
  | some (h, _) => { t1 with serial := t.serial.map (fun (r : SerialRec) => if r.entry == e then { r with entry := h } else r) }
  | none => t1

/-- What happens when a fragment's PC has reached a place, or its last lane has left (R32, R35): a serial step at its innermost record's
reconvergence, or its end or arrival at its join, and again for the fragment that goes on. Of a record and a join the one opened later
is the inner. -/
def Team.settle : Nat → Team → Nat → Team
  | 0, t, _ => t
  | fuel + 1, t, e =>
    match t.frag? e with
    | none => t
    | some f =>
      match (topSerial t e).filter (fun r => r.join == f.join) with
      | some r =>
        if f.pc == r.reconv || f.mask == 0 then
          if r.side then
            let t' := { t with serial := updSerial e (fun _ => none) t.serial }
            let f' : Fragment := { f with mask := f.mask ||| r.lanes, pc := r.reconv, sig := 0, clause := none, st := t'.readySt e }
            Team.settle fuel (t'.setFrag e f') e
          else
            let f' : Fragment := { f with mask := r.lanes, pc := r.addr, sig := 0, clause := none }
            let t' := { t with serial := updSerial e (fun r => some { r with lanes := f.mask, side := true }) t.serial }
            Team.settle fuel (t'.setFrag e f') e
        else t
      | none =>
        let test (t : Team) : Team :=
          match t.joinTest f.join with
          | (t', some e') => Team.settle fuel t' e'
          | (t', none) => t'
        if f.mask == 0 then
          let t' := t.dropFrag e f
          match NMap.look t'.joins f.join with
          | none => t'
          | some r => test { t' with joins := NMap.put t'.joins f.join { r with expected := r.expected - 1 } }
        else
          match NMap.look t.joins f.join with
          | none => t
          | some r =>
            if f.pc == r.addr && f.st != .parked then
              let t' := t.setFrag e { f with st := .parked, clause := none }
              test { t' with joins := NMap.put t'.joins f.join { r with arrived := r.arrived + 1 } }
            else t

/-- Enough steps for every record and join of a team. -/
def settleFuel : Nat := 200

/-- Whether the clause a fragment is in has the yield bit set (R60). -/
def Fragment.yields (f : Fragment) : Bool := f.clause.any Clause.yield

/-- Moves a fragment: a transfer of control (R113, R143). The clause it was in is over (R60). -/
def Team.goto (t : Team) (e pc : Nat) : Team :=
  match t.frag? e with
  | none => t
  | some f => Team.settle settleFuel
      (t.setFrag e { f with pc := pc, sig := 0, clause := none, st := t.readySt e, latch := .none, starve := 0, yielded := f.yielded || f.yields }) e

/-! ### Line locks (R188, R363) -/

/-- Drops a team's lock request. -/
def State.dropLockReq (s : State) (team : Nat) : State :=
  { s with reqs := s.reqs.filter (fun r => !(r.team == team && (match r.op with | .lock _ _ _ _ => true | _ => false))) }

/-- Completes the LOCK or TRYLK a team waits in, with a status. -/
def State.lockStatus (s : State) (team status : Nat) : State :=
  ((s.dropLockReq team).updTeam team (fun t => { t with
    lockOut := false
    frags := t.frags.map (fun (e, f) => match f.latch with
      | .waiting 1 => (e, { f with latch := .done status })
      | _ => (e, f)) })).retire team

/-- Frees the lock-wait slot of a team on its core (R188). -/
def State.freeWaiter (s : State) (team : Nat) : State :=
  match s.team? team with
  | none => s
  | some t => s.updCore t.core (fun c => { c with waiters := c.waiters.filter (· != team) })

/-- The stop of a team's core, and the one a locked line stands at: its holder's, or its home. -/
def State.teamStop (s : State) (team : Nat) : Nat := match s.team? team with | some t => coreStop t.core | none => 0
def State.lockStop (s : State) (k : LineLock) : Nat := if k.absent || (s.team? k.holder).isNone then s.homeOf k.line else s.teamStop k.holder

/-- The line of a lock passes to the head of its queue, or returns home (R188); the data is the locked copy, or the
checkpoint when the holder was stopped (R363). -/
def State.passLock (s : State) (k : LineLock) (data : Store) : State :=
  let by' := some (match s.team? k.holder with | some t => (s.ctxOf t.launch, t.launch) | none => (0, 0))
  let home (s : State) : State := (List.range 32).foldl (fun s i =>
    let a := k.line + 8 * i
    if data.read a 8 == s.mem.hbm.read a 8 && data.tagged a 8 == s.mem.hbm.tagged a 8 then s
    else s.homeWrite by' a (data.read a 8) (data.tagged a 8)) s
  match k.queue with
  | [] => home (s.updMem (fun m => { m with locks := m.locks.filter (fun x => x.line != k.line) }))
  | (head, _) :: rest =>
    let away := match s.team? head with | some t => t.evicted | none => true
    let order := s.nextId
    let k' : LineLock := { k with
      holder := head, absent := away, check := data, copy := data, queue := rest
      handoffs := min (2 ^ 32 - 1) (k.handoffs + 1), timer := s.clk + 4096, order := order }
    let s1 := (home s).updMem (fun m => { m with locks := m.locks.map (fun x => if x.line == k.line then k' else x) })
    let s2 := { s1 with nextId := order + 1 }
    if away then s2 else ((s2.freeWaiter head).lockStatus head 0).send (.handoff k.line) 4 (s.lockStop k) (s.teamStop head)

/-- Locks a team holds, in the order acquired. -/
def State.locksOf (s : State) (team : Nat) : List LineLock :=
  let mine := s.mem.locks.filter (fun k => k.holder == team && !k.absent)
  sortKey (fun k => k.order) mine

/-- Withdraws a team's waits and its claims in absence. -/
def State.withdrawWaits (s : State) (team : Nat) : State :=
  let s1 := (s.freeWaiter team).dropLockReq team
  let s2 := s1.updMem (fun m => { m with locks := m.locks.map (fun k => { k with queue := k.queue.filter (fun q => q.1 != team) }) })
  (s2.mem.locks.filter (fun k => k.holder == team && k.absent)).foldl (fun s k => s.passLock k k.check) s2

/-! ### Phases (R192) -/

/-- Flushes every dirty plain sector of a launch in a core's L1 (R278): its bytes are in the pending versions. -/
def State.flushCore (s : State) (launch core : Nat) : State := s.flushBytes (fun p _ => p.launch == launch && p.core == core)

/-- The last team of a launch on a core to pass PHEND or to end moves the core to Flushing. -/
def State.phaseTest (s : State) (launch core : Nat) : State :=
  match s.launch? launch with
  | none => s
  | some l =>
    match NMap.look l.heads core with
    | none => s
    | some h =>
      let here := s.teamList.filter (fun t => t.launch == launch && t.core == core && t.status != .ended)
      if h.st == .isOpen && here.all (fun t => t.passed h.hdr.phase) then
        (s.flushCore launch core).updLaunch launch (fun l => { l with heads := NMap.put l.heads core { h with st := .flushing } })
      else s

/-! ### Copies (R230) -/

/-- Completes a slice's accounting: its flag falls, and its record goes to q1 (R230, R232). Its path-5 count falls in its turn once its handle
holds the slice no more (R82). -/
def State.sliceDone (s : State) (h : Nat) (status bytes : Nat) (c : Slice) : State :=
  let rec' : DWord := BitVec.ofNat 64 (status * 2 ^ 60 + h * 2 ^ 48 + bytes % 2 ^ 48)
  s.updTeam c.team (fun t =>
    let t1 := if c.flag < 12 then t.setFlag c.flag (t.flag c.flag - 1) else t
    if c.sq then
      let pt : Port := t1.port 1
      if pt.q.length < 8 then t1.setPort 1 { pt with q := pt.q ++ [rec'] } else t1
    else t1)

/-- The path counts of the teams of slices that are done fall. -/
def State.slicesOff (s : State) (cs : List Slice) : State := cs.foldl (fun s c => s.retire c.team) s

/-- Records that found the reply side full wait in the handle (R232). -/
def sqWaits (s : State) (h status bytes : Nat) (c : Slice) : List (Nat × DWord) :=
  match s.team? c.team with
  | some t => if c.sq && 8 ≤ (t.port 1).q.length
      then [(c.team, BitVec.ofNat 64 (status * 2 ^ 60 + h * 2 ^ 48 + bytes % 2 ^ 48))] else []
  | none => []

/-- Releases the fragments of a group that wait under a key, with a value. -/
def State.releaseKey (s : State) (launch num key value : Nat) : State :=
  { s with teams := s.teams.map (fun (k, t) => if t.launch == launch && t.group == num
      then (k, { t with frags := t.frags.map (fun (e, f) => if f.latch == .waiting key then (e, { f with latch := .done value }) else (e, f)) })
      else (k, t)) }

/-- Keys of the waits on a handle: of an HWAIT (R231), and of a CPSL that waits until the handle is Free (R229). -/
def hwaitKey (h : Nat) : Nat := 16 + h
def cpslKey (h : Nat) : Nat := 32 + h

/-- Cancels a copy that is Filling and not running: the handle becomes Free and ABORTED. -/
def State.cancelCopy (s : State) (g : Group) (h : Nat) : State :=
  match NMap.look g.handles h with
  | none => s
  | some x =>
    if x.st == .filling && !x.running then
      let waits := x.slices.flatMap (sqWaits s h 2 0)
      let s1 := x.slices.foldl (fun s c => s.sliceDone h 2 0 c) s
      let x' : Handle := { x with st := .free, aborted := true, slices := [], bytes := 0, pending := x.pending ++ waits }
      let s2 := (s1.updGroup g.launch g.num (fun g => { g with handles := NMap.put g.handles h x' })).slicesOff x.slices
      (s2.releaseKey g.launch g.num (hwaitKey h) 2).releaseKey g.launch g.num (cpslKey h) (cpslKey h)
    else s

/-- Lines of a list of segments in local HBM. -/
def segLines (segs : List Seg) : List Nat :=
  segs.flatMap (fun g => if g.loc.space == 0 && g.len != 0 then
    (List.range ((lineOf (g.loc.addr + g.len - 1) - lineOf g.loc.addr) / 256 + 1)).map (fun i => lineOf g.loc.addr + 256 * i)
  else [])

/-- Key of a located line among the owned and held lines: the line itself in local HBM, a number above it elsewhere. -/
def Loc.key (l : Loc) : Nat :=
  if l.space == 0 then lineOf l.addr else 2 ^ 64 * (l.space + 16 * (l.x + 2 ^ 32 * l.y)) + lineOf l.addr

/-- The located lines of a list of segments. -/
def segLocs (segs : List Seg) : List Loc :=
  segs.flatMap (fun g => if g.len == 0 then [] else
    (List.range ((lineOf (g.loc.addr + g.len - 1) - lineOf g.loc.addr) / 256 + 1)).map (fun i =>
      { g.loc with addr := lineOf g.loc.addr + 256 * i }))

/-- Takes exclusive ownership of lines for an engine operation, or marks them held in a window (R214): a line of local HBM
is merged early first (R263); a locked one is claimed when it lands. Lines at peers are no lines of this device. -/
def State.ownSegs (s : State) (op : Nat) (segs : List Seg) : State :=
  (segLocs segs).foldl (fun s l =>
    if l.space == 7 || l.space == 8 || (l.space == 0 && (s.lockAt l.addr).isSome) then s
    else
      let s1 := if l.space == 0 then s.claimLine l.addr else s
      s1.updMem (fun m => { m with owned := NMap.put m.owned l.key (NMap.getD m.owned l.key [] ++ [op]) })) s

/-- An operation's claim of a line ends: its write has landed. -/
def State.disown (s : State) (key op : Nat) : State :=
  s.updMem (fun m => { m with owned := NMap.set [] m.owned key ((NMap.getD m.owned key []).filter (· != op)) })

/-- A team that never was: what a lookup that cannot fail falls back on. -/
def Team.blank : Team :=
  { id := 0, launch := 0, group := 0, num := 0, core := 0, quarter := 0, slot := 0, n := 32, k := 8, tg := 1, evicted := false
    status := .ended, frags := [], joins := [], serial := [], vec := [], scal := [], pred := [], moods := [], flags := [], gen := []
    vtag := [], stag := [], ports := [], paths := [], ovflow := [], priv := Store.empty, initMask := 0, real := 0, record := none
    lockOut := false, irrev := 0, restarts := 0, retries := 0, rpc := 0, restartMode := false, restartPending := false
    restartMask := 0, lastPhase := 0, phMark := 0, phaseDone := false, early := false, acq := 0, savedReply := none, victim := false }

/-- A slice that never was. -/
def Slice.blank : Slice := { team := 0, off := 0, len := 0, src := [], dst := [], flag := 15, sq := false, inst := 0 }

/-- An engine operation that never was. -/
def EngineOp.blank : EngineOp :=
  { id := 0, op := 0, team := 0, entry := 0, pc := 0, group := 0, pair := 0, flag := 15, sq := false, d := 0, a := 0, b := 0, recd := [], srcs := []
    dsts := [], ty := 0, mood := 0, lane := 0, inst := 0, rd := [], wr := [], started := false, loaded := false, outs := [], since := 0, held := none, gens := []
    spm := [], tag := 0 }

/-- Key of a group among the owners of a pair's resources: its launch and number. -/
def groupKey (launch num : Nat) : Nat := launch * 2 ^ 32 + num

/-- Starts a copy whose every expected slice is recorded (R230): expected are the teams that have not ended. -/
def State.copyTest (s : State) (launch num h : Nat) : State :=
  match s.group? launch num with
  | none => s
  | some g =>
    match NMap.look g.handles h with
    | none => s
    | some x =>
      let teams := s.teamList.filter (fun t => t.launch == launch && t.group == num && t.status != .ended)
      if x.st == .filling && !x.running && teams.all (fun t => x.slices.any (fun c => c.team == t.id)) then
        let (id, s0) := s.fresh
        let srt := sortKey (fun c => c.team) x.slices
        let first := (s.team? (srt.headD Slice.blank).team).getD Team.blank
        let op : EngineOp := { EngineOp.blank with
          id := id, op := 0x98, group := groupKey launch num, pair := corePair g.core, d := BitVec.ofNat 64 h
          b := BitVec.ofNat 64 x.kind, srcs := srt.flatMap (fun c => c.src), dsts := srt.flatMap (fun c => c.dst), started := true
          tag := s.phaseOf first }
        let s1 := s0.updGroup launch num (fun g => { g with handles := NMap.put g.handles h { x with running := true, slices := srt, bytes := 0 } })
        let s2 := s1.ownSegs id op.dsts
        s2.updPair (corePair g.core) (fun p => { p with ops := p.ops ++ [op] })
      else s

/-- A team of a group is stopped by a fatal fault: the copies of its group that wait for more slices are aborted (R230, R327
step 3). -/
def State.withdrawSlices (s : State) (t : Team) : State :=
  match s.group? t.launch t.group with
  | none => s
  | some g => g.handles.foldl (fun s e => s.cancelCopy g e.1) s

/-! ### Barriers (R201): a latch waiting 3 is parked in a BAR, waiting 4 in a GBAR -/

/-- Whether a team has arrived: every valid fragment is parked in the barrier. -/
def Team.arrived (t : Team) (key : Nat) : Bool := !t.frags.isEmpty && t.frags.all (fun e => e.2.latch == .waiting key)

/-- Completes a barrier over some teams once all that have not ended have arrived: they resume with the effect of a fence
of the group and an acquire (R265). -/
def State.barTest (s : State) (key : Nat) (sel : Team → Bool) : State :=
  let ts := s.teamList.filter (fun t => sel t && t.status != .ended)
  if !ts.isEmpty && ts.all (fun t => t.arrived key) then
    let seq := s.mem.seq + 1
    { s.publish (fun p => (s.team? p.team).any (fun t => sel t && t.status != .ended)) with
      teams := s.teams.map (fun (k, t) => if sel t && t.status != .ended then (k, { t with
        acq := seq, frags := t.frags.map (fun (e, f) => (e, { f with latch := .done 0 })) }) else (k, t)) }
  else s

/-- Teams of a group, and of the gang a group belongs to. -/
def inGroup (launch group : Nat) (t : Team) : Bool := t.launch == launch && t.group == group
def State.inGang (s : State) (launch group : Nat) (t : Team) : Bool :=
  match s.launch? launch with
  | some l => t.launch == launch && t.group / l.gang == group / l.gang
  | none => false

/-- Tests the barriers that a team takes part in. -/
def State.barriers (s : State) (launch group : Nat) : State :=
  (s.barTest 3 (inGroup launch group)).barTest 4 (s.inGang launch group)

/-! ### The end of a team (R141, R188, R192, R230) -/

/-- Whether a request is a store, an atomic or a reduction. -/
def Req.writes (r : Req) : Bool :=
  match r.op with
  | .store _ _ => true
  | .atomic _ _ _ => true
  | .reduce _ _ => true
  | .load _ _ _ => false
  | .lock _ _ _ _ => false

/-- The locks of a team are released as by UNLOCK, in the order acquired: not before the stores, atomics and reductions that the team has under
way have been performed (R173, R188, R271). -/
def State.letGo (s : State) (tid : Nat) : State :=
  if s.reqs.any (fun r => r.team == tid && r.writes) then s else (s.locksOf tid).foldl (fun s k => s.passLock k k.copy) s

/-- A team all of whose lanes have left: its locks are released as by UNLOCK, its waits withdrawn, and it counts as done,
as arrived and as owing no slice from now on. -/
def State.endTeam (s : State) (tid : Nat) : State :=
  match s.team? tid with
  | none => s
  | some t =>
    let s1 := s.letGo tid
    let s2 := s1.withdrawWaits tid
    let s3 := s2.updTeam tid (fun t => { t with status := .ended, lockOut := false })
    let s4 := s3.updGroup t.launch t.group (fun g => { g with endedTeams := NSet.add g.endedTeams t.num })
    let s5 := (List.range 8).foldl (fun s h => s.copyTest t.launch t.group h) s4
    (s5.phaseTest t.launch t.core).barriers t.launch t.group

/-- Ends the team when it has no fragment left. -/
def State.endIfEmpty (s : State) (tid : Nat) : State :=
  match s.team? tid with
  | none => s
  | some t => if t.frags.isEmpty && t.status == .running then s.endTeam tid else s

/-! ### Taking a fault (R327-R331) and restarting (R333) -/

/-- A fault record (R330). -/
def faultRecord (t : Team) (ctx kind : Nat) (entry cause : Nat) (task : DWord) (pc d0 d1 lane : Nat) (line nlocks : Nat) : List Byte :=
  leBytes 8 (ctx * 2 ^ 48 + t.core * 2 ^ 40 + t.slot * 2 ^ 36 + kind * 2 ^ 32 + t.irrev * 2 ^ 16 + t.retries % 4 * 2 ^ 14
      + entry * 2 ^ 11 + t.early.toNat * 2 ^ 10 + cause)
    ++ leBytes 8 task.toNat ++ leBytes 8 (pc % 2 ^ 57) ++ leBytes 8 d0 ++ leBytes 8 d1 ++ leBytes 8 (lane * 2 ^ 54)
    ++ leBytes 8 line ++ leBytes 8 (nlocks % 256)

/-- The rollback of R328: the team's pending version of the current phase goes, unless the team has passed its PHEND
(R329); what looped back to this device goes with it, and a discard for each other device of the launch's peer list stands to be sent before
the launch's next commit message: device, launch and task. -/
def State.rollback (s : State) (t : Team) : State :=
  if t.phaseDone then s
  else
    let mine (p : PeerPend) : Bool := p.dev == s.fab.self && p.launch == t.launch && p.task == t.id % 2 ^ 32 && p.phase == s.phaseOf t
    let out := match s.launch? t.launch with
      | some l => (l.peerDevs.filter (· != s.fab.self)).map (fun d => (d, t.launch, t.id % 2 ^ 32))
      | none => []
    { s with fab := { s.fab with discards := s.fab.discards ++ out }
             mem := { s.mem with pend := s.mem.pend.filter (fun p => p.team != t.id), peerPend := s.mem.peerPend.filter (fun p => !mine p) } }

/-- Steps 2 to 6 of R327 for a team: it issues nothing more; slices, waits and locks are given up; its Parenthesis is
emptied; its pending version goes. A victim of pre-emption is one no more (R335, R343), but one whose context or core pair is to be emptied is.
Returns the first lock's line and the number released. -/
def State.stopTeam (s : State) (t : Team) (status : TeamSt) : (Nat × Nat) × State :=
  let told := s.ctxHeld (s.ctxOf t.launch) || !s.inService 0 (corePair t.core)
  let s1 := s.updTeam t.id (fun t => { t with status := status, ovflow := [], victim := t.victim && told })
  let s2 := s1.withdrawSlices t
  let held := s2.locksOf t.id
  let s3 := (s2.withdrawWaits t.id).updTeam t.id (fun t => { t with lockOut := false })
  let s4 := held.foldl (fun s k => s.passLock k k.check) s3
  let s5 := { s4 with reqs := s4.reqs.filter (fun r => !(r.team == t.id && (match r.place with | .paren _ => true | .lockWait => true | .atIssue => true | _ => false))) }
  let s6 := s5.retire t.id
  (((held.map (fun k => k.line)).headD 0, held.length), s6.rollback t)

/-- Taking a fatal fault in a fragment of a team (R327), at the word of an address: the one operation for every cause of R325.
A Stopped team raises none (R335); a team whose lanes have all ended takes one while it is resident (R42, R347). -/
def takeFaultAt (s : State) (tid entry pc cause lane d0 d1 : Nat) : State :=
  match s.team? tid with
  | none => s
  | some t =>
    if t.status == .stopped then s
    else
      let ctx := s.ctxOf t.launch
      let phase := s.phaseOf t + (t.passed (s.phaseOf t)).toNat
      let ((line, n), s1) := s.stopTeam t .stopped
      let t1 := (s1.team? tid).getD t
      let s2 := s1.record ctx (faultRecord t1 ctx 2 entry cause (taskWord t phase) pc d0 d1 lane line n) tid
      -- the record's number answers the team (R332); a buffered record gets its number when it is drained
      let num := match s.ctx? ctx, s2.ctx? ctx with
        | some a, some b => if a.crTail < b.crTail then some a.crTail else none
        | _, _ => none
      s2.updTeam tid (fun t => { t with record := num })

/-- Taking a fault at the word a fragment stands at. -/
def takeFault (s : State) (tid entry cause lane d0 d1 : Nat) : State :=
  let pc := match (s.team? tid).bind (fun t => t.frag? entry) with | some f => f.pc | none => 0
  takeFaultAt s tid entry pc cause lane d0 d1

/-- Whether every operation a team has outstanding has completed (R333). -/
def State.settledTeam (s : State) (t : Team) : Bool :=
  t.flags.all (fun e => e.2 == 0) && !s.reqs.any (fun r => r.team == t.id) && !s.fab.transfers.any (fun x => x.team == t.id)
    && !s.pairs.any (fun p => p.2.ops.any (fun o => o.team == t.id))
    && !s.groups.any (fun g => g.handles.any (fun h => h.2.slices.any (fun c => c.team == t.id && c.inst != 0)))

/-- The return to the restart label (R333). -/
def restartTeam (s : State) (tid : Nat) : State :=
  match s.team? tid with
  | none => s
  | some t =>
    match s.launch? t.launch with
    | none => s
    | some l =>
      let f : Fragment := { st := .ready, pc := l.restart, mask := t.restartMask, join := 15, age := 0, sig := 0, clause := none
                            latch := .none, yielded := false, starve := 0 }
      let unwait (x : Handle) : Handle := { x with pending := x.pending.filter (fun e => e.1 != tid) }
      let s1 := s.updGroup t.launch t.group (fun g => { g with handles := g.handles.map (fun (h, x) => (h, unwait x)) })
      s1.updTeam tid (fun t => { t with
        status := .running, frags := [(0, f)], joins := [], serial := [], vec := [], scal := [], pred := [], moods := []
        flags := [], gen := [], vtag := [], stag := [], ports := [], paths := [], restartMode := true, record := none
        restartPending := false, restarts := min (2 ^ 32 - 1) (t.restarts + 1), lockOut := false, ovflow := [] })

/-- Restarts a team once its outstanding operations have completed; asks for it otherwise (R333). -/
def State.restartWhenSettled (s : State) (tid : Nat) : State :=
  match s.team? tid with
  | none => s
  | some t => if s.settledTeam t then restartTeam s tid else s.updTeam tid (fun t => { t with restartPending := true })

/-! ### The frame of an instruction -/

/-- What an instruction sees of its issue (R128): the team and fragment, the clause, the mood's fields, the active lanes
with and without helpers, and the lowest of the latter. -/
structure Issue where
  tid   : Nat
  entry : Nat
  team  : Team
  frag  : Fragment
  cl    : Clause
  ty    : Ty
  mode  : Mode
  sat   : Bool
  ftz   : Bool
  act   : LaneMask
  val   : LaneMask
  low   : Option Nat
  ctx   : Nat
  deriving DecidableEq, Repr

/-- Guard of a mood over a team's lanes (R128, R133). -/
def guardMask (t : Team) (m : Word) : LaneMask :=
  if m.getLsbD 27 then
    let p := NMap.getD t.pred (bitsN m.toNat 30 28) 0
    if m.getLsbD 31 then ~~~p else p
  else BitVec.allOnes 1024

/-- The issue of a fragment in its open clause. -/
def mkIssue (s : State) (tid e : Nat) (t : Team) (f : Fragment) (c : Clause) : Issue :=
  let act := f.mask &&& guardMask t c.mood
  let val := act &&& t.real
  { tid := tid, entry := e, team := t, frag := f, cl := c
    ty := (Ty.ofCode (bitsN c.mood.toNat 26 23)).getD .s32, mode := (Mode.ofCode (bitsN c.mood.toNat 22 20)).getD .rne
    sat := c.mood.getLsbD 19, ftz := c.mood.getLsbD 18, act := act, val := val, low := (lanesOf val t.n).head?
    ctx := s.ctxOf t.launch }

/-- The fragment whose word is being executed. -/
def issueOf (s : State) : Option Issue :=
  match s.issuing with
  | none => none
  | some (tid, e) =>
    match s.team? tid with
    | none => none
    | some t =>
      match t.frag? e with
      | none => none
      | some f =>
        match f.clause with
        | none => none
        | some c => some (mkIssue s tid e t f c)

/-- How an instruction ends: it is done and the next word follows; it ends its clause; it has placed its fragment itself;
it waits at issue, nothing of it performed; it faults (cause, lane, DETAIL0, DETAIL1). -/
inductive Eff where
  | done (s : State)
  | ends (s : State)
  | moved (s : State)
  | wait (l : Latch) (s : State)
  | stop (cause lane d0 d1 : Nat)
  deriving DecidableEq, Repr

/-- A vector operand beyond the launch's registers, or an odd 64-bit one (R118, R131); the odd ones are found first. -/
def spanOdd (ty : Ty) : Reg × Span → Bool
  | (.v n, .wide) => ty.width == 64 && n.val % 2 == 1
  | (.v n, .typed c) => ((Ty.ofCode c).getD .s32).width == 64 && n.val % 2 == 1
  | (.v n, .cas) => ty.width == 64 && n.val % 4 != 0
  | _ => false

/-- Registers a vector operand names. -/
def spanLen (ty : Ty) : Span → Nat
  | .one => 1
  | .pair => 2
  | .four => 4
  | .wide => ty.width / 32
  | .cas => ty.width / 16
  | .typed c => ((Ty.ofCode c).getD .s32).width / 32
  | .run n => n

/-- Whether an operand breaks the bound of R118. -/
def spanOut (ty : Ty) (k : Nat) : Reg × Span → Bool
  | (.v n, sp) => decide (k < n.val + spanLen ty sp)
  | _ => false

/-- The decode checks that depend on the issue (R118, R131): illegal encoding, then register range. -/
def dynFault (iss : Issue) (i : Instr) : Option Nat :=
  if i.spans.any (spanOdd iss.ty) then some 1
  else if i.spans.any (spanOut iss.ty iss.team.k) then some 2
  else none

/-- Whether a load or atomic in flight writes one of the registers an operand names, in a mask word where the fragment
has lanes (R34, R176). -/
def pendingReg (iss : Issue) (r : Req) (use : Reg × Span) : Bool :=
  let dst : Option (Reg × Nat) := match r.op with
    | .load _ size d => some (d, (size + 3) / 4)
    | .atomic _ ty d => some (d, ((Ty.ofCode ty).getD .s32).width / 32)
    | .lock d _ _ _ => some (d, 1)
    | .store _ _ => none
    | .reduce _ _ => none
  match dst, use with
  | some (.v d, n), (.v x, sp) =>
    decide (d.val < x.val + spanLen iss.ty sp) && decide (x.val < d.val + n)
      && r.parts.any (fun p => maskWord iss.frag.mask (p.lane / 32) != 0)
  | some (.s d, _), (.s x, .run n) => decide (x.val ≤ d.val) && decide (d.val < x.val + n)
  | some (.s d, _), (.s x, .cas) => d.val == x.val || d.val == x.val + 1
  | some (.s d, _), (.s x, _) => d == x
  | _, _ => false

/-- The instructions that compute with numbers on the vector datapath (R16): the arithmetic family, SCAN and REDX. -/
def arithmetic (i : Instr) : Bool :=
  let op := i.sigBits / 8
  (0x20 ≤ op && op ≤ 0x3C) || op == 0x53 || op == 0x54

/-- Whether an instruction performs f64 arithmetic (R28): in that type, or a conversion from it (DEDUCED, log 4). -/
def f64Work (ty : Ty) (i : Instr) : Bool :=
  arithmetic i && (ty == .f64 || (match i with | .cvt _ _ _ st => st.val == 12 | _ => false))

/-- Whether an instruction's operands and results are all scalar or team-wide (R28): it names no vector register, no predicate and no
lane's generator (DEDUCED, log 4). -/
def teamWide (i : Instr) : Bool :=
  let op := i.sigBits / 8
  i.spans.all (fun x => !Reg.isV x.1)
    && !([0x02, 0x03, 0x04, 0x0F, 0x12, 0x13, 0x14, 0x15, 0x16, 0x17, 0x4D, 0x79].contains op || i.sigBits == 0x19 * 8)

/-- Cycles an instruction word holds its quarter's datapath (R28): one for each pass, four at f64. -/
def wordCycles (iss : Issue) (i : Instr) : Nat :=
  (if teamWide i then 1 else passes iss.frag.mask iss.team.n) * (if f64Work iss.ty i then 4 else 1)

/-- Whether an instruction would round under rst while a conversion of the team holds its generators (R225, R226). Those that
round lie in the arithmetic family, and are SCAN, REDX, QNT and DQNT. -/
def gensBusy (s : State) (iss : Issue) (i : Instr) : Bool :=
  let op := i.sigBits / 8
  iss.mode == .rst && (arithmetic i || op == 0x91 || op == 0x92)
    && (s.pairSt (corePair iss.team.core)).ops.any (fun o => o.team == iss.tid && (o.op == 0x91 || o.op == 0x92) && bitsN o.mood.toNat 22 20 == 5)

/-- Whether an instruction names a pending register of its team, or needs its generators while they are away. -/
def regsPending (s : State) (iss : Issue) (i : Instr) : Bool :=
  s.reqs.any (fun r => r.team == iss.tid && i.spans.any (pendingReg iss r)) || gensBusy s iss i

/-- A word hashed into a signature (R143). -/
def sigStep (sig : Word) (bits : Nat) : Word := ((sig <<< 1) ||| (sig >>> 31)) ^^^ BitVec.ofNat 32 bits

/-- Whether a team waits only on page service (R65, R348): every fragment is parked or blocked, one at least on a page, and no
request waits on anything else. -/
def State.pageBound (s : State) (t : Team) : Bool :=
  let mine := s.reqs.filter (fun r => r.team == t.id)
  let onPage (f : Fragment) : Bool := match f.latch with | .page _ _ => true | .fetch _ => true | _ => false
  t.frags.all (fun e => e.2.st != .ready && e.2.st != .serial && (e.2.st == .parked || onPage e.2 || e.2.latch == .pending))
    && mine.all (fun r => r.place == .paren 0)
    && (!mine.isEmpty || t.frags.any (fun e => onPage e.2))

/-- Cycles of a core's clock while n cycles of the arithmetic clock pass (R7): as many, or on a throttled core a free number not above
them (R22, log 60). -/
def State.coreTicks (s : State) (n c : Nat) : Nat := if (s.coreSt c).throttled then Config.choice s.free % (n + 1) else n

/-- A core's watchdog count for a context (key: core × 65536 + context) rises (R65). -/
def State.watchTick (n : Nat) (s : State) (k : Nat) : State :=
  let m := s.coreTicks n (k / 65536)
  s.updCore (k / 65536) (fun x => { x with watch := NMap.set 0 x.watch (k % 65536) (NMap.getD x.watch (k % 65536) 0 + m) })

/-- The watchdog counts that rise (R65): those of the contexts that have a team resident on a core which does not wait on page service alone
and is not halted; nothing of a halted context counts (R340). -/
def State.watched (s : State) : NSet :=
  s.teamList.foldl (fun acc t =>
    if t.evicted || t.status == .halted || s.pageBound t || (s.ctx? (s.ctxOf t.launch)).any Ctx.halted then acc
    else NSet.add acc (t.core * 65536 + s.ctxOf t.launch)) ([] : NSet)

/-- Advances the watchdog counts of the cores. -/
def State.watchPass (s : State) (n : Nat) : State := s.watched.foldl (State.watchTick n) s

/-- A team's fragments after n cycles of its core's clock: their ages and their waits for issue (R60). -/
def Team.aged (n : Nat) (t : Team) : Team :=
  if t.evicted then t
  else { t with frags := t.frags.map (fun (e, f) => (e, { f with age := min (2 ^ 32 - 1) (f.age + n), starve := f.starve + n })) }

/-- Time passes: the clock, the ages of resident fragments and their waits for issue (R60, R125), the watchdogs. -/
def State.pass (s : State) (n : Nat) : State :=
  let s1 := s.watchPass n
  { s1 with clk := s1.clk + n, teams := s1.teams.map (fun (k, t) => (k, t.aged (s.coreTicks n t.core))) }

/-- An instruction word holds its quarter's datapath from now on (R28, R60); on a throttled core for longer by a free number (R22). -/
def State.occupy (s : State) (iss : Issue) (i : Instr) : State :=
  s.updCore iss.team.core (fun c => { c with
    busy := NMap.put c.busy iss.team.quarter (s.clk + wordCycles iss i + (if c.throttled then Config.choice s.free else 0)) })

/-- The fragment goes on behind its word, or to the clause that follows (R113). -/
def finish (s : State) (iss : Issue) (words : Nat) (ends : Bool) : State :=
  let stop := iss.cl.hdr + 4 * (iss.cl.len + 1)
  let pc := iss.frag.pc + 4 * words
  s.updTeam iss.tid (fun t =>
    match t.frag? iss.entry with
    | none => t
    | some f =>
      if ends || stop ≤ pc then
        Team.settle settleFuel (t.setFrag iss.entry
          { f with pc := stop, clause := none, st := t.readySt iss.entry, latch := .none, starve := 0, yielded := f.yielded || iss.cl.yield }) iss.entry
      else t.setFrag iss.entry { f with pc := pc, st := t.readySt iss.entry, latch := .none, starve := 0 })

/-- The fragment waits at its word, its signature as before. -/
def block (s : State) (iss : Issue) (l : Latch) : State :=
  s.updTeam iss.tid (fun t =>
    match t.frag? iss.entry with
    | none => t
    | some f => t.setFrag iss.entry { f with st := .blocked, latch := l, sig := iss.frag.sig })

/-- The state an instruction's body works on: its word hashed into the signature. -/
def hashed (s : State) (iss : Issue) (i : Instr) : State :=
  match i with
  | .sigchk _ => s
  | .sigrd _ => s
  | _ => s.updTeam iss.tid (fun t =>
      match t.frag? iss.entry with
      | none => t
      | some f => t.setFrag iss.entry { f with sig := sigStep f.sig i.sigBits })

/-- How an effect becomes the next state. -/
def conclude (s : State) (iss : Issue) (i : Instr) : Eff → State
  | .done s' => (finish s' iss i.words false).occupy iss i
  | .ends s' => (finish s' iss i.words true).occupy iss i
  | .moved s' => s'.occupy iss i
  | .wait l s' => block s' iss l
  | .stop c lane d0 d1 => takeFault s iss.tid iss.entry c lane d0 d1

/-- Runs an instruction for the fragment that issues it: decode checks of R131 first, then pending registers (R34), replays of the datapath (R336:
a third detection faults), then its body. With no fragment issuing there is nothing to do. -/
def run (i : Instr) (s : State) (body : Issue → State → Eff) : Host.Outcome State Fault Refusal :=
  match issueOf s with
  | none => .next s
  | some iss =>
    match dynFault iss i with
    | some c => .next (takeFault s iss.tid iss.entry c 0 0 0)
    | none =>
      if regsPending s iss i then .next (block s iss .pending)
      else if 3 ≤ s.upsets then
        .next (takeFault ({ s with upsets := 0 }.countError 2) iss.tid iss.entry 9 0 0 0)
      else
        let s0 := if s.upsets == 0 then s else { s with upsets := 0 }.countError 2
        .next (conclude s0 iss i (body iss (hashed s0 iss i)))

end Sys2Proof.Machine
end

