-- ==== Sys2Proof/Machine/Operands.lean ====
section
/-! DEFINITION. Operand forms: registers, ports and literals read, results written (R117-R121, R133, R234). -/

namespace Sys2Proof.Machine

/-- A resolved operand: a vector register read per lane, or one value for every lane, with its poison tag. -/
inductive Opd where
  | vec (r : Nat)
  | all (x : Nat) (tag : Bool)
  deriving DecidableEq, Repr

/-- A literal at an operand width (R117). -/
def litValue (ty : Ty) (w : Word) : Nat :=
  match ty with
  | .s64 => wrapI (sext w.toNat 32) 64
  | .f64 => (roundF .f64 .rne false false (valueOf .f32 false w.toNat) 1).1
  | _ => w.toNat

/-- An operand's value in a lane, at a width of 32 or 64, with its tag. -/
def opdAt (t : Team) (width l : Nat) : Opd → Nat × Bool
  | .vec r =>
    if width = 32 then ((t.v r l).toNat, NSet.has t.vtag (vkey r l))
    else ((t.v r l).toNat + (t.v (r + 1) l).toNat * 2 ^ 32, NSet.has t.vtag (vkey r l) || NSet.has t.vtag (vkey (r + 1) l))
  | .all x tag => (x % 2 ^ width, tag)

/-- Key of an inter-team FIFO on a core (R120): q6 or q7 of a launch. -/
def fifoKey (launch q : Nat) : Nat := launch * 2 + (q - 6)

/-- Entries a port holds to pop. -/
def portEntries (s : State) (t : Team) (q : Nat) : List DWord :=
  if q < 6 then (t.port q).q else NMap.getD (s.coreSt t.core).fifos (fifoKey t.launch q) []

/-- Whether a port has room for a push (R120). -/
def portRoom (s : State) (t : Team) (q : Nat) : Bool :=
  if q < 6 then decide ((t.port (8 + q)).q.length < portDepth (8 + q))
  else decide ((NMap.getD (s.coreSt t.core).fifos (fifoKey t.launch q) []).length < 16)

/-- Completion records that wait in a handle enter the reply side of q1 when an entry frees (R232). -/
def State.feedQ1 (s : State) (tid : Nat) : State :=
  s.groups.foldl (fun s g => g.handles.foldl (fun s (h, x) =>
    match x.pending.find? (fun e => e.1 == tid), s.team? tid with
    | some e, some t =>
      if (t.port 1).q.length < 8 then
        let s1 := s.updTeam tid (fun t => t.setPort 1 { t.port 1 with q := (t.port 1).q ++ [e.2] })
        s1.updGroup g.launch g.num (fun g => { g with handles := NMap.put g.handles h { x with pending := x.pending.erase e } })
      else s
    | _, _ => s) s) s

/-- Takes the first entry of a port. A pop of an inter-team FIFO has an acquire effect (R265). -/
def State.popPort (s : State) (tid q : Nat) : State :=
  match s.team? tid with
  | none => s
  | some t =>
    if q < 6 then
      let s1 := s.updTeam tid (fun t => t.setPort q { t.port q with q := (t.port q).q.drop 1 })
      if q == 1 then s1.feedQ1 tid else s1
    else
      let k := fifoKey t.launch q
      let s1 := s.updCore t.core (fun c => { c with fifos := NMap.set [] c.fifos k ((NMap.getD c.fifos k []).drop 1) })
      s1.updTeam tid (fun t => { t with acq := s.mem.seq })

/-- Adds an entry to a port. -/
def State.pushPort (s : State) (tid q : Nat) (x : DWord) : State :=
  match s.team? tid with
  | none => s
  | some t =>
    if q < 6 then s.updTeam tid (fun t => t.setPort (8 + q) { t.port (8 + q) with q := (t.port (8 + q)).q ++ [x] })
    else
      let k := fifoKey t.launch q
      s.updCore t.core (fun c => { c with fifos := NMap.set [] c.fifos k (NMap.getD c.fifos k [] ++ [x]) })

/-- The ports the sources name, in the order a, b. -/
def portsOf (a : Option Reg) (b : Option Src) : List Nat :=
  (match a with | some (.q n) => [n.val] | _ => []) ++ (match b with | some (.reg (.q n)) => [n.val] | _ => [])

/-- Whether every port the instruction pops has its entry and the port it pushes has room (R121). -/
def portsReady (s : State) (t : Team) (dst : Option Reg) (a : Option Reg) (b : Option Src) : Bool :=
  let ps := portsOf a b
  ps.all (fun q => decide ((ps.filter (· == q)).length ≤ (portEntries s t q).length))
    && (match dst with | some (.q n) => portRoom s t n.val | _ => true)

/-- A register as an operand; i is how many entries of the same port an earlier field pops. Without a lane that is not
a helper nothing is popped, and the value is a free one (log 6). -/
def opdReg (s : State) (iss : Issue) (i : Nat) : Reg → Opd
  | .v n => .vec n.val
  | .s n => .all (iss.team.s n.val).toNat (NSet.has iss.team.stag n.val)
  | .q n =>
    if iss.low.isNone then .all (Config.freeValue s.free).toNat false
    else .all (((portEntries s iss.team n.val)[i]?).getD 0).toNat false

/-- A second source as an operand. -/
def opdSrc (s : State) (iss : Issue) (i : Nat) : Src → Opd
  | .reg r => opdReg s iss i r
  | .lit w => .all (litValue iss.ty w) false

/-- How many entries the first field pops of the port the second names. -/
def secondPop (a : Option Reg) (b : Option Src) : Nat :=
  match a, b with
  | some (.q n), some (.reg (.q m)) => if n = m then 1 else 0
  | _, _ => 0

/-- The operands of an instruction. -/
def opdA (s : State) (iss : Issue) (a : Option Reg) : Opd :=
  match a with
  | some r => opdReg s iss 0 r
  | none => .all 0 false
def opdB (s : State) (iss : Issue) (a : Option Reg) (b : Option Src) : Opd :=
  match b with
  | some x => opdSrc s iss (secondPop a b) x
  | none => .all 0 false

/-- Pops the ports the sources name. -/
def popAll (s : State) (iss : Issue) (a : Option Reg) (b : Option Src) : State :=
  if iss.low.isNone then s else (portsOf a b).foldl (fun s q => s.popPort iss.tid q) s

/-- A result of a type's own elements as a scalar holds it (R119): sign-extended for s32, zero-extended otherwise, packed ones too. -/
def scalarExt (ty : Ty) (x : Nat) : Nat := if ty == .s32 then wrapI (sext x 32) 64 else x % 2 ^ 32

/-- A 32-bit value that is no packed result (a moved register, a mask word, a status, loaded bytes) as a scalar holds it (R119,
R151): sign-extended under every s type, zero-extended otherwise. -/
def wordExt (ty : Ty) (x : Nat) : Nat := if ty.isS then wrapI (sext x 32) 64 else x % 2 ^ 32

/-- A lane's result with its poison tag. -/
structure LaneOut where
  lane : Nat
  val  : Nat
  tag  : Bool
  deriving DecidableEq, Repr

/-- Writes a lane's result to a vector register, or to a pair at 64 bits. -/
def Team.writeLane (t : Team) (width r : Nat) (o : LaneOut) : Team :=
  let t1 := t.setV r o.lane (BitVec.ofNat 32 o.val) o.tag
  if width = 64 then t1.setV (r + 1) o.lane (BitVec.ofNat 32 (o.val / 2 ^ 32)) o.tag else t1

/-- WriteDest of R133 at a width, with the extension a scalar takes. -/
def writeOut (s : State) (iss : Issue) (width : Nat) (ext : Nat → Nat) (dst : Reg) (outs : List LaneOut) : State :=
  match dst with
  | .v n => s.updTeam iss.tid (fun t => outs.foldl (fun t o => t.writeLane width n.val o) t)
  | .s n =>
    match outs.find? (fun o => some o.lane == iss.low) with
    | none => s
    | some o => s.updTeam iss.tid (fun t => t.setS n.val (BitVec.ofNat 64 (if width = 64 then o.val else ext o.val)) o.tag)
  | .q n =>
    match outs.find? (fun o => some o.lane == iss.low) with
    | none => s
    | some o => s.pushPort iss.tid n.val (BitVec.ofNat 64 (o.val % 2 ^ width))

/-- Lanes an instruction computes: a scalar destination is evaluated once (R119). -/
def outLanes (iss : Issue) (dst : Reg) : List Nat :=
  match dst with
  | .s _ => iss.low.toList
  | .v _ => lanesOf iss.act iss.team.n
  | .q _ => lanesOf iss.act iss.team.n

/-- The state with rounding generators stepped. -/
def writeGens (s : State) (tid : Nat) (gs : List (Nat × Word)) : State :=
  if gs.isEmpty then s else s.updTeam tid (fun t => gs.foldl (fun t (l, g) => t.setG l g) t)

/-- The general lane-wise instruction (R135): reads a, b and, where readD, the old d in every lane, computes with the
lane's generator, and writes d. width and dwidth are the widths operands are read and results written at. f gives none for
a lane that keeps its d. -/
def laneOp (s : State) (iss : Issue) (readD : Bool) (awidth bwidth dwidth : Nat) (ext : Nat → Nat) (dst : Reg) (a : Option Reg) (b : Option Src)
    (f : Nat → Nat → Nat → Nat → Word → Option Nat × Word) : Eff :=
  if iss.act == 0 then .done s
  else if iss.low.isSome && !portsReady s iss.team (some dst) a b then .wait .none s
  else
    let oa := opdA s iss a
    let ob := opdB s iss a b
    let t := iss.team
    let rows := (outLanes iss dst).map (fun l =>
      let (x, tx) := opdAt t awidth l oa
      let (y, ty) := opdAt t bwidth l ob
      let (z, tz) := opdAt t dwidth l (opdReg s iss 0 dst)
      let (r, g) := f l x y z (t.g l)
      (l, r, tx || ty || (readD && tz), g))
    let s1 := { popAll s iss a b with free := s.free + 1 }
    let s2 := if iss.mode == .rst then writeGens s1 iss.tid (rows.map (fun (l, _, _, g) => (l, g))) else s1
    .done (writeOut s2 iss dwidth ext dst (rows.filterMap (fun (l, r, tag, _) => r.map (fun v => { lane := l, val := v, tag := tag }))))

/-- A value written to every active lane, or once to a scalar or port (R119, R121). -/
def writeAll (s : State) (iss : Issue) (width : Nat) (ext : Nat → Nat) (dst : Reg) (x : Nat) (tag : Bool) : State :=
  writeOut s iss width ext dst ((outLanes iss dst).map (fun l => { lane := l, val := x % 2 ^ width, tag := tag }))

/-- A 64-bit result of the memory and system chapters: all of it to a scalar or a pair, its low 32 bits to a vector
register under a 32-bit mood. -/
def writeWide (s : State) (iss : Issue) (dst : Reg) (x : Nat) (tag : Bool) : State :=
  match dst with
  | .v _ => writeAll s iss iss.ty.width id dst x tag
  | .s _ => writeAll s iss 64 id dst x tag
  | .q _ => writeAll s iss 64 id dst x tag

/-- A 32-bit status (R186, R228): to every active lane, or to a scalar by R119. -/
def writeStatus (s : State) (iss : Issue) (dst : Reg) (x : Nat) : State := writeAll s iss 32 (wordExt iss.ty) dst x false

/-- A team-wide operand read once in the lowest active lane (R234): a scalar gives 64 bits, a pair 64 bits where the field
is of kind 64, any other vector register 32 bits. -/
def teamReg (iss : Issue) (pair : Bool) (l : Nat) : Reg → Nat
  | .v n => if pair then (opdAt iss.team 64 l (.vec n.val)).1 else (iss.team.v n.val l).toNat
  | .s n => (iss.team.s n.val).toNat
  | .q _ => 0

/-- Tag of such an operand. -/
def teamTag (iss : Issue) (pair : Bool) (l : Nat) : Reg → Bool
  | .v n => if pair then (opdAt iss.team 64 l (.vec n.val)).2 else NSet.has iss.team.vtag (vkey n.val l)
  | .s n => NSet.has iss.team.stag n.val
  | .q _ => false

/-- A team-wide second source with a zero-extended literal (R234). -/
def teamSrc (iss : Issue) (pair : Bool) (l : Nat) : Src → Nat
  | .reg r => teamReg iss pair l r
  | .lit w => w.toNat

/-- The offset of R169: bits [31:0] of field B as a signed value. -/
def offOf (iss : Issue) (l : Nat) : Src → Int
  | .reg r => sext (teamReg iss false l r) 32
  | .lit w => sext w.toNat 32

/-- The effective address of R169. -/
def effAddr (iss : Issue) (a : Reg) (b : Src) (l : Nat) : Nat := wrapI ((teamReg iss true l a : Int) + offOf iss l b) 64

/-- Whether an address operand is tagged in a lane (R351). -/
def addrTag (iss : Issue) (a : Reg) (b : Src) (l : Nat) : Bool :=
  teamTag iss true l a || (match b with | .reg r => teamTag iss false l r | .lit _ => false)

end Sys2Proof.Machine
end

