-- ==== Sys2Proof/Machine/Flags.lean ====
section
/-! DEFINITION. Conditions (R123, R148), completion flags (R115), carry (R163). -/

namespace Sys2Proof.Machine

/-- A condition on two element values (R123): the ordered forms are false and the unordered true with a NaN. -/
def condOn (c : Cond) (a b : EVal) : Bool :=
  let un := a.isNan || b.isNan
  match c with
  | .eq => a.eqv b
  | .ne => !un && !a.eqv b
  | .lt => a.lt b
  | .le => !un && !b.lt a
  | .gt => b.lt a
  | .ge => !un && !a.lt b
  | .equ => un || a.eqv b
  | .neu => un || !a.eqv b
  | .ltu => un || a.lt b
  | .leu => un || !b.lt a
  | .gtu => un || b.lt a
  | .geu => un || !a.lt b
  | .num => !un
  | .nan => un
  | .tst => false

/-- A condition on two operands under a type: it holds when every element's does; tst looks at the raw bits. -/
def condHolds (t : Ty) (ftz : Bool) (c : Cond) (x y : Nat) : Bool :=
  if c == .tst then Nat.land (x % 2 ^ t.width) (y % 2 ^ t.width) != 0
  else (List.range t.count).all (fun i => condOn c (valueOf t ftz (element t x i)) (valueOf t ftz (element t y i)))

/-- The set flag an engine instruction selects in its clause (R115): 15 counts nothing. -/
def selFlag (iss : Issue) (fb : Bool) : Nat := if fb then iss.cl.setB else iss.cl.setA

/-- Whether the selected flag can be raised (R115). -/
def flagRoom (iss : Issue) (f : Nat) : Bool := decide (12 ≤ f) || decide (iss.team.flag f < 63)

/-- A flag raised at issue. -/
def State.raiseFlag (s : State) (tid f : Nat) : State :=
  if f < 12 then s.updTeam tid (fun t => t.setFlag f (t.flag f + 1)) else s

/-- A flag lowered at completion. -/
def State.lowerFlag (s : State) (tid f : Nat) : State :=
  if f < 12 then s.updTeam tid (fun t => t.setFlag f (t.flag f - 1)) else s

/-- Add with carry at a width (R163): the sum and the carry out. -/
def addCarry (w a b : Nat) (c : Bool) : Nat × Bool :=
  let e := a % 2 ^ w + b % 2 ^ w + c.toNat
  (e % 2 ^ w, decide (2 ^ w ≤ e))

end Sys2Proof.Machine
end

