-- ==== Sys2Proof/Machine/Arith.lean ====
section
/-! DEFINITION. Arithmetic, 0x20-0x3C (R152-R159). -/

namespace Sys2Proof.Machine

/-- An exact result narrowed or rounded into an element (R135). -/
def toElem (iss : Issue) (e : EVal) (g : Word) : Nat × Word :=
  if iss.ty.isFloat then roundF iss.ty iss.mode iss.sat iss.ftz e g else (narrow iss.ty iss.sat e.truncI, g)

/-- Element-wise computation over three operands, elements ascending, the generator stepped along (R92, R135). -/
def eachElem (t : Ty) (f : Nat → Nat → Nat → Word → Nat × Word) (x y z : Nat) (g : Word) : Nat × Word :=
  let (es, g') := (List.range t.count).foldl (fun ((acc, g) : List Nat × Word) i =>
    let (e, g1) := f (element t x i) (element t y i) (element t z i) g
    (acc ++ [e], g1)) ([], g)
  (ofElements t.ew es, g')

/-- The element values an instruction computes on. -/
def ev (iss : Issue) (e : Nat) : EVal := valueOf iss.ty iss.ftz e

/-- An arithmetic instruction (R135): the type check of R136, then f on every element of every active lane. -/
def arith (iss : Issue) (s : State) (ok : Ty → Bool) (readD : Bool) (d a : Reg) (b : Option Src)
    (f : Nat → Nat → Nat → Word → Nat × Word) : Eff :=
  if iss.act == 0 then .done s
  else if !ok iss.ty then .stop 6 0 0 0
  else
    let w := iss.ty.width
    laneOp s iss readD w w w (scalarExt iss.ty) d (some a) b (fun _ x y z g =>
      let (r, g') := eachElem iss.ty f x y z g
      (some r, g'))

/-- Integer or floating (R135): all but q4x8. -/
def tyArith (t : Ty) : Bool := t.isInt || t.isFloat

/-- Rounded exact result of an operation on values. -/
def exact (iss : Issue) (f : EVal → EVal → EVal → EVal) (x y z : Nat) (g : Word) : Nat × Word :=
  toElem iss (f (ev iss x) (ev iss y) (ev iss z)) g

/-- ADD (R153). -/
def execAdd (d a : Reg) (b : Src) (s : State) : Host.Outcome State Fault Refusal :=
  run (.add d a b) s (fun iss s => arith iss s tyArith false d a (some b) (exact iss (fun a b _ => a.add iss.mode b)))
/-- SUB (R153). -/
def execSub (d a : Reg) (b : Src) (s : State) : Host.Outcome State Fault Refusal :=
  run (.sub d a b) s (fun iss s => arith iss s tyArith false d a (some b) (exact iss (fun a b _ => a.add iss.mode b.neg)))
/-- MUL (R153). -/
def execMul (d a : Reg) (b : Src) (s : State) : Host.Outcome State Fault Refusal :=
  run (.mul d a b) s (fun iss s => arith iss s tyArith false d a (some b) (exact iss (fun a b _ => a.mul b)))
/-- MULHI (R153): integer types. -/
def execMulhi (d a : Reg) (b : Src) (s : State) : Host.Outcome State Fault Refusal :=
  run (.mulhi d a b) s (fun iss s => arith iss s Ty.isInt false d a (some b) (fun x y _ g =>
    let t := iss.ty
    (bitsOfInt t.ew ((intOfBits t.isS t.ew x * intOfBits t.isS t.ew y) / ((2 ^ t.ew : Nat) : Int)), g)))
/-- FMA (R153): one rounding. -/
def execFma (d a : Reg) (b : Src) (s : State) : Host.Outcome State Fault Refusal :=
  run (.fma d a b) s (fun iss s => arith iss s tyArith true d a (some b) (exact iss (fun a b c => (a.mul b).add iss.mode c)))
/-- FMS (R153). -/
def execFms (d a : Reg) (b : Src) (s : State) : Host.Outcome State Fault Refusal :=
  run (.fms d a b) s (fun iss s => arith iss s tyArith true d a (some b) (exact iss (fun a b c => (a.mul b).add iss.mode c.neg)))
/-- FNMA (R153). -/
def execFnma (d a : Reg) (b : Src) (s : State) : Host.Outcome State Fault Refusal :=
  run (.fnma d a b) s (fun iss s => arith iss s tyArith true d a (some b) (exact iss (fun a b c => c.add iss.mode (a.mul b).neg)))
/-- MIN (R153). -/
def execMin (d a : Reg) (b : Src) (s : State) : Host.Outcome State Fault Refusal :=
  run (.min d a b) s (fun iss s => arith iss s tyArith false d a (some b) (exact iss (fun a b _ => a.min b)))
/-- MAX (R153). -/
def execMax (d a : Reg) (b : Src) (s : State) : Host.Outcome State Fault Refusal :=
  run (.max d a b) s (fun iss s => arith iss s tyArith false d a (some b) (exact iss (fun a b _ => a.max b)))

/-- A sign-only floating operation (R153): a NaN gives the canonical NaN, nothing is rounded; under rst no Round is
performed, so no generator steps. -/
def signOp (iss : Issue) (f : EVal → EVal) (x : Nat) (g : Word) : Nat × Word :=
  if iss.ty.isFloat then ((roundF iss.ty .rne iss.sat iss.ftz (f (ev iss x)) g).1, g)
  else (narrow iss.ty iss.sat (f (ev iss x)).truncI, g)

/-- ABS (R153). -/
def execAbs (d a : Reg) (s : State) : Host.Outcome State Fault Refusal :=
  run (.abs d a) s (fun iss s => arith iss s tyArith false d a none (fun x _ _ g => signOp iss EVal.abs x g))
/-- NEG (R153). -/
def execNeg (d a : Reg) (s : State) : Host.Outcome State Fault Refusal :=
  run (.neg d a) s (fun iss s => arith iss s tyArith false d a none (fun x _ _ g => signOp iss EVal.neg x g))

/-- CLAMP's exact result (R153): Min(Max(a, c), b), a NaN bound ignored, a NaN in a kept. -/
def clampE (a b c : EVal) : EVal := if a.isNan then .nan else (a.max c).min b

/-- CLAMP (R153). -/
def execClamp (d a : Reg) (b : Src) (s : State) : Host.Outcome State Fault Refusal :=
  run (.clamp d a b) s (fun iss s => arith iss s tyArith true d a (some b) (exact iss clampE))

/-- DIV on an element (R154). -/
def divElem (iss : Issue) (x y _z : Nat) (g : Word) : Nat × Word :=
  if iss.ty.isFloat then toElem iss ((ev iss x).div (ev iss y)) g
  else
    let t := iss.ty
    let a := intOfBits t.isS t.ew x
    let b := intOfBits t.isS t.ew y
    if b = 0 then (2 ^ t.ew - 1, g) else (narrow t iss.sat (Int.tdiv a b), g)

/-- DIV (R154). -/
def execDiv (d a : Reg) (b : Src) (s : State) : Host.Outcome State Fault Refusal :=
  run (.div d a b) s (fun iss s => arith iss s tyArith false d a (some b) (divElem iss))

/-- REM on an element (R154): the floating remainder is exact and unrounded. -/
def remElem (iss : Issue) (x y _z : Nat) (g : Word) : Nat × Word :=
  if iss.ty.isFloat then ((roundF iss.ty .rne iss.sat iss.ftz ((ev iss x).rem (ev iss y)) g).1, g)
  else
    let t := iss.ty
    let a := intOfBits t.isS t.ew x
    let b := intOfBits t.isS t.ew y
    if b = 0 then (x, g) else (narrow t iss.sat (Int.tmod a b), g)

/-- REM (R154). -/
def execRem (d a : Reg) (b : Src) (s : State) : Host.Outcome State Fault Refusal :=
  run (.rem d a b) s (fun iss s => arith iss s tyArith false d a (some b) (remElem iss))

/-- SQRT (R155). -/
def execSqrt (d a : Reg) (s : State) : Host.Outcome State Fault Refusal :=
  run (.sqrt d a) s (fun iss s => arith iss s Ty.isFloat false d a none (exact iss (fun a _ _ => sqrtE a)))
/-- RSQ (R155). -/
def execRsq (d a : Reg) (s : State) : Host.Outcome State Fault Refusal :=
  run (.rsq d a) s (fun iss s => arith iss s Ty.isFloat false d a none (exact iss (fun a _ _ => rsqE a)))
/-- RCP (R155). -/
def execRcp (d a : Reg) (s : State) : Host.Outcome State Fault Refusal :=
  run (.rcp d a) s (fun iss s => arith iss s Ty.isFloat false d a none (exact iss (fun a _ _ => rcpE a)))
/-- EXP2 (R155). -/
def execExp2 (d a : Reg) (s : State) : Host.Outcome State Fault Refusal :=
  run (.exp2 d a) s (fun iss s => arith iss s Ty.isFloat false d a none (exact iss (fun a _ _ => exp2E a)))
/-- LOG2 (R155). -/
def execLog2 (d a : Reg) (s : State) : Host.Outcome State Fault Refusal :=
  run (.log2 d a) s (fun iss s => arith iss s Ty.isFloat false d a none (exact iss (fun a _ _ => log2E a)))
/-- SIN (R155). -/
def execSin (d a : Reg) (s : State) : Host.Outcome State Fault Refusal :=
  run (.sin d a) s (fun iss s => arith iss s Ty.isFloat false d a none (exact iss (fun a _ _ => sinE a)))
/-- COS (R155). -/
def execCos (d a : Reg) (s : State) : Host.Outcome State Fault Refusal :=
  run (.cos d a) s (fun iss s => arith iss s Ty.isFloat false d a none (exact iss (fun a _ _ => cosE a)))
/-- TANH (R155). -/
def execTanh (d a : Reg) (s : State) : Host.Outcome State Fault Refusal :=
  run (.tanh d a) s (fun iss s => arith iss s Ty.isFloat false d a none (exact iss (fun a _ _ => tanhE a)))

/-- The fractional part a − Floor(a) (R156); the difference a − Floor(a) of a zero is an exact zero sum (R392). -/
def fracE (mode : Mode) : EVal → EVal
  | .nan => .nan
  | .inf _ => .nan
  | .fin s n d => EVal.add mode (.fin s n d) (EVal.ofInt (EVal.fin s n d).floorI).neg

/-- FRC on an element (R156): a rounding to 1 gives the largest value below 1. -/
def frcElem (iss : Issue) (x _y _z : Nat) (g : Word) : Nat × Word :=
  let f := iss.ty.fmt
  let (r, g') := roundF iss.ty iss.mode iss.sat iss.ftz (fracE iss.mode (ev iss x)) g
  let one := f.bias * 2 ^ f.fbits
  (if r == one then one - 1 else r, g')

/-- FRC (R156). -/
def execFrc (d a : Reg) (s : State) : Host.Outcome State Fault Refusal :=
  run (.frc d a) s (fun iss s => arith iss s Ty.isFloat false d a none (frcElem iss))

/-- RND on an element (R156): the integral value by the mode, in the same type; a zero keeps the sign of a. -/
def rndElem (iss : Issue) (x _y _z : Nat) (g : Word) : Nat × Word :=
  let g' := if iss.mode == .rst then genStep g else g
  let v : EVal := match ev iss x with
    | .nan => .nan
    | .inf s => .inf s
    | .fin s n d => .fin s (roundToInt iss.mode s n d g').natAbs 1
  ((roundF iss.ty .rne iss.sat iss.ftz v g).1, g')

/-- RND (R156). -/
def execRnd (d a : Reg) (s : State) : Host.Outcome State Fault Refusal :=
  run (.rnd d a) s (fun iss s => arith iss s Ty.isFloat false d a none (rndElem iss))

/-- One element converted from a type to the mood type (R157). -/
def cvtElem (iss : Issue) (st : Ty) (x : Nat) (g : Word) : Nat × Word :=
  let t := iss.ty
  let v := valueOf st iss.ftz x
  if t.isFloat then roundF t iss.mode iss.sat iss.ftz v g
  else if st.isFloat then roundI t iss.mode v g
  else (narrow t iss.sat v.truncI, g)

/-- Elements converted one after another. -/
def cvtAll (iss : Issue) (st : Ty) (xs : List Nat) (g : Word) : List Nat × Word :=
  xs.foldl (fun ((acc, g) : List Nat × Word) x => let (e, g1) := cvtElem iss st x g; (acc ++ [e], g1)) ([], g)

/-- Where CVT's elements go (R157), with the old elements of d elsewhere. -/
def cvtPlace (iss : Issue) (st : Ty) (cm x z : Nat) (g : Word) : Nat × Word :=
  let t := iss.ty
  let ns := st.count
  let nd := t.count
  if nd < ns then
    let (es, g') := cvtAll iss st ((List.range nd).map (fun j => element st x ((cm * nd + j) % ns))) g
    (ofElements t.ew es, g')
  else if ns < nd then
    let (es, g') := cvtAll iss st ((List.range ns).map (fun j => element st x j)) g
    let out := (List.range nd).map (fun i =>
      match (List.range ns).find? (fun j => (cm * ns + j) % nd == i) with
      | some j => (es[j]?).getD 0
      | none => element t z i)
    (ofElements t.ew out, g')
  else
    let (es, g') := cvtAll iss st ((List.range ns).map (fun j => element st x j)) g
    (ofElements t.ew es, g')

/-- CVT (R157): b32 and q4x8 on either side are not accepted. -/
def execCvt (e : Fin 4) (d a : Reg) (st : Fin 15) (s : State) : Host.Outcome State Fault Refusal :=
  run (.cvt e d a st) s (fun iss s =>
    let src := (Ty.ofCode st.val).getD .s32
    let ok (t : Ty) : Bool := (t.isInt && t != .b32) || t.isFloat
    if iss.act == 0 then .done s
    else if !ok iss.ty || !ok src then .stop 6 0 0 0
    else laneOp s iss (decide (src.count < iss.ty.count)) src.width 32 iss.ty.width (scalarExt iss.ty) d (some a) none (fun _ x _ z g =>
      let (r, g') := cvtPlace iss src e.val x z g
      (some r, g')))

/-- The source type of PACK (R158). -/
def packTy : PackSrc → Ty
  | .f32 => .f32
  | .s32 => .s32
  | .n32 => .n32

/-- PACK (R158). -/
def execPack (src : PackSrc) (d a : Reg) (b : Src) (s : State) : Host.Outcome State Fault Refusal :=
  run (.pack src d a b) s (fun iss s =>
    let t := iss.ty
    let half := t == .s16x2 || t == .bf16x2 || t == .f16x2
    let quart := t == .s8x4 || t == .n8x4 || t == .e4m3x4 || t == .e5m2x4
    if iss.act == 0 then .done s
    else if !half && !quart then .stop 6 0 0 0
    else laneOp s iss quart 32 32 32 (scalarExt t) d (some a) (some b) (fun _ x y z g =>
      let (es, g') := cvtAll iss (packTy src) [x, y] g
      (some (ofElements t.ew (if half then es else es ++ [element t z 0, element t z 1])), g')))

/-- The 32-bit type an element widens to (R158). -/
def unpackTy (t : Ty) : Ty := if t.isFloat then .f32 else if t.isS then .s32 else .n32

/-- UNPACK (R158): widened and exact. -/
def execUnpack (d a : Reg) (b : Src) (s : State) : Host.Outcome State Fault Refusal :=
  run (.unpack d a b) s (fun iss s =>
    let t := iss.ty
    if iss.act == 0 then .done s
    else if !(tyArith t && decide (t.ew < 32)) then .stop 6 0 0 0
    else laneOp s iss false 32 32 32 (scalarExt (unpackTy t)) d (some a) (some b) (fun _ x y _ g =>
      let v := valueOf t iss.ftz (element t x (y % t.count))
      let r := if t.isFloat then (roundF .f32 .rne false false v 1).1 else bitsOfInt 32 v.truncI
      (some r, g)))

/-- A dot product with its addend (R159): the exact sum, the sign of an exact zero by R392. -/
def dotE (iss : Issue) (acc : EVal) (x y : Nat) : EVal :=
  (List.range iss.ty.count).foldl (fun e i => e.add iss.mode ((ev iss (element iss.ty x i)).mul (ev iss (element iss.ty y i)))) acc

/-- DOT4 and DOT2 in a lane: s types as s32, n types as n32, floating types as f32 by one Round. -/
def dotLane (iss : Issue) (x y z : Nat) (g : Word) : Nat × Word :=
  if iss.ty.isFloat then roundF .f32 iss.mode iss.sat iss.ftz (dotE iss (valueOf .f32 iss.ftz z) x y) g
  else
    let t := if iss.ty.isS then Ty.s32 else Ty.n32
    (narrow t iss.sat (dotE iss (valueOf t false z) x y).truncI, g)

/-- The shared body of the dot products. -/
def dot (iss : Issue) (s : State) (ok : Ty → Bool) (d a : Reg) (b : Src) : Eff :=
  if iss.act == 0 then .done s
  else if !ok iss.ty then .stop 6 0 0 0
  else
    let ext := scalarExt (if iss.ty.isFloat then .f32 else if iss.ty.isS then .s32 else .n32)
    laneOp s iss true 32 32 32 ext d (some a) (some b) (fun _ x y z g => let (r, g') := dotLane iss x y z g; (some r, g'))

/-- DOT4 (R159). -/
def execDot4 (d a : Reg) (b : Src) (s : State) : Host.Outcome State Fault Refusal :=
  run (.dot4 d a b) s (fun iss s => dot iss s (fun t => t == .s8x4 || t == .n8x4 || t == .e4m3x4 || t == .e5m2x4) d a b)
/-- DOT2 (R159). -/
def execDot2 (d a : Reg) (b : Src) (s : State) : Host.Outcome State Fault Refusal :=
  run (.dot2 d a b) s (fun iss s => dot iss s (fun t => t == .s16x2 || t == .bf16x2 || t == .f16x2) d a b)

end Sys2Proof.Machine
end

