-- ==== Sys2Proof/Machine/Attest.lean ====
section
/-! DEFINITION. Attestation (R304, R307, R308, R384): the measurement registers, reports, and the answers to SPDM, whoever asks. -/

namespace Sys2Proof.Machine

/-- A measurement register. -/
def State.measured (s : State) (i : Nat) : BitVec 512 := NMap.getD s.boot.meas i 0

/-- MEAS0 to MEAS7 as they stand, as measurement blocks 1 to 8, and the device number (R308; their bytes by log 19). -/
def State.snapshot (s : State) : List Byte :=
  (List.range 8).flatMap (fun i => leBytes 8 (i + 1) ++ leBytes 64 (s.measured i).toNat) ++ leBytes 8 s.fab.self

/-- A report signed by the alias key (R307). -/
def State.signed (s : State) (body : List Byte) : List Byte := body ++ Config.aliasSign (s.boot.aliasSeed.getD 0) body

/-- The certificate chain (R307). -/
def State.certChain (s : State) : List Byte := Config.aliasChain s.boot.identity (s.boot.aliasSeed.getD 0)

/-- An ERROR response: its code, its data, its extended data (log 19). -/
def spdmError (code data : Nat) (ext : List Byte) : List Byte := [0x13, 0x7F, BitVec.ofNat 8 code, BitVec.ofNat 8 data] ++ ext

/-- The response to a request of SPDM (R308, R384): the digest is of the chain that ends in the alias key's certificate; a challenge and the eight
registers, as one snapshot with the device number, are signed by the alias key (R307). -/
def State.spdmReply (s : State) : SpdmReq → List Byte
  | .version => Config.spdmResponse 0x84 []
  | .capabilities => Config.spdmResponse 0xE1 []
  | .algorithms => Config.spdmResponse 0xE3 []
  | .digests => Config.spdmResponse 0x81 (leBytes 64 (Config.shake512 s.certChain).toNat)
  | .certificate => Config.spdmResponse 0x82 s.certChain
  | .challenge nonce => s.signed (Config.spdmResponse 0x83 (nonce ++ s.snapshot))
  | .measurements nonce => s.signed (Config.spdmResponse 0xE0 nonce ++ s.snapshot)
  | .unsupported request => spdmError 7 request.toNat []

/-- Whether a request is answered when bring-up has stopped (R306). -/
def spdmAlways : SpdmReq → Bool
  | .version => true
  | .capabilities => true
  | .algorithms => false
  | .digests => false
  | .certificate => false
  | .challenge _ => false
  | .measurements _ => false
  | .unsupported _ => false

/-- A response: left in the mailbox, or sent to the peer that asked in a management message. -/
def State.answerSpdm (s : State) (src : Option Nat) (r : List Byte) : State :=
  s.updBoot (fun b => match src with
    | none => { b with spdm := some r }
    | some d => { b with spdmPeer := NMap.put b.spdmPeer d r })

/-- Whether the mailbox is open: the boot order has ended, or has stopped. -/
def State.mailbox (s : State) : Bool := decide (bootReady ≤ s.boot.stage) || s.boot.failed.isSome

/-- A request of the mailbox (none) or of a peer answered (R308). After bring-up has stopped the mailbox alone is open, and answers with Unspecified
unless the request is one of the two that are answered always. Until FYSELF is written no packet of a peer is accepted (R290). -/
def State.spdm (s : State) (src : Option Nat) (q : SpdmReq) : State :=
  if !s.mailbox || (src.isSome && (!s.fab.opened || s.boot.failed.isSome)) then s
  else
    match s.boot.failed with
    | some k => s.answerSpdm src (if spdmAlways q then s.spdmReply q else spdmError 5 0 (leBytes 4 k))
    | none => s.answerSpdm src (s.spdmReply q)

end Sys2Proof.Machine
end

