-- ==== Sys2Proof/Machine/Counter.lean ====
section
/-! DEFINITION. Counters and what reacts to them: references (R52), updates (R73, R203, R250), the test of Conjunction
slots (R249), dependences of held records (R52), arrivals at phase headers (R191, R236, R344). -/

namespace Sys2Proof.Machine

/-! ### Counter references (R52) -/

/-- Enable of a reference. -/
def refOn (x : Nat) : Bool := Nat.testBit x 15
/-- Die of a reference. -/
def refDie (x : Nat) : Nat := x / 4096 % 2
/-- Counter number of a reference. -/
def refNum (x : Nat) : Nat := x % 4096
/-- Place of the counter a reference names, in the counter window (R73). -/
def refAddr (x : Nat) : Nat := counterAddr (refDie x) (refNum x)
/-- Whether a context may reach the counter of an enabled reference (R73, R74). -/
def refIn (c : Ctx) (x : Nat) : Bool := decide (c.ctrLo (refDie x) ≤ refNum x) && decide (refNum x ≤ c.ctrHi (refDie x))

/-- A counter as it is tested: a counter whose storage was lost reads as 0 (R357). -/
def State.counter (s : State) (addr : Nat) : Nat := if s.mem.ctr.tagged addr 8 then 0 else (s.mem.ctr.dword addr).toNat

/-! ### Conjunction slots (R246, R249) -/

/-- Key of a slot: die and number. -/
def cjKey (die n : Nat) : Nat := die * 8192 + n
/-- Bits of a descriptor, numbered across its 512 (R246). -/
def descBits (d : List DWord) (hi lo : Nat) : Nat := bitsN (d.foldr (fun x acc => x.toNat + acc * 2 ^ 64) 0) hi lo
/-- Trigger reference, rounds, stride. -/
def CjSlot.trig (x : CjSlot) : Nat := descBits x.desc 63 48
def CjSlot.rounds (x : CjSlot) : Nat := max 1 (descBits x.desc 223 208)
def CjSlot.stride (x : CjSlot) : Nat := descBits x.desc 175 128

/-- The test of an Armed slot: it goes to Firing and its round joins the engine's issue queue (R249, R250). -/
def State.slotTest (s : State) (key : Nat) : State :=
  match NMap.look s.conj.slots key with
  | none => s
  | some x =>
    if x.st == .armed && decide (x.thresh ≤ s.counter (refAddr x.trig)) then
      s.updConj (fun c => { c with
        slots := NMap.put c.slots key { x with st := .firing }
        queue := NMap.put c.queue (key / 8192) (NMap.getD c.queue (key / 8192) [] ++ [key]) })
    else s

/-! ### Dependences of held records (R52) -/

/-- Dependence i of a launch record: its reference and threshold. -/
def depRef (r : List Byte) (i : Nat) : Nat := recBits r (527 + 16 * i) (512 + 16 * i)
def depThresh (r : List Byte) (i : Nat) : Nat := recBits r (703 + 64 * i) (640 + 64 * i)

/-- Whether every dependence of a record is met. -/
def State.depsMet (s : State) (r : List Byte) : Bool :=
  (List.range 4).all (fun i => !refOn (depRef r i) || decide (depThresh r i ≤ s.counter (refAddr (depRef r i))))

/-- Tests the dependences of a slot's held record; once all are met a later fall does not hold it back. -/
def State.depTest (s : State) (n : Nat) : State :=
  let x := s.slot n
  if x.st == .held && !x.hold && s.depsMet x.record then s.updSlot n (fun x => { x with hold := true }) else s

/-! ### Updates (R203, R250) -/

/-- Waiters in WAITCT whose threshold an update reaches. -/
def State.wakeCounter (s : State) (addr : Nat) : State :=
  let v := s.counter addr
  { s with teams := s.teams.map (fun (k, t) => (k, { t with frags := t.frags.map (fun (e, f) =>
      match f.latch with
      | .counter a th => if a == addr && decide (th ≤ v) then (e, { f with latch := .done 0 }) else (e, f)
      | _ => (e, f)) })) }

/-- Writes a counter: an update tests the slots that watch it in ascending order, its waiters and the held records. -/
def State.setCounter (s : State) (addr : Nat) (x : DWord) : State :=
  let s1 := (s.updMem (fun m => { m with ctr := m.ctr.setDword addr x })).wakeCounter addr
  let keys := (s1.conj.slots.filter (fun e => e.2.st == .armed && refAddr e.2.trig == addr)).map Prod.fst
  let s2 := keys.foldl State.slotTest s1
  (s2.slots.map Prod.fst).foldl State.depTest s2

/-- Adds to a counter, modulo 2^64. A counter whose storage was lost stays so until a CTSET (R357). -/
def State.addCounter (s : State) (addr : Nat) (x : DWord) : State :=
  if s.mem.ctr.tagged addr 8 then s else s.setCounter addr (BitVec.ofNat 64 (s.counter addr) + x)

/-- Adds to the counter of a reference, when it is enabled. -/
def State.addRef (s : State) (ref : Nat) (x : Nat) : State :=
  if refOn ref then s.addCounter (refAddr ref) (BitVec.ofNat 64 x) else s

/-! ### Arrivals (R191, R236, R344) -/

/-- A record of a phase anomaly, once per launch for OVERRUN and LATE. -/
def State.anomaly (s : State) (l : Launch) (core bit : Nat) (phase : Nat) : State :=
  if NSet.has l.reported bit then s
  else
    (s.updLaunch l.id (fun l => { l with reported := NSet.add l.reported bit })).event l.ctx 7 core 0 (2 ^ bit)
      (core * 256 + l.slot) phase

/-- Counts an arrival tagged with a phase in the header that a launch keeps on a core. -/
def State.arrive (s : State) (l : Launch) (core phase : Nat) : State :=
  let h := l.head core
  let p := h.hdr.phase
  let put (s : State) (x : PhaseHdr) : State := s.updLaunch l.id (fun l => { l with heads := NMap.put l.heads core { h with hdr := x } })
  if phase % 65536 == p then
    let e := h.hdr.expect - 1
    let ovr := h.hdr.overrun || decide (e < 0)
    let s1 := put s { h.hdr with expect := e, overrun := ovr }
    if ovr && !h.hdr.overrun then s1.anomaly l core 0 p else s1
  else if phase % 65536 == (p + 1) % 65536 then put s { h.hdr with nextexp := h.hdr.nextexp - 1 }
  else if h.hdr.late then s
  else (put s { h.hdr with late := true }).anomaly l core 1 p

/-- The launch of a hardware slot that is resident on a core: the one that has a phase header there. -/
def State.launchOn (s : State) (slot core : Nat) : Option Launch :=
  (s.launches.map Prod.snd).find? (fun l => l.slot == slot && (NMap.look l.heads core).isSome)

/-- Context of the queue mapped to a slot (R46, R344). -/
def State.slotCtx (s : State) (n : Nat) : Option Ctx :=
  let x := s.slot n
  if x.st == .free then none else s.ctx? (recBits x.desc 95 80)

/-- An arrival by core and slot: stray when no launch of that slot is resident on that core. -/
def State.arrival (s : State) (core slot phase : Nat) : State :=
  match s.launchOn slot core with
  | some l => s.arrive l core phase
  | none =>
    match s.slotCtx slot with
    | some c => s.event c.num 7 core 0 4 (core * 256 + slot) (phase % 65536)
    | none => s.countError 3

end Sys2Proof.Machine
end

