-- ==== Sys2Proof/Machine/Regs.lean ====
section
/-! DEFINITION. Management registers: where each is kept and what it resets to (R80, R280, R285, R291, R294, R298, R299,
R311, R360, R372, R374, R381). -/

namespace Sys2Proof.Machine

/-- Key of a register in the management registers stored as written; the others live in their own fields. -/
def regKey : MReg → Nat
  | .l2VerCfg => 0
  | .xlinvAddr => 1
  | .fyE2e => 2
  | .fyRtBase => 3
  | .mctBase => 4
  | .mdAckTo => 5
  | .holdLim c => 16 + c.val
  | .fyWin n => 32 + n.val
  | .fyCtr d => 48 + d.val
  | .fyLnk p => 56 + p.val
  | .mdJoin n => 64 + n.val
  | .mdList n => 128 + n.val
  | .scrubCfg n => 192 + n.val
  | .errLog n => 196 + n.val
  | .ckLog => 200
  | .crBase _ => 255
  | .crHead _ => 255
  | .crTag _ => 255
  | .pgrBase => 255
  | .pgrHead => 255
  | .levelFloor _ => 255
  | .dbgCtl _ => 255
  | .cjRange _ _ => 255
  | .svcCtl => 255

/-- Reset value of a stored register. -/
def regReset : MReg → DWord
  | .l2VerCfg => 4
  | .holdLim _ => 512
  | .fyLnk _ => 0x6400000200
  | .fyE2e => 0x80014
  | .mdAckTo => 500
  | .xlinvAddr => 0
  | .fyRtBase => 0
  | .mctBase => 0
  | .fyWin _ => 0
  | .fyCtr _ => 0
  | .mdJoin _ => 0
  | .mdList _ => 0
  | .scrubCfg _ => 0
  | .errLog _ => 0
  | .ckLog => 0
  | .crBase _ => 0
  | .crHead _ => 0
  | .crTag _ => 0
  | .pgrBase => 0
  | .pgrHead => 0
  | .levelFloor _ => 0
  | .dbgCtl _ => 0
  | .cjRange _ _ => 0
  | .svcCtl => 0

/-- Value of a stored register. -/
def State.reg (s : State) (r : MReg) : DWord := NMap.getD s.mgmt.regs (regKey r) (regReset r)

/-- A stored register written. -/
def State.setReg (s : State) (r : MReg) (v : DWord) : State :=
  s.updMgmt (fun m => { m with regs := NMap.set (regReset r) m.regs (regKey r) v })

/-- Hold limit of a queue class (R285). -/
def State.holdLimit (s : State) (c : Fin 6) : Nat := dw (s.reg (.holdLim c)) 12 0

/-! ### Error logs (R355) -/

/-- Records a detection in a level's log ring and counts it: kind, unit, context, address. A ring where no memory is takes nothing
(log 18). -/
def State.logError (s : State) (level : Fin 4) (kind unit ctx addr : Nat) : State :=
  let v := s.reg (.errLog level)
  let tail := NMap.getD s.mgmt.errTail level.val 0
  let corrected := kind == 0 || kind == 2
  let cnt := NMap.getD s.mgmt.errCnt level.val 0
  let cnt' := if corrected then cnt / 2 ^ 32 * 2 ^ 32 + min (2 ^ 32 - 1) (cnt % 2 ^ 32 + 1)
    else min (2 ^ 32 - 1) (cnt / 2 ^ 32 + 1) * 2 ^ 32 + cnt % 2 ^ 32
  let s1 := s.updMgmt (fun m => { m with errCnt := NMap.set 0 m.errCnt level.val cnt' })
  if dw v 7 4 == 0 || !paExists (dw v 56 12 * 4096 + 32 * (tail % 2 ^ (dw v 7 4 + 6))) then s1
  else
    let rec' := leBytes 8 (level.val * 2 ^ 60 + kind * 2 ^ 56 + unit * 2 ^ 40 + ctx) ++ leBytes 8 addr
      ++ leBytes 8 (Config.syndrome s.free % 2 ^ 16) ++ leBytes 8 s.clk
    let a := dw v 56 12 * 4096 + 32 * (tail % 2 ^ (dw v 7 4 + 6))
    let s2 := (s1.homeWrite none a rec' false).updMgmt (fun m => { m with errTail := NMap.set 0 m.errTail level.val (tail + 1) })
    { s2 with free := s2.free + 1 }

end Sys2Proof.Machine
end

