-- ==== Sys2Proof/Machine/Ports.lean ====
section
/-! DEFINITION. Routes, ports and paths to other devices (R291, R292, R374), and the flits of a port (R371, R387, R388). -/

namespace Sys2Proof.Machine

/-- Key of a plane's route to a device; of a path of it: 0 the minimal, 1 to 4 NM0 to NM3. -/
def routeKey (port dev : Nat) : Nat := port * 9216 + dev
def pathKey (port dev path : Nat) : Nat := routeKey port dev * 5 + path

/-- The route entry of a device on a plane, through the cache of 4,096 entries (log 12: a full cache keeps what it holds). -/
def State.route (s : State) (port dev : Nat) : Nat × State :=
  match NMap.look s.fab.routes (routeKey port dev) with
  | some e => (e, s)
  | none =>
    let e := leNat (s.mem.hbm.read ((s.reg .fyRtBase).toNat + 16 * routeKey port dev) 16)
    (e, if s.fab.routes.length < 4096 then s.updFab (fun f => { f with routes := NMap.put f.routes (routeKey port dev) e }) else s)

/-- Whether a route entry is valid. -/
def routeOk (e : Nat) : Bool := bitsN e 127 127 == 1 && decide (bitsN e 126 123 ≤ 9) && decide (bitsN e 112 111 ≤ 2)

/-- The score of a path. -/
def State.score (s : State) (port dev path : Nat) : Nat := NMap.getD s.fab.scores (pathKey port dev path) 0

/-- Whether a path is marked failed. -/
def State.failedPath (s : State) (port dev path : Nat) : Bool := (NMap.look s.fab.marks (pathKey port dev path)).isSome

/-- The path that the scores choose. -/
def State.choosePath (s : State) (port dev : Nat) : Nat :=
  let best := [2, 3, 4].foldl (fun b k => if s.score port dev k < s.score port dev b then k else b) 1
  if s.score port dev 0 ≤ 2 * s.score port dev best + 1 then 0 else best

/-- A path's score after an acknowledgement with a mark of 0 to 3; a failed path's is held. -/
def State.scoreAck (s : State) (port dev path : Nat) : State :=
  let (mark, s1) := s.pick 4
  if s1.failedPath port dev path then s1
  else
    let x := s1.score port dev path
    s1.updFab (fun f => { f with scores := NMap.set 0 f.scores (pathKey port dev path) (min 15 (x - x / 4 + 2 * mark)) })

/-- Routes of a die's four ports to a device. -/
def State.dieRoutes (s : State) (die dev : Nat) : List (Nat × Nat) × State :=
  (List.range 4).foldl (fun (l, s) i => let (e, s') := State.route s (4 * die + i) dev; (l ++ [(4 * die + i, e)], s')) ([], s)

/-- Where a packet can leave. -/
inductive Exit where
  | port (p : Nat)
  | waits
  | none
  deriving DecidableEq, Repr

/-- The port of an unpinned packet: of the die's ports that are UP and have a valid route, the one with the fewest packets in its egress
queue, the lowest among equals; it waits while only ports that retrain could take it. -/
def State.choosePort (s : State) (die dev : Nat) (bad : Nat → Bool) : Exit × State :=
  let (rs, s1) := s.dieRoutes die dev
  let ok := (rs.filter (fun r => routeOk r.2 && !bad r.1 && s.inService 3 r.1)).map Prod.fst
  match sortKey (fun p => (s.port p).out.length * 8 + p) (ok.filter (fun p => (s.port p).up)) with
  | p :: _ => (.port p, s1)
  | [] => (if ok.any (fun p => (s.port p).retrain) then .waits else .none, s1)

/-! ### Flits (R371, R387) -/

/-- The send window of a port (R372). -/
def State.window (s : State) (p : Nat) : Nat := dw (s.reg (.fyLnk (Fin.ofNat 8 p))) 10 0

/-- Whether a port takes a packet (R388): it is UP, and its send window has room for the packet's first flit, behind no other packet's; one that
is drained takes none (R314). -/
def State.portTakes (s : State) (p : Nat) : Bool :=
  (s.port p).up && s.inService 3 p && (s.port p).out.isEmpty && decide ((s.port p).unacked.length < s.window p)

/-- Flits of a packet of n bytes of payload. -/
def flits (n : Nat) : Nat := max 1 ((n + 63) / 64)

/-- The flits still to leave once the first n have left. -/
def dropFlits : Nat → List Nat → List Nat
  | _, [] => []
  | n, k :: ks => if k ≤ n then dropFlits (n - k) ks else (k - n) :: ks

/-- Flits leave while the window admits them (R388). -/
def PortSt.pump (win : Nat) (x : PortSt) (now : Nat) : PortSt :=
  let n := min (x.out.foldl (· + ·) 0) (win - x.unacked.length)
  if n = 0 || !x.up then x
  else { x with
    nextSeq := (x.nextSeq + n) % 4096, unacked := x.unacked ++ (List.range n).map (fun i => (x.nextSeq + i) % 4096)
    out := dropFlits n x.out, since := if x.unacked.isEmpty then now else x.since }
def State.pumpPort (s : State) (p : Nat) : State := s.updPort p (fun x => x.pump (s.window p) s.clk)

/-- A packet of n bytes of payload passes whole into a port. -/
def State.sendFlits (s : State) (p n : Nat) : State :=
  (s.updPort p (fun x => { x with out := x.out ++ [flits n] })).pumpPort p

end Sys2Proof.Machine
end

