-- ==== Sys2Proof/Machine/Translate.lean ====
section
/-! DEFINITION. Translation (R74-R80, R349): walks, the accessed and dirty bits, and the caches of cores and dies. -/

namespace Sys2Proof.Machine

/-- What an address reaches through a leaf for a context's PASID (R77). -/
def hitOf (x : DWord) (va pasid : Nat) : Hit :=
  let off := va % pageSize x
  let a := dw x 63 30 * 4096 + off
  let ap := dw x 5 4
  { ap := ap, dev := dw x 29 16, addr := if ap == 2 then dw x 29 16 * 2 ^ 46 + a else a
    sync := leafBit x 7, c := leafBit x 8, rap := leafBit x 6, ha := leafBit x 14, pasid := pasid }

/-- A table entry as a walk reads it, a sync-relaxed load at the entry's home (R75): partials on it are combined first; one whose granule is
marked is logged and counts as V = 0 (R349). -/
def State.readEntry (s : State) (ctx e : Nat) : DWord × State :=
  let s1 := s.combine (sectorOf e)
  if s1.mem.hbm.tagged e 8 then (0, s1.logError 3 1 (stackOf e) ctx (sectorOf e * 64)) else (s1.mem.hbm.dword e, s1)

/-- One walk from a table of a level (R75): the leaf, its entry's address and its level; none where an entry has V = 0. -/
def State.walk (ctx va : Nat) : Nat → Nat → State → Option (DWord × Nat × Nat) × State
  | 0, table, s =>
    let e := table + 8 * (va / 4096 % 512)
    let (x, s1) := s.readEntry ctx e
    (if leafBit x 0 then some (x, e, 0) else none, s1)
  | level + 1, table, s =>
    let e := table + 8 * (va / 2 ^ (12 + 9 * (level + 1)) % 512)
    let (x, s1) := s.readEntry ctx e
    if !leafBit x 0 then (none, s1)
    else if dw x 3 1 == 0 then State.walk ctx va level (dw x 63 30 * 4096) s1
    else (some (x, e, level + 1), s1)

/-- The accessed and dirty bits of an entry. -/
def adBits : DWord := 0x3000

/-- Sets A, and D for a write, by an atomic OR on the leaf's entry at its home (R78); none where the entry is found changed. -/
def State.setAD (s : State) (e : Nat) (x : DWord) (write : Bool) : Option (DWord × State) :=
  let want : DWord := 0x1000#64 ||| (if write && leafBit x 2 then 0x2000#64 else 0#64)
  if x ||| want == x then some (x, s)
  else
    let s1 := s.claimLine (lineOf e)
    let now := s1.mem.hbm.dword e
    if now ||| adBits == x ||| adBits then some (now ||| want, s1.homeWrite none e (leBytes 8 (now ||| want).toNat) false) else none

/-- The cached translation of an address. -/
def tlbLook (t : List Tlb) (ctx va : Nat) : Option Tlb := t.find? (fun e => e.ctx == ctx && decide (e.va ≤ va) && decide (va < e.va + e.size))

/-- Whether a core's translation cache holds an address (R82). -/
def State.tlbHolds (s : State) (core ctx va : Nat) : Bool := (tlbLook (s.coreSt core).tlb ctx va).isSome

/-- The translation that a core's cache holds, or else its die's service (R79). -/
def State.cachedLeaf (s : State) (core ctx va : Nat) : Option Tlb :=
  match tlbLook (s.coreSt core).tlb ctx va with
  | some e => some e
  | none => tlbLook (NMap.getD s.xlats (coreDie core) []) ctx va

/-- A cache of n entries with one put in, in place of what it held for the address; the oldest goes where it is full (log 11). -/
def keepTlb (n va : Nat) (ent : Tlb) (l : List Tlb) : List Tlb :=
  if l.any (fun z => z.ctx == ent.ctx && z.va == ent.va && z.size == ent.size) then
    l.map (fun z => if z.ctx == ent.ctx && z.va == ent.va && z.size == ent.size then ent else z)
  else
    let rest := l.filter (fun z => !(z.ctx == ent.ctx && decide (z.va ≤ va) && decide (va < z.va + z.size)))
    (rest ++ [ent]).drop (rest.length + 1 - n)

/-- The 128 entries of a core and the 16,384 of its die keep a translation (R79). -/
def State.keepLeaf (s : State) (core va : Nat) (ent : Tlb) : State :=
  { s.updCore core (fun q => { q with tlb := keepTlb 128 va ent q.tlb }) with
    xlats := NMap.set [] s.xlats (coreDie core) (keepTlb 16384 va ent (NMap.getD s.xlats (coreDie core) [])) }

/-- An access takes a leaf: checked, permitted, its bits set (R75, R76, R78); none where its entry is found changed. -/
def State.takeLeaf (s : State) (need : Need) (va pasid : Nat) (f : DWord × Nat × Nat) : Option ((Xlat × Option Tlb) × State) :=
  let (x, e, level) := f
  if leafBad x level then some ((.malformed, none), s)
  else if !permits x need then some ((.noPerm, none), s)
  else
    match s.setAD e x (need == .write || need == .both) with
    | none => none
    | some (y, s1) => some ((.hit (hitOf y va pasid), some { ctx := 0, va := va / pageSize y * pageSize y, size := pageSize y, leaf := y, entry := e }), s1)

/-- Walks for an access. The entry has just been read, so that it is found as it was. -/
def State.walkFor (s : State) (c : Ctx) (need : Need) (va : Nat) : (Xlat × Option Tlb) × State :=
  match State.walk c.num va 4 c.tblRoot s with
  | (none, s1) => ((.miss, none), s1)
  | (some f, s1) => (s1.takeLeaf need va c.pasid f).getD ((.miss, none), s1)

/-- Translates an address for an access; core is the core whose cache and whose die's service serve and keep the translation (none for agents
without them, log 11). Of the 16 entries of a 64 KiB page, which R76 lets differ, the model takes the one of the address itself, or the one that a cache
holds (DESIGN CHOICE, log 11). -/
def State.translate (s : State) (core : Option Nat) (ctx va : Nat) (need : Need) : Xlat × State :=
  match s.ctx? ctx with
  | none => (.malformed, s)
  | some c =>
    let held := core.bind (fun k => s.cachedLeaf k ctx va)
    let (r, s1) := match held.bind (fun t => s.takeLeaf need va c.pasid (t.leaf, t.entry, pageLevel t.leaf)) with
      | some x => x
      | none => s.walkFor c need va
    match core, r.2 with
    | some k, some ent => (r.1, s1.keepLeaf k va { ent with ctx := ctx })
    | _, _ => (r.1, s1)

end Sys2Proof.Machine
end

