-- ==== Sys2Proof/Machine/Inbound.lean ====
section
/-! DEFINITION. Inbound Fyolo requests (R294, R295, R297, R374, R375): grants, and what each kind does at its home. -/

namespace Sys2Proof.Machine

/-- A grant window (R294): base and size in bytes. -/
def winCovers (v : DWord) (a n : Nat) : Bool :=
  v.getLsbD 63 && decide (dw v 56 21 * 2 ^ 21 ≤ a) && decide (a + n ≤ (dw v 56 21 + dw v 20 0) * 2 ^ 21)

/-- Whether a request lies wholly inside one window with the right it needs: 0 V alone, 1 WR, 2 AT. -/
def State.granted (s : State) (right a n : Nat) : Bool :=
  paExists a && paExists (a + n - 1) && (List.finRange 16).any (fun i =>
    let v := s.reg (.fyWin i)
    winCovers v a n && (right == 0 || (right == 1 && v.getLsbD 62) || (right == 2 && v.getLsbD 61)))

/-- Whether a counter reference may be updated by Fyolo traffic (R294). -/
def State.ctrGranted (s : State) (ref : Nat) : Bool :=
  let v := s.reg (.fyCtr (if refDie ref == 0 then 0 else 1))
  decide (dw v 11 0 ≤ refNum ref) && decide (refNum ref ≤ dw v 27 16)

/-- The right a kind needs. -/
def inRight : InKind → Nat
  | .load => 0
  | .get => 0
  | .store => 1
  | .put => 1
  | .bulk => 1
  | .send => 1
  | .trigger => 1
  | .spdm _ => 1
  | .atomic _ => 2
  | .reduction _ => 2

/-- Bytes a request covers: those of its data, or of its element. -/
def inLen (r : InboundReq) : Nat :=
  match r.kind with
  | .atomic _ => ((Ty.ofCode r.etype).getD .s32).width / 8
  | _ => r.data.length

/-- Elements of a reduction or put-accumulate added one after another, each atomic at the home (R182, R247). -/
def State.accumulate (s : State) (op : Nat) (t : Ty) (pa : Nat) : List (Nat × Bool) → State
  | [] => s
  | (x, m) :: xs =>
    let n := t.width / 8
    let o := leNat (s.mem.hbm.read pa n)
    let s1 := s.homeWrite none pa (leBytes n (atomNew t op o x 0)) (m || s.mem.hbm.tagged pa n)
    State.accumulate s1 op t (pa + n) xs

/-- Marked bytes cut into elements of n bytes. -/
def chunks (n : Nat) : Nat → Marked → List (Nat × Bool)
  | 0, _ => []
  | k + 1, bs => if bs.isEmpty then [] else (leNat (bytesOf (bs.take n)), anyMarked (bs.take n)) :: chunks n k (bs.drop n)

/-- The version that a peer's store opens, with its tag (R295, R297). -/
def freshPend (r : InboundReq) : PeerPend :=
  { dev := r.src, ctx := dw r.rctr 63 48, slot := dw r.rctr 47 36, launch := dw r.pd 63 32, phase := dw r.rctr 15 0, task := dw r.pd 31 0, bytes := [], spilled := [] }

/-- Whether a pending version is that of the team and phase a request comes from. -/
def ownPend (r : InboundReq) (p : PeerPend) : Bool :=
  let x := freshPend r
  p.dev == x.dev && p.ctx == x.ctx && p.slot == x.slot && p.launch == x.launch && p.phase == x.phase && p.task == x.task

/-- A plain store of a peer's team joins that team's pending version here (R295). One that finds no version space goes into the committed
version (R359, log 10). -/
def State.peerStore (s : State) (r : InboundReq) : State :=
  let a := r.addr.toNat
  let line := lineOf a
  let has := s.mem.peerPend.any (fun p => ownPend r p && p.bytes.any (fun e => lineOf e.1 == line))
  let room := if has then 0 else s.versionRoom (freshPend r).ctx line
  if room == 2 then s.homeWriteM none a r.data
  else
    let put (p : PeerPend) : PeerPend := { p with
      bytes := (markRuns a r.data).foldl (fun m x => putBytes (fun b g _ =>
        some { val := b, tag := g, seq := 0, inL1 := false, kept := false, lost := false, pubs := [] }) m x.1 x.2.1 x.2.2) p.bytes
      spilled := if room == 1 then NSet.add p.spilled line else p.spilled }
    let pp := if s.mem.peerPend.any (ownPend r) then s.mem.peerPend.map (fun p => if ownPend r p then put p else p)
      else s.mem.peerPend ++ [put (freshPend r)]
    (s.updMem (fun m => { m with peerPend := pp })).invalidate a r.data.length

/-- The counter and the arrival that landed data brings (R236): whether the counter was refused. -/
def State.landed (s : State) (r : InboundReq) (amount : Nat) : Bool × State :=
  let ref := dw r.rctr 15 0
  let bad := refOn ref && !s.ctrGranted ref
  let s1 := if refOn ref && !bad then s.addRef ref amount else s
  let s2 := if r.pd.getLsbD 30 then s1.arrival (dw r.pd 23 16) (dw r.pd 29 24) (dw r.pd 63 48) else s1
  (bad, s2)

/-- Data a load of a peer's team returns: its own pending bytes there, otherwise the committed version (R295). -/
def State.peerRead (s : State) (r : InboundReq) : Marked :=
  let a := r.addr.toNat
  let mine := s.mem.peerPend.filter (ownPend r)
  (List.range r.data.length).map (fun i =>
    match mine.findSome? (fun p => NMap.look p.bytes (a + i)) with
    | some b => (b.val, b.tag)
    | none => (s.mem.hbm.bytes.read (a + i), s.mem.hbm.tagged (a + i) 1))

/-- The lines of a request. -/
def inLines (a n : Nat) : List Nat := segLines [{ loc := { space := 0, x := 0, y := 0, addr := a }, len := n }]

/-! ### Read-only copies of sync pages (R282) -/

/-- The sectors of some bytes. -/
def sectorsIn (a n : Nat) : NSet := if n = 0 then [] else (List.range (sectorOf (a + n - 1) - sectorOf a + 1)).map (fun i => sectorOf a + i)

/-- Holders of read-only copies of one of some sectors: cores, and the front end, 256, of the WAKE of every mapped queue (R49). -/
def State.copiesOf (s : State) (secs : NSet) : List Nat :=
  (s.cores.filter (fun e => secs.any (fun x => NSet.has e.2.ro x))).map Prod.fst
    ++ (if s.slots.any (fun e => e.2.st != .free && secs.contains (sectorOf (e.2.map + 24))) then [256] else [])

/-- Whether a write-update of one of some sectors is under way, other than one that an inbound request has itself brought to its switch:
neither the home nor a copy answers there. -/
def State.updating (s : State) (who : Option (Nat × Nat)) (secs : NSet) : Bool :=
  s.mem.updates.any (fun u => u.sectors.any secs.contains && !(u.inb == who && who.isSome && u.waiting.isEmpty))

/-- The stop of the home of a sector. -/
def State.sectorStop (s : State) (sec : Nat) : Nat := s.homeOf (sec * 64)

/-- Messages of an update's home to its copies in cores. -/
def State.tellCopies (s : State) (u : Update) (load : Nat → NetLoad) (flits : Nat) : State :=
  (u.waiting.filter (fun c => decide (c < 256))).foldl (fun (s : State) c => s.send (load c) flits (s.sectorStop (u.sectors.headD 0)) (coreStop c)) s

/-- Starts a write-update: the new bytes go to every read-only copy, on the update class. -/
def State.startUpdate (s : State) (req : Nat) (inb : Option (Nat × Nat)) (secs : NSet) : State :=
  let (id, s1) := s.fresh
  let u : Update := { id := id, req := req, inb := inb, sectors := secs, waiting := s.copiesOf secs }
  (s1.updMem (fun m => { m with updates := m.updates ++ [u] })).tellCopies u (fun c => .update id c) (min 4 secs.length)

/-- The read-only copies that stood before a write has switched stand after it, with the new bytes. -/
def State.keepCopies (s s0 : State) : State :=
  s0.cores.foldl (fun (s : State) e => if e.2.ro.isEmpty then s else s.updCore e.1 (fun c => { c with ro := e.2.ro })) s

/-- Whether an inbound request writes as a sync store or an atomic does. -/
def syncKind (r : InboundReq) : Bool :=
  match r.kind with
  | .store => 2 ≤ r.etype
  | .atomic _ => true
  | .reduction _ => true
  | .load => false
  | .get => false
  | .put => false
  | .bulk => false
  | .send => false
  | .trigger => false
  | .spdm _ => false

/-- Whether an inbound request has still to update the read-only copies that it finds. -/
def State.inboundUpdates (s : State) (r : InboundReq) (a n : Nat) : Bool :=
  syncKind r && !(s.copiesOf (sectorsIn a n)).isEmpty && !s.mem.updates.any (fun u => u.inb == some (r.src, r.seq))

/-- Whether a request waits (R189, R214, R282): at a line being written by an engine, and unless it is a load at a locked one; at a write-update. -/
def State.inboundWaits (s : State) (r : InboundReq) (a n : Nat) : Bool :=
  (inLines a n).any (fun l => (s.ownerAt l).isSome || ((s.lockAt l).isSome && r.kind != .load))
    || s.updating (some (r.src, r.seq)) (sectorsIn a n) || s.inboundUpdates r a n

/-- What a granted request does at its home: whether its counter was refused, the data answered. -/
def State.inboundDo (s0 : State) (r : InboundReq) (a n : Nat) : (Bool × Marked) × State :=
  match r.kind with
  | .load => ((false, if r.etype < 2 then s0.peerRead r else s0.mem.hbm.readM a n), s0)
  | .get => ((false, s0.mem.hbm.readM a n), s0)
  | .store => ((false, []), if r.etype < 2 then s0.peerStore r else s0.homeWriteM none a r.data)
  | .put => let (bad, s1) := (s0.homeWriteM none a r.data).landed r n; ((bad, []), s1)
  | .bulk => let (bad, s1) := (s0.homeWriteM none a r.data).landed r n; ((bad, []), s1)
  | .send => let (bad, s1) := (s0.homeWriteM none a r.data).landed r 1; ((bad, []), s1)
  | .trigger => ((false, []), s0)
  | .spdm _ => ((false, []), s0)
  | .atomic op =>
    let t := (Ty.ofCode r.etype).getD .s32
    let s1 := s0.claimLine (lineOf a)
    let o := leNat (s1.mem.hbm.read a n)
    let ot := s1.mem.hbm.tagged a n
    let x := leNat (bytesOf (r.data.take n))
    let x2 := leNat (bytesOf ((r.data.drop n).take n))
    let s2 := s1.homeWrite none a (leBytes n (atomNew t op.val o x x2)) (anyMarked r.data || (ot && op != 6))
    let (bad, s3) := s2.landed r 1
    ((bad, markAll ot (leBytes n o)), s3)
  | .reduction op =>
    let t := (Ty.ofCode r.etype).getD .s32
    let s1 := (inLines a n).foldl State.claimLine s0
    let s2 := s1.accumulate op.val t a (chunks (t.width / 8) n r.data)
    let (bad, s3) := s2.landed r n
    ((bad, []), s3)

/-- A request performed on this device is not performed again when its packet comes again (R374). -/
def State.notePerformed (s : State) (r : InboundReq) : State :=
  s.updFab (fun f => { f with performed := (r.src, r.seq) :: f.performed })

/-- Performs a request to an address of this device: status (0 done, 1 refused, 4 refused for want of AT, 3 done with its
counter not updated) and the data answered; none where it waits. -/
def State.inboundAt (s : State) (r : InboundReq) : Option ((Nat × Marked) × State) :=
  let a := r.addr.toNat
  let n := inLen r
  if s.fab.performed.contains (r.src, r.seq) then some ((0, []), s)
  else if r.kind == .trigger then
    let (bad, s1) := s.landed r (dw r.rctr 63 16)
    some ((if bad then 3 else 0, []), s1.notePerformed r)
  else if !s.granted (inRight r.kind) a n then
    some ((if inRight r.kind == 2 && s.granted 0 a n then 4 else 1, []), s)
  else if s.inboundWaits r a n then none
  else
    let ((bad, out), s1) := ((inLines a n).foldl State.combineLine s).inboundDo r a n
    let s2 := if s.mem.updates.any (fun u => u.inb == some (r.src, r.seq)) then
        (s1.keepCopies s).updMem (fun m => { m with updates := m.updates.filter (fun u => u.inb != some (r.src, r.seq)) })
      else s1
    some ((if bad then 3 else 0, out), s2.notePerformed r)

/-! ### Multicast groups (R298) -/

/-- Entry g of the multicast group table. -/
def State.mctEntry (s : State) (g : Nat) : Nat := leNat (s.mem.hbm.read ((s.reg .mctBase).toNat + 32 * g) 32)
/-- Root of a group; its members, as the root lists them. -/
def State.mctRoot (s : State) (g : Nat) : Nat := bitsN (s.mctEntry g) 157 144
def State.mctMembers (s : State) (g : Nat) : List Nat :=
  let e := s.mctEntry g
  (List.range (bitsN e 173 160)).map (fun i => leNat (s.mem.hbm.read (bitsN e 248 192 + 2 * i) 2))

/-- The address of a packet to a group. -/
def groupAddr (g off : Nat) : DWord := BitVec.ofNat 64 (2 ^ 63 + g % 2 ^ 14 * 2 ^ 48 + off % 2 ^ 48)

/-- Where an offset in a group lies on this device; none where it is refused. -/
def State.mctPlace (s : State) (g off n : Nat) : Option Nat :=
  let e := s.mctEntry g
  if bitsN e 255 255 == 1 && decide (off + n ≤ bitsN e 95 64 * 2 ^ 21) then some (bitsN e 56 0 + off) else none

/-- Performs an inbound request (R294). One for a group is performed on this member's copy; at the group's root it goes on to
the other members in the order performed (R273). -/
def State.inbound (s : State) (r : InboundReq) : Option ((Nat × Marked) × State) :=
  if !r.addr.getLsbD 63 then s.inboundAt r
  else
    let g := dw r.addr 61 48
    match s.mctPlace g (dw r.addr 47 0) (inLen r) with
    | none => some ((1, []), s)
    | some pa =>
      match s.inboundAt { r with addr := BitVec.ofNat 64 pa } with
      | none => none
      | some ((st, out), s1) =>
        let rest := (s.mctMembers g).filter (· != s.fab.self)
        if (st != 0 && st != 3) || s.mctRoot g != s.fab.self || r.kind == .load || r.kind == .get || rest.isEmpty
            || s.fab.performed.contains (r.src, r.seq) then some ((st, out), s1)
        else
          let (id, s2) := s1.fresh
          some ((st, out), s2.updFab (fun f => { f with mcast := f.mcast ++ [{ id := id, group := g, req := r, left := rest, status := st }] }))

/-- Where a granted request acts on this device. -/
def State.inboundPlace (s : State) (r : InboundReq) : Option Nat :=
  let a := if r.addr.getLsbD 63 then s.mctPlace (dw r.addr 61 48) (dw r.addr 47 0) (inLen r) else some r.addr.toNat
  match a with
  | some a => if r.kind != .trigger && s.granted (inRight r.kind) a (inLen r) then some a else none
  | none => none

/-- A request that writes a sync page brings its new bytes to the read-only copies first (R282, R295). -/
def State.inboundStart (s : State) (r : InboundReq) : State :=
  match s.inboundPlace r with
  | none => s
  | some a =>
    let n := inLen r
    if s.inboundUpdates r a n && !s.updating none (sectorsIn a n) && !(inLines a n).any (fun l => (s.ownerAt l).isSome || (s.lockAt l).isSome) then
      s.startUpdate 0 (some (r.src, r.seq)) (sectorsIn a n)
    else s

/-- The forwards of a request of this device that a group's members have still to acknowledge. -/
def State.forwarding (s : State) (seq : Nat) : Bool := s.fab.mcast.any (fun m => m.req.src == s.fab.self && m.req.seq == seq)

end Sys2Proof.Machine
end

