-- ==== Sys2Proof/Machine/Serve.lean ====
section
/-! DEFINITION. Memory requests of teams: where an address leads (R66, R77, R78), what is performed there (R176-R190,
R261-R265, R278-R282, R301), what comes back (R82, R133, R350-R352), and where a request waits (R173, R285, R286). -/

namespace Sys2Proof.Machine

/-! ### Where an address leads -/

/-- Where a part of a request leads: a location with its leaf's bits, a page miss, or the cause of a fault. -/
inductive Aim where
  | at' (l : Loc) (h : Hit)
  | miss
  | bad (cause : Nat)
  deriving DecidableEq, Repr

/-- The leaf bits of a window access. -/
def Hit.none' : Hit := { ap := 0, dev := 0, addr := 0, sync := false, c := false, rap := false, ha := false, pasid := 0 }

/-- Location of a translated address (R77). -/
def hitLoc (h : Hit) : Loc :=
  match h.ap with
  | 0 => { space := 0, x := 0, y := 0, addr := h.addr }
  | 1 => { space := 7, x := h.dev, y := 0, addr := h.addr }
  | 2 => { space := 5, x := h.pasid, y := 0, addr := h.addr }
  | _ => { space := 8, x := h.dev, y := 0, addr := h.addr }

/-- Classifies an address of a lane and checks it (R66, R67, R73, R75-R78): atom asks for RAP at a peer, ld64 is an aligned
LD64, the one access the counter window takes. -/
def State.aim (s : State) (t : Team) (lane va : Nat) (need : Need) (atom ld64 : Bool) : Aim × State :=
  if 2 ^ 57 ≤ va then (.bad 4, s)
  else if isWindow va then
    if winBase 4 ≤ va && va < winBase 4 + 65536 && !(ld64 && va % 8 == 0) then (.bad 11, s)
    else
      match locateWindow s t lane va with
      | .error c => (.bad c, s)
      | .ok l => (.at' l Hit.none', s)
  else
    match s.translate (some t.core) (s.ctxOf t.launch) va need with
    | (.miss, s1) => (.miss, s1)
    | (.malformed, s1) => (.bad 12, s1)
    | (.noPerm, s1) => (.bad 13, s1)
    | (.hit h, s1) => if atom && !h.rap && (h.ap == 1 || h.ap == 3) then (.bad 14, s1) else (.at' (hitLoc h) h, s1)

/-- Path of a lane as it is known at issue (R82): a lane whose translation the core does not hold counts on path 0. -/
def State.pathAt (s : State) (t : Team) (lane va : Nat) : Nat :=
  if isWindow va then
    match locateWindow s t lane va with
    | .ok l => l.path
    | .error _ => 0
  else if s.tlbHolds t.core (s.ctxOf t.launch) va then
    match (s.translate (some t.core) (s.ctxOf t.launch) va .read).1 with
    | .hit h => (hitLoc h).path
    | _ => match tlbLook (s.coreSt t.core).tlb (s.ctxOf t.launch) va with
      | some e => (hitLoc (hitOf e.leaf va 0)).path
      | none => 0
  else 0

/-- What the operation of a request needs of a leaf (R78), and whether it is an atomic (R77). -/
def ReqOp.need : ReqOp → Need
  | .load _ _ _ => .read
  | .store _ _ => .write
  | .atomic _ _ _ => .both
  | .reduce _ _ => .both
  | .lock _ _ _ _ => .both
def ReqOp.isAtomic : ReqOp → Bool
  | .atomic _ _ _ => true
  | .reduce _ _ => true
  | .load _ _ _ => false
  | .store _ _ => false
  | .lock _ _ _ _ => false
def ReqOp.isLoad : ReqOp → Bool
  | .load _ _ _ => true
  | .store _ _ => false
  | .atomic _ _ _ => false
  | .reduce _ _ => false
  | .lock _ _ _ _ => false
def ReqOp.isLock : ReqOp → Bool
  | .lock _ _ _ _ => true
  | .load _ _ _ => false
  | .store _ _ => false
  | .atomic _ _ _ => false
  | .reduce _ _ => false
/-- Access bits of a page request (R346): write, execute, atomic or lock. -/
def Need.bits (n : Need) : Nat :=
  match n with
  | .read => 0 | .write => 4 | .both => 5 | .exec => 2
/-- Whether a request is an aligned LD64. -/
def ReqOp.isLd64 : ReqOp → Bool
  | .load _ n _ => n == 8
  | .store _ _ => false
  | .atomic _ _ _ => false
  | .reduce _ _ => false
  | .lock _ _ _ _ => false

/-- Whether a location lies on other devices (R296). -/
def Loc.away (l : Loc) : Bool := l.space == 7 || l.space == 8

/-- The stop of the performer of an access from a core: a home slice, a core's scratchpad, a host link, the port that is chosen for a peer (R15, R17,
R72, R73, R275). -/
def State.locStop (s : State) (core : Nat) (l : Loc) : Nat :=
  match l.space with
  | 0 => s.homeOf l.addr
  | 3 => 64 * (l.addr / 2 ^ 25) + l.addr / 256 % 64
  | 4 => 64 * (l.addr / 32768) + l.addr % 32768 / 256 % 64
  | 5 => hostStop (s.hostLink (coreDie core))
  | 6 => coreStop core
  | 7 => (match (s.choosePort (coreDie core) l.x (fun _ => false)).1 with | .port p => portStop p | _ => coreStop core)
  | 8 => (match (s.choosePort (coreDie core) (s.mctRoot l.x) (fun _ => false)).1 with | .port p => portStop p | _ => coreStop core)
  | _ => (match s.groups.find? (fun g => g.launch == l.x && g.num == l.y) with | some g => coreStop g.core | none => coreStop core)

/-- The keys of the lines that a request reaches. -/
def State.reqKeys (s : State) (t : Team) (r : Req) : List Nat :=
  r.pa.toList ++ r.parts.filterMap (fun p => match (s.aim t p.lane p.va r.op.need r.op.isAtomic true).1 with
    | .at' l _ => some l.key
    | _ => none)

/-! ### What comes back (R176, R183, R351, R352) -/

/-- Poison(t) (R133) as the words of registers. -/
def poisonBits (t : Ty) : Nat := if t.isFloat then ofElements t.ew (List.replicate t.count t.fmt.nan) else 0

/-- Word j of Poison(t). -/
def poisonWord (t : Ty) (j : Nat) : Nat := poisonBits t / 2 ^ (32 * (j % (t.width / 32))) % 2 ^ 32

/-- Writes Poison(t) to the n registers of a lane from d on, or to a scalar. -/
def Team.poison (t : Team) (ty : Ty) (d : Reg) (lane n : Nat) : Team :=
  match d with
  | .v r => (List.range n).foldl (fun t j => t.setV (r.val + j) lane (BitVec.ofNat 32 (poisonWord ty j)) true) t
  | .s r => t.setS r.val (BitVec.ofNat 64 (if n ≤ 1 then scalarExt ty (poisonWord ty 0) else poisonWord ty 0 + poisonWord ty 1 * 2 ^ 32)) true
  | .q _ => t

/-- Bytes of a number replaced from an offset on. -/
def patch (old off : Nat) (data : List Byte) : Nat :=
  let lo := old % 2 ^ (8 * off)
  let hi := old / 2 ^ (8 * (off + data.length))
  lo + leNat data * 2 ^ (8 * off) + hi * 2 ^ (8 * (off + data.length))

/-- The image of a loaded register with a part written: the part that holds the last byte extends it (R119, R176). -/
def loadImage (ty : Ty) (signed scalar : Bool) (size old off : Nat) (data : List Byte) : Nat :=
  let x := patch old off data
  if size ≤ off + data.length && size < 8 then
    let y := x % 2 ^ (8 * size)
    let w := if signed && size ≤ 2 then wrapI (sext y (8 * size)) 32 else y
    if scalar then wordExt ty w else w
  else x

/-- Delivers one part of a load to its lane's registers. A part whose granule is marked gives Poison(t) in the registers it
reaches; a register already tagged by this load stays so. -/
def Team.deliverLoad (t : Team) (ty : Ty) (signed : Bool) (size : Nat) (d : Reg) (p : LanePart) (data : List Byte) (tag : Bool) : Team :=
  match d with
  | .q _ => t
  | .s r =>
    if tag || NSet.has t.stag r.val then t.poison ty d p.lane (if size ≤ 4 then 1 else 2)
    else t.setS r.val (BitVec.ofNat 64 (loadImage ty signed true size (t.s r.val).toNat p.off data)) false
  | .v r =>
    let n := (size + 3) / 4
    let lo := p.off / 4
    let hi := (p.off + data.length - 1) / 4
    let old := ((List.range n).foldr (fun j acc => (t.v (r.val + j) p.lane).toNat + acc * 2 ^ 32) 0)
    let x := loadImage ty signed false size old p.off data
    (List.range n).foldl (fun t j =>
      if j < lo || hi < j then t
      else if tag || NSet.has t.vtag (vkey (r.val + j) p.lane) then t.setV (r.val + j) p.lane (BitVec.ofNat 32 (poisonWord ty j)) true
      else t.setV (r.val + j) p.lane (BitVec.ofNat 32 (x / 2 ^ (32 * j))) false) t

/-- Delivers an atomic's old value to its lane (R183, R119). -/
def Team.deliverOld (t : Team) (ty : Ty) (d : Reg) (p : LanePart) (data : List Byte) (tag : Bool) : Team :=
  let n := ty.width / 32
  if tag then t.poison ty d p.lane n
  else
    match d with
    | .v r => t.writeLane ty.width r.val { lane := p.lane, val := leNat data, tag := false }
    | .s r => t.setS r.val (BitVec.ofNat 64 (if n = 1 then scalarExt ty (leNat data) else leNat data)) false
    | .q _ => t

/-- Records a consumption once per instruction (R352). -/
def State.consumeOnce (s : State) (t : Team) (inst : Nat) (already : Bool) : State :=
  if already then s
  else
    let s1 := s.consumeBy t
    { s1 with reqs := s1.reqs.map (fun r => if r.inst == inst then { r with counted := true } else r) }

/-- The oldest request of a team that waits at its issue behind one that is gone goes on (R296). -/
def State.issueNext (s : State) (r : Req) : State :=
  let keys (x : Req) : List Nat := match s.team? r.team with | some t => s.reqKeys t x | none => []
  match s.reqs.find? (fun x => x.team == r.team && x.place == .atIssue
      && !s.reqs.any (fun y => y.team == r.team && decide (y.id < x.id) && (keys y).any (keys x).contains)) with
  | none => s
  | some y => { s with reqs := s.reqs.map (fun x => if x.id == y.id then { x with place := .queue 0, since := s.clk } else x) }

/-- Delivers the answer of a request, and removes it: registers are written, the paths fall (R82). An acquire completes
with its effect (R265). -/
def State.deliver (s : State) (r : Req) (ans : List (List Byte × Bool)) : State :=
  let ty := (Ty.ofCode r.ty).getD .s32
  let s1 := { s with reqs := s.reqs.filter (fun x => x.id != r.id) }
  let s2 := s1.updTeam r.team (fun t =>
    let t1 := { t with ovflow := (t.ovflow.filter (· != r.id)) }
    let t2 := if t.ovflow.contains r.id || t.ovflow.isEmpty then t1 else { t1 with ovflow := t1.ovflow.drop 1 }
    match r.op with
    | .load cls size d =>
      let t3 := (r.parts.zip ans).foldl (fun t (p, a) => t.deliverLoad ty r.signed size d p a.1 a.2) t2
      if cls == .acq then { t3 with acq := s.mem.seq } else t3
    | .atomic _ _ d =>
      let t3 := (r.parts.zip ans).foldl (fun t (p, a) => if t.real.getLsbD p.lane then t.deliverOld ty d p a.1 a.2 else t) t2
      if r.signed then { t3 with acq := s.mem.seq } else t3
    | .store _ _ => t2
    | .reduce _ _ => t2
    | .lock _ _ _ _ => t2)
  let s3 := match s.team? r.team with
    | some t => if ans.any (fun a => a.2) && (r.op.isLoad || r.op.isAtomic) then s2.consumeOnce t r.inst r.counted else s2
    | none => s2
  (s3.issueNext r).retire r.team

/-! ### What is performed at home -/

/-- The dirty bytes of a team's sectors in a line leave its L1 for their writers' pending versions (R262, R278). -/
def State.flushLine (s : State) (team line : Nat) : State :=
  let mine := s.mem.pend.filter (fun p => p.team == team)
  let secs := mine.foldl (fun acc p => p.bytes.foldl (fun acc e => if e.2.inL1 && lineOf e.1 == line then NSet.add acc (sectorOf e.1) else acc) acc) ([] : NSet)
  s.flushBytes (fun p pa => mine.any (fun q => q.core == p.core) && NSet.has secs (sectorOf pa))

/-- A sync-class store recalls every dirty sector of its line, from every L1, into its writers' versions; nothing is merged into the committed
version (R263). -/
def State.recallLine (s : State) (line : Nat) : State := s.flushBytes (fun _ pa => lineOf pa == line)

/-- The states of a sector at its home (R276). -/
inductive SectorSt where
  | i | s | w | u | l
  deriving DecidableEq, Repr

/-- The state of a sector, from what the machine holds of it (R276). -/
def State.sectorSt (s : State) (sec : Nat) : SectorSt :=
  if (s.lockAt (sec * 64)).isSome then .l
  else if s.mem.parts.any (fun p => p.sector == sec) then .u
  else if s.mem.pend.any (fun p => p.bytes.any (fun e => sectorOf e.1 == sec)) || s.mem.peerPend.any (fun p => p.bytes.any (fun e => sectorOf e.1 == sec)) then .w
  else if s.cores.any (fun e => NSet.has e.2.clean sec || NSet.has e.2.ro sec) || NSet.has s.mem.xcopies sec then .s
  else .i

/-- The granted copies of a sector that a load brings: none where its state at the home is W, U or L, nor where the carve has no room (R59,
R276, R278). A plain load leaves a clean copy in its L1, a sync-class load of an S page a read-only one (R282); a plain load from the other
die one in the requester-side slice as well, which a slice that stands in for another keeps for none (R275, R283). -/
def State.noteClean (s : State) (core pa : Nat) (ro : Bool) : State :=
  let sec := sectorOf pa
  let st := s.sectorSt sec
  let home := s.homeOf pa
  if !(st == .i || st == .s) then s
  else
    let s1 := if !ro && home == homeSlice pa && home / 64 != coreDie core then s.updMem (fun m => { m with xcopies := NSet.add m.xcopies sec }) else s
    if !s.l1Room core pa then s1
    else s1.updCore core (fun c => if ro then { c with ro := NSet.add c.ro sec } else { c with clean := NSet.add c.clean sec })

/-- A sync-class write at home: other copies go; read-only copies of a sync page, which its update has reached, stand (R261, R282). -/
def State.syncWrite (s : State) (by' : Writer) (sync : Bool) (pa : Nat) (data : List Byte) (tag : Bool) : State :=
  let s1 := s.homeWrite by' pa data tag
  if sync then s1.keepCopies s else s1

/-- A plain or streaming store of a team to local HBM (R179, R263, R278, R280, R359). -/
def State.plainStore (s : State) (t : Team) (l1 : Bool) (pa : Nat) (data : List Byte) (tag : Bool) : State :=
  let line := lineOf pa
  let ctx := s.ctxOf t.launch
  match s.ctx? ctx with
  | none => s
  | some c =>
    let has := s.mem.pend.any (fun p => p.team == t.id && p.bytes.any (fun e => lineOf e.1 == line))
    let room := if has then 0 else s.versionRoom ctx line
    -- what a rollback has discarded is not written again (R328)
    if t.status == .stopped && !t.phaseDone then s
    else if NSet.has c.exhausted t.launch || room == 2 then
      let s1 := (s.homeWrite (some (ctx, t.launch)) pa data tag).updTeam t.id (fun t => { t with early := true })
      if NSet.has c.exhausted t.launch then s1
      else
        let s2 := s1.updCtx ctx (fun c => { c with exhausted := NSet.add c.exhausted t.launch })
        (s2.event ctx 11 t.core t.slot 0 line 0).logError 2 5 (s.homeOf line) ctx line
    else
      let s1 := s.pendWrite t pa data tag (l1 && s.l1Room t.core pa)
      if room == 1 then s1.updMem (fun m => { m with pend := m.pend.map (fun p => if p.team == t.id then { p with spilled := NSet.add p.spilled line } else p) })
      else s1

/-- A reduction collected in the core's partial of a sector (R185). -/
def State.reduceInto (s : State) (t : Team) (op : Fin 6) (ty : Ty) (code pa : Nat) (x : Nat) (tag : Bool) : State :=
  let ctx := s.ctxOf t.launch
  let sec := sectorOf pa
  let same (p : Partial) : Bool := p.core == t.core && p.sector == sec
  let s1 := if s.mem.parts.any (fun p => same p && (p.op != op || p.ty != code || p.ctx != ctx)) then s.combine sec else s
  let new (p : Partial) : Partial :=
    let y := match NMap.look p.vals pa with
      | some o => atomNew ty op.val o.toNat x 0
      | none => x % 2 ^ ty.width
    { p with vals := NMap.put p.vals pa (BitVec.ofNat 64 y), tags := if tag then NSet.add p.tags pa else p.tags }
  let blank : Partial := { ctx := ctx, core := t.core, sector := sec, op := op, ty := code, vals := [], tags := [] }
  let parts := if s1.mem.parts.any same then s1.mem.parts.map (fun p => if same p then new p else p)
    else s1.mem.parts ++ [new blank]
  s1.updMem (fun m => { m with parts := parts })

/-- An atomic at a storage: the old value with its mark, and the storage after it (R183). -/
def atomStore (st : Store) (addr : Nat) (ty : Ty) (op : Nat) (x x2 : Nat) (tag : Bool) : (List Byte × Bool) × Store :=
  let n := ty.width / 8
  let o := leNat (st.read addr n)
  let ot := st.tagged addr n
  (((leBytes n o), ot), st.write addr (leBytes n (atomNew ty op o x x2)) (tag || (ot && op != 6)))

/-- An atomic at the home of a line of local HBM: the line is merged early first. -/
def State.atomHome (s : State) (by' : Writer) (sync : Bool) (pa : Nat) (ty : Ty) (op : Nat) (x x2 : Nat) (tag : Bool) :
    (List Byte × Bool) × State :=
  let s1 := s.claimLine (lineOf pa)
  let n := ty.width / 8
  let o := leNat (s1.mem.hbm.read pa n)
  let ot := s1.mem.hbm.tagged pa n
  ((leBytes n o, ot), s1.syncWrite by' sync pa (leBytes n (atomNew ty op o x x2)) (tag || (ot && op != 6)))

/-- The lock that a team holds on the line of an address. -/
def State.heldBy (s : State) (t : Team) (pa : Nat) : Option LineLock :=
  match s.lockAt pa with
  | some k => if k.holder == t.id && !k.absent then some k else none
  | none => none

/-- The locked copy of a line changed. -/
def State.updCopy (s : State) (line : Nat) (f : Store → Store) : State :=
  s.updMem (fun m => { m with locks := m.locks.map (fun k => if k.line == line then { k with copy := f k.copy } else k) })

/-- Host stores wait at the egress of their die's link, in order (R301). -/
def State.postHost (s : State) (ctx die addr : Nat) (data : List Byte) : State :=
  let k := s.hostLink die
  s.updMem (fun m => { m with posted := NMap.put m.posted k (NMap.getD m.posted k [] ++ [(ctx, addr, data)]) })

/-- The posted writes of a link reach the host, in issue order. -/
def State.drainLink (s : State) (link : Nat) : State :=
  let ws := NMap.getD s.mem.posted link []
  let s1 := ws.foldl (fun s (c, a, d) => s.hostWrite (some (c, 0)) a d) s
  s1.updMem (fun m => { m with posted := NMap.del m.posted link })

/-- The posted writes of a die reach the host: those accepted at its own link, and those that crossed to the other. -/
def State.drainHost (s : State) (die : Nat) : State :=
  let s1 := if s.linkUp die then s.drainLink die else s
  let o := s.hostLink die
  if o != die then s1.drainLink o else s1

/-- Performs one part of a request at a location of this device. The answer is a load's data or an atomic's old value. -/
def State.performPart (s : State) (t : Team) (r : Req) (view : Option Bool) (p : LanePart) (l : Loc) (h : Hit) : (List Byte × Bool) × State :=
  let ctx := s.ctxOf t.launch
  let by' : Writer := some (ctx, t.launch)
  let ty := (Ty.ofCode r.ty).getD .s32
  let n := ty.width / 8
  match r.op with
  | .load cls _ _ =>
    let plain := cls == .plain || cls == .inv
    if l.space == 0 then
      let s0 := if plain then s else s.flushLine t.id (lineOf l.addr)
      let (a, s1) := s0.loadBytes t (match cls with | .plain => .plain h.c view | .inv => .inv | .rlx => .home | .acq => .home) l.addr p.len
      ((bytesOf a, anyMarked a), if (plain && h.c) || (!plain && h.sync) then s1.noteClean t.core l.addr !plain else s1)
    else (((s.store l).read l.addr p.len, (s.store l).tagged l.addr p.len), s)
  | .store cls _ =>
    let plain := cls == .plain || cls == .strm
    if l.space == 0 then
      match s.heldBy t l.addr with
      | some k => (([], false), s.updCopy k.line (fun c => c.write l.addr p.data p.tag))
      | none =>
        if plain then (([], false), s.plainStore t (h.c && cls == .plain) l.addr p.data p.tag)
        else (([], false), ((s.recallLine (lineOf l.addr)).combineLine (lineOf l.addr)).syncWrite by' h.sync l.addr p.data p.tag)
    else if l.space == 5 then (([], false), s.postHost ctx (coreDie t.core) l.addr p.data)
    else (([], false), s.updStore l (fun c => c.write l.addr p.data p.tag))
  | .atomic op _ _ =>
    let x := leNat (p.data.take n)
    let x2 := leNat ((p.data.drop n).take n)
    if l.space == 0 then
      match s.heldBy t l.addr with
      | some k =>
        let (a, c) := atomStore k.copy l.addr ty op.val x x2 p.tag
        (a, s.updCopy k.line (fun _ => c))
      | none => s.atomHome by' h.sync l.addr ty op.val x x2 p.tag
    else
      let (a, c) := atomStore (s.store l) l.addr ty op.val x x2 p.tag
      (a, s.updStore l (fun _ => c))
  | .reduce op _ =>
    let x := leNat (p.data.take n)
    if l.space == 0 then
      match s.heldBy t l.addr with
      | some k =>
        let (_, c) := atomStore k.copy l.addr ty op.val x 0 p.tag
        (([], false), s.updCopy k.line (fun _ => c))
      | none => (([], false), s.reduceInto t op ty r.ty l.addr x p.tag)
    else
      let (_, c) := atomStore (s.store l) l.addr ty op.val x 0 p.tag
      (([], false), s.updStore l (fun _ => c))
  | .lock _ _ _ _ => (([], false), s)

/-! ### A request performed, or its wait -/

/-- How an attempt to perform a request ends. -/
inductive Served where
  | answer (ans : List (List Byte × Bool))
  | hold (p : Place)
  | fault (cause lane va d1 : Nat)
  deriving DecidableEq, Repr

/-- Where a translated request must wait before it is performed (R189, R214, R282, R286). -/
def State.mustWait (s : State) (t : Team) (r : Req) (l : Loc) : Option Place :=
  if (NMap.look s.mem.owned l.key).isSome then some (.paren 3)
  else if l.space == 5 && !(match r.op with | .store _ _ => true | _ => false) then some .remote
  else if l.space == 7 && l.x != s.fab.self then some .remote
  else if l.space == 8 && s.mctRoot l.x != s.fab.self then some .remote
  else if l.space == 0 && !r.op.isLoad && (s.lockAt l.addr).isSome && (s.heldBy t l.addr).isNone then some (.paren 2)
  else if l.space == 0 && r.place != .update && s.updating none [sectorOf l.addr] then some (.queue 3)
  -- it arrives behind what waits at its home for the line (R279)
  else if l.space == 0 && r.place != .queue 3 && r.place != .update
      && s.reqs.any (fun x => x.id != r.id && x.pa == some l.key && (x.place == .queue 3 || x.place == .miss || x.place == .update)) then some (.queue 3)
  else none

/-- Whether a part of a request has to update read-only copies of its sector first (R282): as a sync store or an atomic of an S page, or because
its access combines partials there. A holder of the line's lock works on its own copy. -/
def State.mustUpdate (s : State) (t : Team) (r : Req) (l : Loc) (h : Hit) : Bool :=
  let sec := sectorOf l.addr
  let writes := h.sync && (match r.op with
    | .store cls _ => cls == .rlx || cls == .rel
    | .atomic _ _ _ => true
    | .load _ _ _ => false
    | .reduce _ _ => false
    | .lock _ _ _ _ => false)
  let combines := s.mem.parts.any (fun p => p.sector == sec) && (match r.op with
    | .load cls _ _ => cls != .inv
    | .store cls _ => cls == .rlx || cls == .rel
    | .atomic _ _ _ => true
    | .reduce _ _ => false
    | .lock _ _ _ _ => false)
  l.space == 0 && r.place != .update && (writes || combines) && (s.heldBy t l.addr).isNone && !(s.copiesOf [sec]).isEmpty

/-- The sectors that a request has to update first. -/
def State.updateSecs (s : State) (t : Team) (r : Req) : NSet :=
  r.parts.foldl (fun acc p => match (s.aim t p.lane p.va r.op.need r.op.isAtomic (r.op.isLd64 && p.len == 8)).1 with
    | .at' l h => if s.mustUpdate t r l h then NSet.add acc (sectorOf l.addr) else acc
    | _ => acc) ([] : NSet)

/-- Whether a request covers all 128 bytes of its half-line, each lane with a naturally aligned element (R178). -/
def Req.fullHalf (r : Req) (size : Nat) : Bool :=
  r.parts.all (fun p => (p.va - p.off) % min size 8 == 0)
    && (List.range 128).all (fun i => r.parts.any (fun p => decide (p.va ≤ r.half * 128 + i) && decide (r.half * 128 + i < p.va + p.len)))

/-- Number of the packet of a part of a request, and the request it belongs to. -/
def partSeq (id lane off : Nat) : Nat := id * 2 ^ 32 + lane * 64 + off
def seqOwner (seq : Nat) : Nat := seq / 2 ^ 32

/-- An own request that loops back through the interface (R294), or goes to a group rooted here, as an inbound one. -/
def loopReq (s : State) (t : Team) (r : Req) (p : LanePart) (l : Loc) : InboundReq :=
  let base : InboundReq := { src := s.fab.self, seq := partSeq r.id p.lane p.off, kind := .load
                             addr := if l.space == 8 then groupAddr l.x l.addr else BitVec.ofNat 64 l.addr
                             etype := r.ty, data := markAll p.tag p.data, rctr := 0
                             pd := BitVec.ofNat 64 (t.launch * 2 ^ 32 + t.id % 2 ^ 32) }
  let tag := BitVec.ofNat 64 (s.ctxOf t.launch * 2 ^ 48 + (t.core * 16 + t.slot) * 2 ^ 36 + s.phaseOf t % 65536)
  match r.op with
  | .load cls _ _ => { base with etype := (match cls with | .plain => 0 | .inv => 1 | .rlx => 2 | .acq => 3), data := List.replicate p.len (0, false), rctr := tag }
  | .store cls _ => { base with kind := .store, rctr := tag, etype := (match cls with | .plain => 0 | .strm => 1 | .rlx => 2 | .rel => 3) }
  | .atomic op _ _ => { base with kind := .atomic op, pd := 0 }
  | .reduce op _ => { base with kind := .reduction op, pd := 0 }
  | .lock _ _ _ _ => base

/-- A failed request as the cause of a fault at the team with its DETAIL1 (R375): status 1 or 4 refused, 2 unreachable. -/
def refusalCause (status : Nat) : Nat × Nat :=
  match status with
  | 2 => (26, 1)
  | 4 => (14, 2)
  | _ => (13, 2)

/-- Enters a device in the peer list of a launch's channel on a die (R297). -/
def State.addPeer (s : State) (launch die dev : Nat) : State :=
  s.updLaunch launch (fun l => if (l.peersOn die).contains dev then l else { l with peers := NMap.put l.peers die (l.peersOn die ++ [dev]) })

/-- The device whose home a place of other devices has. -/
def State.awayDev (s : State) (l : Loc) : Nat := if l.space == 8 then s.mctRoot l.x else l.x

/-- Whether some plain stores of a team would take its channel's peer list over its 256 devices (R297). -/
def State.peersFull (s : State) (t : Team) (ls : List Loc) : Bool :=
  match s.launch? t.launch with
  | none => false
  | some q =>
    let have' := q.peersOn (coreDie t.core)
    let new := (ls.filter Loc.away).foldl (fun acc l => if have'.contains (s.awayDev l) then acc else NSet.add acc (s.awayDev l)) ([] : NSet)
    !new.isEmpty && decide (256 < have'.length + new.length)

/-- Whether a byte of a store's part is a higher lane's too, under another virtual address (R29). -/
def State.overlaid (s : State) (t : Team) (r : Req) (p : LanePart) (l : Loc) (i : Nat) : Bool :=
  r.twins.any (fun (lane, va, n) => decide (p.lane < lane) && (match (s.aim t lane va r.op.need false false).1 with
    | .at' x _ => x.space == l.space && x.x == l.x && x.y == l.y && decide (x.addr ≤ l.addr + i) && decide (l.addr + i < x.addr + n)
    | _ => false))

/-- Performs a part, of a store only the bytes that no higher lane of it writes. -/
def State.performBytes (s : State) (t : Team) (r : Req) (view : Option Bool) (p : LanePart) (l : Loc) (h : Hit) : (List Byte × Bool) × State :=
  if r.twins.isEmpty then s.performPart t r view p l h
  else
    let runs := (markRuns 0 (p.data.zipIdx.map (fun (b, i) => (b, s.overlaid t r p l i)))).filter (fun x => !x.2.2)
    (([], false), runs.foldl (fun s x => (s.performPart t r view { p with data := x.2.1, len := x.2.1.length } { l with addr := l.addr + x.1 } h).2) s)

/-- Performs the parts of a request in ascending lane order. A helper lane's load that is refused, for whichever cause, returns zero: R38 names
translation and protection failures, and for the others the model chooses the same (DESIGN CHOICE, log 6). -/
def State.performAll (t : Team) (r : Req) (view : Option Bool) : List LanePart → State → Served × State
  | [], s => (.answer [], s)
  | p :: ps, s =>
    let helper := !t.real.getLsbD p.lane
    match s.aim t p.lane p.va r.op.need r.op.isAtomic (r.op.isLd64 && p.len == 8) with
    | (.miss, s1) => (.hold (.paren 0), s1)
    | (.bad c, s1) =>
      if helper then
        match State.performAll t r view ps s1 with
        | (.answer as, s2) => (.answer ((List.replicate p.len 0, false) :: as), s2)
        | other => other
      else (.fault c p.lane p.va 0, s1)
    | (.at' l h, s1) =>
      match s1.mustWait t r l with
      | some w => (.hold w, s1)
      | none =>
        if s1.mustUpdate t r l h then (.hold (.queue 3), s1)
        else if l.space == 7 || l.space == 8 then
          match s1.inbound (loopReq s1 t r p l) with
          | none => (.hold (.queue 4), s1)
          | some ((st, d), s2) =>
            if st != 0 && st != 3 && !helper then (.fault (refusalCause st).1 p.lane p.va (refusalCause st).2, s2)
            else
              let a := if st != 0 && st != 3 then (List.replicate p.len 0, false) else (bytesOf d, anyMarked d)
              match State.performAll t r view ps s2 with
              | (.answer as, s3) => (.answer (a :: as), s3)
              | other => other
        else
          let (a, s2) := s1.performBytes t r view p l h
          match State.performAll t r view ps s2 with
          | (.answer as, s3) => (.answer (a :: as), s3)
          | other => other

/-- Attempts a request: a wait or a fault leaves nothing of it performed. -/
def State.perform (s : State) (t : Team) (r : Req) : Served × State :=
  -- the whole of a half-line is seen at once (R178)
  let (view, s0) : Option Bool × State := match r.op with
    | .load .plain n _ => if r.parts.all (fun p => !isWindow p.va) && r.fullHalf n then let (i, s0) := s.pick 2; (some (i == 1), s0) else (none, s)
    | _ => (none, s)
  match State.performAll t r view r.parts s0 with
  | (.answer as, s1) => (.answer as, s1)
  | (.hold w, _) =>
    -- the translation stays done; a page miss raises or joins its page request
    match r.parts with
    | [] => (.hold w, s)
    | p :: _ =>
      let s1 := (s.aim t p.lane p.va r.op.need r.op.isAtomic r.op.isLd64).2
      let s2 := if w == .queue 4 then (match (s.aim t p.lane p.va r.op.need r.op.isAtomic r.op.isLd64).1 with
          | .at' l _ => if l.away then s1.inboundStart (loopReq s1 t r p l) else s1
          | _ => s1) else s1
      (.hold w, if w == .paren 0 then s2.pageMiss (s.ctxOf t.launch) p.va r.op.need.bits else s2)
  | (.fault c l v d, _) => (.fault c l v d, s)

/-- Entries of a team's Parenthesis, accesses of its engines' operations among them (R285). -/
def State.parenSize (s : State) (team : Nat) : Nat :=
  (s.reqs.filter (fun x => x.team == team && (match x.place with | .paren _ => true | _ => false))).length
    + (s.pairs.map (fun p => (p.2.ops.filter (fun o => (o.held.map Prod.fst) == some team)).length)).foldl (· + ·) 0

/-- Puts a request into its team's Parenthesis: beyond 32 entries into its overflow region (R286). -/
def State.toParen (s : State) (r : Req) : State :=
  let n := s.parenSize r.team
  s.updTeam r.team (fun t => if 32 ≤ n then { t with ovflow := t.ovflow ++ [r.id] } else t)

/-- Places a request, new or already kept, where it waits from now on. -/
def State.placeReq (s : State) (r : Req) (w : Place) : State :=
  let s1 := match w with | .paren _ => s.toParen r | _ => s
  let r' := { r with place := w, since := s.clk }
  if s1.reqs.any (fun x => x.id == r.id) then { s1 with reqs := s1.reqs.map (fun x => if x.id == r.id then r' else x) }
  else { s1 with reqs := s1.reqs ++ [r'] }

/-- What leaving for a peer adds: a plain store enters the launch's peer list. -/
def State.leave (s : State) (t : Team) (r : Req) : State :=
  match r.parts with
  | [] => s
  | p :: _ =>
    match (s.aim t p.lane p.va r.op.need r.op.isAtomic r.op.isLd64).1, r.op with
    | .at' l _, .store cls _ =>
      if cls == .plain || cls == .strm then
        (if l.away then s.addPeer t.launch (coreDie t.core) (s.awayDev l) else s)
      else s
    | _, _ => s

/-- What a request sends to another device: its payload, or only what it asks. -/
def Req.payload (r : Req) : Nat := if r.op.isLoad then 0 else (r.parts.map (fun p => p.data.length)).foldl (· + ·) 0

/-- A request leaves for another device by the port and path that are chosen for its packet (R292), or waits at the egress for a port that takes
it; one that no port can reach is unreachable (R375). -/
def State.depart (s : State) (t : Team) (r : Req) (l : Loc) : Option State :=
  let dev := s.awayDev l
  match s.choosePort (coreDie t.core) dev (fun _ => false) with
  | (.port p, s1) =>
    if s1.portTakes p then
      let k : Packet := { num := 0, off := 0, len := r.payload, port := p, path := s1.choosePath p dev, since := s.clk, resends := 0 }
      some (((s1.leave t r).sendFlits p r.payload).placeReq { r with via := some k } .remote)
    else some (s1.placeReq { r with pa := some l.key } (.queue 4))
  | (.waits, s1) => some (s1.placeReq { r with pa := some l.key } (.queue 4))
  | (.none, _) => none

/-- Whether a request is a load of helper lanes alone. -/
def State.helperOnly (s : State) (r : Req) : Bool :=
  r.op.isLoad && (s.team? r.team).any (fun t => r.parts.all (fun p => !t.real.getLsbD p.lane))

/-- What a request gets that was refused away from this device: it goes and its team stops, at its lowest lane that is no helper; a load of
helper lanes alone returns zero (R38). -/
def State.reqFault (s : State) (r : Req) (cause d1 : Nat) : State :=
  if s.helperOnly r then s.deliver r (r.parts.map (fun p => (List.replicate p.len 0, false)))
  else
    let p := match r.parts.find? (fun p => (s.team? r.team).any (fun t => t.real.getLsbD p.lane)) with
      | some p => some p
      | none => r.parts.head?
    takeFaultAt { s with reqs := s.reqs.filter (fun x => x.id != r.id) } r.team r.entry r.pc cause ((p.map (fun p => p.lane)).getD 0)
      ((p.map (fun p => p.va)).getD 0) d1

/-- Whether a request can leave only later: a port is there for it and does not take it now (R388). -/
def State.egressShut (s : State) (t : Team) (l : Loc) : Bool :=
  match s.choosePort (coreDie t.core) (s.awayDev l) (fun _ => false) with
  | (.port p, s1) => !s1.portTakes p
  | (.waits, _) => true
  | (.none, _) => false

/-- A request whose performer is elsewhere goes there: to the host by its link, to another device by a port, where it waits at the egress, a plain store
too that finds its channel's peer list full (R297); it fails where none leads there. -/
def State.goOut (s : State) (t : Team) (r : Req) : State :=
  match r.parts with
  | [] => s
  | p :: _ =>
    match (s.aim t p.lane p.va r.op.need r.op.isAtomic r.op.isLd64).1 with
    | .at' l _ =>
      let plain := match r.op with
        | .store cls _ => cls == .plain || cls == .strm
        | _ => false
      if !l.away then s.placeReq r .remote
      else if (plain && s.peersFull t [l]) || s.egressShut t l then (if r.place == .queue 4 then s else s.placeReq { r with pa := some l.key } (.queue 4))
      else (s.depart t r l).getD (s.reqFault r 26 1)
    | _ => s.placeReq r .remote

/-- A request that waits in a queue at its performer is known there by the key of its place. -/
def State.keyed (s : State) (t : Team) (r : Req) (w : Place) : Req :=
  match w, r.parts with
  | .queue _, p :: _ =>
    match (s.aim t p.lane p.va r.op.need r.op.isAtomic r.op.isLd64).1 with
    | .at' l _ => { r with pa := some l.key, arrived := s.clk }
    | _ => r
  | _, _ => r

/-- Serves a request as far as it goes: performed and delivered, waiting, or a fault at its instruction. -/
def State.serve (s : State) (r : Req) : State :=
  match s.team? r.team with
  | none => { s with reqs := s.reqs.filter (fun x => x.id != r.id) }
  | some t =>
    match s.perform t r with
    | (.answer as, s1) =>
      -- a loop-back plain store also lists this device; a group's other members have to acknowledge (R298)
      if s1.fab.mcast.any (fun m => m.req.src == s.fab.self && seqOwner m.req.seq == r.id) then
        (s1.leave t r).placeReq { r with answer := as } .remote
      else (s1.leave t r).deliver r as
    | (.hold .remote, s1) => s1.goOut t r
    | (.hold w, s1) => s1.placeReq (s1.keyed t r w) w
    | (.fault c lane va d1, s1) =>
      takeFaultAt { s1 with reqs := s1.reqs.filter (fun x => x.id != r.id) } r.team r.entry r.pc c lane va d1

end Sys2Proof.Machine
end

