-- ==== Sys2Proof/Machine/Mem.lean ====
section
/-! DEFINITION. Loads, stores and prefetch, 0x58-0x62 (R169-R180), and the issue that every memory instruction shares. -/

namespace Sys2Proof.Machine

/-! ### Parts -/

/-- Parts of an element of n bytes: it splits at 8-byte boundaries (R81, R178). Offset, length. -/
def splitParts (ea n : Nat) : List (Nat × Nat) :=
  let first := min n (8 - ea % 8)
  (0, first) :: (List.range ((n - first + 7) / 8)).map (fun i => (first + 8 * i, min 8 (n - first - 8 * i)))

/-- What each lane of a memory instruction asks for: its address, whether that is tagged, its data and whether that is. -/
structure LaneAsk where
  lane : Nat
  ea   : Nat
  atag : Bool
  data : List Byte
  dtag : Bool
  deriving DecidableEq, Repr

/-- The lane parts of an instruction. An atomic's data goes with its one part. -/
def askParts (size : Nat) (whole : Bool) (a : LaneAsk) : List LanePart :=
  if whole then [{ lane := a.lane, va := a.ea, off := 0, len := size, data := a.data, tag := a.dtag }]
  else (splitParts a.ea size).map (fun (o, n) =>
    { lane := a.lane, va := a.ea + o, off := o, len := n, data := (a.data.drop o).take n, tag := a.dtag })

/-- Adds a part to the request of its pass and half-line (R81). -/
def addPart (p : LanePart) : List (List LanePart) → List (List LanePart)
  | [] => [[p]]
  | g :: gs =>
    match g with
    | [] => [p] :: gs
    | q :: _ => if q.lane / 32 == p.lane / 32 && q.va / 128 == p.va / 128 then (g ++ [p]) :: gs else g :: addPart p gs

/-- Parts grouped into requests. -/
def groupParts (ps : List LanePart) : List (List LanePart) := ps.foldl (fun gs p => addPart p gs) []

/-! ### Checks and waits at issue -/

/-- The check of R170 over parts in ascending lane order, helpers left out: the first fault, or the state in which the
translations are done. -/
def State.checkParts (t : Team) (op : ReqOp) : List LanePart → State → Option (Nat × Nat × Nat) × State
  | [], s => (none, s)
  | p :: ps, s =>
    if !t.real.getLsbD p.lane then State.checkParts t op ps s
    else
      match s.aim t p.lane p.va op.need op.isAtomic (op.isLd64 && p.len == 8) with
      | (.bad c, s1) => (some (c, p.lane, p.va), s1)
      | (.miss, s1) => State.checkParts t op ps s1
      | (.at' _ _, s1) => State.checkParts t op ps s1

/-- How an instruction is ordered at its issue (R173): as an acquire, as a release. -/
structure Order where
  acq : Bool
  rel : Bool
  deriving DecidableEq, Repr

/-- Whether a request is an acquire that has not completed (R174). The field signed of an atomic's request says that its
class is acquire or acquire-release. -/
def Req.holdsBack (r : Req) : Bool :=
  match r.op with
  | .load cls _ _ => cls == .acq
  | .atomic _ _ _ => r.signed
  | .lock _ _ _ _ => true
  | .store _ _ => false
  | .reduce _ _ => false

/-- Whether a team has an acquire that has not completed: no later memory access of it is performed before (R174). -/
def State.acquiring (s : State) (t : Team) : Bool := t.lockOut || s.reqs.any (fun r => r.team == t.id && r.holdsBack)

/-- Whether a team is stalled: an acquire of it has not completed (R174), or its Parenthesis is full (R43, R286). -/
def Team.waitsBehind (t : Team) (s : State) : Bool := s.acquiring t || !t.ovflow.isEmpty

/-- Whether a launch is still tentative on this device (R380). -/
def Launch.tentative (l : Launch) : Bool :=
  match l.md with
  | some m => !m.confirmed
  | none => false

/-- The waits of a memory instruction before anything of it is performed (R82, R173, R174, R195, R286, R296, R297, R380). -/
def State.memWaits (s : State) (iss : Issue) (op : ReqOp) (o : Order) (parts : List LanePart) : Bool :=
  let t := iss.team
  let mine := s.reqs.filter (fun r => r.team == t.id)
  let plainStore := match op with
    | .store cls _ => cls == .plain || cls == .strm
    | _ => false
  let locOf (p : LanePart) : Option Loc := match (s.aim t p.lane p.va op.need op.isAtomic true).1 with
    | .at' l _ => some l
    | _ => none
  let host := parts.any (fun p => match locOf p with | some l => l.space == 5 | none => false)
  !t.ovflow.isEmpty
    || t.lockOut || mine.any Req.holdsBack
    || (o.acq && mine.any (fun r => r.op.isLoad && parts.any (fun p => r.parts.any (fun q => q.va / 256 == p.va / 256))))
    || (o.rel && !mine.isEmpty)
    || (plainStore && t.phaseDone && parts.any (fun p => !isWindow p.va))
    || parts.any (fun p => mine.any (fun r => r.place == .remote && r.parts.any (fun q => q.va / 256 == p.va / 256)))
    || parts.any (fun p => match locOf p with
        | some l => l.away && mine.any (fun r => (s.reqKeys t r).contains l.key)
        | none => false)
    || (match s.launch? t.launch with
        | some l => (l.tentative && (host || !(plainStore || op.isLoad)))
            || (plainStore && s.peersFull t (parts.filterMap locOf))
        | none => false)

/-! ### The shared issue -/

/-- Raises the irreversible count of a team (R258). -/
def State.irreversible (s : State) (tid : Nat) : State := s.updTeam tid (fun t => { t with irrev := min 65535 (t.irrev + 1) })

/-- Issues one request: behind an earlier one of the team to the same line, delayed, or served at once. Windows need no walk (R67). At a
peer's line it waits at issue until the earlier one is acknowledged (R296). -/
def State.issueReq (s : State) (r : Req) : State :=
  let same := s.reqs.filter (fun x => x.team == r.team && x.place != .answered
    && x.parts.any (fun q => r.parts.any (fun p => q.va / 256 == p.va / 256)))
  let far := match s.team? r.team with
    | some t => r.parts.any (fun p => match (s.aim t p.lane p.va r.op.need r.op.isAtomic true).1 with
        | .at' l _ => l.away && s.reqs.any (fun x => x.team == r.team && (s.reqKeys t x).contains l.key)
        | _ => false)
    | none => false
  if far then s.placeReq r .atIssue
  else if !same.isEmpty then
    if same.any (fun x => match x.place with | .paren _ => true | _ => false) then s.placeReq r (.paren 7) else s.placeReq r (.queue 0)
  else if r.parts.any (fun p => isWindow p.va) then s.serve r
  else
    match s.delays with
    | true :: rest => { s with delays := rest }.placeReq r (.queue 0)
    | false :: rest => { s with delays := rest }.serve r
    | [] => s.serve r

/-- Code of the mood type (R85). -/
def typeCode (iss : Issue) : Nat := let c := bitsN iss.cl.mood.toNat 26 23; if c < 15 then c else 0

/-- The registers a load writes lose the tags of what they held. -/
def ReqOp.clearTags (op : ReqOp) (lanes : List Nat) (t : Team) : Team :=
  match op with
  | .load _ n (.v r) => lanes.foldl (fun t l => { t with vtag := (List.range ((n + 3) / 4)).foldl (fun g j => NSet.rem g (vkey (r.val + j) l)) t.vtag }) t
  | .load _ _ (.s r) => lanes.foldl (fun t _ => { t with stag := NSet.rem t.stag r.val }) t
  | .load _ _ (.q _) => t
  | .store _ _ => t
  | .atomic _ _ _ => t
  | .reduce _ _ => t
  | .lock _ _ _ _ => t

/-- Whether an instruction of a kind that counts raises the irreversible count (R258): a store to a window does not. -/
def ReqOp.irreversible (op : ReqOp) (windows : Bool) : Bool :=
  match op with
  | .store _ _ => !windows
  | .atomic _ _ _ => true
  | .reduce _ _ => true
  | .load _ _ _ => false
  | .lock _ _ _ _ => false

/-- The parts of a store that lie in other half-lines but at the same place in a page as a request's: with two virtual addresses for one page
they name the same bytes, and the higher lane's stand (R29). -/
def aliasesOf (op : ReqOp) (all ps : List LanePart) : List (Nat × Nat × Nat) :=
  match op, ps with
  | .store _ _, p :: _ => (all.filter (fun q => q.va / 128 != p.va / 128 && q.va % 4096 / 128 == p.va % 4096 / 128)).map (fun q => (q.lane, q.va, q.len))
  | _, _ => []

/-- A request of some parts of an instruction. -/
def newReq (iss : Issue) (op : ReqOp) (o : Order) (counted : Bool) (id inst path since : Nat) (p : LanePart) (ps : List LanePart) : Req :=
  { id := id, inst := inst, team := iss.team.id, entry := iss.entry, pc := iss.frag.pc, op := op, path := path, half := p.va / 128, parts := p :: ps
    signed := if op.isLoad then iss.ty.isS else o.acq, ty := typeCode iss, place := .queue 0, since := since, pa := none, answer := []
    counted := counted, twins := [], arrived := 0, again := false, via := none }

/-- Issues one request of an instruction, while its team runs. -/
def State.issueGroup (iss : Issue) (op : ReqOp) (o : Order) (counted : Bool) (inst : Nat) (pathOf : LanePart → Nat) (all : List LanePart) (s : State) (ps : List LanePart) : State :=
  match ps, s.team? iss.team.id with
  | p :: rest, some u =>
    if u.status == .running then
      { s with nextId := s.nextId + 1 }.issueReq { newReq iss op o counted s.nextId inst (pathOf p) s.clk p rest with twins := aliasesOf op all ps }
    else s
  | _, _ => s

/-- Issues a memory instruction (R170-R174, R81, R82): the precise check, the waits, then its requests. counts says whether
it is of a kind that raises the irreversible count (R258). -/
def memIssue (iss : Issue) (s : State) (op : ReqOp) (size : Nat) (whole : Bool) (o : Order) (counts : Bool)
    (asks : List LaneAsk) (skipped : State → State) : Eff :=
  let t := iss.team
  let live := asks.filter (fun a => !a.atag)
  let parts := live.flatMap (askParts size whole)
  match live.find? (fun a => whole && a.ea % size != 0 && t.real.getLsbD a.lane) with
  | some a =>
    -- alignment is found by the check of R170: the lowest failing lane is reported
    match (State.checkParts t op (parts.filter (fun p => p.lane < a.lane)) s).1 with
    | some (c, lane, va) => .stop c lane va 0
    | none => if 2 ^ 57 ≤ a.ea then .stop 4 a.lane a.ea 0 else .stop 15 a.lane a.ea 0
  | none =>
    match State.checkParts t op parts s with
    | (some (c, lane, va), _) => .stop c lane va 0
    | (none, s1) =>
      let paths := (parts.map (fun p => s.pathAt t p.lane p.va)).foldl NSet.add ([] : NSet)
      if s.memWaits iss op o parts || !t.pathRoom paths then .wait .pending s
      else
        let inst := s1.nextId
        let s2 := { s1 with nextId := inst + 1 }.updTeam t.id (fun t => t.countPaths paths inst)
        let windows := parts.all (fun p => isWindow p.va)
        let s3 := if counts && iss.val != 0 && op.irreversible windows then s2.irreversible t.id else s2
        let eaten := asks.any (fun a => a.atag) || (!op.isLoad && live.any (fun a => a.dtag))
        let s4 := if eaten then (skipped s3).consumeBy t else s3
        let s5 := s4.updTeam t.id (op.clearTags (live.map (fun a => a.lane)))
        .done (((groupParts parts).foldl (State.issueGroup iss op o eaten inst (fun p => s.pathAt t p.lane p.va) parts) s5).retire t.id)

/-- Lanes a load serves: helpers too, a scalar once (R119, R176). -/
def loadLanes (iss : Issue) (d : Reg) : List Nat :=
  match d with
  | .s _ => iss.low.toList
  | .v _ => lanesOf iss.act iss.team.n
  | .q _ => []

/-- A load (R176). -/
def load (iss : Issue) (s : State) (cls : LdClass) (size : Nat) (d a : Reg) (b : Src) : Eff :=
  let lanes := loadLanes iss d
  if lanes.isEmpty then .done s
  else
    let asks : List LaneAsk := lanes.map (fun l => { lane := l, ea := effAddr iss a b l, atag := addrTag iss a b l, data := [], dtag := false })
    let n := match d with | .s _ => (if size ≤ 4 then 1 else 2) | .v _ => (size + 3) / 4 | .q _ => 1
    memIssue iss s (.load cls size d) size false { acq := cls == .acq, rel := false } false asks (fun s =>
      asks.foldl (fun s x => if x.atag then s.updTeam iss.tid (fun t => t.poison iss.ty d x.lane n) else s) s)

/-- The data register of a store in a lane, as bytes with its tag (R177). -/
def storeData (iss : Issue) (size : Nat) (d : Reg) (l : Nat) : List Byte × Bool :=
  match d with
  | .v r =>
    let n := (size + 3) / 4
    (leBytes size ((List.range n).foldr (fun j acc => (iss.team.v (r.val + j) l).toNat + acc * 2 ^ 32) 0),
      (List.range n).any (fun j => NSet.has iss.team.vtag (vkey (r.val + j) l)))
  | .s r => (leBytes size (iss.team.s r.val).toNat, NSet.has iss.team.stag r.val)
  | .q _ => (leBytes size 0, false)

/-- A store (R177). -/
def store (iss : Issue) (s : State) (cls : StClass) (size : Nat) (d a : Reg) (b : Src) : Eff :=
  let lanes := lanesOf iss.val iss.team.n
  if lanes.isEmpty then .done s
  else
    let asks : List LaneAsk := lanes.map (fun l =>
      let (x, tag) := storeData iss size d l
      { lane := l, ea := effAddr iss a b l, atag := addrTag iss a b l, data := x, dtag := tag })
    let sync := cls == .rlx || cls == .rel
    memIssue iss s (.store cls size) size false { acq := false, rel := cls == .rel } sync asks (fun s => s)

/-- LD8 (R176). -/
def execLd8 (cls : LdClass) (d a : Reg) (b : Src) (s : State) : Host.Outcome State Fault Refusal :=
  run (.ld8 cls d a b) s (fun iss s => load iss s cls 1 d a b)
/-- LD16 (R176). -/
def execLd16 (cls : LdClass) (d a : Reg) (b : Src) (s : State) : Host.Outcome State Fault Refusal :=
  run (.ld16 cls d a b) s (fun iss s => load iss s cls 2 d a b)
/-- LD32 (R176). -/
def execLd32 (cls : LdClass) (d a : Reg) (b : Src) (s : State) : Host.Outcome State Fault Refusal :=
  run (.ld32 cls d a b) s (fun iss s => load iss s cls 4 d a b)
/-- LD64 (R176). -/
def execLd64 (cls : LdClass) (d a : Reg) (b : Src) (s : State) : Host.Outcome State Fault Refusal :=
  run (.ld64 cls d a b) s (fun iss s => load iss s cls 8 d a b)
/-- LD128 (R176). -/
def execLd128 (cls : LdClass) (d a : Reg) (b : Src) (s : State) : Host.Outcome State Fault Refusal :=
  run (.ld128 cls d a b) s (fun iss s => load iss s cls 16 d a b)
/-- ST8 (R177). -/
def execSt8 (cls : StClass) (d a : Reg) (b : Src) (s : State) : Host.Outcome State Fault Refusal :=
  run (.st8 cls d a b) s (fun iss s => store iss s cls 1 d a b)
/-- ST16 (R177). -/
def execSt16 (cls : StClass) (d a : Reg) (b : Src) (s : State) : Host.Outcome State Fault Refusal :=
  run (.st16 cls d a b) s (fun iss s => store iss s cls 2 d a b)
/-- ST32 (R177). -/
def execSt32 (cls : StClass) (d a : Reg) (b : Src) (s : State) : Host.Outcome State Fault Refusal :=
  run (.st32 cls d a b) s (fun iss s => store iss s cls 4 d a b)
/-- ST64 (R177). -/
def execSt64 (cls : StClass) (d a : Reg) (b : Src) (s : State) : Host.Outcome State Fault Refusal :=
  run (.st64 cls d a b) s (fun iss s => store iss s cls 8 d a b)
/-- ST128 (R177). -/
def execSt128 (cls : StClass) (d a : Reg) (b : Src) (s : State) : Host.Outcome State Fault Refusal :=
  run (.st128 cls d a b) s (fun iss s => store iss s cls 16 d a b)

/-- The lanes of a prefetch one after another (R180): the first fault, or the state with its copies. -/
def prefetchGo (iss : Issue) (k : PfKind) : List (Nat × Nat) → State → Option (Nat × Nat × Nat) × State
  | [], s => (none, s)
  | (l, ea) :: rest, s =>
    if 2 ^ 57 ≤ ea then (some (4, l, ea), s)
    else if isWindow ea then prefetchGo iss k rest s
    else
      match s.translate (some iss.team.core) iss.ctx ea .read with
      | (.malformed, s1) => (some (12, l, ea), s1)
      | (.noPerm, s1) => (some (13, l, ea), s1)
      | (.miss, s1) => prefetchGo iss k rest s1
      | (.hit h, s1) =>
        let s2 := if h.ap == 0 && h.c && k != .l2 then
            (List.range 4).foldl (fun s i => s.noteClean iss.team.core (lineOf h.addr + 64 * i) false) s1
          else s1
        prefetchGo iss k rest s2

/-- PF (R180): no register, no path, no value changed; invalid leaves are dropped. -/
def execPf (k : PfKind) (a : Reg) (b : Src) (s : State) : Host.Outcome State Fault Refusal :=
  run (.pf k a b) s (fun iss s =>
    let lanes := ((lanesOf iss.val iss.team.n).filter (fun l => !addrTag iss a b l)).map (fun l => (l, effAddr iss a b l))
    if !iss.team.ovflow.isEmpty then .wait .pending s else
    match prefetchGo iss k lanes s with
    | (some (c, l, va), _) => .stop c l va 0
    | (none, s1) => .done s1)

end Sys2Proof.Machine
end

