-- ==== Sys2Proof/Machine/Atomics.lean ====
section
/-! DEFINITION. Fetch-atomics and reductions, 0x64-0x72 (R181-R185). -/

namespace Sys2Proof.Machine

/-- A register of an atomic as the low bits of its width in a lane (R181); next is the second operand of ATCAS. -/
def atomReg (iss : Issue) (d : Reg) (next : Bool) (l : Nat) : Nat × Bool :=
  let w := iss.ty.width
  match d with
  | .v r => opdAt iss.team w l (.vec (if next then r.val + w / 32 else r.val))
  | .s r =>
    let k := if next then r.val + 1 else r.val
    ((iss.team.s k).toNat % 2 ^ w, NSet.has iss.team.stag k)
  | .q _ => (0, false)

/-- The lanes' requests of an atomic or reduction. -/
def atomAsks (iss : Issue) (cas : Bool) (d a : Reg) (b : Src) (lanes : List Nat) : List LaneAsk :=
  let n := iss.ty.width / 8
  lanes.map (fun l =>
    let (x, tx) := atomReg iss d false l
    let (y, ty) := atomReg iss d true l
    { lane := l, ea := effAddr iss a b l, atag := addrTag iss a b l
      data := if cas then leBytes n x ++ leBytes n y else leBytes n x, dtag := tx || (cas && ty) })

/-- A fetch-atomic (R181-R183): op is the place of its row in R181. -/
def fetchAtomic (iss : Issue) (s : State) (op : Fin 9) (ord : AtOrder) (d a : Reg) (b : Src) : Eff :=
  if iss.act == 0 then .done s
  else if !atomTypes iss.ty op.val then .stop 6 0 0 0
  else
    let lanes := match d with
      | .s _ => iss.low.toList
      | .v _ => lanesOf iss.val iss.team.n
      | .q _ => []
    if lanes.isEmpty then .done s
    else
      memIssue iss s (.atomic op (typeCode iss) d) (iss.ty.width / 8) true
        { acq := ord == .acq || ord == .ar, rel := ord == .rel || ord == .ar } true
        (atomAsks iss (op == 7) d a b lanes) (fun s => s)

/-- A reduction (R184, R185): nothing returns. -/
def reduction (iss : Issue) (s : State) (op : Fin 6) (rel : Bool) (d a : Reg) (b : Src) : Eff :=
  if iss.act == 0 then .done s
  else if !atomTypes iss.ty op.val then .stop 6 0 0 0
  else
    let lanes := lanesOf iss.val iss.team.n
    if lanes.isEmpty then .done s
    else memIssue iss s (.reduce op (typeCode iss)) (iss.ty.width / 8) true { acq := false, rel := rel } true
      (atomAsks iss false d a b lanes) (fun s => s)

/-- ATADD (R181-R183). -/
def execAtadd (ord : AtOrder) (d a : Reg) (b : Src) (s : State) : Host.Outcome State Fault Refusal :=
  run (.atadd ord d a b) s (fun iss s => fetchAtomic iss s 0 ord d a b)
/-- ATMIN (R181-R183). -/
def execAtmin (ord : AtOrder) (d a : Reg) (b : Src) (s : State) : Host.Outcome State Fault Refusal :=
  run (.atmin ord d a b) s (fun iss s => fetchAtomic iss s 1 ord d a b)
/-- ATMAX (R181-R183). -/
def execAtmax (ord : AtOrder) (d a : Reg) (b : Src) (s : State) : Host.Outcome State Fault Refusal :=
  run (.atmax ord d a b) s (fun iss s => fetchAtomic iss s 2 ord d a b)
/-- ATAND (R181-R183). -/
def execAtand (ord : AtOrder) (d a : Reg) (b : Src) (s : State) : Host.Outcome State Fault Refusal :=
  run (.atand ord d a b) s (fun iss s => fetchAtomic iss s 3 ord d a b)
/-- ATOR (R181-R183). -/
def execAtor (ord : AtOrder) (d a : Reg) (b : Src) (s : State) : Host.Outcome State Fault Refusal :=
  run (.ator ord d a b) s (fun iss s => fetchAtomic iss s 4 ord d a b)
/-- ATXOR (R181-R183). -/
def execAtxor (ord : AtOrder) (d a : Reg) (b : Src) (s : State) : Host.Outcome State Fault Refusal :=
  run (.atxor ord d a b) s (fun iss s => fetchAtomic iss s 5 ord d a b)
/-- ATXCH (R181-R183). -/
def execAtxch (ord : AtOrder) (d a : Reg) (b : Src) (s : State) : Host.Outcome State Fault Refusal :=
  run (.atxch ord d a b) s (fun iss s => fetchAtomic iss s 6 ord d a b)
/-- ATCAS (R181-R183). -/
def execAtcas (ord : AtOrder) (d a : Reg) (b : Src) (s : State) : Host.Outcome State Fault Refusal :=
  run (.atcas ord d a b) s (fun iss s => fetchAtomic iss s 7 ord d a b)
/-- ATINC (R181-R183). -/
def execAtinc (ord : AtOrder) (d a : Reg) (b : Src) (s : State) : Host.Outcome State Fault Refusal :=
  run (.atinc ord d a b) s (fun iss s => fetchAtomic iss s 8 ord d a b)

/-- RDADD (R184, R185). -/
def execRdadd (rel : Bool) (d a : Reg) (b : Src) (s : State) : Host.Outcome State Fault Refusal :=
  run (.rdadd rel d a b) s (fun iss s => reduction iss s 0 rel d a b)
/-- RDMIN (R184, R185). -/
def execRdmin (rel : Bool) (d a : Reg) (b : Src) (s : State) : Host.Outcome State Fault Refusal :=
  run (.rdmin rel d a b) s (fun iss s => reduction iss s 1 rel d a b)
/-- RDMAX (R184, R185). -/
def execRdmax (rel : Bool) (d a : Reg) (b : Src) (s : State) : Host.Outcome State Fault Refusal :=
  run (.rdmax rel d a b) s (fun iss s => reduction iss s 2 rel d a b)
/-- RDAND (R184, R185). -/
def execRdand (rel : Bool) (d a : Reg) (b : Src) (s : State) : Host.Outcome State Fault Refusal :=
  run (.rdand rel d a b) s (fun iss s => reduction iss s 3 rel d a b)
/-- RDOR (R184, R185). -/
def execRdor (rel : Bool) (d a : Reg) (b : Src) (s : State) : Host.Outcome State Fault Refusal :=
  run (.rdor rel d a b) s (fun iss s => reduction iss s 4 rel d a b)
/-- RDXOR (R184, R185). -/
def execRdxor (rel : Bool) (d a : Reg) (b : Src) (s : State) : Host.Outcome State Fault Refusal :=
  run (.rdxor rel d a b) s (fun iss s => reduction iss s 5 rel d a b)

end Sys2Proof.Machine
end

