-- ==== Sys2Proof/Machine/Bits.lean ====
section
/-! DEFINITION. Bitwise and address instructions, 0x40-0x4E (R160-R164). -/

namespace Sys2Proof.Machine

/-- A lane-wise instruction on raw operands at the operand width (R160): f over a, b and the old d. -/
def bitOp (iss : Issue) (s : State) (readD : Bool) (d a : Reg) (b : Option Src) (f : Nat → Nat → Nat → Nat) : Eff :=
  let w := iss.ty.width
  laneOp s iss readD w w w (scalarExt iss.ty) d (some a) b (fun _ x y z g => (some (f x y z), g))

/-- An operation on each element of a and b (R161). -/
def bitElems (t : Ty) (f : Nat → Nat → Nat) (x y : Nat) : Nat :=
  ofElements t.ew ((List.range t.count).map (fun i => f (element t x i) (element t y i)))

/-- SHL on an element of w bits. -/
def shlElem (w a c : Nat) : Nat := if w ≤ c then 0 else a * 2 ^ c % 2 ^ w
/-- SHR on an element. -/
def shrElem (w a c : Nat) : Nat := if w ≤ c then 0 else a / 2 ^ c
/-- SAR on an element: two's complement whatever the type. -/
def sarElem (w a c : Nat) : Nat := wrapI (sext a w / ((2 ^ min c w : Nat) : Int)) w
/-- ROT on an element, toward the high end. -/
def rotElem (w a c : Nat) : Nat := let k := c % w; a * 2 ^ k % 2 ^ w + a / 2 ^ (w - k)
/-- POPC on an element. -/
def popcElem (w a : Nat) : Nat := ((List.range w).filter (fun i => Nat.testBit a i)).length
/-- CLZ on an element. -/
def clzElem (w a : Nat) : Nat := if a = 0 then w else w - 1 - Nat.log2 a
/-- BREV on an element. -/
def brevElem (w a : Nat) : Nat := (List.range w).foldl (fun acc j => if Nat.testBit a j then acc + 2 ^ (w - 1 - j) else acc) 0

/-- AND (R161). -/
def execAnd (d a : Reg) (b : Src) (s : State) : Host.Outcome State Fault Refusal :=
  run (.and d a b) s (fun iss s => bitOp iss s false d a (some b) (fun x y _ => Nat.land x y))
/-- OR (R161). -/
def execOr (d a : Reg) (b : Src) (s : State) : Host.Outcome State Fault Refusal :=
  run (.or d a b) s (fun iss s => bitOp iss s false d a (some b) (fun x y _ => Nat.lor x y))
/-- XOR (R161). -/
def execXor (d a : Reg) (b : Src) (s : State) : Host.Outcome State Fault Refusal :=
  run (.xor d a b) s (fun iss s => bitOp iss s false d a (some b) (fun x y _ => Nat.xor x y))
/-- NOT (R161). -/
def execNot (d a : Reg) (s : State) : Host.Outcome State Fault Refusal :=
  run (.not d a) s (fun iss s => bitOp iss s false d a none (fun x _ _ => 2 ^ iss.ty.width - 1 - x))
/-- SHL (R161). -/
def execShl (d a : Reg) (b : Src) (s : State) : Host.Outcome State Fault Refusal :=
  run (.shl d a b) s (fun iss s => bitOp iss s false d a (some b) (fun x y _ => bitElems iss.ty (shlElem iss.ty.ew) x y))
/-- SHR (R161). -/
def execShr (d a : Reg) (b : Src) (s : State) : Host.Outcome State Fault Refusal :=
  run (.shr d a b) s (fun iss s => bitOp iss s false d a (some b) (fun x y _ => bitElems iss.ty (shrElem iss.ty.ew) x y))
/-- SAR (R161). -/
def execSar (d a : Reg) (b : Src) (s : State) : Host.Outcome State Fault Refusal :=
  run (.sar d a b) s (fun iss s => bitOp iss s false d a (some b) (fun x y _ => bitElems iss.ty (sarElem iss.ty.ew) x y))
/-- ROT (R161). -/
def execRot (d a : Reg) (b : Src) (s : State) : Host.Outcome State Fault Refusal :=
  run (.rot d a b) s (fun iss s => bitOp iss s false d a (some b) (fun x y _ => bitElems iss.ty (rotElem iss.ty.ew) x y))
/-- POPC (R161). -/
def execPopc (d a : Reg) (s : State) : Host.Outcome State Fault Refusal :=
  run (.popc d a) s (fun iss s => bitOp iss s false d a none (fun x _ _ => bitElems iss.ty (fun e _ => popcElem iss.ty.ew e) x 0))
/-- CLZ (R161). -/
def execClz (d a : Reg) (s : State) : Host.Outcome State Fault Refusal :=
  run (.clz d a) s (fun iss s => bitOp iss s false d a none (fun x _ _ => bitElems iss.ty (fun e _ => clzElem iss.ty.ew e) x 0))
/-- BREV (R161). -/
def execBrev (d a : Reg) (s : State) : Host.Outcome State Fault Refusal :=
  run (.brev d a) s (fun iss s => bitOp iss s false d a none (fun x _ _ => bitElems iss.ty (fun e _ => brevElem iss.ty.ew e) x 0))

/-- Position and effective length of a bit field (R162). -/
def fieldOf (w b : Nat) : Nat × Nat :=
  let pos := bitsN b 7 0
  let len := bitsN b 15 8
  (pos, if w ≤ pos then 0 else min len (w - pos))

/-- BFE's value (R162). -/
def bfeVal (t : Ty) (x b : Nat) : Nat :=
  let (pos, n) := fieldOf t.width b
  let f := x / 2 ^ pos % 2 ^ n
  if n = 0 then 0 else if t == .s32 || t == .s64 then wrapI (sext f n) t.width else f

/-- BFI's value (R162). -/
def bfiVal (t : Ty) (x b old : Nat) : Nat :=
  let (pos, n) := fieldOf t.width b
  if n = 0 then old
  else old / 2 ^ (pos + n) * 2 ^ (pos + n) + x % 2 ^ n * 2 ^ pos + old % 2 ^ pos

/-- BFE (R162). -/
def execBfe (d a : Reg) (b : Src) (s : State) : Host.Outcome State Fault Refusal :=
  run (.bfe d a b) s (fun iss s => bitOp iss s false d a (some b) (fun x y _ => bfeVal iss.ty x y))
/-- BFI (R162): reads and writes d. -/
def execBfi (d a : Reg) (b : Src) (s : State) : Host.Outcome State Fault Refusal :=
  run (.bfi d a b) s (fun iss s => bitOp iss s true d a (some b) (fun x y z => bfiVal iss.ty x y z))

/-- ADDC (R163): carry in and out by p7, the carry written in the lanes that are computed. -/
def execAddc (d a : Reg) (b : Src) (s : State) : Host.Outcome State Fault Refusal :=
  run (.addc d a b) s (fun iss s =>
    let w := iss.ty.width
    let t := iss.team
    let oa := opdA s iss (some a)
    let ob := opdB s iss (some a) (some b)
    let lanes := outLanes iss d
    let carry := lanes.filter (fun l => (addCarry w (opdAt t w l oa).1 (opdAt t w l ob).1 (t.p 7 l)).2)
    match laneOp s iss false w w w (scalarExt iss.ty) d (some a) (some b) (fun l x y _ g => (some (addCarry w x y (t.p 7 l)).1, g)) with
    | .done s' =>
      if iss.act == 0 then .done s' else .done (s'.updTeam iss.tid (fun t => t.writeP 7 (maskOf lanes) (maskOf carry)))
    | .ends s' => .ends s'
    | .moved s' => .moved s'
    | .wait l s' => .wait l s'
    | .stop c l x y => .stop c l x y)

/-- Element size in bytes of LEA (R164). -/
def leaScale (t : Ty) : Nat := if t == .q4x8 then 1 else t.ew / 8

/-- LEA (R164): 64-bit a and d whatever the mood width. -/
def execLea (d a : Reg) (b : Src) (s : State) : Host.Outcome State Fault Refusal :=
  run (.lea d a b) s (fun iss s =>
    laneOp s iss false 64 iss.ty.width 64 (fun x => x) d (some a) (some b) (fun _ x y _ g =>
      (some (wrapI ((x : Int) + sext y 32 * ((leaScale iss.ty : Nat) : Int)) 64), g)))

end Sys2Proof.Machine
end

