-- ==== Sys2Proof/Machine/Locks.lean ====
section
/-! DEFINITION. Line locks, 0x73-0x76 (R186-R190). -/

namespace Sys2Proof.Machine

/-- Checks the address of a lock instruction (R186): local HBM alone can be locked. -/
def State.lockAim (s : State) (t : Team) (lane va : Nat) (need : Need) : Aim × State :=
  if 2 ^ 57 ≤ va then (.bad 4, s)
  else if isWindow va then (.bad 11, s)
  else
    match s.aim t lane va need false false with
    | (.at' l h, s1) => if l.space == 0 then (.at' l h, s1) else (.bad 17, s1)
    | other => other

/-- What becomes of an attempt to take a line. -/
inductive LockTry where
  | status (v : Nat)
  | queued
  | noSlot
  | engine
  deriving DecidableEq, Repr

/-- An attempt at the home (R187, R188). The table of R188 lists LOCK and TRYLK by other teams for a Held line and not for one whose holder is Absent;
the model lets them join the queue, and gives TRYLK status 5, there as well (DESIGN CHOICE, log 62). -/
def State.lockAttempt (s : State) (t : Team) (pa : Nat) (tryOnly : Bool) : LockTry × State :=
  let line := lineOf pa
  match s.lockAt line with
  | some k =>
    if k.holder == t.id && !k.absent then (.status 2, s)
    else if 8 ≤ (s.locksOf t.id).length then (.status 4, s)
    else if tryOnly then (.status 5, s)
    else if 32 ≤ (s.coreSt t.core).waiters.length then (.noSlot, s)
    else
      let s1 := s.updCore t.core (fun c => { c with waiters := c.waiters ++ [t.id] })
      (.queued, s1.updMem (fun m => { m with locks := m.locks.map (fun x => if x.line == line then { x with queue := x.queue ++ [(t.id, s.clk)] } else x) }))
  | none =>
    if 8 ≤ (s.locksOf t.id).length then (.status 4, s)
    else if (s.ownerAt line).isSome || s.mem.updates.any (fun u => u.sectors.any (fun x => x / 4 == line / 256)) then (.engine, s)
    else
      let s1 := (s.claimLine line).invalidate line 256
      let data : Store := { bytes := Memory.writeN [] line (s1.mem.hbm.read line 256), poison := markedIn s1.mem.hbm.poison line }
      let k : LineLock := { line := line, holder := t.id, absent := false, check := data, copy := data, queue := [], handoffs := 0
                            timer := 0, order := s1.nextId }
      (.status 0, { s1.updMem (fun m => { m with locks := m.locks ++ [k] }) with nextId := s1.nextId + 1 })

/-- A lock request reissued from its Parenthesis, or behind earlier requests to its line. -/
def State.lockServe (s : State) (r : Req) : State :=
  match s.team? r.team, r.parts, r.op with
  | some t, p :: _, .lock _ _ _ tryOnly =>
    match s.lockAim t p.lane p.va .both with
    | (.miss, s1) => (s1.pageMiss (s.ctxOf t.launch) p.va 5).placeReq r (.paren 0)
    | (.bad c, _) => takeFaultAt (s.dropLockReq t.id) t.id r.entry r.pc c 0 p.va 0
    | (.at' l _, s1) =>
      match s1.lockAttempt t l.addr tryOnly with
      | (.status v, s2) => s2.lockStatus t.id v
      | (.queued, s2) => s2.placeReq r .lockWait
      | (.noSlot, s2) => s2.placeReq r (.paren 4)
      | (.engine, s2) => s2.placeReq r (.paren 3)
  | _, _, _ => { s with reqs := s.reqs.filter (fun x => x.id != r.id) }

/-- The end of a LOCK or TRYLK: its status is written; status 0 is an acquire (R174, R266). -/
def lockDone (iss : Issue) (s : State) (d : Reg) (v : Nat) : Eff :=
  let s1 := (writeStatus s iss d v).updTeam iss.tid (fun t => { t with lockOut := false })
  .done (if v == 0 then s1.updTeam iss.tid (fun t => { t with acq := s.mem.seq }) else s1)

/-- Whether a LOCK or TRYLK of a team waits at its issue. -/
def State.lockHeldBack (s : State) (iss : Issue) : Bool :=
  let t := iss.team
  t.lockOut || !t.ovflow.isEmpty || !t.pathRoom [0] || s.reqs.any (fun r => r.team == t.id && r.holdsBack)
    || (match s.launch? t.launch with | some l => l.tentative | none => false)

/-- LOCK and TRYLK (R186-R188): one request for the team, counted on the path of local HBM (R82). deadline is the timeout from the first issue. -/
def lockIssue (iss : Issue) (s : State) (d a : Reg) (timeout : Nat) (tryOnly : Bool) : Eff :=
  match iss.low with
  | none => .done s
  | some l =>
    match iss.frag.latch with
    | .done v => lockDone iss s d v
    | .waiting 1 => .wait (.waiting 1) s
    | _ =>
      if teamTag iss true l a then .done (s.consumeBy iss.team)
      else
        let va := teamReg iss true l a
        match s.lockAim iss.team l va .both with
        | (.bad c, _) => .stop c 0 va 0
        | (aim, s1) =>
          if s.lockHeldBack iss then .wait .none s
          else
            let (id, s2) := s1.fresh
            let r : Req := { id := id, inst := id, team := iss.tid, entry := iss.entry, pc := iss.frag.pc, op := .lock d (s.clk + timeout) (timeout != 0) tryOnly
                             path := 0, half := va / 128, parts := [{ lane := l, va := va, off := 0, len := 0, data := [], tag := false }]
                             signed := false, ty := 0, place := .queue 0, since := s.clk, pa := none, answer := [], counted := false, twins := [], arrived := 0, again := false, via := none }
            let keep (s : State) (w : Place) : Eff :=
              .wait (.waiting 1) ((s.placeReq r w).updTeam iss.tid (fun t => { t.countPaths [0] id with lockOut := true }))
            let same := s.reqs.filter (fun x => x.team == iss.tid && x.place != .answered && x.parts.any (fun q => q.va / 256 == va / 256))
            if !same.isEmpty then keep s2 (.paren 7)
            else
              match aim with
              | .at' c _ =>
                match s2.lockAttempt iss.team c.addr tryOnly with
                | (.status v, s3) => lockDone iss s3 d v
                | (.queued, s3) => keep s3 .lockWait
                | (.noSlot, s3) => keep s3 (.paren 4)
                | (.engine, s3) => keep s3 (.paren 3)
              | .miss => keep (s2.pageMiss iss.ctx va 5) (.paren 0)
              | .bad c => .stop c 0 va 0

/-- LOCK (R186-R188). -/
def execLock (d a : Reg) (b : Src) (s : State) : Host.Outcome State Fault Refusal :=
  run (.lock d a b) s (fun iss s => lockIssue iss s d a (match iss.low with | some l => teamSrc iss false l b | none => 0) false)

/-- TRYLK (R186-R188). -/
def execTrylk (d a : Reg) (s : State) : Host.Outcome State Fault Refusal :=
  run (.trylk d a) s (fun iss s => lockIssue iss s d a 0 true)

/-- The address of UNLOCK or LKQRY translated; a page miss holds the instruction (R171). -/
def lockTouch (iss : Issue) (s : State) (a : Reg) (l : Nat) (need : Need) (go : Nat → State → Eff) : Eff :=
  let va := teamReg iss true l a
  match s.lockAim iss.team l va need with
  | (.bad c, _) => .stop c 0 va 0
  | (.miss, s1) => .wait (.page va l) (s1.pageMiss iss.ctx va need.bits)
  | (.at' c _, s1) => go c.addr s1

/-- Whether UNLOCK and LKQRY of a line wait at issue: behind an acquire of the team that has not completed (R174), a full Parenthesis (R43)
or a request of the team to the line that has not been performed (R173); an outstanding LOCK holds neither back (R187). -/
def State.touchWaits (s : State) (t : Team) (va : Nat) : Bool :=
  !t.ovflow.isEmpty || s.reqs.any (fun r => r.team == t.id && !r.op.isLock
    && (r.holdsBack || (r.place != .answered && r.parts.any (fun q => q.va / 256 == va / 256))))

/-- UNLOCK (R188, R190): after the team's earlier stores, atomics and reductions (R173, R266). -/
def execUnlock (d a : Reg) (s : State) : Host.Outcome State Fault Refusal :=
  run (.unlock d a) s (fun iss s =>
    match iss.low with
    | none => .done s
    | some l =>
      if teamTag iss true l a then .done (s.consumeBy iss.team)
      else lockTouch iss s a l .both (fun pa s1 =>
        if s.touchWaits iss.team (teamReg iss true l a) || s.reqs.any (fun r => r.team == iss.tid && r.writes) then .wait .pending s
        else
          match s1.heldBy iss.team pa with
          | none => .done (writeStatus s1 iss d 3)
          | some k => .done (writeStatus ((s1.passLock k k.copy).irreversible iss.tid) iss d 0)))

/-- LKQRY's word (R190). -/
def lockWord (s : State) (iss : Issue) (pa : Nat) : Nat :=
  match s.lockAt pa with
  | none => 0
  | some k =>
    let (core, slot) := match s.team? k.holder with | some t => (t.core, t.slot) | none => (0, 0)
    2 ^ 63 + (if k.holder == iss.tid then 2 ^ 62 else 0) + min 16383 k.queue.length * 2 ^ 48 + core * 2 ^ 40 + slot * 2 ^ 36 + k.handoffs

/-- LKQRY (R190): performed at the home, without joining the queue. -/
def execLkqry (d a : Reg) (s : State) : Host.Outcome State Fault Refusal :=
  run (.lkqry d a) s (fun iss s =>
    match iss.low with
    | none => .done s
    | some l =>
      if teamTag iss true l a then .done (s.consumeBy iss.team)
      else lockTouch iss s a l .read (fun pa s1 =>
        if s.touchWaits iss.team (teamReg iss true l a) then .wait .pending s
        else .done (writeWide s1 iss d (lockWord s1 iss pa) false)))

end Sys2Proof.Machine
end

