-- ==== Sys2Proof/Machine/Engine.lean ====
section
/-! DEFINITION. What the engines of a pair share: memory operands checked and located (R206, R214, R219, R229), the pair's
resources and their owners (R210, R211), what an operation reads, and how its lines land (R214, R393). -/

namespace Sys2Proof.Machine

/-! ### Memory operands -/

/-- How the check of an operand's pages ends: located, waiting on a page, or a fault. -/
inductive Probed where
  | ok (segs : List Seg)
  | miss (va : Nat)
  | bad (cause va : Nat)
  deriving DecidableEq, Repr

/-- Bytes from an address to the end of its piece: 256 in a window (R71), a page of 4 KiB elsewhere. -/
def pieceLen (va : Nat) : Nat := if isWindow va then 256 - va % 256 else 4096 - va % 4096

/-- Whether an engine may not reach an address at all: the lane-private and the counter window (R214, R228). -/
def winOff (va : Nat) : Bool := let w := (va - winBase 0) / 2 ^ 32; isWindow va && (w == 0 || w == 4)

/-- Locates a range piece by piece: a fault anywhere comes before a miss. ap is the cause for a place out of an engine's reach:
those windows, a peer, a multicast group. -/
def probeGo (t : Team) (ap : Nat) (need : Need) : Nat → Nat → Nat → State → Probed × State
  | 0, _, _, s => (.ok [], s)
  | fuel + 1, va, n, s =>
    if n = 0 then (.ok [], s)
    else
      let m := min n (pieceLen va)
      if va < 2 ^ 57 && winOff va then (.bad ap va, s)
      else
        match s.aim t 0 va need false false with
        | (.bad c, s1) => (.bad c va, s1)
        | (.miss, s1) =>
          match probeGo t ap need fuel (va + m) (n - m) s1 with
          | (.bad c v, s2) => (.bad c v, s2)
          | (_, s2) => (.miss va, s2)
        | (.at' l _, s1) =>
          if l.space == 7 || l.space == 8 then (.bad ap va, s1)
          else
            match probeGo t ap need fuel (va + m) (n - m) s1 with
            | (.ok segs, s2) => (.ok ({ loc := l, len := m } :: segs), s2)
            | other => other

/-- Checks and locates n bytes. A last byte beyond its allocation in the last piece is found too. -/
def State.probe (s : State) (t : Team) (ap va n : Nat) (need : Need) : Probed × State :=
  if n = 0 then (.ok [], s)
  else
    match probeGo t ap need (n / 256 + 2) va n s with
    | (.ok segs, s1) =>
      match s1.aim t 0 (va + n - 1) need false false with
      | (.bad c, s2) => (.bad c (va + n - 1), s2)
      | (_, s2) => (.ok segs, s2)
    | other => other

/-- A range an operation asks for: address, length, permission. -/
structure Range where
  va   : Nat
  n    : Nat
  need : Need
  deriving DecidableEq, Repr

/-- Several ranges one after another: a fault in any comes before a miss in any. -/
def probeAll (t : Team) (ap : Nat) : List Range → State → Probed × State
  | [], s => (.ok [], s)
  | r :: rest, s =>
    match s.probe t ap r.va r.n r.need with
    | (.bad c v, s1) => (.bad c v, s1)
    | (.miss v, s1) =>
      match probeAll t ap rest s1 with
      | (.bad c w, s2) => (.bad c w, s2)
      | (_, s2) => (.miss v, s2)
    | (.ok segs, s1) =>
      match probeAll t ap rest s1 with
      | (.ok more, s2) => (.ok (segs ++ more), s2)
      | other => other

/-- Whether the team has a store, atomic or reduction under way to a range: an engine reads its memory in the team's program
order (R214). -/
def State.unsettled (s : State) (t : Team) (va n : Nat) : Bool :=
  s.reqs.any (fun r => r.team == t.id && !r.op.isLoad && r.parts.any (fun p =>
    decide (p.va < va + n) && decide (va < p.va + p.len)))

/-! ### The pair's resources (R210, R211): 0 and 1 the tiles, 2 to 9 the B buffers, 10 the side memory, 11 the sparsity queue,
12 the converter -/

/-- The group that owns a resource. -/
def PairSt.owner (p : PairSt) (r : Nat) : Option Nat :=
  if r < 2 then NMap.look p.tileOwner r
  else if r < 10 then NMap.look p.bufOwner (r - 2)
  else if r == 10 then p.sideOwner
  else if r == 11 then p.spqOwner
  else none

/-- A B buffer of a pair. -/
def PairSt.buf (p : PairSt) (n : Nat) : BBuf :=
  NMap.getD p.bufs n { valid := false, double := false, bctl := 0, cols := 0, depth := 0, elems := [], scales := [], tags := [] }

/-- Makes a group the owner of a resource. A buffer's tag becomes invalid when it passes to a group that did not own it
(R220). -/
def PairSt.take (g : Nat) (p : PairSt) (r : Nat) : PairSt :=
  if p.owner r == some g then p
  else if r < 2 then { p with tileOwner := NMap.put p.tileOwner r g }
  else if r < 10 then { p with bufOwner := NMap.put p.bufOwner (r - 2) g, bufs := NMap.put p.bufs (r - 2) { p.buf (r - 2) with valid := false } }
  else if r == 10 then { p with sideOwner := some g }
  else if r == 11 then { p with spqOwner := some g }
  else p

/-- Whether another group owns one of the resources. -/
def PairSt.heldByOther (p : PairSt) (g : Nat) (rs : List Nat) : Bool :=
  rs.any (fun r => match p.owner r with | some o => o != g | none => false)

/-- Releases everything a group owns (R211). -/
def PairSt.release (p : PairSt) (g : Nat) : PairSt :=
  { p with tileOwner := p.tileOwner.filter (fun e => e.2 != g), bufOwner := p.bufOwner.filter (fun e => e.2 != g)
           sideOwner := if p.sideOwner == some g then none else p.sideOwner
           spqOwner := if p.spqOwner == some g then none else p.spqOwner }

/-- Lane of an operation: 0 the array lane, 1 the transfer lane, 2 a copy (R212). -/
def EngineOp.laneNo (o : EngineOp) : Nat := if o.op == 0x98 then 2 else if o.op == 0x89 || o.op == 0x8A then 0 else 1

/-- Whether two operations conflict (R212). -/
def EngineOp.conflicts (e o : EngineOp) : Bool :=
  e.wr.any (fun r => o.rd.contains r || o.wr.contains r) || o.wr.any (fun r => e.rd.contains r)

/-- An operation with the pair it is on. -/
def State.engineOp? (s : State) (id : Nat) : Option EngineOp := s.pairs.findSome? (fun p => p.2.ops.find? (fun o => o.id == id))

/-- An operation changed; removed. -/
def State.updOp (s : State) (o : EngineOp) : State :=
  s.updPair o.pair (fun p => { p with ops := p.ops.map (fun x => if x.id == o.id then o else x) })
def State.dropOp (s : State) (o : EngineOp) : State :=
  s.updPair o.pair (fun p => { p with ops := p.ops.filter (fun x => x.id != o.id) })

/-! ### Reading -/

/-- The located bytes of segments, one by one. -/
def segBytes (segs : List Seg) : List Loc :=
  segs.flatMap (fun g => (List.range g.len).map (fun i => { g.loc with addr := g.loc.addr + i }))

/-- What an engine reads in one run of bytes for a team: as a plain load of it (R214). -/
def State.engineSeg (s : State) (u : Option Team) (g : Seg) : Marked × State :=
  if g.len == 0 then ([], s)
  else if g.loc.space == 0 then
    match u with
    | some t => s.loadBytes t (.plain false none) g.loc.addr g.len
    | none => (s.mem.hbm.readM g.loc.addr g.len, s)
  else ((s.store g.loc).readM g.loc.addr g.len, s)

/-- Bytes an agent of a die reads: the partials of a line combine first (R185), and a read from the host comes after the posted writes before it on
its link (R301). -/
def State.engineRead (s : State) (die : Nat) (u : Option Team) (segs : List Seg) : Marked × State :=
  let s0 := (segLines segs).foldl State.combineLine s
  let s1 := if segs.any (fun g => g.loc.space == 5) then s0.drainHost die else s0
  segs.foldl (fun (bs, s) g => let (b, s') := s.engineSeg u g; (bs ++ b, s')) ([], s1)

/-- Whether some bytes lie in host memory that a die's traffic cannot reach (R379). -/
def State.hostShut (s : State) (die : Nat) (segs : List Seg) : Bool := segs.any (fun g => g.loc.space == 5) && !s.hostOpen die

/-- Whether an operation's sources are still to be written by an earlier operation of its pair (R214), or cannot be reached. -/
def State.sourcesBusy (s : State) (o : EngineOp) : Bool :=
  (segLocs o.srcs).any (fun l => (NMap.getD s.mem.owned l.key []).any (fun w => decide (w < o.id) && (s.pairSt o.pair).ops.any (fun x => x.id == w)))
    || s.hostShut (pairDie o.pair) o.srcs

/-! ### Landing -/

/-- Adds a byte to the landing of its line. -/
def addLanding (l : Loc) (b : Byte × Bool) : List Landing → List Landing
  | [] => [{ loc := { l with addr := lineOf l.addr }, bytes := [(l.addr, b)] }]
  | g :: gs =>
    if g.loc = { l with addr := lineOf l.addr } then { g with bytes := NMap.put g.bytes l.addr b } :: gs else g :: addLanding l b gs

/-- Bytes in the order they are written, as the lines they land in: a line lands when its first byte is due, all of its bytes
together (R393). -/
def landingsOf (ps : List (Loc × Byte × Bool)) : List Landing := ps.foldl (fun gs p => addLanding p.1 p.2 gs) []

/-- Runs of consecutive bytes with one mark. -/
def runsOf : NMap (Byte × Bool) → List (Nat × List Byte × Bool)
  | [] => []
  | (a, b, m) :: rest =>
    match runsOf rest with
    | [] => [(a, [b], m)]
    | (a', bs, m') :: rs => if a + 1 = a' && m = m' then (a, b :: bs, m) :: rs else (a, [b], m) :: (a', bs, m') :: rs

/-- A landing written at its performer: the committed version and every pending version of a line of local HBM (R214); at the host, behind the posted
writes before it on the die's link (R301). -/
def State.writeLanding (s : State) (die : Nat) (by' : Writer) (g : Landing) : State :=
  let s0 := if g.loc.space == 5 then s.drainHost die else s
  (runsOf g.bytes).foldl (fun (s : State) r =>
    if g.loc.space == 0 then s.homeWrite by' r.1 r.2.1 r.2.2
    else if g.loc.space == 5 then s.hostWrite by' r.1 r.2.1
    else s.updStore g.loc (fun c => c.write r.1 r.2.1 r.2.2)) s0

/-- Lands one line of an operation and gives up its ownership; none while a lock or an earlier operation holds the line (R214, R279), or no link
leads to it (R379). -/
def State.landLine (s : State) (die op : Nat) (by' : Writer) (g : Landing) : Option State :=
  let owners := NMap.getD s.mem.owned g.loc.key []
  let mine := owners.contains op
  if g.loc.space == 0 && (s.lockAt g.loc.addr).isSome then none
  else if mine && owners.head? != some op then none
  else if g.loc.space == 5 && !s.hostOpen die then none
  else
    let s1 := if mine || g.loc.space != 0 then s else s.claimLine g.loc.addr
    some ((s1.writeLanding die by' g).disown g.loc.key op)

/-! ### Completion (R213, R215, R216) -/

/-- The end of a matrix-engine operation: it leaves the pair, its flag falls, its status is pushed, its arrival counted. -/
def State.finishOp (s : State) (o : EngineOp) (arr : Bool) : State :=
  let s1 := (s.dropOp o).lowerFlag o.team o.flag
  let s2 := if o.sq then s1.updTeam o.team (fun t => t.reply 0 (BitVec.ofNat 64 (o.op * 2 ^ 56 + s.clk % 2 ^ 48)) 55) else s1
  match s2.team? o.team with
  | none => s2
  | some t =>
    if arr then
      match s2.launch? t.launch with
      | some l => s2.arrive l t.core o.tag
      | none => s2
    else s2

end Sys2Proof.Machine
end

