-- ==== Sys2Proof/Machine/MatrixMath.lean ====
section
/-! DEFINITION. The arithmetic of the matrix engine and the converter: operand controls and layouts (R217-R219), codes of the
4-bit blocks (R93), quantising (R94-R96), accumulation (R97-R99). -/

namespace Sys2Proof.Machine

/-! ### Operand controls (R217, R218) -/

/-- An operand control: format code, element bits, K, whether scales are given, block length, sparsity, side offset. -/
structure OpCtl where
  fmt    : Nat
  bits   : Nat
  k      : Nat
  scen   : Bool
  blen   : Nat
  sparse : Nat
  spoff  : Nat
  deriving DecidableEq, Repr

/-- Element bits and K of a format (R218). -/
def fmtClass (fmt : Nat) : Option (Nat × Nat) :=
  match fmt with
  | 14 => some (4, 256)
  | 6 => some (8, 128) | 7 => some (8, 128) | 8 => some (8, 128) | 9 => some (8, 128)
  | 4 => some (16, 64) | 5 => some (16, 64)
  | 3 => some (32, 16)
  | _ => none

/-- A legal operand control (R218). -/
def OpCtl.of (c : Nat) : Option OpCtl :=
  let fmt := c % 16
  let bl16 := c / 16 % 2 == 1
  let scen := c / 32 % 2 == 1
  let sparse := c / 64 % 4
  match fmtClass fmt with
  | none => none
  | some (b, k) =>
    if sparse == 3 || (b == 4 && !scen) || (16 ≤ b && (scen || bl16)) then none
    else some { fmt := fmt, bits := b, k := k, scen := scen, blen := if scen && bl16 then 16 else 32, sparse := sparse, spoff := c / 256 % 256 }

/-- Values a row or column stores (R219): K when sparse, K' when dense. -/
def OpCtl.stored (c : OpCtl) (k' : Nat) : Nat := if c.sparse != 0 then c.k else k'

/-- Bytes of one stored row or column, and scale bytes of it. -/
def OpCtl.rowBytes (c : OpCtl) (k' : Nat) : Nat := c.stored k' * c.bits / 8
def OpCtl.scaleBytes (c : OpCtl) (k' : Nat) : Nat := if c.scen then c.stored k' / c.blen else 0

/-- Bytes of an operand's sparsity metadata (R219). -/
def OpCtl.metaBytes (c : OpCtl) (k' : Nat) : Nat := if c.sparse != 0 then 256 * k' / 8 else 0

/-- Elements of stored bytes, in their order (R219). -/
def unpackEls (bits : Nat) (bs : List Nat) : List Nat :=
  match bits with
  | 4 => bs.flatMap (fun b => [b % 16, b / 16])
  | 8 => bs
  | n =>
    let w := n / 8
    (List.range (bs.length / w)).map (fun i => ((bs.drop (i * w)).take w).foldr (fun b acc => b + 256 * acc) 0)

/-! ### 4-bit codes (R93) -/

/-- Magnitudes of a code type by index, in eighths. -/
def codeMags (type : Nat) : List Nat :=
  match type with
  | 0 => [0, 8, 16, 24, 32, 40, 48, 56]
  | 1 => [0, 4, 8, 12, 16, 24, 32, 48]
  | 2 => [0, 1, 2, 4, 8, 16, 32, 64]
  | _ => [0, 8, 16, 24, 32, 48, 64, 96]

/-- Sign and magnitude index of a code; the reserved codes read as their substitutes. -/
def codeParts (type code : Nat) : Bool × Nat :=
  if type = 0 then (if code < 8 then (false, code) else (true, min 7 (16 - code)))
  else if code = 8 then (type == 1, 0)
  else (decide (8 ≤ code), code % 8)

/-- Exponent of a scale byte; 63 reads as 62. -/
def scaleExp (b : Nat) : Nat := min 62 (b % 64)

/-- A finite value times the scale of an exponent; E = 0 makes it a zero of its sign. -/
def scaled (e : Nat) : EVal → EVal
  | .nan => .nan
  | .inf s => .inf s
  | .fin s n d => if e = 0 then .fin s 0 1 else let (n', d') := scaleFrac n d ((e : Int) - 32); .fin s n' d'

/-- The value of a code under a scale byte. -/
def codeValue (sb code : Nat) : EVal :=
  let (s, m) := codeParts (sb / 64) code
  scaled (scaleExp sb) (.fin s ((codeMags (sb / 64)).getD m 0) 8)

/-! ### Elements of an operand -/

/-- The value of a stored element of a row or column: its codes, its scale bytes. -/
def OpCtl.value (c : OpCtl) (row scales : List Nat) (i : Nat) : EVal :=
  let x := row.getD i 0
  if c.bits == 4 then codeValue (scales.getD (i / c.blen) 0) x
  else
    let v := valueOf ((Ty.ofCode c.fmt).getD .f32) false x
    if c.scen then scaled (scaleExp (scales.getD (i / c.blen) 0)) v else v

/-- The element at a logical position, absent where the sparsity pattern says so (R219): spm gives the metadata nibble of a
group of four. -/
def OpCtl.at' (c : OpCtl) (row scales : List Nat) (spm : Nat → Nat) (p : Nat) : Option EVal :=
  if c.sparse = 0 then some (c.value row scales p)
  else
    let q := p / 4
    let m := spm q
    if p % 4 = m % 4 then some (c.value row scales (2 * q))
    else if p % 4 = m / 4 % 4 then some (c.value row scales (2 * q + 1))
    else none

/-! ### Accumulation (R97-R99) -/

/-- The exact sum of products; with none, +0. -/
def sumProds (mode : Mode) : List EVal → EVal
  | [] => .fin false 0 1
  | x :: xs => xs.foldl (EVal.add mode) x

/-- A value that is not finite. -/
def EVal.special : EVal → Bool
  | .nan => true
  | .inf _ => true
  | .fin _ _ _ => false

/-- Floor of log2 of a finite non-zero magnitude. -/
def EVal.expo : EVal → Option Int
  | .fin _ n d => if n = 0 then none else some (log2Frac n d)
  | .nan => none
  | .inf _ => none

/-- A signed multiple of 2^k as an exact value; a zero takes the given sign. -/
def multPow (x : Int) (k : Int) (zneg : Bool) : EVal :=
  if x = 0 then .fin zneg 0 1 else let (n, d) := scaleFrac x.natAbs 1 k; .fin (decide (x < 0)) n d

/-- The aligned sum of a 16-bit group (R98), as what is added to the accumulator. -/
def alignedSum (mode : Mode) (ps : List EVal) : EVal :=
  if ps.any EVal.special then sumProds mode ps
  else
    match ps.filterMap EVal.expo with
    | [] => .fin false 0 1
    | e :: es =>
      let emax := es.foldl max e
      let parts := ps.filterMap (fun p => match p with
        | .fin s n d =>
          let (n', d') := scaleFrac n d (40 - emax)
          some ((if s then -((n' / d' : Nat) : Int) else ((n' / d' : Nat) : Int)), n' % d' != 0)
        | .nan => none
        | .inf _ => none)
      let sum := parts.foldl (fun (a : Int) x => a + x.1) 0
      let lost := parts.any (fun x => x.2)
      let v := multPow sum (emax - 40) (mode == .rdn)
      if lost then EVal.add mode v (multPow (if sum < 0 then -1 else 1) (emax - 42) false) else v

/-- One group of products into an accumulator element (R97): its new bits and the row's generator after it. -/
def accGroup (bits : Nat) (mode : Mode) (ps : List EVal) (acc : Word) (g : Word) : Word × Word :=
  let into (v : EVal) (acc g : Word) : Word × Word :=
    let (r, g') := roundF .f32 mode false false (EVal.add mode (valueOf .f32 false acc.toNat) v) g
    (BitVec.ofNat 32 r, g')
  match bits with
  | 32 => ps.foldl (fun (acc, g) p =>
      let (r, g') := roundF .f32 mode false false p g
      into (valueOf .f32 false r) acc g') (acc, g)
  | 16 => into (alignedSum mode ps) acc g
  | _ => into (sumProds mode ps) acc g

/-- Logical positions of a group (R97, R221). -/
def groupSpan (ca cb : OpCtl) : Nat :=
  if ca.bits = 32 then 1
  else if ca.bits = 16 then 8
  else min (if ca.sparse != 0 then 2 * ca.blen else ca.blen) (if cb.sparse != 0 then 2 * cb.blen else cb.blen)

/-- Products of a group: those whose two elements are present. R392 rules sums and no product: the sign of a zero product is the exclusive or of its
factors' signs, of integer elements too, so that -3 times 0 is -0 (DESIGN CHOICE, log 64). -/
def groupProds (rowAt colAt : Nat → Option EVal) (first n : Nat) : List EVal :=
  (List.range n).filterMap (fun i =>
    match rowAt (first + i), colAt (first + i) with
    | some x, some y => some (EVal.mul x y)
    | _, _ => none)

/-- One row of the tile: groups ascending, and within a group the columns ascending (R99). -/
def mmaRow (bits : Nat) (mode : Mode) (groups span : Nat) (rowAt : Nat → Option EVal) (cols : List (Nat → Option EVal)) (accs : List Word)
    (g : Word) : List Word × Word :=
  (List.range groups).foldl (fun (accs, g) i =>
    (accs.zip cols).foldl (fun (out, g) (acc, colAt) =>
      let (a, g') := accGroup bits mode (groupProds rowAt colAt (i * span) span) acc g
      (out ++ [a], g')) ([], g)) (accs, g)

/-! ### The quantiser (R94-R96) -/

/-- Largest magnitude of a code type, in eighths. -/
def codeMax (type : Nat) : Nat := (codeMags type).getD 7 0

/-- Ceiling of log2 of a positive fraction. -/
def ceilLog2 (n d : Nat) : Int :=
  let e := log2Frac n d
  let (n', d') := scaleFrac n d (-e)
  if n' = d' then e else e + 1

/-- The exponent chosen for a block (R94). -/
def blockExp (type : Nat) (xs : List EVal) : Nat :=
  let big := xs.foldl (fun (a : EVal) x => match x with
    | .fin _ n d => if a.lt (.fin false n d) then .fin false n d else a
    | .nan => a
    | .inf _ => a) (.fin false 0 1)
  let hasInf := xs.any (fun x => match x with | .inf _ => true | _ => false)
  match big with
  | .fin _ n d =>
    if n = 0 then (if hasInf then 62 else 0)
    else
      let e := 32 + ceilLog2 (n * 8) (d * codeMax type)
      if e < 1 then 1 else if 62 < e then 62 else e.toNat
  | .nan => 0
  | .inf _ => 62

/-- The code of a sign and a magnitude index: a zero magnitude is 0000 (R95). -/
def codeOf (type : Nat) (neg : Bool) (m : Nat) : Nat :=
  if m = 0 then 0 else if neg then (if type = 0 then 16 - m else 8 + m) else m

/-- The index of the grid point that a magnitude rounds to: n / d in units of the block's scale over eight (R95). -/
def gridIndex (type : Nat) (mode : Mode) (neg : Bool) (n d : Nat) (u : Word) : Nat :=
  let ms := codeMags type
  let lo := (List.range 8).foldl (fun acc i => if ms.getD i 0 * d ≤ n then i else acc) 0
  if 7 ≤ lo then 7
  else
    let a := ms.getD lo 0
    let b := ms.getD (lo + 1) 0
    pickMag mode neg false lo (n - a * d) ((b - a) * d) u

/-- The code of one element (R95). -/
def quantEl (type e : Nat) (mode : Mode) (x : EVal) (u : Word) : Nat :=
  match x with
  | .nan => 0
  | .inf s => codeOf type s 7
  | .fin s n d =>
    if n = 0 || e = 0 then 0
    else
      let (n', d') := scaleFrac (n * 8) d (32 - (e : Int))
      codeOf type s (gridIndex type mode s n' d' u)

/-- Exact error of a block's codes over its finite elements (R96). -/
def blockErr (sb : Nat) (xs : List EVal) (codes : List Nat) : EVal :=
  (xs.zip codes).foldl (fun acc (x, c) =>
    match x with
    | .fin _ _ _ => EVal.add .rne acc (EVal.add .rne x (codeValue sb c).neg).abs
    | .nan => acc
    | .inf _ => acc) (.fin false 0 1)

/-- One block under one type: its scale byte, its codes, its error. -/
def quantType (mode : Mode) (xs : List EVal) (us : List Word) (type : Nat) : Nat × List Nat × EVal :=
  let e := blockExp type xs
  let codes := (xs.zip us).map (fun (x, u) => quantEl type e mode x u)
  let sb := type * 64 + e
  (sb, codes, blockErr sb xs codes)

/-- One block in fixed or best-of mode (R96): its scale byte and codes. Of equal errors the lower type wins. -/
def quantBlock (best : Bool) (type : Nat) (mode : Mode) (xs : List EVal) (us : List Word) : Nat × List Nat :=
  if best then
    let first := quantType mode xs us 0
    let r := [1, 2, 3].foldl (fun acc t => let x := quantType mode xs us t; if x.2.2.lt acc.2.2 then x else acc) first
    (r.1, r.2.1)
  else
    let r := quantType mode xs us type
    (r.1, r.2.1)

end Sys2Proof.Machine
end

