-- ==== Sys2Proof/Machine/Matrix.lean ====
section
/-! DEFINITION. The matrix engine and the converter, 0x88-0x93 (R206-R227): issue, start, effect and completion of their
operations, and the commands pushed to q0 (R215). -/

namespace Sys2Proof.Machine

/-! ### The selector and the inflection record (R216, R217) -/

/-- Fields of a selector. -/
def selBuf (x : Nat) : Nat := x % 8
def selTile (x : Nat) : Nat := x / 16 % 2
def selArr (x : Nat) : Bool := x / 256 % 2 == 1

/-- Whether a selector's reserved bits are zero. -/
def selOk (x : Nat) : Bool := Nat.land x (2 ^ 64 - 1 - 0x117) == 0

/-- A legal record (R218). k' is the logical K of R219. -/
structure Inflection where
  rnd    : Mode
  bctl   : Nat
  ca     : OpCtl
  cb     : OpCtl
  ascale : Nat
  bscale : Nat
  k'     : Nat
  deriving DecidableEq, Repr

/-- Reads a record: none where it is illegal. -/
def Inflection.of (r : List Byte) : Option Inflection :=
  match Mode.ofCode (recBits r 162 160), OpCtl.of (recBits r 143 128), OpCtl.of (recBits r 159 144) with
  | some m, some ca, some cb =>
    let k' := if ca.sparse != 0 || cb.sparse != 0 then 2 * ca.k else ca.k
    if recBits r 255 163 != 0 || recBits r 127 121 != 0 || recBits r 63 57 != 0 || ca.bits != cb.bits
        || 16384 < ca.spoff * 64 + ca.metaBytes k' || 16384 < cb.spoff * 64 + cb.metaBytes k' then none
    else some { rnd := m, bctl := recBits r 159 144, ca := ca, cb := cb, ascale := recBits r 56 0, bscale := recBits r 120 64, k' := k' }
  | _, _, _ => none

/-- Whether B is double (R220). -/
def Inflection.double (x : Inflection) : Bool := x.cb.sparse == 0 && x.ca.sparse != 0

/-- The operand control that is sparse, if one is. -/
def Inflection.spCtl (x : Inflection) : Option OpCtl := if x.ca.sparse != 0 then some x.ca else if x.cb.sparse != 0 then some x.cb else none

/-! ### Issue -/

/-- Key of the issuing team's group. -/
def Issue.gkey (iss : Issue) : Nat := groupKey iss.team.launch iss.team.group

/-- What every matrix and converter instruction does first (R132, R208, R338, R339, R136). -/
def matrixOpen (s : State) (iss : Issue) (ok : Bool) (k : Eff) : Eff :=
  let t := iss.team
  if t.core % 2 == 1 then .stop 19 0 0 0
  else if (s.pairSt (corePair t.core)).resetAt.isSome then .wait .none s
  else if (match s.group? t.launch t.group with | some g => g.lost | none => false) then
    .moved (takeFault (s.updGroup t.launch t.group (fun g => { g with lost := false })) t.id iss.entry 21 0 0 0)
  else if !ok then .stop 6 0 0 0
  else k

/-- The same for an instruction that acts once, in the lowest active lane: with none it does nothing. -/
def matrixGate (s : State) (iss : Issue) (ok : Bool) (k : Nat → Eff) : Eff :=
  match iss.low with
  | none => .done s
  | some l => matrixOpen s iss ok (k l)

/-- Submits an operation (R212): ownership, the submission slot, the flag, then the pages of its memory operands; nothing of it is
performed before all of these are in hand. names are the resources it names; more is what its submission changes in the pair. -/
def submit (s : State) (iss : Issue) (fb sq : Bool) (o : EngineOp) (names : List Nat) (srcs dsts : List Range) (more : PairSt → PairSt) : Eff :=
  let t := iss.team
  let k := corePair t.core
  let p := s.pairSt k
  let f := selFlag iss fb
  if p.heldByOther iss.gkey names || 8 ≤ (p.ops.filter (fun x => x.team == t.id && !x.started)).length || !flagRoom iss f
      || s.acquiring t then .wait .none s
  else
    match probeAll t 11 srcs s with
    | (.bad c v, _) => .stop c 0 v 0
    | (.miss v, s1) =>
      match probeAll t 11 dsts s1 with
      | (.bad c w, _) => .stop c 0 w 0
      | (_, s2) => .wait (.page v 0) (s2.pageMiss iss.ctx v 0)
    | (.ok ss, s1) =>
      match probeAll t 11 dsts s1 with
      | (.bad c w, _) => .stop c 0 w 0
      | (.miss w, s2) => .wait (.page w 0) (s2.pageMiss iss.ctx w 4)
      | (.ok ds, s2) =>
        if (srcs ++ dsts).any (fun r => s.unsettled t r.va r.n) then .wait .none s
        else
          let (id, s3) := s2.fresh
          let op : EngineOp := { o with
            id := id, team := t.id, entry := iss.entry, pc := iss.frag.pc, group := iss.gkey, pair := k, flag := f, sq := sq, srcs := o.srcs ++ ss, dsts := ds
            ty := bitsN iss.cl.mood.toNat 26 23, mood := iss.cl.mood, lane := 0, inst := id, tag := s.phaseOf t }
          let s4 := s3.updPair k (fun p => let q := more (names.foldl (PairSt.take iss.gkey) p); { q with ops := q.ops ++ [op] })
          .done ((s4.ownSegs id ds).raiseFlag t.id f)

/-- An operand of the issuing group's core-scratchpad window (R219), or the cause of the fault. -/
def scratchSeg (s : State) (t : Team) (va n : Nat) : Except Nat Seg :=
  if 2 ^ 57 ≤ va then .error 4
  else if !isWindow va || (va - winBase 0) / 2 ^ 32 != 1 then .error 11
  else
    match locateWindow s t 0 va, locateWindow s t 0 (va + n - 1) with
    | .ok l, .ok _ => .ok { loc := l, len := n }
    | _, _ => .error 10

/-- Reads the inflection record at an address (R217, R219): a fault (cause, address), a wait, or the record. -/
inductive RecRead where
  | bad (cause va : Nat)
  | waits
  | ok (x : Inflection) (bytes : List Byte)
  deriving DecidableEq, Repr
def readRecord (s : State) (iss : Issue) (va : Nat) : RecRead :=
  if 2 ^ 57 ≤ va then .bad 4 va
  else if va % 32 != 0 then .bad 15 va
  else
    match scratchSeg s iss.team va 32 with
    | .error c => .bad c va
    | .ok g =>
      if s.unsettled iss.team va 32 || (NMap.look s.mem.owned g.loc.key).isSome then .waits
      else
        let r := (s.store g.loc).read g.loc.addr 32
        match Inflection.of r with
        | none => .bad 20 va
        | some x => .ok x r

/-- Whether an address operand is tagged: nothing is done then, and a consumption is recorded (R351, R352). -/
def anyTag (iss : Issue) (l : Nat) (rs : List Reg) : Bool := rs.any (teamTag iss true l)

/-- BLD (R220). -/
def execBld (fb sq : Bool) (d a b : Reg) (s : State) : Host.Outcome State Fault Refusal :=
  run (.bld fb sq d a b) s (fun iss s => matrixGate s iss true (fun l =>
    let sel := teamReg iss false l d
    if anyTag iss l [a, b] then .done (s.consumeBy iss.team)
    else if !selOk sel then .stop 20 0 sel 0
    else if (s.pairSt (corePair iss.team.core)).heldByOther iss.gkey [2 + selBuf sel] then .wait .none s
    else
      match readRecord s iss (teamReg iss true l a) with
      | .bad c v => .stop c 0 v 0
      | .waits => .wait .none s
      | .ok x r =>
        let src := teamReg iss true l b
        let n := selBuf sel
        if x.double && n % 2 == 1 then .stop 20 0 sel 0
        else if src % 256 != 0 then .stop 15 0 src 0
        else if x.cb.scen && x.bscale % 64 != 0 then .stop 15 0 x.bscale 0
        else
          let bufs := if x.double then [n, n + 1] else [n]
          let tag (p : PairSt) : PairSt := bufs.foldl (fun p i =>
            { p with bufs := NMap.put p.bufs i { p.buf i with valid := true, double := x.double, bctl := x.bctl } }) p
          submit s iss fb sq { EngineOp.blank with op := 0x88, d := BitVec.ofNat 64 sel, recd := r, wr := bufs.map (fun i => 2 + i) } (bufs.map (fun i => 2 + i))
            [{ va := src, n := 256 * x.cb.rowBytes x.k', need := .read }, { va := x.bscale, n := 256 * x.cb.scaleBytes x.k', need := .read }] [] tag))

/-- MMA and MMAS at issue (R221). -/
def mmaIssue (s : State) (iss : Issue) (fb sq sparse : Bool) (d a b : Reg) (l : Nat) : Eff :=
  let sel := teamReg iss false l d
  let n := selBuf sel
  let p := s.pairSt (corePair iss.team.core)
  if anyTag iss l [a, b] then .done (s.consumeBy iss.team)
  else if !selOk sel then .stop 20 0 sel 0
  else if p.heldByOther iss.gkey [2 + n, selTile sel] then .wait .none s
  else
    match readRecord s iss (teamReg iss true l a) with
    | .bad c v => .stop c 0 v 0
    | .waits => .wait .none s
    | .ok x r =>
      let bufs := if x.double then [n, n + 1] else [n]
      let legal := if sparse then (x.ca.sparse != 0) != (x.cb.sparse != 0) else x.ca.sparse == 0 && x.cb.sparse == 0
      let tagged (i : Nat) : Bool := p.owner (2 + i) == some iss.gkey && (p.buf i).valid && (p.buf i).bctl == x.bctl && (p.buf i).double == x.double
      if !legal then .stop 20 0 (teamReg iss true l a) 0
      else if (x.double && n % 2 == 1) || !bufs.all tagged then .stop 20 0 sel 0
      else
        let ta := teamReg iss true l b
        if 2 ^ 57 ≤ ta then .stop 4 0 ta 0
        else if ta % 256 != 0 then .stop 15 0 ta 0
        else if x.ca.scen && x.ascale % 64 != 0 then .stop 15 0 x.ascale 0
        else
          match scratchSeg s iss.team ta (256 * x.ca.rowBytes x.k'), scratchSeg s iss.team x.ascale (256 * max 1 (x.ca.scaleBytes x.k')) with
          | .error c, _ => .stop c 0 ta 0
          | .ok ga, gs =>
            let scales : Except Nat (List Seg) := if x.ca.scen then (match gs with | .ok g => .ok [g] | .error c => .error c) else .ok []
            match scales with
            | .error c => .stop c 0 x.ascale 0
            | .ok sc =>
              if s.unsettled iss.team ta (256 * x.ca.rowBytes x.k') || (x.ca.scen && s.unsettled iss.team x.ascale (256 * x.ca.scaleBytes x.k')) then .wait .none s
              else
                let mem := match x.spCtl with | some c => if c.sparse == 1 then [10] else [11] | none => []
                submit s iss fb sq { EngineOp.blank with
                    op := if sparse then 0x8A else 0x89, d := BitVec.ofNat 64 sel, recd := r, srcs := ga :: sc
                    rd := bufs.map (fun i => 2 + i) ++ mem, wr := [selTile sel] } (bufs.map (fun i => 2 + i) ++ mem ++ [selTile sel]) [] [] id

/-- MMA (R221). -/
def execMma (fb sq : Bool) (d a b : Reg) (s : State) : Host.Outcome State Fault Refusal :=
  run (.mma fb sq d a b) s (fun iss s => matrixGate s iss true (mmaIssue s iss fb sq false d a b))

/-- MMAS (R221). -/
def execMmas (fb sq : Bool) (d a b : Reg) (s : State) : Host.Outcome State Fault Refusal :=
  run (.mmas fb sq d a b) s (fun iss s => matrixGate s iss true (mmaIssue s iss fb sq true d a b))

/-- ACCZ (R222). -/
def execAccz (fb sq : Bool) (d : Reg) (s : State) : Host.Outcome State Fault Refusal :=
  run (.accz fb sq d) s (fun iss s => matrixGate s iss true (fun l =>
    let sel := teamReg iss false l d
    if !selOk sel then .stop 20 0 sel 0
    else submit s iss fb sq { EngineOp.blank with op := 0x8B, d := BitVec.ofNat 64 sel, wr := [selTile sel] } [selTile sel] [] [] id))

/-- The types of an accumulator transfer, and the bytes of an element in memory (R222). -/
def accTypes (t : Ty) : Bool := t == .f32 || t == .b32 || t == .bf16x2 || t == .f16x2
def accBytes (t : Ty) : Nat := t.ew / 8

/-- Rows of a strided operand: first address, pitch, number, bytes. -/
def rowRanges (a pitch rows n : Nat) (need : Need) : List Range := (List.range rows).map (fun i => { va := a + i * pitch, n := n, need := need })

/-- ACCLD and ACCST at issue (R222). -/
def accMove (s : State) (iss : Issue) (fb sq load : Bool) (d a : Reg) (b : Src) (l : Nat) : Eff :=
  let sel := teamReg iss false l d
  let va := teamReg iss true l a
  let pitch := teamSrc iss false l b
  let n := 256 * accBytes iss.ty
  if anyTag iss l [a] then .done (s.consumeBy iss.team)
  else if !selOk sel then .stop 20 0 sel 0
  else if pitch % 256 != 0 || pitch < n then .stop 20 0 pitch 0
  else if 2 ^ 57 ≤ va then .stop 4 0 va 0
  else if va % 256 != 0 then .stop 15 0 va 0
  else
    let tile := selTile sel
    let o : EngineOp := { EngineOp.blank with op := if load then 0x8C else 0x8D, d := BitVec.ofNat 64 sel, rd := if load then [] else [tile], wr := if load then [tile] else [] }
    let rows := rowRanges va pitch 256 n (if load then .read else .write)
    if load then submit s iss fb sq o [tile] rows [] id else submit s iss fb sq o [tile] [] rows id

/-- ACCLD (R222). -/
def execAccld (fb sq : Bool) (d a : Reg) (b : Src) (s : State) : Host.Outcome State Fault Refusal :=
  run (.accld fb sq d a b) s (fun iss s => matrixGate s iss (accTypes iss.ty) (accMove s iss fb sq true d a b))

/-- ACCST (R222). -/
def execAccst (fb sq : Bool) (d a : Reg) (b : Src) (s : State) : Host.Outcome State Fault Refusal :=
  run (.accst fb sq d a b) s (fun iss s => matrixGate s iss (accTypes iss.ty) (accMove s iss fb sq false d a b))

/-- SPMLD (R224). -/
def execSpmld (fb sq : Bool) (d a : Reg) (b : Src) (s : State) : Host.Outcome State Fault Refusal :=
  run (.spmld fb sq d a b) s (fun iss s => matrixGate s iss true (fun l =>
    let off := teamReg iss false l d
    let n := teamSrc iss false l b
    if anyTag iss l [a] then .done (s.consumeBy iss.team)
    else if off % 64 != 0 || n % 64 != 0 || 16384 < off + n then .stop 20 0 off 0
    else submit s iss fb sq { EngineOp.blank with op := 0x90, d := BitVec.ofNat 64 off, wr := [10] } [10]
      [{ va := teamReg iss true l a, n := n, need := .read }] [] id))

/-! ### The converter (R225, R226) -/

/-- Fields of a converter's control word. -/
def cvPitch (x : Nat) : Nat := x / 2 ^ 12 % 2 ^ 20 * 16
def cvRows (x : Nat) : Nat := x / 16 % 256 + 1
def cvBlen (x : Nat) : Nat := if x / 8 % 2 == 1 then 16 else 32
def cvTypes (t : Ty) : Bool := t == .f32 || t == .bf16x2 || t == .f16x2

/-- QNT and DQNT at issue. -/
def convert (s : State) (iss : Issue) (fb sq quant : Bool) (k : Nat) (a : Reg) (b : Src) (l : Nat) : Eff :=
  let ctl := teamSrc iss false l b % 2 ^ 32
  let n := 256 * accBytes iss.ty
  let pitch := cvPitch ctl
  let rows := cvRows ctl
  let nsc := 256 / cvBlen ctl
  let bad := if quant then ctl / 4 % 2 == 1 && ctl % 4 != 0 else ctl % 8 != 0
  if anyTag iss l [a] || NSet.has iss.team.stag k || NSet.has iss.team.stag (k + 1) then .done (s.consumeBy iss.team)
  else if bad || pitch < n then .stop 20 0 ctl 0
  else
    let va := teamReg iss true l a
    let s0 := (iss.team.s k).toNat
    let s1 := (iss.team.s (k + 1)).toNat
    let gens : NMap Word := if iss.mode == .rst then (List.range iss.team.n).map (fun i => (i, iss.team.g i)) else []
    let o : EngineOp := { EngineOp.blank with op := if quant then 0x91 else 0x92, b := BitVec.ofNat 64 ctl, wr := [12], gens := gens }
    if quant then
      submit s iss fb sq o [] (rowRanges va pitch rows n .read)
        ((List.range rows).flatMap (fun i => [{ va := s0 + 128 * i, n := 128, need := .write }, { va := s1 + nsc * i, n := nsc, need := .write }])) id
    else
      submit s iss fb sq o [] ((List.range rows).flatMap (fun i => [{ va := va + 128 * i, n := 128, need := .read }, { va := s1 + nsc * i, n := nsc, need := .read }]))
        (rowRanges s0 pitch rows n .write) id

/-- QNT (R225). -/
def execQnt (fb sq : Bool) (d a : Reg) (b : Src) (s : State) : Host.Outcome State Fault Refusal :=
  run (.qnt fb sq d a b) s (fun iss s => matrixGate s iss (cvTypes iss.ty) (fun l =>
    match d with
    | .s k => convert s iss fb sq true k.val a b l
    | .v _ => .done s
    | .q _ => .done s))

/-- DQNT (R226). -/
def execDqnt (fb sq : Bool) (d a : Reg) (b : Src) (s : State) : Host.Outcome State Fault Refusal :=
  run (.dqnt fb sq d a b) s (fun iss s => matrixGate s iss (cvTypes iss.ty) (fun l =>
    match d with
    | .s k => convert s iss fb sq false k.val a b l
    | .v _ => .done s
    | .q _ => .done s))

/-! ### Accumulator elements (R223) -/

/-- Key of an accumulator element: tile, row, column. -/
def accKey (t i j : Nat) : Nat := t * 65536 + i * 256 + j

/-- ACCRD and ACCWR: the checks and waits they share, then the lanes with their elements. -/
def accLanes (s : State) (iss : Issue) (read : Bool) (a : Reg) (k : List (Nat × Nat × Bool) → Eff) : Eff :=
  let lanes := lanesOf (if read then iss.act else iss.val) iss.team.n
  let pos := lanes.map (fun l => (l, teamReg iss false l a % 2 ^ 32, teamTag iss false l a))
  match pos.find? (fun x => !x.2.2 && 2 ^ 17 ≤ x.2.1) with
  | some x => .stop 20 x.1 x.2.1 0
  | none =>
    let tiles := (pos.map (fun x => x.2.1 / 65536 % 2)).foldl NSet.add ([] : NSet)
    let p := s.pairSt (corePair iss.team.core)
    if p.ops.any (fun o => tiles.any (fun t => o.wr.contains t || (!read && o.rd.contains t))) || p.heldByOther iss.gkey tiles then .wait .none s
    else k (pos.map (fun x => (x.1, x.2.1 % 2 ^ 17, x.2.2)))

/-- The pair with the tiles of some elements taken. -/
def takeTiles (s : State) (iss : Issue) (pos : List (Nat × Nat × Bool)) : State :=
  s.updPair (corePair iss.team.core) (fun p => pos.foldl (fun p x => PairSt.take iss.gkey p (x.2.1 / 65536)) p)

/-- ACCRD (R223, R352). -/
def execAccrd (d a : Reg) (s : State) : Host.Outcome State Fault Refusal :=
  run (.accrd d a) s (fun iss s => if iss.act == 0 then .done s else matrixOpen s iss (iss.ty == .f32 || iss.ty == .b32) (
    accLanes s iss true a (fun pos =>
      let p := s.pairSt (corePair iss.team.core)
      let outs := pos.map (fun x =>
        let bad := x.2.2 || NSet.has p.tileTag x.2.1
        ({ lane := x.1, val := if bad then poisonOf iss.ty else (NMap.getD p.tile x.2.1 0).toNat, tag := bad } : LaneOut))
      let s1 := writeOut (takeTiles s iss pos) iss 32 id d outs
      .done (if outs.any (fun o => o.tag) then s1.consumeBy iss.team else s1))))
where
  /-- Poison(t) (R133) in one register. -/
  poisonOf (t : Ty) : Nat := poisonWord t 0

/-- ACCWR (R223, R352): the higher lane's value stands. -/
def execAccwr (d a : Reg) (s : State) : Host.Outcome State Fault Refusal :=
  run (.accwr d a) s (fun iss s => matrixGate s iss (iss.ty == .f32 || iss.ty == .b32) (fun _ =>
    accLanes s iss false a (fun pos =>
      let live := pos.filter (fun x => !x.2.2)
      let tagOf (l : Nat) : Bool := teamTag iss false l d
      let s1 := (takeTiles s iss live).updPair (corePair iss.team.core) (fun p => live.foldl (fun p x =>
        { p with tile := NMap.set 0 p.tile x.2.1 (BitVec.ofNat 32 (teamReg iss false x.1 d))
                 tileTag := if tagOf x.1 then NSet.add p.tileTag x.2.1 else NSet.rem p.tileTag x.2.1 }) p)
      .done (if pos.any (fun x => x.2.2) || live.any (fun x => tagOf x.1) then s1.consumeBy iss.team else s1))))

/-! ### The state word (R227) -/

/-- MXQRY's word for a group. -/
def PairSt.word (p : PairSt) (g : Nat) : Nat :=
  let busy (n : Nat) : Nat := if p.ops.any (fun o => o.started && o.laneNo == n) then 1 else 0
  let valid := ((List.range 8).map (fun i => if (p.buf i).valid then 2 ^ i else 0)).sum
  let waiting := (p.ops.filter (fun o => !o.started)).length
  busy 0 * 2 ^ 63 + busy 1 * 2 ^ 62 + valid * 2 ^ 48 + (if p.owner 1 == some g then 2 ^ 47 else 0) + (if p.owner 0 == some g then 2 ^ 46 else 0)
    + p.spq.length * 2 ^ 40 + waiting * 2 ^ 32 + p.mmaCount % 2 ^ 32

/-- MXQRY (R227). -/
def execMxqry (d : Reg) (s : State) : Host.Outcome State Fault Refusal :=
  run (.mxqry d) s (fun iss s =>
    match iss.low with
    | none => .done s
    | some _ => .done (writeWide s iss d ((s.pairSt (corePair iss.team.core)).word iss.gkey) false))

/-! ### Start (R212) -/

/-- Whether a submitted operation may start on its pair. -/
def PairSt.mayStart (p : PairSt) (o : EngineOp) : Bool :=
  let before := p.ops.takeWhile (fun x => x.id != o.id)
  !o.started && o.op != 0x98 && p.resetAt.isNone
    && !p.ops.any (fun x => x.started && x.laneNo == o.laneNo)
    && before.all (fun x => x.laneNo != o.laneNo || x.started)
    && !before.any (fun x => x.conflicts o)

/-- ENGINE_OP_START (R212). -/
def execEngineOpStart (op : Nat) (s : State) : Host.Outcome State Fault Refusal :=
  match s.engineOp? op with
  | none => .next s
  | some o => if (s.pairSt o.pair).mayStart o then .next (s.updOp { o with started := true, since := s.clk }) else .next s

/-! ### Effects -/

/-- A tile's elements and marks replaced. -/
def PairSt.setTile (p : PairSt) (t : Nat) (els : List Word) (tags : NSet) : PairSt :=
  let new : NMap Word := (els.zipIdx.filter (fun e => e.1 != 0)).map (fun e => (t * 65536 + e.2, e.1))
  let keep (k : Nat) : Bool := k / 65536 != t
  { p with tile := if t = 0 then new ++ p.tile.filter (fun e => keep e.1) else p.tile.filter (fun e => keep e.1) ++ new
           tileTag := if t = 0 then tags ++ p.tileTag.filter keep else p.tileTag.filter keep ++ tags }

/-- Row i of a tile. -/
def PairSt.tileRow (p : PairSt) (t i : Nat) : List Word := (List.range 256).map (fun j => NMap.getD p.tile (accKey t i j) 0)
/-- Generator of a row (R99). -/
def PairSt.rowG (p : PairSt) (t i : Nat) : Word := NMap.getD p.rowGen (t * 256 + i) (genInit i)

/-- Numbers of some bytes read. -/
def valsOf (bs : List (Byte × Bool)) : List Nat := bs.map (fun b => b.1.toNat)

/-- The effect of a BLD on the pair: the buffers' contents from the bytes read. -/
def bldEffect (p : PairSt) (x : Inflection) (n : Nat) (bs : List (Byte × Bool)) : PairSt :=
  let rb := x.cb.rowBytes x.k'
  let sb := x.cb.scaleBytes x.k'
  let stored := x.cb.stored x.k'
  let col (j : Nat) : List Nat := unpackEls x.cb.bits (valsOf ((bs.drop (j * rb)).take rb))
  let scl (j : Nat) : List Nat := valsOf ((bs.drop (256 * rb + j * sb)).take sb)
  let cols := (List.range 256).map col
  let scls := (List.range 256).map scl
  let bad := (List.range 256).filter (fun j => ((bs.drop (j * rb)).take rb).any (fun b => b.2) || ((bs.drop (256 * rb + j * sb)).take sb).any (fun b => b.2))
  let part (first count sfirst scount : Nat) (b : BBuf) : BBuf := { b with
    cols := 256, depth := count, tags := bad
    elems := (List.range count).flatMap (fun k => (cols.zipIdx).filterMap (fun (c, j) => let v := c.getD (first + k) 0; if v = 0 then none else some (k * 256 + j, v)))
    scales := (List.range scount).flatMap (fun k => (scls.zipIdx).filterMap (fun (c, j) => let v := c.getD (sfirst + k) 0; if v = 0 then none else some (k * 256 + j, v))) }
  if x.double then
    let k := stored / 2
    { p with bufs := NMap.put (NMap.put p.bufs n (part 0 k 0 (sb / 2) (p.buf n))) (n + 1) (part k k (sb / 2) (sb / 2) (p.buf (n + 1))) }
  else { p with bufs := NMap.put p.bufs n (part 0 stored 0 sb (p.buf n)) }

/-- Stored elements and scale bytes of a column of B in the buffers. -/
def bColumn (p : PairSt) (x : Inflection) (n j : Nat) : List Nat × List Nat :=
  let stored := x.cb.stored x.k'
  let sb := x.cb.scaleBytes x.k'
  let k := if x.double then stored / 2 else stored
  let h := if x.double then sb / 2 else sb
  let el (i : Nat) : Nat := if i < k then NMap.getD (p.buf n).elems (i * 256 + j) 0 else NMap.getD (p.buf (n + 1)).elems ((i - k) * 256 + j) 0
  let sc (i : Nat) : Nat := if i < h then NMap.getD (p.buf n).scales (i * 256 + j) 0 else NMap.getD (p.buf (n + 1)).scales ((i - h) * 256 + j) 0
  ((List.range stored).map el, (List.range sb).map sc)

/-- Metadata nibble of row or column i and group q (R219): from the side memory, or from the entries popped. -/
def spNibble (p : PairSt) (o : EngineOp) (c : OpCtl) (k' i q : Nat) : Nat :=
  if c.sparse = 1 then
    let b := (p.side.bytes.read (c.spoff * 64 + i * (k' / 8) + q / 2)).toNat
    if q % 2 = 0 then b % 16 else b / 16
  else
    let b := ((o.spm.getD q []).getD (i / 2) 0).toNat
    if i % 2 = 0 then b % 16 else b / 16

/-- The effect of an MMA or MMAS on the pair (R221, R97-R99, R351): whether an element was marked, and the pair. -/
def mmaEffect (p : PairSt) (o : EngineOp) (x : Inflection) (bs : List (Byte × Bool)) : Bool × PairSt :=
  let t := selTile o.d.toNat
  let n := selBuf o.d.toNat
  let rb := x.ca.rowBytes x.k'
  let sb := x.ca.scaleBytes x.k'
  let span := groupSpan x.ca x.cb
  let colFn (j : Nat) : Nat → Option EVal :=
    let (els, scs) := bColumn p x n j
    x.cb.at' els scs (fun q => spNibble p o x.cb x.k' j q)
  let cols := (List.range 256).map colFn
  let row (i : Nat) : List Word × Word :=
    let els := unpackEls x.ca.bits (valsOf ((bs.drop (i * rb)).take rb))
    let scs := valsOf ((bs.drop (256 * rb + i * sb)).take sb)
    mmaRow x.ca.bits x.rnd (x.k' / span) span (x.ca.at' els scs (fun q => spNibble p o x.ca x.k' i q)) cols (p.tileRow t i) (p.rowG t i)
  let rows := (List.range 256).map row
  let badRow (i : Nat) : Bool := ((bs.drop (i * rb)).take rb).any (fun b => b.2) || ((bs.drop (256 * rb + i * sb)).take sb).any (fun b => b.2)
  let badCol (j : Nat) : Bool := NSet.has (p.buf n).tags j || (x.double && NSet.has (p.buf (n + 1)).tags j)
  let tags := ((List.range 256).flatMap (fun i => (List.range 256).map (fun j => (i, j)))).filter (fun e =>
    badRow e.1 || badCol e.2 || NSet.has p.tileTag (accKey t e.1 e.2))
  let marked := (List.range 256).any badRow || (List.range 256).any badCol
  let gens := (rows.zipIdx).foldl (fun g (r, i) => NMap.put g (t * 256 + i) r.2) p.rowGen
  (marked, { p.setTile t (rows.flatMap (fun r => r.1)) (tags.map (fun e => accKey t e.1 e.2)) with rowGen := gens, mmaCount := (p.mmaCount + 1) % 2 ^ 32 })

/-- Whether an error was detected in one group of an MMA and again in both times that it was recomputed (R336): in which row of C. A group's elements
are taken to be those of one row, as its generator is (DESIGN CHOICE, log 44). -/
def State.groupError (s : State) : Option Nat × State :=
  if 3 ≤ s.upsets then let (i, s1) := { s with upsets := 0 }.pick 256; (some i, s1) else (none, s)

/-- A row of a tile becomes Poison(f32) (R133, R336). -/
def PairSt.poisonRow (p : PairSt) (t i : Nat) : PairSt :=
  (List.range 256).foldl (fun p j => { p with
    tile := NMap.set 0 p.tile (accKey t i j) (BitVec.ofNat 32 (poisonWord .f32 0)), tileTag := NSet.add p.tileTag (accKey t i j) }) p

/-- The effect of an ACCLD on the pair (R222). -/
def accldEffect (p : PairSt) (o : EngineOp) (bs : List (Byte × Bool)) : PairSt :=
  let ty := (Ty.ofCode o.ty).getD .f32
  let w := accBytes ty
  let els := (List.range 65536).map (fun k =>
    let x := leNat (((bs.drop (k * w)).take w).map (fun b => b.1))
    if w = 4 then BitVec.ofNat 32 x else BitVec.ofNat 32 (roundF .f32 .rne false false (valueOf ty false x) 0).1)
  let tags := (List.range 65536).filter (fun k => ((bs.drop (k * w)).take w).any (fun b => b.2))
  p.setTile (selTile o.d.toNat) els (tags.map (fun k => selTile o.d.toNat * 65536 + k))

/-- Rounding fields of the mood an operation was issued under. -/
def EngineOp.mode (o : EngineOp) : Mode := (Mode.ofCode (bitsN o.mood.toNat 22 20)).getD .rne
def EngineOp.sat (o : EngineOp) : Bool := o.mood.getLsbD 19
def EngineOp.ftz (o : EngineOp) : Bool := o.mood.getLsbD 18

/-- What an ACCST writes, in order, and the row generators after it (R222). -/
def accstOut (p : PairSt) (o : EngineOp) : List (Byte × Bool) × NMap Word :=
  let ty := (Ty.ofCode o.ty).getD .f32
  let t := selTile o.d.toNat
  let w := accBytes ty
  (List.range 256).foldl (fun (out, gens) i =>
    let (row, g) := ((p.tileRow t i).zipIdx).foldl (fun (bs, g) (x, j) =>
      let m := NSet.has p.tileTag (accKey t i j)
      let (v, g') := if w = 4 then (x.toNat, g) else roundF ty o.mode o.sat o.ftz (valueOf .f32 false x.toNat) g
      (bs ++ (leBytes w v).map (fun b => (b, m)), g')) (([] : List (Byte × Bool)), p.rowG t i)
    (out ++ row, if o.mode == .rst && w != 4 then NMap.put gens (t * 256 + i) g else gens)) (([] : List (Byte × Bool)), p.rowGen)

/-- One step of the generator of a lane among those an operation holds. -/
def drawGen (gens : NMap Word) (l : Nat) : Word × NMap Word :=
  let g := genStep (NMap.getD gens l 0)
  (g, NMap.put gens l g)

/-- What a QNT writes for one row, and the generators after it (R225). -/
def qntRow (o : EngineOp) (n : Nat) (row : List (Byte × Bool)) (gens : NMap Word) : List (Byte × Bool) × List (Byte × Bool) × NMap Word :=
  let ty := (Ty.ofCode o.ty).getD .f32
  let w := accBytes ty
  let ctl := o.b.toNat
  let blen := cvBlen ctl
  let (us, gens') := (List.range 256).foldl (fun (us, g) c =>
    if o.mode == .rst then let (u, g') := drawGen g (c % n); (us ++ [u], g') else (us ++ [(0 : Word)], g)) (([] : List Word), gens)
  let els := (List.range 256).map (fun c => let b := (row.drop (c * w)).take w; (valueOf ty false (leNat (b.map (fun x => x.1))), b.any (fun x => x.2)))
  let blocks := (List.range (256 / blen)).map (fun k =>
    let xs := (els.drop (k * blen)).take blen
    let (sb, codes) := quantBlock (ctl / 4 % 2 == 1) (ctl % 4) o.mode (xs.map (fun e => e.1)) ((us.drop (k * blen)).take blen)
    (sb, codes, xs.any (fun e => e.2)))
  let codes := blocks.flatMap (fun b => (List.range (blen / 2)).map (fun i =>
    ((BitVec.ofNat 8 (b.2.1.getD (2 * i) 0 + 16 * b.2.1.getD (2 * i + 1) 0) : Byte), b.2.2)))
  (codes, blocks.map (fun b => ((BitVec.ofNat 8 b.1 : Byte), b.2.2)), gens')

/-- What a DQNT writes for one row, and the generators after it (R226). -/
def dqntRow (o : EngineOp) (n : Nat) (codes scales : List (Byte × Bool)) (gens : NMap Word) : List (Byte × Bool) × NMap Word :=
  let ty := (Ty.ofCode o.ty).getD .f32
  let w := accBytes ty
  let blen := cvBlen o.b.toNat
  (List.range 256).foldl (fun (out, g) c =>
    let cb := codes.getD (c / 2) (0, false)
    let sc := scales.getD (c / blen) (0, false)
    let code := if c % 2 = 0 then cb.1.toNat % 16 else cb.1.toNat / 16
    let (u, g') := if o.mode == .rst then (NMap.getD g (c % n) 0, (drawGen g (c % n)).2) else ((0 : Word), g)
    let (v, _) := roundF ty o.mode o.sat o.ftz (codeValue sc.1.toNat code) u
    (out ++ (leBytes w v).map (fun b => (b, cb.2 || sc.2)), g')) (([] : List (Byte × Bool)), gens)

/-- What a converter operation writes, in the order of its destination rows, and the generators after it. -/
def convOut (o : EngineOp) (n : Nat) (bs : List (Byte × Bool)) : List (Byte × Bool) × NMap Word :=
  let ty := (Ty.ofCode o.ty).getD .f32
  let rows := cvRows o.b.toNat
  let nsc := 256 / cvBlen o.b.toNat
  let w := 256 * accBytes ty
  (List.range rows).foldl (fun (out, g) i =>
    if o.op = 0x91 then
      let (c, sc, g') := qntRow o n ((bs.drop (i * w)).take w) g
      (out ++ c ++ sc, g')
    else
      let r := (bs.drop (i * (128 + nsc))).take (128 + nsc)
      let (x, g') := dqntRow o n (r.take 128) (r.drop 128) g
      (out ++ x, g')) (([] : List (Byte × Bool)), o.gens)

/-- Whether an operation writes memory. -/
def EngineOp.toMemory (o : EngineOp) : Bool := o.op == 0x8D || o.op == 0x91 || o.op == 0x92

/-- An operation that writes memory reads what it needs and forms its lines (R393); a mark among them is a consumption. -/
def State.loadMatrix (s : State) (o : EngineOp) : State :=
  let u := s.team? o.team
  let n := match u with | some t => t.n | none => 32
  let (bs, s1) := s.engineRead (pairDie o.pair) u o.srcs
  let p := s1.pairSt o.pair
  let (out, gens) := if o.op == 0x8D then ((accstOut p o).1, o.gens) else convOut o n bs
  let s2 := if o.op == 0x8D then s1.updPair o.pair (fun p => { p with rowGen := (accstOut p o).2 }) else s1
  let s3 := s2.updOp { o with loaded := true, gens := gens, outs := landingsOf ((segBytes o.dsts).zip out) }
  if out.any (fun b => b.2) then (match u with | some t => s3.consumeBy t | none => s3) else s3

/-! ### Sparsity entries (R221) -/

/-- A running MMAS that takes its metadata from the queue pops the entries it still needs. -/
def spqPull (p : PairSt) : PairSt :=
  match p.ops.find? (fun o => o.started && o.op == 0x8A && o.rd.contains 11) with
  | none => p
  | some o =>
    match Inflection.of o.recd with
    | none => p
    | some x =>
      let k := min p.spq.length (x.k' / 4 - o.spm.length)
      { p with spq := p.spq.drop k, ops := p.ops.map (fun y => if y.id == o.id then { y with spm := y.spm ++ p.spq.take k } else y) }

/-- SPARSITY_ENTRY_ARRIVE (R221, R230): an entry of 128 bytes enters a queue with room; a stalled sequencer resumes. -/
def execSparsityEntryArrive (pair : Fin 128) (entry : List Byte) (s : State) : Host.Outcome State Fault Refusal :=
  if entry.length == 128 && decide ((s.pairSt pair.val).spq.length < 32) then
    .next (s.updPair pair.val (fun p => spqPull { p with spq := p.spq ++ [entry] }))
  else .next s

/-! ### Completion (R213) -/

/-- The internal effect of an operation that writes no memory; none while it still needs something. -/
def State.matrixEffect (s : State) (o : EngineOp) : Option (Bool × State) :=
  if s.sourcesBusy o then none
  else
    let u := s.team? o.team
    let onPair (s : State) (f : PairSt → PairSt) : State := s.updPair o.pair f
    match o.op with
    | 0x8B =>
      let t := selTile o.d.toNat
      some (false, onPair s (fun p => { p.setTile t [] [] with rowGen := p.rowGen.filter (fun e => e.1 / 256 != t) }))
    | 0x8C =>
      let (bs, s1) := s.engineRead (pairDie o.pair) u o.srcs
      some (bs.any (fun b => b.2), onPair s1 (fun p => accldEffect p o bs))
    | 0x90 =>
      let (bs, s1) := s.engineRead (pairDie o.pair) u o.srcs
      some (false, onPair s1 (fun p => { p with side := (bs.zipIdx).foldl (fun c (b, i) => c.write (o.d.toNat + i) [b.1] false) p.side }))
    | 0x88 =>
      let (bs, s1) := s.engineRead (pairDie o.pair) u o.srcs
      match Inflection.of o.recd with
      | some x => some (false, onPair s1 (fun p => bldEffect p x (selBuf o.d.toNat) bs))
      | none => some (false, s1)
    | _ =>
      match Inflection.of o.recd with
      | none => some (false, s)
      | some x =>
        let s0 := onPair s spqPull
        let o' := ((s0.pairSt o.pair).ops.find? (fun y => y.id == o.id)).getD o
        if o.rd.contains 11 && o'.spm.length != x.k' / 4 then none
        else
          let (bs, s1) := s0.engineRead (pairDie o.pair) u o.srcs
          let (m, p) := mmaEffect (s1.pairSt o.pair) o' x bs
          let (hit, s2) := s1.groupError
          some (m || hit.isSome, onPair s2 (fun _ => match hit with | some i => p.poisonRow (selTile o.d.toNat) i | none => p))

/-- ENGINE_OP_COMPLETE (R213, R215, R225): an internal write made, or the last line landed. -/
def execEngineOpComplete (op : Nat) (s : State) : Host.Outcome State Fault Refusal :=
  match s.engineOp? op with
  | none => .next s
  | some o =>
    if !o.started || o.op == 0x98 || o.held.isSome then .next s
    else if o.toMemory then
      if o.loaded && o.outs.isEmpty then
        let s1 := if o.mode == .rst && o.op != 0x8D then s.updTeam o.team (fun t => o.gens.foldl (fun t e => t.setG e.1 e.2) t) else s
        .next (s1.finishOp o (o.op == 0x8D && selArr o.d.toNat))
      else .next s
    else
      match s.matrixEffect o with
      | none => .next s
      | some (marked, s1) =>
        let s2 := if marked then (match s1.team? o.team with | some t => s1.consumeBy t | none => s1) else s1
        .next (s2.finishOp o (o.op != 0x90 && selArr o.d.toNat))

/-! ### Commands on q0 (R215) -/

/-- The oldest command a team pushed to a port, and the team without it. -/
def Team.command (t : Team) (q : Nat) : Option (Nat × Team) :=
  match (t.port (8 + q)).q with
  | [] => none
  | x :: rest => some (x.toNat, t.setPort (8 + q) { t.port (8 + q) with q := rest })

/-- Pushes a word to a reply side as it stands; one that finds it full is dropped. -/
def Team.replyRaw (t : Team) (p : Nat) (x : DWord) : Team :=
  let pt := t.port p
  if portDepth p ≤ pt.q.length then t.setPort p { pt with ovf := true } else t.setPort p { pt with q := pt.q ++ [x] }

/-- MATRIX_QUERY_COMMAND (R215). -/
def execMatrixQueryCommand (team : Nat) (s : State) : Host.Outcome State Fault Refusal :=
  match s.team? team with
  | none => .next s
  | some t =>
    match t.command 0 with
    | none => .next s
    | some (x, t') =>
      if x / 2 ^ 60 % 16 == 1 then
        .next (s.updTeam team (fun _ => t'.replyRaw 0 (BitVec.ofNat 64 ((s.pairSt (corePair t.core)).word (groupKey t.launch t.group)))))
      else .next s

/-- MATRIX_BAD_COMMAND (R215). -/
def execMatrixBadCommand (team : Nat) (s : State) : Host.Outcome State Fault Refusal :=
  match s.team? team with
  | none => .next s
  | some t =>
    match t.command 0 with
    | none => .next s
    | some (x, t') =>
      if x / 2 ^ 60 % 16 != 1 then .next (s.updTeam team (fun _ => t'.reply 0 (BitVec.ofNat 64 (0xFF * 2 ^ 56 + s.clk % 2 ^ 48)) 55)) else .next s

end Sys2Proof.Machine
end

