-- ==== Sys2Proof/Machine/Copy.lean ====
section
/-! DEFINITION. The copy engine, 0x98-0x9C (R228-R232): handles, slices, the landing of engine writes (R393), and the commands
pushed to q1. -/

namespace Sys2Proof.Machine

/-! ### Handles -/

/-- A handle at group start (R228). -/
def Handle.blank : Handle :=
  { st := .free, bound := false, kind := 0, base := 0, len := 0, arr := false, aborted := false, running := false, slices := [], bytes := 0
    release := 0, mark := 0, pending := [] }

def Group.handle (g : Group) (h : Nat) : Handle := NMap.getD g.handles h Handle.blank
/-- A group's handle changed. -/
def State.setHandle (s : State) (launch num h : Nat) (x : Handle) : State :=
  s.updGroup launch num (fun g => { g with handles := NMap.put g.handles h x })
/-- The group of a key, with a handle of it. -/
def State.groupOf (s : State) (key : Nat) : Option Group := s.group? (key / 2 ^ 32) (key % 2 ^ 32)

/-- HBIND (R228). -/
def execHbind (d a : Reg) (b : Src) (s : State) : Host.Outcome State Fault Refusal :=
  run (.hbind d a b) s (fun iss s =>
    match iss.low with
    | none => .done s
    | some l =>
      let t := iss.team
      let w := teamSrc iss true l b
      let base := teamReg iss true l a
      let len := bitsN w 39 8
      let kind := bitsN w 4 4
      let h := w % 8
      if anyTag iss l [a] then .done (s.consumeBy t)
      else if bitsN w 63 40 != 0 || bitsN w 7 5 != 0 || len == 0 then .stop 23 0 w 0
      else if kind == 1 && t.core % 2 == 1 then .stop 19 0 0 0
      else if kind == 0 && 2 ^ 57 < base + len then .stop 4 0 base 0
      else if kind == 0 && !isWindow base && winBase 0 < base + len then .stop 24 0 base 0
      else
        match (if kind == 0 && isWindow base then (s.probe t 24 base len .write).1 else .ok []) with
        | .bad c v => .stop c 0 v 0
        | _ =>
          match s.group? t.launch t.group with
          | none => .done s
          | some g =>
            let x := g.handle h
            let other := match (s.pairSt (corePair t.core)).spqOwner with | some o => o != iss.gkey | none => false
            if x.st != .free || (kind == 1 && other) then .done (writeStatus s iss d 1)
            else
              let s1 := s.setHandle t.launch t.group h { x with bound := true, kind := kind, base := base, len := len, arr := w.testBit 3 }
              let s2 := if kind == 1 then s1.updPair (corePair t.core) (fun p => PairSt.take iss.gkey p 11) else s1
              .done (writeStatus s2 iss d 0))

/-- Whether a lower team of the group has still to try again its CPSL that the handle's release has freed (R230). -/
def State.lowerCpsl (s : State) (t : Team) (h : Nat) : Bool :=
  s.teamList.any (fun u => inGroup t.launch t.group u && decide (u.num < t.num) && u.status == .running && !u.evicted
    && u.frags.any (fun e => e.2.latch == .done (cpslKey h)))

/-- CPSL (R229, R230): checks the team's slice of the next copy and records it; the last expected one starts the copy. -/
def execCpsl (fb sq : Bool) (d a : Reg) (b : Src) (s : State) : Host.Outcome State Fault Refusal :=
  run (.cpsl fb sq d a b) s (fun iss s =>
    match iss.low with
    | none => .done s
    | some l =>
      let t := iss.team
      let h := teamSrc iss false l b
      let desc := teamReg iss true l d
      let f := selFlag iss fb
      if anyTag iss l [a] then .done (s.consumeBy t)
      else if 7 < h then .stop 22 0 h 0
      else
        match s.group? t.launch t.group with
        | none => .done s
        | some g =>
          let x := g.handle h
          if !(x.st == .free || (x.st == .filling && !x.running)) || x.slices.any (fun c => c.team == t.id) then .wait (.waiting (cpslKey h)) s
          else if iss.frag.latch == .done (cpslKey h) && s.lowerCpsl t h then .wait iss.frag.latch s
          else if !flagRoom iss f || !t.pathRoom [5] || s.acquiring t then .wait .none s
          else if !x.bound then .stop 22 0 0 0
          else
            let len := desc % 2 ^ 32
            let off := if x.kind == 1 then 0 else desc / 2 ^ 32
            if x.len < off + len || (x.kind == 1 && len % 128 != 0) then .stop 23 0 desc 0
            else
              let src := teamReg iss true l a
              match probeAll t 24 [{ va := src, n := len, need := .read }] s with
              | (.bad c v, _) => .stop c 0 v 0
              | (ps, s1) =>
                match probeAll t 24 (if x.kind == 1 then [] else [{ va := x.base + off, n := len, need := .write }]) s1 with
                | (.bad c v, _) => .stop c 0 v 0
                | (pd, s2) =>
                  match ps, pd with
                  | .miss v, _ => .wait (.page v 0) (s2.pageMiss iss.ctx v 0)
                  | _, .miss v => .wait (.page v 0) (s2.pageMiss iss.ctx v 4)
                  | .ok ss, .ok ds =>
                    if s.unsettled t src len || (x.kind == 0 && s.unsettled t (x.base + off) len) then .wait .none s
                    else
                      let (inst, s3) := s2.fresh
                      let c : Slice := { team := t.id, off := off, len := len, src := ss, dst := ds, flag := f, sq := sq, inst := inst }
                      let y : Handle := if x.st == .free then { x with st := .filling, aborted := false, bytes := 0, slices := [c] } else { x with slices := x.slices ++ [c] }
                      let s4 := (s3.setHandle t.launch t.group h y).updTeam t.id (fun t => t.countPaths [5] inst)
                      .done ((s4.raiseFlag t.id f).copyTest t.launch t.group h)
                  | .bad c v, _ => .stop c 0 v 0
                  | _, .bad c v => .stop c 0 v 0)

/-- The handle an HWAIT, HREL or HSTAT names (R231): a copy-handle fault beyond 7. -/
def withHandle (iss : Issue) (s : State) (a : Reg) (k : Nat → Handle → Eff) : Eff :=
  match iss.low with
  | none => .done s
  | some l =>
    let h := teamReg iss false l a
    if 7 < h then .stop 22 0 h 0
    else
      match s.group? iss.team.launch iss.team.group with
      | none => .done s
      | some g => k h (g.handle h)

/-- The end of an HWAIT: status 0 has the acquire effect (R174). -/
def hwaitDone (iss : Issue) (s : State) (d : Reg) (v : Nat) : Eff :=
  let s1 := writeStatus s iss d v
  .done (if v == 0 then s1.updTeam iss.tid (fun t => { t with acq := s.mem.seq }) else s1)

/-- HWAIT (R231). -/
def execHwait (d a : Reg) (s : State) : Host.Outcome State Fault Refusal :=
  run (.hwait d a) s (fun iss s => withHandle iss s a (fun h x =>
    match iss.frag.latch with
    | .done v => hwaitDone iss s d v
    | _ =>
      if !x.bound then .stop 22 0 0 0
      else
        match x.st with
        | .free => hwaitDone iss s d (if x.aborted then 2 else 3)
        | .filling => .wait (.waiting (hwaitKey h)) s
        | .full => hwaitDone iss s d 0
        | .draining => hwaitDone iss s d 4))

/-- HREL (R231): a Full handle goes to Draining. -/
def execHrel (d a : Reg) (s : State) : Host.Outcome State Fault Refusal :=
  run (.hrel d a) s (fun iss s => withHandle iss s a (fun h x =>
    if !x.bound then .stop 22 0 0 0
    else if x.st == .full then
      .done (writeStatus (s.setHandle iss.team.launch iss.team.group h { x with st := .draining, release := iss.tid, mark := s.nextId }) iss d 0)
    else .done (writeStatus s iss d 1)))

/-- HSTAT's word (R231). -/
def Handle.word (x : Handle) : Nat :=
  let st := match x.st with | .free => 0 | .filling => 1 | .full => 2 | .draining => 3
  st * 2 ^ 62 + x.bound.toNat * 2 ^ 61 + x.kind * 2 ^ 60 + x.arr.toNat * 2 ^ 59 + x.aborted.toNat * 2 ^ 58 + x.running.toNat * 2 ^ 57
    + x.slices.length % 16 * 2 ^ 53 + x.bytes % 2 ^ 48

/-- HSTAT (R231). -/
def execHstat (d a : Reg) (s : State) : Host.Outcome State Fault Refusal :=
  run (.hstat d a) s (fun iss s => withHandle iss s a (fun _ x => .done (writeWide s iss d x.word false)))

/-! ### Landing (R230, R393) -/

/-- What a copy writes: the bytes of its slices in team order, each read for the team that submitted it; in ascending
destination offset, the higher team's byte standing; or entries of the sparsity queue. -/
def State.copyOut (s : State) (die : Nat) (x : Handle) : List Landing × State :=
  let (ps, s1) := x.slices.foldl (fun (acc, s) c =>
    let (bs, s') := State.engineRead s die (s.team? c.team) c.src
    (acc ++ [(c, bs)], s')) (([] : List (Slice × List (Byte × Bool))), s)
  if x.kind == 1 then
    let all := ps.flatMap (fun e => e.2)
    ((List.range (all.length / 128)).map (fun i =>
      { loc := { space := 9, x := 0, y := 0, addr := 0 }, bytes := ((all.drop (i * 128)).take 128).zipIdx.map (fun (b, j) => (j, b)) }), s1)
  else
    let region := ps.foldl (fun m (c, bs) => ((segBytes c.dst).zip bs).zipIdx.foldl (fun m (e, j) => NMap.put m (c.off + j) e) m) ([] : NMap (Loc × Byte × Bool))
    (landingsOf (region.map (fun e => e.2)), s1)

/-- A copy reads its sources when they are free (R214); a mark among them is a consumption (R352). -/
def State.loadCopy (s : State) (o : EngineOp) : State :=
  match s.groupOf o.group with
  | none => s
  | some g =>
    let x := g.handle o.d.toNat
    let (outs, s1) := s.copyOut (pairDie o.pair) x
    let s2 := s1.updOp { o with loaded := true, outs := outs }
    if outs.any (fun w => w.bytes.any (fun b => b.2.2)) then
      (match (x.slices.head?).bind (fun c => s2.team? c.team) with | some t => s2.consumeBy t | none => s2)
    else s2

/-- Whom an operation writes for: the context and the launch of its group. -/
def State.opWriter (s : State) (o : EngineOp) : Writer := some (s.ctxOf (o.group / 2 ^ 32), o.group / 2 ^ 32)

/-- Lands the next line of a loaded operation. -/
def State.landNext (s : State) (o : EngineOp) : State :=
  match o.outs with
  | [] => s
  | w :: rest =>
    let n := w.bytes.length
    let counted (s : State) : State :=
      if o.op == 0x98 then s.updGroup (o.group / 2 ^ 32) (o.group % 2 ^ 32) (fun g =>
        let x := g.handle o.d.toNat
        { g with handles := NMap.put g.handles o.d.toNat { x with bytes := x.bytes + n } })
      else s
    let go (s : State) : State := s.updOp { o with outs := rest, since := s.clk }
    if w.loc.space == 9 then
      if (s.pairSt o.pair).spq.length < 32 then
        counted ((go s).updPair o.pair (fun p => spqPull { p with spq := p.spq ++ [w.bytes.map (fun b => b.2.1)] }))
      else s
    else
      match s.landLine (pairDie o.pair) o.id (s.opWriter o) w with
      | none => s
      | some s1 => counted (go s1)

/-- Whether the next access of a started operation waits: its reading, for earlier writes of its sources; its landing, for the line (R214, R230). -/
def State.opWaits (s : State) (o : EngineOp) : Bool :=
  o.started && o.held.isNone && (if o.loaded then !o.outs.isEmpty && s.landNext o == s else s.sourcesBusy o)

/-- The team that a waiting access of an engine belongs to (R285): the one that issued the operation, of a copy the one that submitted the slice. -/
def State.opTeam (s : State) (o : EngineOp) : Nat :=
  if o.op != 0x98 then o.team
  else
    match s.groupOf o.group with
    | none => o.team
    | some g =>
      let x := g.handle o.d.toNat
      ((x.slices.find? (fun c => decide (x.bytes < c.off + c.len))).map (fun c => c.team)).getD o.team

/-- COPY_LINE_LAND (R393, R214, R230): a running operation that writes memory reads what it needs, then lands line after line. -/
def execCopyLineLand (op : Nat) (s : State) : Host.Outcome State Fault Refusal :=
  match s.engineOp? op with
  | none => .next s
  | some o =>
    if !o.started || !(o.toMemory || o.op == 0x98) || o.held.isSome then .next s
    else if !o.loaded then
      if s.sourcesBusy o then .next s
      else
        let s1 := if o.op == 0x98 then s.loadCopy o else s.loadMatrix o
        match s1.engineOp? op with
        | none => .next s1
        | some o' => .next (s1.landNext o')
    else .next (s.landNext o)

/-- COPY_FULL (R230): the last byte of a copy has landed. group is the key of a group. -/
def execCopyFull (group : Nat) (handle : Fin 8) (s : State) : Host.Outcome State Fault Refusal :=
  match s.groupOf group with
  | none => .next s
  | some g =>
    match (s.pairSt (corePair g.core)).ops.find? (fun o => o.op == 0x98 && o.group == group && o.d.toNat == handle.val) with
    | none => .next s
    | some o =>
      if !(o.loaded && o.outs.isEmpty) then .next s
      else
        let x := g.handle handle.val
        let waits := x.slices.flatMap (sqWaits s handle.val 0 x.bytes)
        let s1 := x.slices.foldl (fun s c => State.sliceDone s handle.val 0 x.bytes c) (s.dropOp o)
        let y : Handle := { x with st := .full, running := false, pending := x.pending ++ waits, slices := x.slices.map (fun c => { c with inst := 0 }) }
        let s2 := ((s1.setHandle g.launch g.num handle.val y).slicesOff x.slices).releaseKey g.launch g.num (hwaitKey handle.val) 0
        match s2.launch? g.launch with
        | some l => .next (if x.arr then s2.arrive l g.core o.tag else s2)
        | none => .next s2

/-- HANDLE_DRAIN_DONE (R230): the releasing team's loads to the region have returned; the CPSLs that wait go on, in team order. -/
def execHandleDrainDone (group : Nat) (handle : Fin 8) (s : State) : Host.Outcome State Fault Refusal :=
  match s.groupOf group with
  | none => .next s
  | some g =>
    let x := g.handle handle.val
    let busy := s.reqs.any (fun r => r.team == x.release && r.op.isLoad && decide (r.inst < x.mark)
      && r.parts.any (fun p => decide (p.va < x.base + x.len) && decide (x.base < p.va + p.len)))
    if x.st == .draining && !busy then
      .next ((s.setHandle g.launch g.num handle.val { x with st := .free, slices := [] }).releaseKey g.launch g.num (cpslKey handle.val) (cpslKey handle.val))
    else .next s

/-! ### Commands on q1 (R232) -/

/-- A record for a team's q1; one that finds the reply side full waits in the handle. -/
def State.copyRecord (s : State) (team : Nat) (t : Team) (h status : Nat) : State :=
  match s.group? t.launch t.group with
  | none => s
  | some g =>
    let x := g.handle h
    let r : DWord := BitVec.ofNat 64 (status * 2 ^ 60 + h * 2 ^ 48 + x.bytes % 2 ^ 48)
    if (t.port 1).q.length < 8 then s.updTeam team (fun t => t.setPort 1 { t.port 1 with q := (t.port 1).q ++ [r] })
    else s.setHandle t.launch t.group h { x with pending := x.pending ++ [(team, r)] }

/-- A q1 command of one kind. -/
def copyCommand (s : State) (team : Nat) (mine : Nat → Bool) (k : Team → Nat → State → State) : Host.Outcome State Fault Refusal :=
  match s.team? team with
  | none => .next s
  | some t =>
    match t.command 1 with
    | none => .next s
    | some (x, t') => if mine (x / 2 ^ 60 % 16) then .next (k t' (x % 8) (s.updTeam team (fun _ => t'))) else .next s

/-- COPY_CANCEL (R230, R232). -/
def execCopyCancel (team : Nat) (s : State) : Host.Outcome State Fault Refusal :=
  copyCommand s team (fun c => c == 1) (fun t h s =>
    match s.group? t.launch t.group with
    | none => s
    | some g =>
      let x := g.handle h
      if x.st == .filling && !x.running then s.cancelCopy g h else s.copyRecord team t h 1)

/-- COPY_PROGRESS (R232). -/
def execCopyProgress (team : Nat) (s : State) : Host.Outcome State Fault Refusal :=
  copyCommand s team (fun c => c == 2) (fun t h s => s.copyRecord team t h 0)

/-- COPY_BAD_COMMAND (R232). -/
def execCopyBadCommand (team : Nat) (s : State) : Host.Outcome State Fault Refusal :=
  copyCommand s team (fun c => c != 1 && c != 2) (fun t h s => s.copyRecord team t h 15)

end Sys2Proof.Machine
end

