-- ==== Sys2Proof/Machine/Link.lean ====
section
/-! DEFINITION. The link layer of the Fyolo ports (R371-R373, R387, R388), the route cache (R291, R374) and the device number (R290). -/

namespace Sys2Proof.Machine

/-- Core-clock cycles of a microsecond; of ten nanoseconds. -/
def usCycles : Nat := 3000
def tenNs : Nat := 30

/-- A change of UP or DEGRADED logs a record and raises the physical function's management vector (R373). -/
def State.portEvent (s : State) : State := (s.countError 4).raiseVector 0 0

/-! ### The link layer (R371-R373, R387, R388) -/

/-- Timers of packets held while a port retrained (R388). -/
def Packet.held (p n : Nat) (k : Packet) : Packet := if k.port == p then { k with since := k.since + n } else k
def State.holdTimers (s : State) (p n : Nat) : State :=
  { s.updFab (fun f => { f with transfers := f.transfers.map (fun x => { x with packets := x.packets.map (Packet.held p n) }) }) with
    reqs := s.reqs.map (fun r => { r with via := r.via.map (Packet.held p n) })
    conj := { s.conj with rounds := s.conj.rounds.map (fun r => { r with packets := r.packets.map (Packet.held p n) }) } }

/-- Whether a half of a port's lanes is whole. -/
def halfOk (lanes half : Nat) : Bool := bitsN lanes (8 * half + 7) (8 * half) == 255

/-- A port loses UP and retrains, when one half of its lanes is whole (R373). -/
def State.retrain (s : State) (p : Nat) : State :=
  let x := s.port p
  let can := halfOk x.laneOk 0 || halfOk x.laneOk 1
  let s1 := s.updPort p (fun x => { x with up := false, retrain := can, replays := 0, since := s.clk })
  if x.up then s1.portEvent else s1

/-- What training found at a port, as its fields read until FYSELF is written (R303 step 6). -/
def PortSt.found (x : PortSt) (lanes : Nat) : PortSt :=
  { x with laneOk := lanes, degraded := halfOk lanes 0 != halfOk lanes 1, half := !halfOk lanes 0 && halfOk lanes 1 }

/-- LANE_LOSS (R373). -/
def execLaneLoss (port : Fin 8) (lane : Nat) (s : State) : Host.Outcome State Fault Refusal :=
  if 16 ≤ lane then .next s
  else
    let less (n : Nat) : Nat := if n.testBit lane then n - 2 ^ lane else n
    if s.fab.opened then .next ((s.updPort port.val (fun x => { x with laneOk := less x.laneOk })).retrain port.val)
    else .next (s.updPort port.val (fun x => x.found (less x.laneOk)))

/-- RETRAIN_DONE (R373): after 2 microseconds the port is UP on one half and resumes its replay. -/
def execRetrainDone (port : Fin 8) (s : State) : Host.Outcome State Fault Refusal :=
  let p := port.val
  let x := s.port p
  if !x.retrain || s.clk < x.since + 2 * usCycles then .next s
  else
    let s1 := (s.holdTimers p (s.clk - x.since)).updPort p (fun x => { x with
      up := true, degraded := true, retrain := false, half := !halfOk x.laneOk 0, since := s.clk })
    .next (s1.portEvent.pumpPort p)

/-- FLIT_RECEIVE (R371): only the next expected flit is accepted; a failed CRC is answered with a negative
acknowledgement. -/
def execFlitReceive (port : Fin 8) (seq : Nat) (ok : Bool) (s : State) : Host.Outcome State Fault Refusal :=
  .next (s.updPort port.val (fun x =>
    if !ok then { x with nakOut := true }
    else if seq == x.recvSeq then { x with recvSeq := (x.recvSeq + 1) % 4096, nakOut := false }
    else x))

/-- LINK_ACK (R371, R387): cumulative; the flits up to this one are free, and flits that waited for the window leave (R388). -/
def execLinkAck (port : Fin 8) (seq : Nat) (s : State) : Host.Outcome State Fault Refusal :=
  if (s.port port.val).unacked.contains seq then
    .next ((s.updPort port.val (fun x => { x with unacked := (x.unacked.dropWhile (· != seq)).drop 1, replays := 0, since := s.clk })).pumpPort port.val)
  else .next s

/-- A replay of every unacknowledged flit; after 8 in a row without progress the port retrains. -/
def State.replay (s : State) (p : Nat) : State :=
  let s1 := s.updPort p (fun x => { x with replays := x.replays + 1, since := s.clk })
  if 8 ≤ (s1.port p).replays then s1.retrain p else s1

/-- LINK_NAK (R371): the receiver expects this flit next; those before it are acknowledged, the rest are sent again. -/
def execLinkNak (port : Fin 8) (seq : Nat) (s : State) : Host.Outcome State Fault Refusal :=
  let x := s.port port.val
  if !x.up || !x.unacked.contains seq then .next s
  else
    let rest := x.unacked.dropWhile (· != seq)
    let n := if rest.length < x.unacked.length then 0 else x.replays
    .next ((s.updPort port.val (fun x => { x with unacked := rest, replays := n })).replay port.val)

/-- ACKTO_EXPIRE (R371, R372, R388). -/
def execAcktoExpire (port : Fin 8) (s : State) : Host.Outcome State Fault Refusal :=
  let x := s.port port.val
  if !x.up || x.unacked.isEmpty || s.clk < x.since + dw (s.reg (.fyLnk port)) 47 32 * tenNs then .next s
  else .next (s.replay port.val)

/-! ### Device number and route cache -/

/-- FYSELF_WRITE (R290, R303): a number above 9,215 is ignored; the first accepted write opens the ports that trained. -/
def execFyselfWrite (v : DWord) (s : State) : Host.Outcome State Fault Refusal :=
  if 9215 < dw v 13 0 then .next s
  else
    let s1 := s.updFab (fun f => { f with self := dw v 13 0, opened := true })
    if s.fab.opened then .next s1
    else .next ((List.range 8).foldl (fun (s : State) p =>
      let x := s.port p
      if (halfOk x.laneOk 0 || halfOk x.laneOk 1) && s.inService 3 p then (s.updPort p (fun x => { x with up := true })).portEvent else s) s1)

/-- FYRTINV_WRITE (R291): the cached entries go. -/
def execFyrtinvWrite (v : DWord) (s : State) : Host.Outcome State Fault Refusal :=
  if v.getLsbD 0 then .next (s.updFab (fun f => { f with routes := [] })) else .next s

/-- FAILED_PATH_MARK_EXPIRE (R374): marks are kept with the cycle in which they end. -/
def execFailedPathMarkExpire (port : Fin 8) (dev path : Nat) (s : State) : Host.Outcome State Fault Refusal :=
  let k := pathKey port.val dev path
  match NMap.look s.fab.marks k with
  | none => .next s
  | some t => if s.clk < t then .next s else .next (s.updFab (fun f => { f with marks := NMap.del f.marks k }))

end Sys2Proof.Machine
end

