-- ==== Sys2Proof/Machine/Phase.lean ====
section
/-! DEFINITION. Phases, 0x77-0x7A (R191-R197). -/

namespace Sys2Proof.Machine

/-- A count as a signed 64-bit value (R191). -/
def wrap64 (x : Int) : Int := sext (wrapI x 64) 64

/-- A team-wide operand taken as signed: 64 bits of a scalar, otherwise 32 bits sign-extended (R194, R204). -/
def signedSrc (iss : Issue) (l : Nat) : Src → Int
  | .reg (.s n) => sext (iss.team.s n.val).toNat 64
  | .reg r => sext (teamReg iss false l r) 32
  | .lit w => sext w.toNat 32

/-- PHHDR (R194): adds to NEXTEXP, or to EXPECT. -/
def execPhhdr (cur : Bool) (b : Src) (s : State) : Host.Outcome State Fault Refusal :=
  run (.phhdr cur b) s (fun iss s =>
    match iss.low with
    | none => .done s
    | some l =>
      if cur && iss.team.phaseDone then .wait .none s
      else
        let x := signedSrc iss l b
        .done (s.updLaunch iss.team.launch (fun q =>
          let h := q.head iss.team.core
          let hdr := if cur then { h.hdr with expect := wrap64 (h.hdr.expect + x) } else { h.hdr with nextexp := wrap64 (h.hdr.nextexp + x) }
          { q with heads := NMap.put q.heads iss.team.core { h with hdr := hdr } })))

/-- Whether a request of a team is a store, atomic or reduction that waits in the device (R173). -/
def Req.pendingWrite (r : Req) : Bool :=
  r.writes && (match r.place with | .paren _ => true | .queue _ => true | .net => true | .atIssue => true | _ => false)

/-- PHEND (R195, R334): once per phase, whatever the active lanes; a second waits for the commit of the first. The team's next task has its
retries whole (R337). -/
def execPhend (s : State) : Host.Outcome State Fault Refusal :=
  run .phend s (fun iss s =>
    if iss.team.phaseDone || s.reqs.any (fun r => r.team == iss.tid && r.pendingWrite) then .wait .none s
    else
      let mask := iss.team.frags.foldl (fun m f => m ||| f.2.mask) (0 : LaneMask)
      let s1 := s.updTeam iss.tid (fun t => { t with
        phaseDone := true, rpc := iss.cl.hdr + 4 * (iss.cl.len + 1), restartMask := mask, lastPhase := s.phaseOf iss.team
        phMark := s.nextId, retries := 0 })
      .done (s1.phaseTest iss.team.launch iss.team.core))

/-- The end of a PHWAIT (R197): the result, the stale predicate, and the acquire effect. -/
def phwaitDone (iss : Issue) (s : State) (d : Reg) (pb : Fin 8) (x : Nat) : Eff :=
  let s1 := writeWide s iss d x false
  .done (s1.updTeam iss.tid (fun t =>
    { t with acq := s.mem.seq }.writeP pb.val iss.act (if 2 ≤ x then BitVec.allOnes 1024 else 0)))

/-- Whether a launch's last commit has still to reach a die, a peer or a member: its waiters and held stores are not released (R281,
R297, R299). -/
def State.unreleased (s : State) (launch : Nat) : Bool :=
  match s.launch? launch with
  | none => false
  | some l => !l.dies.isEmpty || !l.peerWait.isEmpty || (match l.md with | some m => m.held | none => false)

/-- The latch of a PHWAIT on the phase of a token, registered until that phase has been committed and released. -/
def phwaitKey (t : Nat) : Nat := 65536 + t % 65536

/-- PHWAIT (R197): the release of the phase it waits for ends its wait with the value 1. -/
def execPhwait (d a : Reg) (pb : Fin 8) (s : State) : Host.Outcome State Fault Refusal :=
  run (.phwait d a pb) s (fun iss s =>
    match iss.low with
    | none => .done s
    | some l =>
      if !portsReady s iss.team (some d) none none then .wait iss.frag.latch s
      else
        let t := teamReg iss false l a % 65536
        let delta := (s.phaseOf iss.team + 65536 - t) % 65536
        match iss.frag.latch with
        | .done v => phwaitDone iss s d pb v
        | .waiting k => .wait (.waiting k) s
        | _ =>
          if delta = 0 || (delta = 1 && s.unreleased iss.team.launch) then .wait (.waiting (phwaitKey t)) s
          else if delta < 32768 then phwaitDone iss s d pb delta
          else .stop 16 0 0 0)

/-- The field of the phase header that PHRD reads (R196). -/
def phField (h : PhaseHdr) : PhField → Nat
  | .phase => h.phase
  | .exp => wrapI h.expect 64
  | .next => wrapI h.nextexp 64
  | .flags => h.overrun.toNat + 2 * h.late.toNat

/-- PHRD (R196). -/
def execPhrd (fld : PhField) (d : Reg) (s : State) : Host.Outcome State Fault Refusal :=
  run (.phrd fld d) s (fun iss s =>
    if iss.act == 0 then .done s
    else if !portsReady s iss.team (some d) none none then .wait .none s
    else
      let x := match s.launch? iss.team.launch with
        | some q => phField (q.head iss.team.core).hdr fld
        | none => 0
      .done (writeWide s iss d x false))

end Sys2Proof.Machine
end

