-- ==== Sys2Proof/Machine/Sync.lean ====
section
/-! DEFINITION. Fences, barriers, waits and counters, 0x7B-0x82 (R198-R205, R263, R265). -/

namespace Sys2Proof.Machine

/-- Width of a scope (R124, R200): each adds to the narrower ones. -/
def scopeRank : Scope → Nat
  | .team => 0 | .group => 1 | .gang => 2 | .die => 3 | .device => 4 | .domain => 5
  | .system => 6

/-- Whether a request is of a fence's kind. -/
def Req.ofKind (r : Req) : FenceKind → Bool
  | .all => true
  | .st => r.pendingWrite || (!r.op.isLoad && (match r.op with | .lock _ _ _ _ => false | _ => true))
  | .ld => r.op.isLoad

/-- Whether a request keeps a fence of a scope waiting: loads until they return; stores, atomics and reductions in the
Parenthesis for any scope, wherever they wait on the device from scope group on, and at a peer from scope domain on. -/
def Req.keepsFence (r : Req) (sc : Nat) : Bool :=
  if r.op.isLoad then true
  else match r.place with
    | .paren _ => true
    | .atIssue => true
    | .queue _ => decide (1 ≤ sc)
    | .miss => decide (1 ≤ sc)
    | .update => decide (1 ≤ sc)
    | .net => decide (1 ≤ sc)
    | .answered => decide (3 ≤ sc)
    | .remote => decide (5 ≤ sc)
    | .lockWait => false

/-- Whether a fence of a kind and scope must wait (R173, R200): one of system scope for a link while it has none (R379). -/
def State.fenceWaits (s : State) (t : Team) (k : FenceKind) (sc : Scope) : Bool :=
  s.reqs.any (fun r => r.team == t.id && r.ofKind k && r.keepsFence (scopeRank sc))
    || (k != .ld && scopeRank sc == 6 && !s.hostReach && !(NMap.getD s.mem.posted (coreDie t.core) []).isEmpty)

/-- Merges a team's plain stores early, with the bytes of its core's other teams in the L1 sectors that this flushes (R263). -/
def State.mergeTeam (s : State) (t : Team) : State :=
  let own := (s.mem.pend.filter (fun p => p.team == t.id)).flatMap (fun p => p.bytes)
  let secs := (own.filter (fun e => e.2.inL1)).foldl (fun acc e => NSet.add acc (sectorOf e.1)) ([] : NSet)
  let sel : Pend → Nat → Bool := fun p pa =>
    p.team == t.id || (NSet.has secs (sectorOf pa) && p.core == t.core && (match NMap.look p.bytes pa with | some b => b.inL1 | none => false))
  (s.markEarly sel).settle sel noPeer

/-- What a completed fence does (R200): one that covers loads orders what comes after them behind what they have read (R267); one that covers
stores publishes them to the group from scope group on (R265), and has them at the host at scope system (R301); one of scope die or wider merges
early, of whatever kind (R263). -/
def State.fenceDo (s : State) (t : Team) (k : FenceKind) (sc : Scope) : State :=
  let s0 := if k == .st then s else s.updTeam t.id (fun u => { u with acq := s.mem.seq })
  let s1 := if k != .ld && 1 ≤ scopeRank sc then s0.publish (fun p => p.team == t.id) else s0
  let s2 := if 3 ≤ scopeRank sc then s1.mergeTeam t else s1
  if k != .ld && 6 ≤ scopeRank sc then s2.drainHost (coreDie t.core) else s2

/-- FENCE (R200): acts on the team once. -/
def execFence (k : FenceKind) (sc : Scope) (s : State) : Host.Outcome State Fault Refusal :=
  run (.fence k sc) s (fun iss s =>
    if s.fenceWaits iss.team k sc then .wait .none s else .done (s.fenceDo iss.team k sc))

/-- BAR and GBAR (R201): the fragment parks; the barrier completes when every team that has not ended has arrived. -/
def barrier (iss : Issue) (s : State) (key : Nat) (sc : Scope) (sel : Team → Bool) : Eff :=
  match iss.frag.latch with
  | .done _ => .done s
  | _ =>
    if s.fenceWaits iss.team .all sc then .wait .none s
    else
      let s1 := s.updTeam iss.tid (fun t => match t.frag? iss.entry with
        | some f => t.setFrag iss.entry { f with latch := .waiting key }
        | none => t)
      let s2 := s1.barTest key sel
      match (s2.team? iss.tid).bind (fun t => t.frag? iss.entry) with
      | some f => if f.latch == .waiting key then .wait (.waiting key) s2 else .done s2
      | none => .done s2

/-- BAR (R201). -/
def execBar (s : State) : Host.Outcome State Fault Refusal :=
  run .bar s (fun iss s => barrier iss s 3 .group (inGroup iss.team.launch iss.team.group))

/-- GBAR (R201). -/
def execGbar (s : State) : Host.Outcome State Fault Refusal :=
  run .gbar s (fun iss s => barrier iss s 4 .gang (s.inGang iss.team.launch iss.team.group))

/-- WAITP (R202): until the path's in-flight counter is at or below b. -/
def execWaitp (path : Fin 7) (b : Src) (s : State) : Host.Outcome State Fault Refusal :=
  run (.waitp path b) s (fun iss s =>
    match iss.low with
    | none => .done s
    | some l =>
      let s1 := s.retire iss.tid
      let n := match s1.team? iss.tid with | some t => (t.path path.val).length | none => 0
      if n ≤ teamSrc iss false l b then .done s1 else .wait .none s1)

/-- Span of a window (R67). -/
def winSpan (w : Nat) : Nat :=
  match w with
  | 0 => 4096 | 1 => 2 ^ 22 | 2 => 2 ^ 25 | 3 => 2 ^ 26 | 4 => 65536
  | _ => 0

/-- Checks a counter address (R203): the first row that applies gives the cause; otherwise the counter's place. -/
def counterAt (s : State) (iss : Issue) (va : Nat) : Except Nat Nat :=
  let w := (va - winBase 0) / 2 ^ 32
  let o := (va - winBase 0) % 2 ^ 32
  if 2 ^ 57 ≤ va then .error 4
  else if isWindow va && decide (winSpan w ≤ o) then .error 10
  else if !isWindow va || w != 4 then .error 11
  else if o % 8 != 0 then .error 11
  else
    match s.ctx? iss.ctx with
    | none => .error 10
    | some c =>
      let d := o / 32768
      let n := o % 32768 / 8
      if c.ctrLo d ≤ n && n ≤ c.ctrHi d then .ok o else .error 10

/-- An access that is performed at once, counted on a path (R82). -/
def State.countOnce (s : State) (tid path : Nat) : State :=
  let (inst, s1) := s.fresh
  (s1.updTeam tid (fun t => t.countPaths [path] inst)).retire tid

/-- A counter instruction, once in the lowest lane (R204): its address checked, its waits (R173, R174, R205, R380), then f. -/
def counterOp (iss : Issue) (s : State) (a : Reg) (rel update : Bool) (f : Nat → Nat → State → Eff) : Eff :=
  match iss.low with
  | none => .done s
  | some l =>
    match counterAt s iss (teamReg iss true l a) with
    | .error c => .stop c 0 (teamReg iss true l a) 0
    | .ok o =>
      let t := iss.team
      let mine := s.reqs.filter (fun r => r.team == t.id)
      let tentative := match s.launch? t.launch with | some q => q.tentative | none => false
      if t.lockOut || mine.any Req.holdsBack || !t.ovflow.isEmpty || !t.pathRoom [3] || (rel && !mine.isEmpty) || (update && tentative) then .wait .none s
      else
        let s1 := if rel then s.fenceDo t .st .device else s
        f l o (s1.countOnce t.id 3)

/-- WAITCT (R203): acquire effect at its completion. -/
def execWaitct (a : Reg) (b : Src) (s : State) : Host.Outcome State Fault Refusal :=
  run (.waitct a b) s (fun iss s =>
    match iss.low with
    | none => .done s
    | some l =>
      let done (s : State) : Eff := .done (s.updTeam iss.tid (fun t => { t with acq := s.mem.seq }))
      match iss.frag.latch with
      | .done _ => done s
      | _ =>
        match counterAt s iss (teamReg iss true l a) with
        | .error c => .stop c 0 (teamReg iss true l a) 0
        | .ok o =>
          let v := teamSrc iss false l b
          if iss.team.waitsBehind s then .wait .pending s
          else if v ≤ s.counter o then done s else .wait (.counter o v) s)

/-- CTSET (R204, R205). -/
def execCtset (rel : Bool) (a : Reg) (b : Src) (s : State) : Host.Outcome State Fault Refusal :=
  run (.ctset rel a b) s (fun iss s => counterOp iss s a rel true (fun l o s1 =>
    .done ((s1.irreversible iss.tid).setCounter o (BitVec.ofNat 64 (wrapI (signedSrc iss l b) 64)))))

/-- CTADD (R204, R205): d is the old value. -/
def execCtadd (rel : Bool) (d a : Reg) (b : Src) (s : State) : Host.Outcome State Fault Refusal :=
  run (.ctadd rel d a b) s (fun iss s => counterOp iss s a rel true (fun l o s1 =>
    let old := s1.counter o
    let tag := s1.mem.ctr.tagged o 8
    let s2 := writeWide (s1.irreversible iss.tid) iss d old tag
    let s3 := if tag then s2.consumeBy iss.team else s2
    .done (s3.addCounter o (BitVec.ofNat 64 (wrapI (signedSrc iss l b) 64)))))

/-- CTRD (R204): acquire effect. -/
def execCtrd (d a : Reg) (s : State) : Host.Outcome State Fault Refusal :=
  run (.ctrd d a) s (fun iss s => counterOp iss s a false false (fun _ o s1 =>
    let tag := s1.mem.ctr.tagged o 8
    let s2 := writeWide s1 iss d (s1.counter o) tag
    let s3 := if tag then s2.consumeBy iss.team else s2
    .done (s3.updTeam iss.tid (fun t => { t with acq := s1.mem.seq }))))

end Sys2Proof.Machine
end

