-- ==== Sys2Proof/Machine/Fabric.lean ====
section
/-! DEFINITION. Fabric transfers, messages and port queries, 0xA0-0xA5 (R233-R244): issue, packets, landing, completion, refusals
(R374-R376), inbound requests (R294) and multicast (R298). -/

namespace Sys2Proof.Machine

/-! ### Places (R237) -/

/-- Locates a range for a transfer: ok says which spaces are allowed, the others raise a fabric-aperture fault; a fault anywhere
comes before a miss. -/
def fabGo (t : Team) (ok : List Nat) (need : Need) (atom : Bool) : Nat → Nat → Nat → State → Probed × State
  | 0, _, _, s => (.ok [], s)
  | fuel + 1, va, n, s =>
    if n = 0 then (.ok [], s)
    else
      let m := min n (pieceLen va)
      let w := (va - winBase 0) / 2 ^ 32
      if va < 2 ^ 57 && isWindow va && decide (w < 5) && (w == 0 || w == 4 || !ok.contains w) then (.bad 26 va, s)
      else
        match s.aim t 0 va need atom false with
        | (.bad c, s1) => (.bad c va, s1)
        | (.miss, s1) =>
          match fabGo t ok need atom fuel (va + m) (n - m) s1 with
          | (.bad c v, s2) => (.bad c v, s2)
          | (_, s2) => (.miss va, s2)
        | (.at' l _, s1) =>
          if !ok.contains l.space then (.bad 26 va, s1)
          else
            match fabGo t ok need atom fuel (va + m) (n - m) s1 with
            | (.ok segs, s2) => (.ok ({ loc := l, len := m } :: segs), s2)
            | other => other

/-- Checks and locates a range for a transfer; the last byte of a window range is checked too. -/
def State.fabProbe (s : State) (t : Team) (ok : List Nat) (va n : Nat) (need : Need) (atom : Bool) : Probed × State :=
  match fabGo t ok need atom (n / 256 + 2) va n s with
  | (.ok segs, s1) =>
    if isWindow va then
      match s1.aim t 0 (va + n - 1) need false false with
      | (.bad c, s2) => (.bad c (va + n - 1), s2)
      | (_, s2) => (.ok segs, s2)
    else (.ok segs, s1)
  | other => other

/-- Places of R237: sources and destinations of PUT, BULK and SEND, of GET, the source of RECV. -/
def putSrc : List Nat := [0, 1, 2, 3]
def putDst : List Nat := [0, 3, 7, 8]
def getSrc : List Nat := [0, 7]
def getDst : List Nat := [0, 1, 3]

/-- A source range and a destination range located together: a fault in either comes before a miss in either. -/
def State.fabBoth (s : State) (t : Team) (sok dok : List Nat) (src dst n : Nat) (atom : Bool) : (Probed × Probed) × State :=
  let (a, s1) := s.fabProbe t sok src n .read false
  let (b, s2) := s1.fabProbe t dok dst n .write atom
  ((a, b), s2)

/-- Whether a location lies on another device. -/
def isFar (l : Loc) : Bool := l.space == 7 || l.space == 8

/-- Whether two lists of segments share a byte of one memory: what is looped back to this device lies in its own (R294). -/
def segsMeet (self : Nat) (xs ys : List Seg) : Bool :=
  let own (l : Loc) : Loc := if l.space == 7 && l.x == self then { l with space := 0, x := 0 } else l
  xs.any (fun x => ys.any (fun y => (own x.loc).space == (own y.loc).space && (own x.loc).x == (own y.loc).x && x.loc.y == y.loc.y
    && decide (x.loc.addr < y.loc.addr + y.len) && decide (y.loc.addr < x.loc.addr + x.len)))

/-- A part of a list of segments. -/
def segSlice : List Seg → Nat → Nat → List Seg
  | [], _, _ => []
  | g :: gs, off, n =>
    if n = 0 then []
    else if g.len ≤ off then segSlice gs (off - g.len) n
    else
      let m := min n (g.len - off)
      { loc := { g.loc with addr := g.loc.addr + off }, len := m } :: segSlice gs 0 (n - m)

/-! ### Issue (R235-R242) -/

/-- A control word's fields (R235). -/
def ctlRctr (c : Nat) : Nat := bitsN c 63 48
def ctlLctr (c : Nat) : Nat := bitsN c 47 32

/-- Whether a counter reference has a reserved bit set (R52, R234). -/
def refBad (x : Nat) : Bool := bitsN x 14 13 != 0

/-- Whether a control word has a reserved bit set. -/
def ctlBad (c : Nat) : Bool := bitsN c 31 31 != 0 || bitsN c 11 9 != 0 || refBad (ctlRctr c) || refBad (ctlLctr c)

/-- The word a packet carries for its arrival: PDEN, PDSLOT, PDCORE as in the control word, and the phase number (R236). -/
def pdWord (c phase : Nat) : DWord := BitVec.ofNat 64 (phase % 65536 * 2 ^ 48 + bitsN c 30 16 * 2 ^ 16)

/-- The device where a location's data lies. -/
def State.devOf (s : State) (l : Loc) : Nat := if l.space == 7 then l.x else if l.space == 8 then s.mctRoot l.x else s.fab.self

/-- Records a transfer whose checks have passed: its translations are held, it counts on its path and its flag. -/
def State.openTransfer (s : State) (iss : Issue) (kind path : Nat) (f : Nat) (sq : Bool) (ctl src dst len : Nat) (ss ds : List Seg) (data : Marked) : State :=
  let t := iss.team
  let (id, s1) := s.fresh
  let here : Loc := { space := 0, x := 0, y := 0, addr := 0 }
  let x : Transfer := { id := id, kind := kind, team := t.id, ctx := iss.ctx, launch := t.launch, core := t.core, slot := t.slot
                        dev := s.devOf ((ds.head?.map (fun g => g.loc)).getD here), src := src, dst := dst, len := len, srcs := ss, dsts := ds
                        lctr := ctlLctr ctl, rctr := ctlRctr ctl, pd := pdWord ctl (s.phaseOf t)
                        pin := if bitsN ctl 15 15 == 1 then some (bitsN ctl 14 12) else none, flag := f, sq := sq, inst := id, formed := 0
                        packets := [], status := 0, stalled := none, data := data, counted := false }
  let s2 := s1.updFab (fun q => { q with transfers := q.transfers ++ [x] })
  ((s2.updTeam t.id (fun t => t.countPaths [path] id)).raiseFlag t.id f).irreversible t.id

/-- The checks and waits of a transfer from its addresses on, then its record (R236, R237). -/
def xferIssue (s : State) (iss : Issue) (fb sq : Bool) (kind ctl src dst len : Nat) (data : Marked) (pop : State → State) : Eff :=
  let t := iss.team
  let f := selFlag iss fb
  let sok := if kind == 1 then getSrc else putSrc
  let dok := if kind == 1 then getDst else putDst
  let ((a, b), s1) := if kind == 3 then
      let (b, s1) := s.fabProbe t dok dst len .write false
      ((Probed.ok [], b), s1)
    else s.fabBoth t sok dok src dst len false
  match a, b with
  | .bad c v, _ => .stop c 0 v 0
  | _, .bad c v => .stop c 0 v 0
  | .miss v, _ => .wait (.page v 0) (s1.pageMiss iss.ctx v 0)
  | _, .miss v => .wait (.page v 0) (s1.pageMiss iss.ctx v 4)
  | .ok ss, .ok ds =>
    let near := ds.any (fun g => !isFar g.loc)
    let out (r : Nat) : Bool := refOn r && (match s.ctx? iss.ctx with | some c => !refIn c r | none => true)
    let path := if (ss ++ ds).any (fun g => isFar g.loc) then 4 else ((ds.head?).map (fun g => g.loc.path)).getD 0
    if kind == 2 && segsMeet s.fab.self ss ds then .stop 26 0 dst 0
    else if near && out (ctlRctr ctl) then .stop 27 0 (ctlRctr ctl) 0
    else if !t.pathRoom [path] || s.acquiring t || (kind != 3 && s.unsettled t src len) then .wait .none s
    else .done ((pop s1).openTransfer iss kind path f sq ctl src dst len ss ds data)

/-- The checks of a control word before its addresses. -/
def ctlGate (s : State) (iss : Issue) (ctl : Nat) (ok : Bool) (k : Eff) : Eff :=
  if ctlBad ctl || !ok then .stop 25 0 ctl 0
  else if refOn (ctlLctr ctl) && (match s.ctx? iss.ctx with | some c => !refIn c (ctlLctr ctl) | none => true) then .stop 27 0 (ctlLctr ctl) 0
  else k

/-- Whether n bytes at an address lie in one line. -/
def oneLine (va n : Nat) : Bool := decide (va % 256 + n ≤ 256)

/-- PUT (R240). -/
def execPut (fb sq : Bool) (d a b : Reg) (s : State) : Host.Outcome State Fault Refusal :=
  run (.put fb sq d a b) s (fun iss s =>
    match iss.low with
    | none => .done s
    | some l =>
      let ctl := teamReg iss false l d
      let dst := teamReg iss true l a
      let src := teamReg iss true l b
      let n := ctl % 512
      if !flagRoom iss (selFlag iss fb) then .wait .none s
      else if anyTag iss l [a, b] then .done (s.consumeBy iss.team)
      else ctlGate s iss ctl (decide (1 ≤ n ∧ n ≤ 256) && oneLine dst n && oneLine src n) (xferIssue s iss fb sq 0 ctl src dst n [] id))

/-- GET (R240). -/
def execGet (fb sq : Bool) (d a b : Reg) (s : State) : Host.Outcome State Fault Refusal :=
  run (.get fb sq d a b) s (fun iss s =>
    match iss.low with
    | none => .done s
    | some l =>
      let ctl := teamReg iss false l d
      let dst := teamReg iss true l a
      let src := teamReg iss true l b
      let n := ctl % 512
      if !flagRoom iss (selFlag iss fb) then .wait .none s
      else if anyTag iss l [a, b] then .done (s.consumeBy iss.team)
      else ctlGate s iss ctl (decide (1 ≤ n ∧ n ≤ 256) && oneLine dst n && oneLine src n && !refOn (ctlRctr ctl))
        (xferIssue s iss fb sq 1 ctl src dst n [] id))

/-- A scalar of the run that starts at a register. -/
def scalarAt (iss : Issue) (d : Reg) (i : Nat) : Nat :=
  match d with
  | .s r => (iss.team.s (r.val + i)).toNat
  | .v _ => 0
  | .q _ => 0
/-- Whether one of n scalars from a register on is tagged. -/
def scalarTag (iss : Issue) (d : Reg) (is : List Nat) : Bool :=
  match d with
  | .s r => is.any (fun i => NSet.has iss.team.stag (r.val + i))
  | .v _ => false
  | .q _ => false

/-- BULK (R241). -/
def execBulk (fb sq : Bool) (d : Reg) (s : State) : Host.Outcome State Fault Refusal :=
  run (.bulk fb sq d) s (fun iss s =>
    match iss.low with
    | none => .done s
    | some _ =>
      let len := scalarAt iss d 2
      let ctl := scalarAt iss d 3
      if !flagRoom iss (selFlag iss fb) then .wait .none s
      else if scalarTag iss d [0, 1] then .done (s.consumeBy iss.team)
      else ctlGate s iss ctl (decide (1 ≤ len ∧ len < 2 ^ 32)) (xferIssue s iss fb sq 2 ctl (scalarAt iss d 0) (scalarAt iss d 1) len [] id))

/-- SEND (R242): it waits for its entries of q4 and pops them when it issues. -/
def execSend (fb sq : Bool) (d a : Reg) (s : State) : Host.Outcome State Fault Refusal :=
  run (.send fb sq d a) s (fun iss s =>
    match iss.low with
    | none => .done s
    | some l =>
      let ctl := teamReg iss false l d
      let dst := teamReg iss true l a
      let n := ctl % 512
      let q := (iss.team.port 12).q
      if !flagRoom iss (selFlag iss fb) then .wait .none s
      else if anyTag iss l [a] then .done (s.consumeBy iss.team)
      else ctlGate s iss ctl (decide (8 ≤ n ∧ n ≤ 64) && n % 8 == 0)
        (if dst % 64 != 0 then .stop 15 0 dst 0
        else if q.length < n / 8 then .wait .none s
        else xferIssue s iss fb sq 3 ctl 0 dst n (markAll false ((q.take (n / 8)).flatMap (fun x => leBytes 8 x.toNat)))
          (fun s => s.updTeam iss.tid (fun t => t.setPort 12 { t.port 12 with q := (t.port 12).q.drop (n / 8) }))))

/-- RECV (R242): one sync-acquire access of 64 bytes, pushed to the receive side of q4. -/
def execRecv (a : Reg) (s : State) : Host.Outcome State Fault Refusal :=
  run (.recv a) s (fun iss s =>
    match iss.low with
    | none => .done s
    | some l =>
      let t := iss.team
      let va := teamReg iss true l a
      if anyTag iss l [a] then .done (s.consumeBy t)
      else if va % 64 != 0 then .stop 15 0 va 0
      else if portDepth 4 < (t.port 4).q.length + 8 then .wait .none s
      else
        match s.fabProbe t getDst va 64 .read false with
        | (.bad c v, _) => .stop c 0 v 0
        | (.miss v, s1) => .wait (.page v 0) (s1.pageMiss iss.ctx v 0)
        | (.ok segs, s1) =>
          let path := ((segs.head?).map (fun g => g.loc.path)).getD 0
          let busy := (segLocs segs).any (fun l => (NMap.look s.mem.owned l.key).isSome)
          if s.acquiring t || s.unsettled t va 64 || busy || !t.pathRoom [path]
              || s.reqs.any (fun r => r.team == t.id && r.op.isLoad && r.parts.any (fun q => q.va / 256 == va / 256)) then .wait .none s
          else
            let s2 := (segLines segs).foldl (fun (s : State) l => (s.flushLine t.id l).combineLine l) (s1.countOnce t.id path)
            let (bs, s3) := segs.foldl (fun ((bs, s) : Marked × State) g =>
              let (b, s') := if g.loc.space == 0 then s.loadBytes t .home g.loc.addr g.len else s.engineSeg none g
              (bs ++ b, s')) (([] : Marked), s2)
            let ds : List DWord := (List.range 8).map (fun i => BitVec.ofNat 64 (leNat (bytesOf ((bs.drop (8 * i)).take 8))))
            let s4 := s3.updTeam t.id (fun t => { t.setPort 4 { t.port 4 with q := (t.port 4).q ++ ds } with acq := s3.mem.seq })
            .done (if anyMarked bs then s4.consumeBy t else s4))

/-! ### Ports queried (R243, R244) -/

/-- FXQRY's word for a team. -/
def State.portWord (s : State) (tid p : Nat) : Nat :=
  let x := s.port p
  x.up.toNat * 2 ^ 63 + x.degraded.toNat * 2 ^ 62 + x.retrain.toNat * 2 ^ 61 + x.half.toNat * 2 ^ 60 + x.laneOk % 2 ^ 16 * 2 ^ 44
    + min 1023 (s.fab.transfers.filter (fun x => x.team == tid)).length

/-- FXQRY (R243). -/
def execFxqry (d : Reg) (b : Src) (s : State) : Host.Outcome State Fault Refusal :=
  run (.fxqry d b) s (fun iss s =>
    match iss.low with
    | none => .done s
    | some l =>
      let p := teamSrc iss false l b
      if 7 < p then .stop 25 0 p 0 else .done (writeWide s iss d (s.portWord iss.tid p) false))

/-- A q3 command, of the kind asked for or of any other (R244). -/
def fabricCommand (s : State) (team : Nat) (query : Bool) : Host.Outcome State Fault Refusal :=
  match s.team? team with
  | none => .next s
  | some t =>
    match t.command 3 with
    | none => .next s
    | some (x, t') =>
      if (x / 2 ^ 60 % 16 == 1) != query then .next s
      else if query then .next (s.updTeam team (fun _ => t'.replyRaw 3 (BitVec.ofNat 64 (s.portWord team (x % 8)))))
      else .next (s.updTeam team (fun _ => t'.reply 3 (BitVec.ofNat 64 (0xFF * 2 ^ 56 + s.clk % 2 ^ 48)) 55))

/-- FABRIC_QUERY_COMMAND (R244). -/
def execFabricQueryCommand (team : Nat) (s : State) : Host.Outcome State Fault Refusal := fabricCommand s team true

/-- FABRIC_BAD_COMMAND (R244). -/
def execFabricBadCommand (team : Nat) (s : State) : Host.Outcome State Fault Refusal := fabricCommand s team false

/-! ### Completion (R239, R375, R376) -/

/-- A transfer changed. -/
def State.updXfer (s : State) (x : Transfer) : State :=
  s.updFab (fun f => { f with transfers := f.transfers.map (fun y => if y.id == x.id then x else y) })

/-- Whether a transfer fails: it forms no further packet (R388). -/
def Transfer.failing (x : Transfer) : Bool := x.status != 0 && x.status != 3

/-- Major opcode of a kind. -/
def xferOp (kind : Nat) : Nat := 0xA0 + kind

/-- The end of a transfer: its path count and flag fall, LCTR rises unless it failed, its status is pushed, a status other than 0
is reported once. -/
def State.endTransfer (s : State) (x : Transfer) : State :=
  let s1 := s.updFab (fun f => { f with transfers := f.transfers.filter (fun y => y.id != x.id) })
  let s2 := (s1.lowerFlag x.team x.flag).retire x.team
  let s3 := if x.failing then s2 else s2.addRef x.lctr (if x.kind == 3 then 1 else x.len)
  let s4 := if x.sq then s3.updTeam x.team (fun t => t.reply 3 (BitVec.ofNat 64 (xferOp x.kind * 2 ^ 56 + x.status * 2 ^ 52 + s.clk % 2 ^ 48)) 55) else s3
  if x.status == 0 || x.status == 5 then s4 else s4.event x.ctx 13 x.core x.slot x.status x.dst x.dev

/-- Ends a transfer that has no packet out and none left to form. -/
def State.xferTest (s : State) (x : Transfer) : State :=
  if x.packets.isEmpty && (x.failing || decide (x.len ≤ x.formed)) then s.endTransfer x else s.updXfer x

/-- Engine and fabric bytes of a launch that have landed (R376). -/
def State.noteLanded (s : State) (launch n : Nat) : State := s.updLaunch launch (fun l => { l with landed := l.landed + n })

/-- A packet has ended with a status: 0 landed, 1 refused, 2 unreachable, 3 landed with its counter refused, 4 its port stayed
down. -/
def State.packetEnd (s : State) (x : Transfer) (num len st : Nat) : State :=
  let s1 := if st == 0 || st == 3 then s.noteLanded x.launch len else s
  s1.xferTest { x with packets := x.packets.filter (fun k => k.num != num)
                       status := if x.status == 0 || (x.status == 3 && st != 0) then st else x.status }

/-! ### Landing on this device -/

/-- An engine write of consecutive bytes of one line (R214, R238): none while a lock or an engine holds the line. -/
def State.writeHere (s : State) (by' : Writer) (l : Loc) (data : Marked) : Option State :=
  if (NMap.look s.mem.owned l.key).isSome || (l.space == 0 && (s.lockAt l.addr).isSome) then none
  else if l.space == 0 then some ((s.claimLine (lineOf l.addr)).homeWriteM by' l.addr data)
  else some ((markRuns l.addr data).foldl (fun (s : State) r => s.updStore l (fun c => c.write r.1 r.2.1 r.2.2)) s)

/-- Marks carried by a transfer are consumed once (R352). -/
def State.consumeXfer (s : State) (x : Transfer) (data : Marked) : State :=
  if x.counted || !anyMarked data then s
  else match s.team? x.team with
    | some t => s.consumeBy t
    | none => s
def Transfer.eat (x : Transfer) (data : Marked) : Transfer := { x with counted := x.counted || anyMarked data }

/-- Whether one of the lines of some segments is being written by an engine. -/
def State.segsBusy (s : State) (segs : List Seg) : Bool := (segLocs segs).any (fun l => (NMap.look s.mem.owned l.key).isSome)

/-- The data of a packet: of a message its entries, of a GET from local HBM a sync-relaxed load's, else a plain load's by the
issuing team (R238). none while an engine writes the source. -/
def State.packetData (s : State) (x : Transfer) (off n : Nat) : Option (Marked × State) :=
  if x.kind == 3 then some (x.data, s)
  else
    let segs := segSlice x.srcs off n
    if s.segsBusy segs then none
    else some (State.engineRead s (coreDie x.core) (if x.kind == 1 then none else s.team? x.team) segs)

/-- Lands a packet on this device with its counter and its arrival: the arrival with the last one (R240, R241). -/
def State.landPacket (s : State) (x : Transfer) (l : Loc) (off n : Nat) (data : Marked) : Option State :=
  match s.writeHere (some (x.ctx, x.launch)) l data with
  | none => none
  | some s1 =>
    let s2 := if x.kind == 1 then s1 else s1.addRef x.rctr (if x.kind == 3 then 1 else n)
    let last := x.packets.all (fun k => k.port == 8) && decide (x.len ≤ off + n)
    some (if last && x.pd.getLsbD 30 then s2.arrival (dw x.pd 23 16) (dw x.pd 29 24) (dw x.pd 63 48) else s2)

/-! ### Forming packets (R239, R241, R388) -/

/-- Offset and length of a transfer's next packet: cut at the lines of the destination. -/
def Transfer.nextCut (x : Transfer) : Nat × Nat := (x.formed, min (256 - (x.dst + x.formed) % 256) (x.len - x.formed))

/-- The location that the far side of a packet has. -/
def Transfer.farLoc (x : Transfer) (off : Nat) : Option Loc := ((segSlice (if x.kind == 1 then x.srcs else x.dsts) off 1).head?).map (fun g => g.loc)
/-- The location where a packet's data lands. -/
def Transfer.dstLoc (x : Transfer) (off : Nat) : Option Loc := ((segSlice x.dsts off 1).head?).map (fun g => g.loc)

/-- The request a packet makes of a device that is this one: a loop-back, or a group rooted here. -/
def Transfer.request (s : State) (x : Transfer) (l : Loc) (num off n : Nat) (data : Marked) : InboundReq :=
  let last := decide (x.len ≤ off + n)
  { src := s.fab.self, seq := x.id * 2 ^ 32 + num, kind := (match x.kind with | 0 => .put | 1 => .get | 2 => .bulk | _ => .send)
    addr := if l.space == 8 then groupAddr l.x l.addr else BitVec.ofNat 64 l.addr, etype := 0
    data := if x.kind == 1 then List.replicate n (0, false) else data, rctr := BitVec.ofNat 64 x.rctr
    pd := if last then x.pd else 0 }

/-- A packet leaves by a port. -/
def State.sendPacket (s : State) (x : Transfer) (num off n port dev : Nat) : State :=
  let k : Packet := { num := num, off := off, len := n, port := port, path := s.choosePath port dev, since := s.clk, resends := 0 }
  (s.updXfer { x with formed := off + n, packets := x.packets ++ [k], stalled := none }).sendFlits port (if x.kind == 1 then 0 else n)

/-- PACKET_FORM for a packet whose far side is here. -/
def State.formHere (s : State) (x : Transfer) (l : Loc) (num off n : Nat) : State :=
  match s.packetData x off n with
  | none => s
  | some (data, s1) =>
    if isFar l then
      match s1.inbound (x.request s1 l num off n data) with
      | none => s
      | some ((st, out), s2) =>
        let k : Packet := { num := num, off := off, len := n, port := 8, path := 0, since := s.clk, resends := 0 }
        let y : Transfer := { x with formed := off + n, packets := x.packets ++ [k] }.eat (data ++ out)
        if s2.forwarding (x.id * 2 ^ 32 + num) then (s2.updXfer y).consumeXfer x data
        else if x.kind == 1 && (st == 0 || st == 3) then
          match x.dstLoc off with
          | none => s
          | some dl => match s2.landPacket x dl off n out with
            | none => s
            | some s3 => ((s3.updXfer y).consumeXfer x out).packetEnd y num n st
        else ((s2.updXfer y).consumeXfer x data).packetEnd y num n st
    else
      match x.dstLoc off with
      | none => s
      | some dl =>
        match s1.landPacket x dl off n data with
        | none => s
        | some s2 =>
          let y : Transfer := { x with formed := off + n }.eat data
          ((s2.updXfer y).consumeXfer x data).packetEnd y num n 0

/-- PACKET_FORM for a packet to another device. -/
def State.formFar (s : State) (x : Transfer) (dev num off n : Nat) : State :=
  let read : Option (Marked × State) := if x.kind == 1 then some ([], s) else s.packetData x off n
  match read with
  | none => s
  | some (data, s1) =>
    let go (s : State) (p : Nat) : State := if s.portTakes p then (s.sendPacket (x.eat data) num off n p dev).consumeXfer x data else s
    match x.pin with
    | some p =>
      let (e, s2) := s1.route p dev
      if !routeOk e then s2.xferTest { x with status := 2 }
      else if (s2.port p).up then
        go s2 p
      else if (s2.port p).retrain || x.stalled.isSome then s
      else s.updXfer { x with stalled := some s.clk }
    | none =>
      match s1.choosePort (coreDie x.core) dev (fun _ => false) with
      | (.port p, s2) => go s2 p
      | (.waits, _) => s
      | (.none, s2) => s2.xferTest { x with status := 2 }

/-- An answer that waited for its line lands. -/
def State.landAnswer (s : State) (x : Transfer) (k : Packet) (data : Marked) : State :=
  match x.dstLoc k.off with
  | none => s
  | some l =>
    let x' : Transfer := { x with packets := x.packets.filter (fun y => y.num != k.num), data := [] }.eat data
    match s.landPacket x' l k.off k.len data with
    | none => if x.data.isEmpty then s.updXfer { x with data := data } else s
    | some s1 => ((s1.updXfer x').consumeXfer x data).packetEnd x' k.num k.len 0

/-- PACKET_FORM (R239, R388): the next packet of a transfer. -/
def execPacketForm (transfer : Nat) (s : State) : Host.Outcome State Fault Refusal :=
  match s.fab.transfers.find? (fun x => x.id == transfer) with
  | none => .next s
  | some x =>
    match (if x.kind == 1 && !x.data.isEmpty then x.packets.head? else none) with
    | some k => .next (s.landAnswer x k x.data)
    | none =>
      if x.failing || decide (x.len ≤ x.formed) then .next s
      else
        let (off, n) := x.nextCut
        -- the packet that brings the one arrival lands here once those to other devices have landed (R241)
        if decide (x.len ≤ off + n) && x.pd.getLsbD 30 && x.packets.any (fun k => k.port != 8)
            && (match x.dstLoc off with | some l => !isFar l || s.devOf l == s.fab.self | none => false) then .next s
        else
        match x.farLoc off with
        | none => .next s
        | some l =>
          if isFar l && s.devOf l != s.fab.self then .next (s.formFar x (s.devOf l) (off + 1) off n)
          else .next (s.formHere x l (off + 1) off n)

/-- PACKET_ACK (R239, R375): a target's acknowledgement, or the data of a GET. -/
def execPacketAck (transfer packet status : Nat) (data : Marked) (s : State) : Host.Outcome State Fault Refusal :=
  match s.fab.transfers.find? (fun x => x.id == transfer) with
  | none => .next s
  | some x =>
    match x.packets.find? (fun k => k.num == packet && k.port != 8) with
    | none => .next s
    | some k =>
      if !(status == 0 || status == 1 || status == 3) then .next s
      else
        let dev := match x.farLoc k.off with | some l => s.devOf l | none => x.dev
        let s1 := s.scoreAck k.port dev k.path
        if x.kind == 1 && status != 1 then
          if data.length != k.len || !x.data.isEmpty then .next s else .next (s1.landAnswer x k data)
        else .next (s1.packetEnd x packet k.len status)

/-- Marks a path failed for 1 ms, its score held at 15 (R374). -/
def State.markPath (s : State) (port dev path : Nat) : State :=
  let k := pathKey port dev path
  s.updFab (fun f => { f with marks := NMap.put f.marks k (s.clk + 1000 * usCycles), scores := NMap.put f.scores k 15 })

/-- The next way for a resend: an unfailed path of the same plane in order, else another plane unless the packet is pinned. -/
def State.nextWay (s : State) (pinned : Bool) (die : Nat) (k : Packet) (dev : Nat) : Option (Nat × Nat) × State :=
  match (List.range 5).find? (fun i => !s.failedPath k.port dev i) with
  | some i => (some (k.port, i), s)
  | none =>
    if pinned then (none, s)
    else
      match s.choosePort die dev (fun p => (List.range 5).all (fun i => s.failedPath p dev i)) with
      | (.port p, s1) => (((List.range 5).find? (fun i => !s.failedPath p dev i)).map (fun i => (p, i)), s1)
      | (_, s1) => (none, s1)

/-- Cycles of the end-to-end timeout, and the resends (R374). -/
def State.e2eCycles (s : State) : Nat := max 1 (dw (s.reg .fyE2e) 15 0) * usCycles
def State.e2eResends (s : State) : Nat := max 1 (dw (s.reg .fyE2e) 19 16)

/-- A packet of n bytes of payload that has timed out: it is sent again another way, or is unreachable: none (R374). -/
def State.resend (s : State) (die dev : Nat) (k : Packet) (n : Nat) : Option (Packet × State) :=
  if s.e2eResends ≤ k.resends then none
  else
    match (s.markPath k.port dev k.path).nextWay false die k dev with
    | (none, _) => none
    | (some (q, i), s1) => some ({ k with port := q, path := i, since := s.clk, resends := k.resends + 1 }, s1.sendFlits q n)

/-- Whether the timeout of a packet has passed; it is held while its port retrains (R388). -/
def State.timedOut (s : State) (k : Packet) : Bool := !(s.port k.port).retrain && decide (k.since + s.e2eCycles ≤ s.clk)

/-- The timeout of the packet of a team's request. -/
def State.reqTimeout (s : State) (r : Req) : State :=
  match r.via, s.team? r.team, r.parts with
  | some k, some t, p :: _ =>
    match (s.aim t p.lane p.va r.op.need r.op.isAtomic r.op.isLd64).1 with
    | .at' l _ =>
      if r.place != .remote || !s.timedOut k then s
      else match s.resend (coreDie t.core) (s.awayDev l) k k.len with
        | none => s.reqFault r 26 1
        | some (k', s1) => { s1 with reqs := s1.reqs.map (fun x => if x.id == r.id then { x with via := some k' } else x) }
    | _ => s
  | _, _, _ => s

/-- END_TO_END_TIMEOUT (R374, R375, R388): of a packet of a transfer, or of a team's request; packet 0 stands for the packet that a transfer
pinned to a port that is not UP has not formed. -/
def execEndToEndTimeout (transfer packet : Nat) (s : State) : Host.Outcome State Fault Refusal :=
  match s.fab.transfers.find? (fun x => x.id == transfer) with
  | none => .next (match s.reqs.find? (fun r => r.id == transfer) with | some r => s.reqTimeout r | none => s)
  | some x =>
    if packet == 0 then
      match x.stalled, x.pin with
      | some t, some p =>
        if (s.port p).up || (s.port p).retrain || s.clk < t + s.e2eCycles then .next s else .next (s.xferTest { x with status := 4 })
      | _, _ => .next s
    else
      match x.packets.find? (fun k => k.num == packet && k.port != 8) with
      | none => .next s
      | some k =>
        let p := s.port k.port
        if p.retrain || s.clk < k.since + s.e2eCycles || (x.kind == 1 && !x.data.isEmpty) then .next s
        else if !p.up && x.pin.isSome then .next (s.packetEnd x packet k.len 4)
        else
          let dev := match x.farLoc k.off with | some l => s.devOf l | none => x.dev
          if s.e2eResends ≤ k.resends then .next (s.packetEnd x packet k.len 2)
          else
            match (s.markPath k.port dev k.path).nextWay x.pin.isSome (coreDie x.core) k dev with
            | (none, s1) => .next (s1.packetEnd x packet k.len 2)
            | (some (q, i), s1) =>
              let x' : Transfer := { x with packets := x.packets.map (fun y => if y.num == packet
                then { y with port := q, path := i, since := s.clk, resends := y.resends + 1 } else y) }
              .next ((s1.updXfer x').sendFlits q (if x.kind == 1 then 0 else k.len))

/-! ### Requests of peers, and multicast -/

/-- FYOLO_INBOUND (R294): the answer leaves for the peer; a request whose line is locked or held by an engine waits here. A management message
is answered as the mailbox answers its request (R308). -/
def execFyoloInbound (r : InboundReq) (s : State) : Host.Outcome State Fault Refusal :=
  match r.kind with
  | .spdm q => .next (s.spdm (some r.src) q)
  | _ =>
    match s.inbound r with
    | none =>
      let s1 := s.inboundStart r
      if s.fab.waiting.contains r then .next s1 else .next (s1.updFab (fun f => { f with waiting := f.waiting ++ [r] }))
    | some (_, s1) => .next (s1.updFab (fun f => { f with waiting := f.waiting.filter (fun x => x != r) }))

/-- MULTICAST_FORWARD (R298): the root forwards a request to its next member and has its acknowledgement, of a status that the
member decides (log 12); not before the member has acknowledged an earlier one to the same line. The last acknowledgement
completes the request at its issuer. -/
def execMulticastForward (mc : Nat) (s : State) : Host.Outcome State Fault Refusal :=
  match s.fab.mcast.find? (fun m => m.id == mc) with
  | none => .next s
  | some m =>
    match m.left with
    | [] => .next (s.updFab (fun f => { f with mcast := f.mcast.filter (fun x => x.id != mc) }))
    | dev :: rest =>
      let line (x : Mcast) : Nat := x.req.addr.toNat / 256
      if s.fab.mcast.any (fun x => decide (x.id < mc) && line x == line m && x.left.contains dev) then .next s
      else
        let (st, s1) := s.pick 3
        let worst := if m.status == 0 || m.status == 3 then (if st == 0 then m.status else st) else m.status
        if !rest.isEmpty then .next (s1.updFab (fun f => { f with mcast := f.mcast.map (fun x => if x.id == mc then { x with left := rest, status := worst } else x) }))
        else
          let s2 := s1.updFab (fun f => { f with mcast := f.mcast.filter (fun x => x.id != mc) })
          let owner := seqOwner m.req.seq
          if m.req.src != s.fab.self then .next s2
          else
            match s2.fab.transfers.find? (fun x => x.id == owner) with
            | some x =>
              let num := m.req.seq % 2 ^ 32
              match x.packets.find? (fun k => k.num == num) with
              | some k => .next (s2.packetEnd x num k.len worst)
              | none => .next s2
            | none =>
              match s2.reqs.find? (fun r => r.id == owner && r.place == .remote) with
              | none => .next (s2.updConj (fun c => { c with rounds := c.rounds.map (fun r => if r.id == owner && (r.status == 0 || (r.status == 3 && worst != 0))
                  then { r with status := worst } else r) }))
              | some r =>
                if worst != 0 && worst != 3 then
                  let (c, d1) := refusalCause worst
                  .next (takeFaultAt { s2 with reqs := s2.reqs.filter (fun x => x.id != r.id) } r.team r.entry r.pc c ((r.parts.head?.map (fun p => p.lane)).getD 0)
                    ((r.parts.head?.map (fun p => p.va)).getD 0) d1)
                else if s2.fab.mcast.any (fun x => x.req.src == s.fab.self && seqOwner x.req.seq == owner) then .next s2
                else .next (s2.deliver r r.answer)

end Sys2Proof.Machine
end

