-- ==== Sys2Proof/Machine/Conj.lean ====
section
/-! DEFINITION. The Conjunction Engine, 0xA8-0xAA (R245-R251): posting, cancelling and querying slots, the rounds it issues and
their completion. -/

namespace Sys2Proof.Machine

/-! ### Descriptors (R246-R248) -/

/-- Whether a slot lies in a context's range on a die (R245). -/
def Ctx.cjIn (c : Ctx) (die n : Nat) : Bool :=
  let r := NMap.getD c.cjRange die 0
  decide (dw r 12 0 ≤ n) && decide (n ≤ dw r 28 16)

/-- Fields of a descriptor. -/
def cjOp (d : List DWord) : Nat := descBits d 15 13
def cjLen (d : List DWord) : Nat := descBits d 255 224
def cjSrc (d : List DWord) : Nat := descBits d 312 256
def cjDst (d : List DWord) : Nat := descBits d 376 320
def cjRctr (d : List DWord) : Nat := descBits d 31 16
def cjDone (d : List DWord) : Nat := descBits d 47 32
def cjAop (d : List DWord) : Nat := descBits d 207 200
def cjType (d : List DWord) : Nat := descBits d 199 196
def cjTy (d : List DWord) : Ty := (Ty.ofCode (cjType d)).getD .s32

/-- Whether step 1 of R248 finds a fault. -/
def cjBad (d : List DWord) : Bool :=
  let op := cjOp d
  let len := cjLen d
  let ety := cjType d
  let reserved := descBits d 383 377 != 0 || descBits d 319 313 != 0 || descBits d 195 192 != 0
    || refBad (descBits d 63 48) || refBad (cjDone d) || refBad (cjRctr d)
  let putAcc := ety == 3 || ety == 4 || ety == 0 || ety == 11
  reserved || decide (5 < op)
    || (if op == 2 then cjAop d != 0 || !putAcc || len == 0 || len % (if ety == 11 then 8 else 4) != 0
        else if op == 3 then !(decide (0x64 ≤ cjAop d ∧ cjAop d ≤ 0x6C)) || (Ty.ofCode ety).isNone || !atomTypes (cjTy d) (cjAop d - 0x64)
          || len != 0 || cjDst d == 0
        else cjAop d != 0 || ety != 0
          || (if op ≤ 1 then len == 0 else if op == 4 then !(decide (8 ≤ len ∧ len ≤ 64)) || len % 8 != 0 else len != 0 || !refOn (cjRctr d)))

/-- Bytes at DST that a round reaches, and at SRC. -/
def cjDstLen (d : List DWord) : Nat := if cjOp d == 3 then (cjTy d).width / 8 else if cjOp d == 5 then 0 else cjLen d
def cjSrcLen (d : List DWord) : Nat := if cjOp d == 3 then (if cjSrc d == 0 then 0 else (cjTy d).width / 8) else if cjOp d == 5 then 0 else cjLen d

/-- Whether step 4 of R248 finds a misaligned end. -/
def cjMisaligned (d : List DWord) : Bool :=
  let w := (cjTy d).width / 8
  if cjOp d == 2 || cjOp d == 3 then cjSrc d % w != 0 || cjDst d % w != 0
  else if cjOp d == 4 then cjSrc d % 64 != 0 || cjDst d % 64 != 0
  else false

/-- Whether an enabled counter reference lies outside a context's ranges. -/
def refOut (c : Ctx) (r : Nat) : Bool := refOn r && !refIn c r

/-- A slot's state in two bits. -/
def cjStCode : CjSt → Nat
  | .free => 0 | .armed => 1 | .firing => 2 | .closing => 3

/-- CJQRY's word of a slot (R251): a Free slot reads as zero. -/
def State.cjWord (s : State) (key : Nat) : Nat :=
  match NMap.look s.conj.slots key with
  | none => 0
  | some x => cjStCode x.st * 2 ^ 62 + cjOp x.desc * 2 ^ 59 + x.issued % 65536 * 2 ^ 40 + min 255 x.flight * 2 ^ 32 + x.thresh % 2 ^ 32

/-- A word for q2 (R251). -/
def cjReply (op status die slot clk : Nat) : DWord :=
  BitVec.ofNat 64 (op * 2 ^ 56 + status * 2 ^ 52 + die * 2 ^ 45 + slot * 2 ^ 32 + clk % 2 ^ 32)

/-! ### Slots (R249) -/

/-- A slot changed; a slot that becomes Free is no longer listed. -/
def State.setCj (s : State) (key : Nat) (x : CjSlot) : State :=
  s.updConj (fun c => { c with slots := if x.st == .free then NMap.del c.slots key else NMap.put c.slots key x })

/-- A Closing slot with no round in flight becomes Free. -/
def CjSlot.settled (x : CjSlot) : CjSlot := if x.st == .closing && x.flight == 0 then { x with st := .free } else x

/-- CJCANCEL's status and effect. -/
def State.cjCancel (s : State) (key : Nat) : Nat × State :=
  match NMap.look s.conj.slots key with
  | none => (2, s)
  | some x =>
    match x.st with
    | .armed => (0, s.setCj key { x with st := .closing, ends := true }.settled)
    | .firing => (1, s.setCj key { x with ends := true })
    | .closing => (2, s)
    | .free => (2, s)

/-- The eight scalars of a descriptor. -/
def cjDesc (iss : Issue) (d : Reg) : List DWord := (List.range 8).map (fun i => BitVec.ofNat 64 (scalarAt iss d i))

/-- Arms a slot that is Free (R248), or answers 1. -/
def State.cjArm (s : State) (iss : Issue) (key : Nat) (d : List DWord) (ss ds : List Seg) : Nat × State :=
  if (NMap.look s.conj.slots key).isSome then (1, s)
  else
    let x : CjSlot := { st := .armed, ctx := iss.ctx, desc := d, srcs := ss, dsts := ds, issued := 0, flight := 0, thresh := descBits d 127 64
                        phase := s.phaseOf iss.team, ends := false }
    (0, ((s.setCj key x).irreversible iss.tid).slotTest key)

/-- Pages of a descriptor (R248 step 5): the faults and misses of SRC and DST. -/
def State.cjProbe (s : State) (t : Team) (d : List DWord) : (Probed × Probed) × State :=
  let op := cjOp d
  let atom := op == 2 || op == 3
  if op == 5 then ((.ok [], .ok []), s)
  else
    let (b, s1) := s.fabProbe t (if op == 1 then getDst else putDst) (cjDst d) (cjDstLen d) (if op == 3 then .both else .write) atom
    let (a, s2) := if cjSrcLen d == 0 then (Probed.ok [], s1)
      else s1.fabProbe t (if op == 1 then getSrc else putSrc) (cjSrc d) (cjSrcLen d) (if op == 3 then .write else .read) false
    ((a, b), s2)

/-- CJPOST (R248). -/
def execCjpost (fb sq : Bool) (d : Reg) (s : State) : Host.Outcome State Fault Refusal :=
  run (.cjpost fb sq d) s (fun iss s =>
    match iss.low, s.ctx? iss.ctx with
    | some _, some c =>
      let t := iss.team
      let x := cjDesc iss d
      let d0 := (x.headD 0).toNat
      let die := refDie (descBits x 63 48)
      let slot := descBits x 12 0
      let tentative := match s.launch? t.launch with | some q => q.tentative | none => false
      if !flagRoom iss (selFlag iss fb) then .wait .none s
      else if scalarTag iss d [4, 5] then .done (s.consumeBy t)
      else if cjBad x then .stop 28 0 d0 0
      else if !refOn (descBits x 63 48) then .stop 29 0 (descBits x 63 48) 0
      else if !c.cjIn die slot then .stop 29 0 (die * 8192 + slot) 0
      else if refOut c (descBits x 63 48) then .stop 27 0 (descBits x 63 48) 0
      else if refOut c (cjDone x) then .stop 27 0 (cjDone x) 0
      else if (cjOp x == 1 || cjOp x == 5) && refOut c (cjRctr x) then .stop 27 0 (cjRctr x) 0
      else if cjMisaligned x then .stop 15 0 (cjDst x) 0
      else
        match s.cjProbe t x with
        | ((.bad k v, _), _) => .stop k 0 v 0
        | ((_, .bad k v), _) => .stop k 0 v 0
        | ((.miss v, _), s1) => .wait (.page v 0) (s1.pageMiss iss.ctx v (if cjOp x == 3 then 4 else 0))
        | ((_, .miss v), s1) => .wait (.page v 0) (s1.pageMiss iss.ctx v (if cjOp x == 2 || cjOp x == 3 then 5 else 4))
        | ((.ok ss, .ok ds), s1) =>
          if cjOp x != 1 && cjOp x != 5 && ds.any (fun g => !isFar g.loc) && refOut c (cjRctr x) then .stop 27 0 (cjRctr x) 0
          else if tentative || s.acquiring t then .wait .none s
          else
            let (st, s2) := s1.cjArm iss (cjKey die slot) x ss ds
            .done (if sq then s2.updTeam t.id (fun t => t.reply 2 (cjReply 0xA8 st die slot s.clk) 55) else s2)
    | _, _ => .done s)

/-- The slot reference of CJCANCEL and CJQRY (R245). -/
def withSlot (iss : Issue) (s : State) (a : Reg) (k : Nat → Eff) : Eff :=
  match iss.low, s.ctx? iss.ctx with
  | some l, some c =>
    let r := teamReg iss false l a
    if r / 2 ^ 14 != 0 then .stop 28 0 r 0
    else if !c.cjIn (r / 8192) (r % 8192) then .stop 29 0 r 0
    else k (cjKey (r / 8192) (r % 8192))
  | _, _ => .done s

/-- CJCANCEL (R249). -/
def execCjcancel (d a : Reg) (s : State) : Host.Outcome State Fault Refusal :=
  run (.cjcancel d a) s (fun iss s => withSlot iss s a (fun key =>
    let (st, s1) := s.cjCancel key
    .done (writeStatus (if st < 2 then s1.irreversible iss.tid else s1) iss d st)))

/-- CJQRY (R251). -/
def execCjqry (d a : Reg) (s : State) : Host.Outcome State Fault Refusal :=
  run (.cjqry d a) s (fun iss s => withSlot iss s a (fun key => .done (writeWide s iss d (s.cjWord key) false)))

/-- A q2 command. -/
def conjCommand (s : State) (team : Nat) (query : Bool) : Host.Outcome State Fault Refusal :=
  match s.team? team with
  | none => .next s
  | some t =>
    match t.command 2, s.ctx? (s.ctxOf t.launch) with
    | some (x, t'), some c =>
      let ok := x / 2 ^ 60 % 16 == 1 && c.cjIn (x / 8192 % 2) (x % 8192)
      if ok != query then .next s
      else if ok then .next (s.updTeam team (fun _ => t'.replyRaw 2 (BitVec.ofNat 64 (s.cjWord (x % 16384)))))
      else .next (s.updTeam team (fun _ => t'.reply 2 (cjReply 0xFF 0 0 0 s.clk) 55))
    | _, _ => .next s

/-- CONJUNCTION_QUERY_COMMAND (R251). -/
def execConjunctionQueryCommand (team : Nat) (s : State) : Host.Outcome State Fault Refusal := conjCommand s team true

/-- CONJUNCTION_BAD_COMMAND (R251): a slot outside the context's range, or any other command. -/
def execConjunctionBadCommand (team : Nat) (s : State) : Host.Outcome State Fault Refusal := conjCommand s team false

/-! ### Rounds (R247, R249) -/

/-- Whether a round's window places and local counters lie in the context's ranges as they now stand (R249). -/
def State.roundOk (s : State) (r : CjRound) : Bool :=
  match s.ctx? r.ctx with
  | none => false
  | some c =>
    let near := cjOp r.desc == 1 || cjOp r.desc == 5 || r.dsts.any (fun g => !isFar g.loc)
    let place (g : Seg) : Bool :=
      if g.loc.space == 3 then
        let d := g.loc.addr / 2 ^ 25
        decide (c.cspLo d ≤ g.loc.addr % 2 ^ 25 / 65536) && decide ((g.loc.addr % 2 ^ 25 + g.len - 1) / 65536 ≤ c.cspHi d)
      else if g.loc.space == 1 || g.loc.space == 2 then (s.group? g.loc.x g.loc.y).isSome
      else true
    !refOut c (cjDone r.desc) && !(near && refOut c (cjRctr r.desc)) && (r.srcs ++ r.dsts).all place

/-- Device a round's data goes to. -/
def State.roundDev (s : State) (r : CjRound) : Nat := s.devOf (((r.dsts.head?).map (fun g => g.loc)).getD { space := 0, x := 0, y := 0, addr := 0 })

/-- A round completes with a status: DONE rises by 1 unless it failed; a failed one ends its slot; a status other than 0 is
reported (R247, R375, R376). -/
def State.roundEnd (s : State) (r : CjRound) (status : Nat) : State :=
  let s1 := s.updConj (fun c => { c with rounds := c.rounds.filter (fun x => x.id != r.id) })
  let failed := status != 0 && status != 3
  let s2 := if failed then s1 else s1.addRef (cjDone r.desc) 1
  let s3 := if status == 0 then s2 else s2.event r.ctx 13 0 0 status r.key (s.roundDev r)
  match NMap.look s3.conj.slots r.key with
  | none => s3
  | some x =>
    let y : CjSlot := { x with flight := x.flight - 1 }
    if failed then
      let s4 := s3.updConj (fun c => { c with queue := c.queue.map (fun e => (e.1, e.2.filter (· != r.key))) })
      s4.setCj r.key { y with st := .closing, ends := true }.settled
    else s3.setCj r.key y.settled

/-- A round changed. -/
def State.updRound (s : State) (r : CjRound) : State :=
  s.updConj (fun c => { c with rounds := c.rounds.map (fun x => if x.id == r.id then r else x) })

/-- Whether a round's far side is another device: the source of a get, the destination of the rest. -/
def State.roundFar (s : State) (r : CjRound) : Bool :=
  (if cjOp r.desc == 1 then r.srcs else r.dsts).any (fun g => isFar g.loc && s.devOf g.loc != s.fab.self)

/-- A round reads its source on this device, as a sync-relaxed load at its home, at its issue; a consumption goes to its
context (R352). none while an engine writes a source line. -/
def State.roundRead (s : State) (r : CjRound) : Option (CjRound × State) :=
  let op := cjOp r.desc
  if op == 3 || op == 5 || (op == 1 && r.srcs.any (fun g => isFar g.loc)) then some ({ r with ready := true }, s)
  else if s.segsBusy r.srcs then none
  else
    let (bs, s1) := State.engineRead s (r.key / 8192) none r.srcs
    let mark := anyMarked bs
    some ({ r with ready := true, data := bs, counted := mark }, if mark then s1.consume r.ctx 0 else s1)

/-- The arrival of a round with its last byte. -/
def State.roundArrival (s : State) (r : CjRound) : State :=
  if descBits r.desc 190 190 == 1 then s.arrival (descBits r.desc 183 176) (descBits r.desc 189 184) r.tag else s

/-- The word a looped-back packet of a round carries for its arrival. -/
def roundPd (r : CjRound) (last : Bool) : DWord :=
  if last then BitVec.ofNat 64 (r.tag % 65536 * 2 ^ 48 + descBits r.desc 190 190 * 2 ^ 30 + descBits r.desc 189 176 * 2 ^ 16) else 0

/-- Whom a round writes for: its context; the launch that posted it is not known to it. -/
def CjRound.writer (r : CjRound) : Writer := some (r.ctx, 0)

/-- A put-accumulate of elements to a place of this device. -/
def State.accHere (s : State) (by' : Writer) (l : Loc) (t : Ty) (data : Marked) : Option State :=
  if (NMap.look s.mem.owned l.key).isSome || (l.space == 0 && (s.lockAt l.addr).isSome) then none
  else
    let n := t.width / 8
    let xs := chunks n data.length data
    some ((xs.zipIdx).foldl (fun (s : State) (e, i) =>
      if l.space == 0 then (s.atomHome by' false (l.addr + n * i) t 0 e.1 0 e.2).2
      else s.updStore l (fun c => (atomStore c (l.addr + n * i) t 0 e.1 0 e.2).2)) s)

/-- An atomic at a place of this device: the old value. -/
def State.atomHere (s : State) (by' : Writer) (l : Loc) (t : Ty) (op x x2 : Nat) : Option (Marked × State) :=
  if (NMap.look s.mem.owned l.key).isSome || (l.space == 0 && (s.lockAt l.addr).isSome) then none
  else if l.space == 0 then
    let ((bs, m), s1) := s.atomHome by' false l.addr t op x x2 false
    some (markAll m bs, s1)
  else
    let ((bs, m), c) := atomStore (s.store l) l.addr t op x x2 false
    some (markAll m bs, s.updStore l (fun _ => c))

/-- Where a piece of a list of segments starts. -/
def segAt (segs : List Seg) (off : Nat) : Option Loc := ((segSlice segs off 1).head?).map (fun g => g.loc)

/-- The next piece of a round that lands here: its offset and length, cut at the lines of the destination. -/
def roundCut (r : CjRound) : Nat × Nat :=
  let n := cjDstLen r.desc
  (r.off, min (256 - (cjDst r.desc + r.off) % 256) (n - r.off))

/-- The end of a round that has landed: an atomic's old value goes to SRC first. -/
def State.roundLanded (s : State) (r : CjRound) : State :=
  match r.old with
  | none => s.roundEnd r r.status
  | some old =>
    match segAt r.srcs 0 with
    | none => s.roundEnd r r.status
    | some l =>
      match s.writeHere r.writer l old with
      | none => s.updRound r
      | some s1 => s1.roundEnd r r.status

/-- The request that a piece of a round makes of this device when it is looped back, or goes to a group rooted here. -/
def CjRound.request (self : Nat) (r : CjRound) (l : Loc) (off n : Nat) (last : Bool) : InboundReq :=
  let op := cjOp r.desc
  let w := (cjTy r.desc).width / 8
  { src := self, seq := r.id * 2 ^ 32 + off, addr := if l.space == 8 then groupAddr l.x l.addr else BitVec.ofNat 64 l.addr
    kind := if op == 2 then .reduction 0 else if op == 3 then .atomic (Fin.ofNat 9 (cjAop r.desc - 0x64)) else if op == 4 then .send else .bulk
    etype := cjType r.desc
    data := if op == 3 then markAll false (leBytes w (descBits r.desc 447 384) ++ leBytes w (descBits r.desc 511 448)) else (r.data.drop off).take n
    rctr := BitVec.ofNat 64 (cjRctr r.desc), pd := roundPd r last }

/-- What one piece of a round does here: the old value of an atomic, the status, the state; none while a line is held. -/
def State.roundPiece (s : State) (r : CjRound) (l : Loc) (off n : Nat) (last : Bool) : Option ((Option Marked × Nat) × State) :=
  let op := cjOp r.desc
  let data := (r.data.drop off).take n
  let amount := if op == 3 || op == 4 then 1 else n
  if isFar l then
    match s.inbound (r.request s.fab.self l off n last) with
    | none => none
    | some ((st, out), s1) => some ((if op == 3 && cjSrc r.desc != 0 && (st == 0 || st == 3) then some out else none, if st == 4 then 1 else st), s1)
  else
    let done : Option (Option Marked × State) :=
      if op == 2 then (s.accHere r.writer l (cjTy r.desc) data).map (fun s1 => (none, s1))
      else if op == 3 then (s.atomHere r.writer l (cjTy r.desc) (cjAop r.desc - 0x64) (descBits r.desc 447 384) (descBits r.desc 511 448)).map
        (fun (o, s1) => (if cjSrc r.desc != 0 then some o else none, s1))
      else (s.writeHere r.writer l data).map (fun s1 => (none, s1))
    match done with
    | none => none
    | some (old, s1) =>
      let s2 := s1.addRef (cjRctr r.desc) amount
      some ((old, 0), if last then s2.roundArrival r else s2)

/-- A looped-back get is answered packet by packet, each page of its source by itself (R247, R294): its status and the data; none where it
waits. -/
def State.getPiece (s : State) (r : CjRound) (off : Nat) : List Seg → Option ((Nat × Marked) × State)
  | [] => some ((0, []), s)
  | g :: gs =>
    match s.inbound { src := s.fab.self, seq := r.id * 2 ^ 32 + off, kind := .get, addr := BitVec.ofNat 64 g.loc.addr, etype := 0
                      data := List.replicate g.len (0, false), rctr := 0, pd := 0 } with
    | none => none
    | some ((st, d), s1) =>
      if st != 0 then some ((1, []), s1)
      else match State.getPiece s1 r (off + g.len) gs with
        | none => none
        | some ((st', d'), s2) => some ((st', d ++ d'), s2)

/-- Whether a round is a get that is looped back. -/
def State.roundLoops (s : State) (r : CjRound) : Bool := cjOp r.desc == 1 && r.srcs.any (fun g => isFar g.loc) && !s.roundFar r

/-- The next piece of a round lands on this device. -/
def State.roundLand (s : State) (r0 : CjRound) : State :=
  let (off, n) := roundCut r0
  -- the members of a group have to acknowledge what has been forwarded (R298)
  if n == 0 then (if s.fab.mcast.any (fun m => m.req.src == s.fab.self && seqOwner m.req.seq == r0.id) then s else s.roundLanded r0)
  else
    match segAt r0.dsts off, (if s.roundLoops r0 then s.getPiece r0 off (segSlice r0.srcs off n) else some ((0, (r0.data.drop off).take n), s)) with
    | some l, some ((got, d), s0) =>
      let last := decide (cjDstLen r0.desc ≤ off + n)
      let r : CjRound := if s.roundLoops r0 then { r0 with data := List.replicate off (0, false) ++ d } else r0
      if got != 0 then s0.roundEnd r0 1
      else
        match s0.roundPiece r l off n last with
        | none => if isFar l then s.inboundStart (r.request s.fab.self l off n last) else s
        | some ((old, st), s1) =>
          let worst := if r.status == 0 || (r.status == 3 && st != 0) then st else r.status
          let r' : CjRound := { r0 with off := off + n, old := if old.isSome then old else r.old, status := worst }
          let waits := s1.fab.mcast.any (fun m => m.req.src == s.fab.self && seqOwner m.req.seq == r.id)
          if worst != 0 && worst != 3 then (s1.updRound r').roundLanded { r' with old := none }
          else if last && !waits then (s1.updRound r').roundLanded r'
          else s1.updRound r'
    | _, _ => s

/-- Starts a round: a counter add is performed; another reads its source. -/
def State.roundStart (s : State) (r : CjRound) : State :=
  if cjOp r.desc == 5 then
    let o := cjRctr r.desc
    (s.addCounter (refAddr o) (BitVec.ofNat 64 (descBits r.desc 447 384))).roundEnd r 0
  else
    match s.roundRead r with
    | none => s.updRound r
    | some (r1, s1) => s1.updRound { r1 with far := s1.roundFar r1 }

/-- Bytes of a round that go to another device: a get asks for all of them; and its packets' payload. -/
def CjRound.farLen (r : CjRound) : Nat := max 1 (if cjOp r.desc == 1 then cjLen r.desc else cjDstLen r.desc)

/-- The device that a packet of a round goes to. -/
def State.roundPeer (s : State) (r : CjRound) (off : Nat) : Nat :=
  s.devOf ((segAt (if cjOp r.desc == 1 then r.srcs else r.dsts) off).getD { space := 0, x := 0, y := 0, addr := 0 })

/-- The next packet of a round to another device leaves by the port and path chosen for it (R247, R292), or waits at the egress. -/
def State.roundSend (s : State) (r : CjRound) : State :=
  let dev := s.roundPeer r r.off
  let n := min (256 - (cjDst r.desc + r.off) % 256) (r.farLen - r.off)
  match s.choosePort (r.key / 8192) dev (fun _ => false) with
  | (.port p, s1) =>
    if s1.portTakes p then
      let k : Packet := { num := r.off, off := r.off, len := n, port := p, path := s1.choosePath p dev, since := s.clk, resends := 0 }
      (s1.updRound { r with off := r.off + n, packets := r.packets ++ [k], since := s.clk }).sendFlits p (if cjOp r.desc == 1 then 0 else n)
    else s
  | (.waits, _) => s
  | (.none, s1) => s1.roundEnd r 2

/-- CONJUNCTION_ROUND_ISSUE (R249, R250): the head of an engine's queue. -/
def execConjunctionRoundIssue (die : Fin 2) (s : State) : Host.Outcome State Fault Refusal :=
  match if s.inService 5 die.val then NMap.getD s.conj.queue die.val [] else [] with
  | [] => .next s
  | key :: rest =>
    let s0 := s.updConj (fun c => { c with queue := NMap.set [] c.queue die.val rest })
    match NMap.look s.conj.slots key with
    | none => .next s0
    | some x =>
      let (id, s1) := s0.fresh
      let r : CjRound := { id := id, key := key, num := x.issued, ctx := x.ctx, desc := x.desc, srcs := x.srcs, dsts := x.dsts
                           tag := if descBits x.desc 191 191 == 1 then (x.phase + x.issued) % 65536 else x.phase, ready := false, data := []
                           off := 0, old := none, status := 0, counted := false, far := false, aside := false, since := s.clk, packets := [] }
      let ends := x.ends || decide (x.rounds ≤ x.issued + 1)
      let y : CjSlot := { x with issued := x.issued + 1, flight := x.flight + 1, st := if ends then .closing else .armed
                                 thresh := if ends then x.thresh else (x.thresh + x.stride) % 2 ^ 64 }
      let s2 := (s1.setCj key y).updConj (fun c => { c with rounds := c.rounds ++ [r] })
      let s3 := if s2.roundOk r then s2.roundStart r else s2.roundEnd r 1
      .next (s3.slotTest key)

/-- Every packet of a round has been acknowledged, each with its mark (R292). -/
def State.roundScored (s : State) (r : CjRound) : State := r.packets.foldl (fun (s : State) k => s.scoreAck k.port (s.roundPeer r k.off) k.path) s

/-- CONJUNCTION_ROUND_COMPLETE (R247): for a round to another device its next packet, then its answer: status 0 to 3, and the data of a get or
an atomic; otherwise the next piece of it lands here, the last one completing it. -/
def execConjunctionRoundComplete (round status : Nat) (data : Marked) (s : State) : Host.Outcome State Fault Refusal :=
  match s.conj.rounds.find? (fun r => r.id == round) with
  | none => .next s
  | some r =>
    if r.aside then .next s
    else if !r.ready then .next (s.roundStart r)
    else if r.far then
      if r.off < r.farLen then .next (s.roundSend r)
      else if 3 < status then .next s
      else if status == 1 || status == 2 then .next ((s.roundScored r).roundEnd r status)
      else if cjOp r.desc == 1 then
        if data.length != cjLen r.desc then .next s
        else .next ((s.roundScored r).updRound { r with far := false, off := 0, data := data, status := status, packets := [] })
      else if cjOp r.desc == 3 && cjSrc r.desc != 0 then
        if data.length != (cjTy r.desc).width / 8 then .next s
        else
          let r' : CjRound := { r with far := false, off := cjDstLen r.desc, old := some data, status := status, packets := [] }
          .next (((s.roundScored r).updRound r').roundLanded r')
      else .next ((s.roundScored r).roundEnd r status)
    else .next (s.roundLand r)

/-- REPLAY_STORE_REISSUE (R250). -/
def execReplayStoreReissue (round : Nat) (s : State) : Host.Outcome State Fault Refusal :=
  match s.conj.rounds.find? (fun r => r.id == round) with
  | none => .next s
  | some r => if r.aside then .next (s.updRound { r with aside := false, since := s.clk }) else .next s

end Sys2Proof.Machine
end

