-- ==== Sys2Proof/Machine/System.lean ====
section
/-! DEFINITION. The system instructions, 0xB0-0xB6 (R252-R260), the host's replies and the draining of fault records (R254, R331,
R332), restarts (R333), and the reset of a matrix engine (R338, R339). -/

namespace Sys2Proof.Machine

/-! ### Calls (R253-R255) -/

/-- A call record (R253). -/
def callRecord (t : Team) (ctx kind imm : Nat) (task : DWord) : List Byte :=
  leBytes 8 (ctx * 2 ^ 48 + t.core * 2 ^ 40 + t.slot * 2 ^ 36 + kind * 2 ^ 32 + imm % 2 ^ 32) ++ leBytes 8 task.toNat
    ++ (List.range 6).flatMap (fun i => leBytes 8 (t.s i).toNat)

/-- A call of kind 0 or 1 (R253, R255): its waits, the fence, the record, and the team parks. No record goes between those that the fault buffer
holds (R330, R331); with both host links down it goes there itself (R379). -/
def hostCall (iss : Issue) (s : State) (kind : Nat) (b : Src) : Eff :=
  match iss.low, s.ctx? iss.ctx with
  | some l, some c =>
    let t := iss.team
    let tentative := match s.launch? t.launch with | some q => q.tentative | none => false
    if !c.ringOn then .stop 30 0 0 0
    else if tentative || decide (3 < (t.port 5).q.length) || (if s.hostReach then !c.ringRoom || !c.buffer.isEmpty else 15 < c.buffer.length) || s.fenceWaits t .all .system
    then .wait .none s
    else
      let s1 := (s.irreversible t.id).fenceDo t .all .system
      match s1.team? t.id, s1.ctx? iss.ctx with
      | some u, some c1 =>
        let r := callRecord u iss.ctx kind (teamSrc iss false l b) (taskWord u (s1.phaseOf u))
        let (num, s2) := if s.hostReach then (some c1.crTail, s1.ringWrite c1 r) else (none, s1.updCtx iss.ctx (fun c => { c with buffer := c.buffer ++ [(t.id, r)] }))
        .done (s2.updTeam t.id (fun t => { t with status := if kind == 0 then .parked else .halted, record := num }))
      | _, _ => .done s1
  | _, _ => .done s

/-- TRAP (R253). -/
def execTrap (b : Src) (s : State) : Host.Outcome State Fault Refusal :=
  run (.trap b) s (fun iss s => hostCall iss s 0 b)

/-- BKPT (R255): with BKEN = 0 no effect. -/
def execBkpt (b : Src) (s : State) : Host.Outcome State Fault Refusal :=
  run (.bkpt b) s (fun iss s =>
    match s.ctx? iss.ctx with
    | none => .done s
    | some c => if c.dbg.getLsbD 0 then hostCall iss s 1 b else .done s)

/-- Ends a team as though every lane had executed STOP (R332). -/
def State.stopLanes (s : State) (tid : Nat) : State :=
  (s.updTeam tid (fun t => { t with frags := [], joins := [], serial := [], record := none, savedReply := none, restartPending := false })).endTeam tid

/-- A reply to a fault record (R332): 0 ends the team, 1 restarts it where its launch has a restart label, others are
ignored. -/
def State.faultReply (s : State) (t : Team) (v : Nat) : State :=
  if v == 0 then s.stopLanes t.id
  else if v == 1 then
    match s.launch? t.launch with
    | some l => if l.restart == 0 then s.stopLanes t.id else s.restartWhenSettled t.id
    | none => s
  else s

/-- CALL_REPLY_WRITE (R254, R332): a write of CRRVAL answers record CRRTAG. A reply to a Stopped team that is saved is applied at
its restore (R343). -/
def execCallReplyWrite (ctx : Nat) (value : DWord) (s : State) : Host.Outcome State Fault Refusal :=
  match s.ctx? ctx with
  | none => .next (s.countError 5)
  | some c =>
    match s.teamList.find? (fun t => s.ctxOf t.launch == ctx && t.record == some c.crTag && t.status != .ended) with
    | none => .next (s.countError 5)
    | some t =>
      match t.status with
      | .parked => .next (s.updTeam t.id (fun t => { t.setPort 5 { t.port 5 with q := (t.port 5).q ++ [value] } with status := .running, record := none }))
      | .halted => .next (s.updTeam t.id (fun t => { t with status := .running, record := none }))
      | .stopped => if t.evicted then .next (s.updTeam t.id (fun t => { t with savedReply := some value.toNat })) else .next (s.faultReply t value.toNat)
      | .running => .next (s.countError 5)
      | .ended => .next (s.countError 5)

/-- FAULT_RECORD_DRAIN (R331): the oldest buffered record goes to the ring when a record is free; the record of a team that waits for its answer
gets its number. -/
def execFaultRecordDrain (ctx : Nat) (s : State) : Host.Outcome State Fault Refusal :=
  match s.ctx? ctx with
  | none => .next s
  | some c =>
    match c.buffer with
    | [] => .next s
    | (who, r) :: rest =>
      if !c.ringRoom || !s.hostReach then .next s
      else
        let waits (t : Team) : Bool := t.record.isNone && (t.status == .parked || t.status == .halted || t.status == .stopped)
        .next (((s.ringWrite c r).updCtx ctx (fun c => { c with buffer := rest })).updTeam who
          (fun t => if waits t then { t with record := some c.crTail } else t))

/-- TEAM_RESTART (R333): a restart that waits for the team's operations. -/
def execTeamRestart (team : Nat) (s : State) : Host.Outcome State Fault Refusal :=
  match s.team? team with
  | none => .next s
  | some t => if t.restartPending && !t.evicted && s.settledTeam t then .next (restartTeam s team) else .next s

/-! ### Registers and tasks (R256-R260) -/

/-- CHKERR (R256): after every earlier load has returned; bit 0 of b clears the register in the same step. -/
def execChkerr (d : Reg) (b : Src) (s : State) : Host.Outcome State Fault Refusal :=
  run (.chkerr d b) s (fun iss s =>
    match iss.low, s.ctx? iss.ctx with
    | some l, some c =>
      if s.reqs.any (fun r => r.team == iss.tid && (r.op.isLoad || r.op.isAtomic)) then .wait .none s
      else
        let s1 := writeWide s iss d c.check.toNat false
        .done (if teamSrc iss false l b % 2 == 1 then s1.updCtx iss.ctx (fun c => { c with check := 0 }) else s1)
    | _, _ => .done s)

/-- A context's watchdog value: the greatest of its cores' counts (R65). -/
def State.watchdog (s : State) (ctx : Nat) : Nat := s.cores.foldl (fun m e => max m (NMap.getD e.2.watch ctx 0)) 0

/-- The system registers (R257). -/
def State.sysReg (s : State) (iss : Issue) (c : Ctx) (n : Nat) : Nat :=
  match n with
  | 0 => c.check.toNat
  | 1 => s.watchdog iss.ctx
  | 2 => c.wdLimit
  | 3 => c.dbg.toNat
  | 4 => (NMap.getD c.cjRange 0 0).toNat
  | 5 => (NMap.getD c.cjRange 1 0).toNat
  | 6 => c.crTail
  | 7 => match s.launch? iss.team.launch with | some l => NMap.getD l.chan (coreDie iss.team.core) 0 | none => 0
  | n => (NMap.getD c.user (n - 8) 0).toNat

/-- SYSRD (R257). -/
def execSysrd (d : Reg) (reg : Fin 12) (s : State) : Host.Outcome State Fault Refusal :=
  run (.sysrd d reg) s (fun iss s =>
    match iss.low, s.ctx? iss.ctx with
    | some _, some c => .done (writeWide s iss d (s.sysReg iss c reg.val) false)
    | _, _ => .done s)

/-- SYSWR (R257): USER0 to USER3 alone. -/
def execSyswr (reg : Fin 12) (b : Src) (s : State) : Host.Outcome State Fault Refusal :=
  run (.syswr reg b) s (fun iss s =>
    match iss.low with
    | none => .done s
    | some l =>
      if reg.val < 8 then .stop 31 0 0 0
      else .done (s.updCtx iss.ctx (fun c => { c with user := NMap.set 0 c.user (reg.val - 8) (BitVec.ofNat 64 (teamSrc iss false l b)) })))

/-- The items of TASKRD (R259). -/
def taskItem (s : State) (t : Team) (n : Nat) : Nat :=
  match n with
  | 0 => (taskWord t (s.phaseOf t)).toNat
  | 1 => t.irrev
  | 2 => t.restarts
  | 3 => t.rpc
  | 4 => t.lastPhase
  | _ => t.restartMode.toNat

/-- TASKRD (R259). -/
def execTaskrd (d : Reg) (item : Fin 6) (s : State) : Host.Outcome State Fault Refusal :=
  run (.taskrd d item) s (fun iss s =>
    match iss.low with
    | none => .done s
    | some _ => .done (writeWide s iss d (taskItem s iss.team item.val) false))

/-- ERET (R260): the fragment goes on at RPC and restart mode ends. -/
def execEret (s : State) : Host.Outcome State Fault Refusal :=
  run .eret s (fun iss s =>
    if iss.low.isNone then .ends s
    else if !iss.team.restartMode then .stop 32 0 0 0
    else .moved (s.updTeam iss.tid (fun t => { t with restartMode := false }.goto iss.entry t.rpc)))

/-! ### Reset of a matrix engine (R338, R339) -/

/-- Cycles of a reset. -/
def mxResetCycles : Nat := 2048

/-- Teams on a pair. -/
def State.pairTeams (s : State) (pair : Nat) : List Team := s.teamList.filter (fun t => !t.evicted && t.status != .ended && corePair t.core == pair)

/-- Takes operations out of a pair: their flags fall, they never complete, their lines are free. -/
def State.dropMatrixOps (s : State) (pair : Nat) (os : List EngineOp) : State :=
  let s1 := os.foldl (fun (s : State) o => s.lowerFlag o.team o.flag) s
  let s2 := s1.updMem (fun m => { m with owned := (m.owned.map (fun (k, l) => (k, l.filter (fun i => !os.any (fun o => o.id == i))))).filter (fun e => !e.2.isEmpty) })
  s2.updPair pair (fun p => { p with ops := p.ops.filter (fun o => !os.any (fun x => x.id == o.id)) })

/-- The start of a reset: R339. by' says whether MXRESET started it. Of two fragments of a team the lower one's fault is recorded (R335). -/
def State.startReset (s : State) (pair : Nat) (by' : Bool) : State :=
  let p := s.pairSt pair
  if p.resetAt.isSome then s
  else
    let os := p.ops.filter (fun o => o.op != 0x98)
    let owners := ((List.range 12).filterMap p.owner).foldl NSet.add ([] : NSet)
    let s1 := s.dropMatrixOps pair os
    let lose (g : Group) : Group := if owners.contains (groupKey g.launch g.num) && corePair g.core == pair then { g with lost := true } else g
    let s2 : State := { s1 with groups := s1.groups.map lose }
    let s3 := s2.updPair pair (fun p => { p with tileOwner := [], bufOwner := [], sideOwner := none, spqOwner := none
                                                 resetAt := some (s.clk + mxResetCycles), resetBy := by' })
    (sortKey (fun o => o.entry) os).foldl (fun (s : State) o => takeFaultAt s o.team o.entry o.pc 21 0 0 0) s3

/-- MXRESET_WRITE (R338): a write with BUSY set starts the reset of its pair. -/
def execMxresetWrite (v : DWord) (s : State) : Host.Outcome State Fault Refusal :=
  let s1 := s.updMgmt (fun m => { m with mxPair := dw v 6 0 })
  if v.getLsbD 63 then .next (s1.startReset (dw v 6 0) true) else .next s1

/-- MXRESET as it reads: BUSY until the reset of the pair last named completes, and PAIR (R338). -/
def State.mxReset (s : State) : DWord :=
  BitVec.ofNat 64 ((s.pairSt s.mgmt.mxPair).resetAt.isSome.toNat * 2 ^ 63 + s.mgmt.mxPair)

/-- MATRIX_RESET_ERROR (R338). -/
def execMatrixResetError (pair : Fin 128) (s : State) : Host.Outcome State Fault Refusal := .next (s.startReset pair.val false)

/-- MATRIX_RESET_DONE (R338): what stands at the end of a reset, and the record for every context that has a team on the pair. -/
def execMatrixResetDone (pair : Fin 128) (s : State) : Host.Outcome State Fault Refusal :=
  let p := s.pairSt pair.val
  match p.resetAt with
  | none => .next s
  | some t =>
    if s.clk < t then .next s
    else
      let s1 := s.updPair pair.val (fun p => { PairSt.reset with ops := p.ops.filter (fun o => o.op == 0x98) })
      let ts := s1.pairTeams pair.val
      let s2 := ts.foldl (fun (s : State) t => s.updTeam t.id (fun t => (t.setPort 0 { q := [], ovf := false }).setPort 8 { q := [], ovf := false })) s1
      let cs := ts.foldl (fun acc t => NSet.add acc (s.ctxOf t.launch)) ([] : NSet)
      .next (cs.foldl (fun (s : State) c => s.event c 8 (2 * pair.val) 0 0 pair.val p.resetBy.toNat) s2)

end Sys2Proof.Machine
end

