-- ==== Sys2Proof/Machine/Requests.lean ====
section
/-! DEFINITION. The way of a request that is not served at once: its walk (R75-R79, R345, R349, R368), its home (R278-R284), hold
limits and the Parenthesis (R285, R286, R369), and its answer (R82, R301, R375, R378). -/

namespace Sys2Proof.Machine

/-! ### Requests in their queues -/

/-- A request by its number. -/
def State.req? (s : State) (id : Nat) : Option Req := s.reqs.find? (fun r => r.id == id)

/-- Whether two requests have a line in common. -/
def Req.sameLine (r x : Req) : Bool :=
  x.parts.any (fun q => r.parts.any (fun p => q.va / 256 == p.va / 256)) || (r.pa.isSome && r.pa == x.pa)

/-- The core a request comes from. -/
def State.reqCore (s : State) (r : Req) : Nat := match s.team? r.team with | some t => t.core | none => 0

/-- Whether two waiting requests stand in one queue: the core's own queues, and per line at a slice or an egress. -/
def State.oneQueue (s : State) (r x : Req) : Bool :=
  x.place == r.place && (match r.place with
    | .queue c => if c.val < 3 then s.reqCore x == s.reqCore r else x.pa == r.pa
    | _ => false)

/-- Whether a request is the head of its queue. -/
def State.heads (s : State) (r : Req) : Bool := (s.reqs.find? (fun x => s.oneQueue r x)).map (fun x => x.id) == some r.id

/-- The head that follows a request that has left its queue starts its own count (R285). -/
def State.nextHead (s0 : State) (r : Req) (s : State) : State :=
  if !s0.heads r then s
  else
    match s.reqs.find? (fun x => s.oneQueue r x) with
    | none => s
    | some h => if h.id == r.id then s else { s with reqs := s.reqs.map (fun x => if x.id == h.id then { x with since := s.clk } else x) }

/-- Whether an earlier request of the team to the same line has not been performed (R173). -/
def State.behind (s : State) (r : Req) : Bool :=
  s.reqs.any (fun x => x.team == r.team && decide (x.id < r.id) && x.place != .answered && r.sameLine x)

/-- What the first part of a request reaches. -/
def State.reqAim (s : State) (t : Team) (r : Req) : Aim × State :=
  match r.parts with
  | [] => (.miss, s)
  | p :: _ => s.aim t p.lane p.va r.op.need r.op.isAtomic r.op.isLd64

/-- The page miss of a request (R346). -/
def State.reqMiss (s : State) (t : Team) (r : Req) : State :=
  match r.parts with
  | [] => s
  | p :: _ => s.pageMiss (s.ctxOf t.launch) p.va r.op.need.bits

/-! ### Translation -/

/-- The class of queue a translated request waits in: slice ingress, Fyolo egress, host-link egress. -/
def Loc.queue (l : Loc) : Fin 6 :=
  match l.space with
  | 5 => 5 | 7 => 4 | 8 => 4
  | _ => 3

/-- The queue a translated request enters: at its performer where that lies at its core's own stop, else the L1 miss queue for local HBM and the
network injection for the rest (R285). -/
def State.firstQueue (s : State) (core : Nat) (l : Loc) : Fin 6 :=
  if s.locStop core l == coreStop core && l.space != 0 then l.queue else if l.space == 0 then 1 else 2

/-- A request's place changed, its key as translated. -/
def State.translated (s : State) (r : Req) (l : Loc) : State :=
  let r' : Req := { r with pa := some l.key, place := .queue (s.firstQueue (s.reqCore r) l), since := s.clk, arrived := s.clk }
  { s with reqs := s.reqs.map (fun x => if x.id == r.id then r' else x) }

/-- Whether a core's own L1 serves an access (R278, R282): a plain load of sectors that it holds clean, a sync-class load of read-only copies, a plain
store to a sector that it holds dirty already. -/
def State.l1Serves (s : State) (t : Team) (r : Req) : Bool :=
  let c := s.coreSt t.core
  r.parts.all (fun p => match (s.aim t p.lane p.va r.op.need r.op.isAtomic r.op.isLd64).1, r.op with
    | .at' l h, .load cls _ _ => l.space == 0 && (s.mustWait t r l).isNone && NSet.has (if cls == .plain || cls == .inv then c.clean else c.ro) (sectorOf l.addr) && (cls == .plain || cls == .inv || h.sync)
    | .at' l h, .store .plain _ => l.space == 0 && (s.mustWait t r l).isNone && h.c
        && s.mem.pend.any (fun p => p.core == t.core && p.bytes.any (fun e => e.2.inL1 && sectorOf e.1 == sectorOf l.addr))
    | _, _ => false)

/-- The requester-side slice of a line, which a plain load from the other die reaches first (R283); a slice that stands in for another keeps no such
copies (R275). -/
def State.sideOf (s : State) (core : Nat) (op : ReqOp) (pa : Nat) : Option Nat :=
  let plain := match op with
    | .load cls _ _ => cls == .plain || cls == .inv
    | _ => false
  let home := s.homeOf pa
  if plain && home == homeSlice pa && home / 64 != coreDie core then some ((home + 64) % 128) else none

/-- Whether the requester-side slice answers a load: it holds every sector of it in S. -/
def State.sideServes (s : State) (t : Team) (r : Req) : Bool :=
  r.parts.all (fun p => match (s.aim t p.lane p.va r.op.need r.op.isAtomic r.op.isLd64).1 with
    | .at' l _ => l.space == 0 && (s.sideOf t.core r.op l.addr).isSome && NSet.has s.mem.xcopies (sectorOf l.addr)
    | _ => false)

/-! ### The L2's tags (R276, R284) -/

/-- Whether the L2 holds a line: its committed data, a version of it, a partial, its lock. Nothing of these is fetched from HBM. -/
def State.l2Holds (s : State) (line : Nat) : Bool :=
  (NMap.getD s.mem.tags (s.setOf line) []).contains line || s.wayLines.contains line || (s.lockAt line).isSome
    || s.mem.parts.any (fun p => p.sector / 4 * 256 == line)

/-- A line is written into a way of its set; where the ways that hold no versions are full another line goes, which one is free (log 10). -/
def State.fillTag (s : State) (line : Nat) : State :=
  let set := s.setOf line
  let old := NMap.getD s.mem.tags set []
  let ways := 16 - min 8 (s.wayLines.filter (fun l => s.setOf l == set)).length
  if old.contains line then s
  else if old.length < ways then s.updMem (fun m => { m with tags := NMap.put m.tags set (old ++ [line]) })
  else
    let (i, s1) := s.pick old.length
    s1.updMem (fun m => { m with tags := NMap.put m.tags set ((old.eraseIdx i).drop (old.length - ways) ++ [line]) })

/-! ### Performed, with what leaves for the core -/

/-- Bytes of data in an answer. -/
def answerBytes (as : List (List Byte × Bool)) : Nat := (as.map (fun a => a.1.length)).foldl (· + ·) 0

/-- Recalls of the copies that cores lose between two states, from the home of their sectors (R278, R288): each is gone as the write takes its place,
and its packet follows. -/
def State.recallsFrom (s s0 : State) : State :=
  s0.cores.foldl (fun (s : State) e =>
    let lost := (e.2.clean ++ e.2.ro).filter (fun x => !NSet.has (s.coreSt e.1).clean x && !NSet.has (s.coreSt e.1).ro x)
    lost.foldl (fun (s : State) x => s.send (.recall e.1 x) 0 (s.sectorStop x) (coreStop e.1)) s) s

/-- Performs a translated request as far as it goes; its answer is on its way back, from a stop or from the core's own L1. -/
def State.performQueued (s : State) (t : Team) (r : Req) (from' : Option Nat) : State :=
  match s.perform t r with
  | (.answer as, s1) =>
    let far := s1.fab.mcast.any (fun m => m.req.src == s.fab.self && seqOwner m.req.seq == r.id)
    let s2 := ((s1.leave t r).placeReq { r with answer := as } (if far then .remote else .answered)).recallsFrom s
    match from' with
    | some stop => if far then s2 else s2.send (.answer r.id) (dataFlits (answerBytes as)) stop (coreStop t.core)
    | none => s2
  | (.hold .remote, s1) => if r.place == .remote then s else s1.goOut t r
  | (.hold w, s1) => if w == r.place then s else s1.placeReq r w
  | (.fault c l v d, s1) => takeFaultAt { s1 with reqs := s1.reqs.filter (fun x => x.id != r.id) } r.team r.entry r.pc c l v d

/-- Whether a request waits for a walk that has not ended: its page request is not yet raised. -/
def State.walkWaits (s : State) (t : Team) (r : Req) : Bool :=
  (r.place == .paren 9 || (r.place == .queue 0 && r.pa.isNone && s.heads r))
    && !r.parts.any (fun p => s.front.pages.any (fun q => q.ctx == s.ctxOf t.launch && q.page == p.va / 4096 && Nat.land q.bits r.op.need.bits == r.op.need.bits))

/-- The 16 walks that a die's translation service performs at once, by context and 4 KiB part: requests for one part are merged on its walk (R79). -/
def State.walks (s : State) (die : Nat) : List (Nat × Nat) :=
  (s.reqs.foldl (fun acc r => match s.team? r.team, r.parts with
    | some t, p :: _ => if coreDie t.core == die && s.walkWaits t r && !acc.contains (s.ctxOf t.launch, p.va / 4096) then acc ++ [(s.ctxOf t.launch, p.va / 4096)] else acc
    | _, _ => acc) ([] : List (Nat × Nat))).take 16

/-- Whether a request's walk is one of those. -/
def State.walking (s : State) (t : Team) (r : Req) : Bool :=
  match r.parts with
  | [] => true
  | p :: _ => (s.walks (coreDie t.core)).contains (s.ctxOf t.launch, p.va / 4096)

/-- TRANSLATION_WALK (R75, R349, R368): the walk of the head of a core's queue ends: the request goes on to its home, or its fault is
raised, or its page request is written or joined and it keeps the head; one that its own L1 serves is performed there. The walk of a request bounced
meanwhile ends too. -/
def execTranslationWalk (req : Nat) (s : State) : Host.Outcome State Fault Refusal :=
  match s.req? req with
  | none => .next s
  | some r =>
    match s.team? r.team with
    | none => .next s
    | some t =>
      let cause (s : State) (c : Nat) : State := { s with reqs := s.reqs.map (fun x => if x.id == r.id then { x with place := .paren c } else x) }
      if r.place == .queue 0 then
        if r.pa.isSome || !s.heads r || (s.walkWaits t r && !s.walking t r) then .next s
        else
          match s.reqAim t r with
          | (.miss, s1) => .next (s1.reqMiss t r)
          | (.bad _, s1) => .next (s.nextHead r (s1.serve r))
          | (.at' l _, s1) =>
            if s1.l1Serves t r && !s1.behind r then .next (s.nextHead r (s1.performQueued t r none)) else .next (s.nextHead r (s1.translated r l))
      else if r.place == .paren 9 then
        if s.walkWaits t r && !s.walking t r then .next s
        else
        match s.reqAim t r with
        | (.miss, s1) => .next (cause (s1.reqMiss t r) 0)
        | (_, s1) => .next (cause s1 8)
      else .next s

/-! ### At the home -/

/-- A line's miss-status register of a slice (R284), by the requests merged on it. -/
def State.missAt (s : State) (key : Nat) : Bool := s.reqs.any (fun r => r.place == .miss && r.pa == some key)

/-- Whether every miss-status register of a slice is taken. -/
def State.missFull (s : State) (slice : Nat) : Bool :=
  let lines := s.reqs.foldl (fun acc r => match r.place, r.pa with
    | .miss, some k => if s.homeOf k == slice then NSet.add acc k else acc
    | _, _ => acc) ([] : NSet)
  decide (128 ≤ lines.length)

/-- The place of a request among those that reach its home in one cycle (R283): those of the home's own stops in ascending order, those that
came over the bridge, the reissued ones. -/
def State.homeRank (s : State) (r : Req) (key : Nat) : Nat :=
  let core := s.reqCore r
  if r.again then 65 else if s.homeOf key / 64 == coreDie core then corePair core % 64 else 64

/-- Whether a request is the next that its home applies to its line: the first to arrive of those that wait there (R279). -/
def State.homeNext (s : State) (r : Req) (key : Nat) : Bool :=
  let rank (x : Req) : Nat := x.arrived * 128 + s.homeRank x key
  !s.reqs.any (fun x => x.place == .queue 3 && x.pa == some key && (decide (rank x < rank r) || (rank x == rank r && decide (x.id < r.id))))

/-- A translated request of one kind reaches the head at its performer: it merges on a miss-status register, takes one when its line
misses in the L2, starts a write-update of a sync page, or is performed. Requests to one line are applied in their order
of arrival (R279, R283); those that find the line's register taken are merged on it in that order (R284). A load that its requester-side slice
answers has not come to the home (R283). -/
def homeServe (kind : ReqOp → Bool) (req : Nat) (s : State) : Host.Outcome State Fault Refusal :=
  match s.req? req with
  | none => .next s
  | some r =>
    match r.place, r.pa, s.team? r.team with
    | .queue _, some key, some t =>
      if !kind r.op then .next s
      else
        match s.reqAim t r with
        | (.at' l _, _) =>
          if r.place != .queue l.queue then .next s
          else if l.space != 0 then (if s.behind r then .next s else .next (s.nextHead r (s.performQueued t r (some (s.locStop t.core l)))))
          else if s.sideServes t r && !s.behind r then .next (s.nextHead r (s.performQueued t r (s.sideOf t.core r.op l.addr)))
          else if !s.homeNext r key then .next s
          else if s.missAt key then .next (s.nextHead r (s.placeReq r .miss))
          else if s.behind r then .next s
          else
            if !s.l2Holds key then (if s.missFull (s.homeOf key) then .next s else .next (s.nextHead r (s.placeReq r .miss)))
            else if (s.mustWait t r l).isNone && !(s.updateSecs t r).isEmpty then
              .next (s.nextHead r ((s.startUpdate r.id none (s.updateSecs t r)).placeReq r .update))
            else .next (s.nextHead r (s.performQueued t r (some (s.homeOf key))))
        | _ => .next (s.nextHead r (s.performQueued t r none))
    | _, _, _ => .next s

/-- HOME_LOAD (R279, R283, R284). -/
def execHomeLoad (req : Nat) (s : State) : Host.Outcome State Fault Refusal := homeServe ReqOp.isLoad req s

/-- WRITE_NOTICE (R278): a plain or streaming store opens or joins its team's pending version. -/
def execWriteNotice (req : Nat) (s : State) : Host.Outcome State Fault Refusal :=
  homeServe (fun o => match o with | .store cls _ => cls == .plain || cls == .strm | _ => false) req s

/-- HOME_SYNC_STORE (R279, R282). -/
def execHomeSyncStore (req : Nat) (s : State) : Host.Outcome State Fault Refusal :=
  homeServe (fun o => match o with | .store cls _ => cls == .rlx || cls == .rel | _ => false) req s

/-- HOME_ATOMIC (R183, R302). -/
def execHomeAtomic (req : Nat) (s : State) : Host.Outcome State Fault Refusal :=
  homeServe (fun o => match o with | .atomic _ _ _ => true | _ => false) req s

/-- HOME_REDUCTION (R185). -/
def execHomeReduction (req : Nat) (s : State) : Host.Outcome State Fault Refusal :=
  homeServe (fun o => match o with | .reduce _ _ => true | _ => false) req s

/-- HBM channel of a line. -/
def hbmChannel (line : Nat) : Nat := stackOf line * 32 + Config.channelOf line % 32

/-- Whether requests to a line wait for its channel (R314); one that a failed repair has left Out answers (R386). -/
def State.channelWaits (s : State) (line : Nat) : Bool := !s.inService 2 (hbmChannel line) && !NSet.has s.mgmt.badChan (hbmChannel line)

/-- A line as it comes from its channel: from one that is Out after a failed repair, marked, and what was written to it is lost. -/
def State.fillLine (s : State) (line : Nat) : State :=
  if NSet.has s.mgmt.badChan (hbmChannel line) then
    (s.updMem (fun m => { m with hbm := m.hbm.write line (m.hbm.read line 256) true })).logError 3 1 (stackOf line) 0xFFFF line
  else s

/-- MISS_FILL (R284): the line is written into the L2, and the requests merged on the register of a line are applied in their order of arrival. -/
def execMissFill (slice line : Nat) (s0 : State) : Host.Outcome State Fault Refusal :=
  let s := if s0.missAt line && s0.homeOf line == slice then (s0.fillLine (lineOf line)).fillTag line else s0
  if s0.channelWaits line then .next s0 else
  let rs := sortKey (fun r => r.arrived * 128 + s.homeRank r line) (s.reqs.filter (fun r => r.place == .miss && r.pa == some line && s.homeOf line == slice))
  .next (rs.foldl (fun (s : State) r =>
    match s.team? r.team with
    | none => { s with reqs := s.reqs.filter (fun x => x.id != r.id) }
    | some t => if s.behind r then s.placeReq { r with pa := none } (.paren 7) else s.performQueued t { r with place := .queue 3 } (some slice)) s)

/-- The dirty bytes that a core's L1 holds of a sector leave it for their writers' pending versions (R278). -/
def State.flushSector (s : State) (core sector : Nat) : State := s.flushBytes (fun p a => p.core == core && sectorOf a == sector)

/-- A core's L1 holds a sector no more. -/
def State.dropSector (s : State) (core sector : Nat) : State :=
  let gone (p : Pend) : Pend := if p.core == core then { p with bytes := p.bytes.map (fun (a, b) => (a, if sectorOf a == sector then { b with kept := false } else b)) } else p
  let s1 := (s.flushSector core sector).updMem (fun m => { m with pend := m.pend.map gone })
  s1.updCore core (fun c => { c with clean := NSet.rem c.clean sector, ro := NSet.rem c.ro sector })

/-- SECTOR_FLUSH (R278). -/
def execSectorFlush (core : Fin 256) (sector : Nat) (s : State) : Host.Outcome State Fault Refusal := .next (s.flushSector core.val sector)

/-- RECALL (R283, R288): the copy is flushed or dropped. A recall that goes through the requester-side slice drops its copy once none of
its die's L1s holds one. -/
def execRecall (core : Fin 256) (sector : Nat) (s : State) : Host.Outcome State Fault Refusal :=
  let s1 := s.dropSector core.val sector
  let sharers := s1.cores.any (fun e => coreDie e.1 == coreDie core.val && NSet.has e.2.clean sector)
  .next (if sharers || s.homeOf (sector * 64) / 64 == coreDie core.val then s1 else s1.updMem (fun m => { m with xcopies := NSet.rem m.xcopies sector }))

/-- WRITE_UPDATE (R282): a copy has stored the new bytes as tentative, and its acknowledgement reaches the home. -/
def execWriteUpdate (upd core : Nat) (s : State) : Host.Outcome State Fault Refusal :=
  if s.net.carries (.update upd core) || s.net.carries (.updated upd core) then .next s
  else .next (s.updMem (fun m => { m with updates := m.updates.map (fun u => if u.id == upd then { u with waiting := u.waiting.filter (· != core) } else u) }))

/-- UPDATE_SWITCH (R282): every copy has acknowledged: the write takes its place in the home order, and a switch goes to every copy. -/
def execUpdateSwitch (upd : Nat) (s : State) : Host.Outcome State Fault Refusal :=
  match s.mem.updates.find? (fun u => u.id == upd) with
  | none => .next s
  | some u =>
    if !u.waiting.isEmpty then .next s
    else
      match u.inb with
      | some who =>
        match s.fab.waiting.find? (fun r => (r.src, r.seq) == who) with
        -- one that this device has looped back takes its place when it is served again
        | none => .next (if who.1 == s.fab.self then s else s.updMem (fun m => { m with updates := m.updates.filter (fun x => x.id != upd) }))
        | some r =>
          match s.inbound r with
          | none => .next s
          | some (_, s1) => .next (s1.updFab (fun f => { f with waiting := f.waiting.filter (fun x => x != r) }))
      | none =>
      let s1 := s.updMem (fun m => { m with updates := m.updates.filter (fun x => x.id != upd) })
      match s.req? u.req with
      | none => .next s1
      | some r =>
        match s.team? r.team with
        | none => .next { s1 with reqs := s1.reqs.filter (fun x => x.id != r.id) }
        | some t =>
          let s2 := s1.performQueued t r (some (s.sectorStop (u.sectors.headD 0)))
          .next (s2.tellCopies { u with waiting := s.copiesOf u.sectors } (fun c => .switch upd c) 0)

/-! ### Hold limits and the Parenthesis (R285, R286, R368, R369) -/

/-- The cause a request bounced from a queue takes: 0 page miss, 1 miss-status registers full, 9 its walk still runs, else 16 + the
class of the queue. -/
def State.bounceCause (s : State) (t : Team) (r : Req) (c : Fin 6) : Nat :=
  match r.pa with
  | none =>
    match (s.reqAim t r).1, r.parts with
    | .miss, p :: _ =>
      if s.front.pages.any (fun q => q.ctx == s.ctxOf t.launch && q.page == p.va / 4096 && Nat.land q.bits r.op.need.bits == r.op.need.bits) then 0 else 9
    | _, _ => 9
  | some k => if c == 3 && k < 2 ^ 64 && s.missFull (s.homeOf k) && !s.missAt k then 1 else 16 + c.val

/-- The hold limit of an engine's waiting access: at slice ingress, or at the host link's egress. -/
def State.opLimit (s : State) (o : EngineOp) : Nat :=
  s.holdLimit (if (if o.loaded then o.outs.any (fun w => w.loc.space == 5) else s.hostShut (pairDie o.pair) o.srcs) then 5 else 3)

/-- An engine's access enters the Parenthesis of its team (R285, R286). -/
def State.holdOp (s : State) (o : EngineOp) : State :=
  let team := s.opTeam o
  let n := s.parenSize team
  (s.updOp { o with held := some (team, s.clk) }).updTeam team (fun t => if 32 ≤ n then { t with ovflow := t.ovflow ++ [o.id] } else t)

/-- HOLD_LIMIT_BOUNCE (R285, R369, R250): the head of a queue whose wait has reached the limit goes to its team's Parenthesis, the
team's later requests to its line in the queue behind it; a request that a shut egress holds likewise, and an access of an engine. A round that
waits is set aside in the replay store. -/
def execHoldLimitBounce (req : Nat) (s : State) : Host.Outcome State Fault Refusal :=
  match s.req? req with
  | some r =>
    match s.team? r.team with
    | none => .next s
    | some t =>
      match r.place with
      | .queue c =>
        if !s.heads r || decide (s.clk < r.since + s.holdLimit c) then .next s
        else
          let cause := s.bounceCause t r c
          let with' := s.reqs.filter (fun x => x.place == r.place && x.team == r.team && r.sameLine x)
          let from' := match (s.reqAim t r).1 with | .at' l _ => s.locStop t.core l | _ => coreStop t.core
          let back (s : State) (x : Req) : State := if c.val < 3 then s else s.send (.bounce x.id) (dataFlits x.payload) from' (coreStop t.core)
          .next (s.nextHead r (with'.foldl (fun (s : State) x => back (s.placeReq { x with pa := none } (.paren cause)) x) s))
      | .miss =>
        match r.pa with
        | none => .next s
        | some k =>
          if s.channelWaits k && decide (r.since + s.holdLimit 3 ≤ s.clk) then
            .next ((s.placeReq { r with pa := none } (.paren 19)).send (.bounce r.id) (dataFlits r.payload) (s.homeOf k) (coreStop t.core))
          else .next s
      | _ => .next s
  | none =>
    match s.engineOp? req with
    | some o => if s.opWaits o && decide (o.since + s.opLimit o ≤ s.clk) then .next (s.holdOp o) else .next s
    | none =>
    match s.conj.rounds.find? (fun r => r.id == req) with
    | none => .next s
    | some r =>
      let shut := r.far && decide (r.off < r.farLen)
      let waits := if !r.ready then s.roundStart r == s else if r.far then shut && s.roundSend r == s else s.roundLand r == s
      if !r.aside && waits && decide (r.since + s.holdLimit (if shut then 4 else 3) ≤ s.clk) then .next (s.updRound { r with aside := true, since := s.clk }) else .next s

/-- Whether the cause of an entry of the Parenthesis has cleared. -/
def State.causeCleared (s : State) (t : Team) (r : Req) (cause : Nat) : Bool :=
  let aim := (s.reqAim t r).1
  match cause with
  | 0 => !r.parts.any (fun p => s.front.pages.any (fun q => q.ctx == s.ctxOf t.launch && q.page == p.va / 4096))
  | 1 => match aim with | .at' l _ => !s.missFull (s.homeOf l.addr) | _ => true
  | 2 => match aim with | .at' l _ => (s.lockAt l.addr).isNone || (s.heldBy t l.addr).isSome | _ => true
  | 3 => match aim with | .at' l _ => (NMap.look s.mem.owned l.key).isNone && !s.mem.updates.any (fun u => u.sectors.any (fun x => x / 4 == l.addr / 256)) | _ => true
  | 4 => decide ((s.coreSt t.core).waiters.length < 32)
  | 7 => true
  | 8 => true
  | _ => false

/-- Whether an entry is eligible: it has come back, it heads its line's chain, and its cause has cleared. A team that is evicted reissues nothing. -/
def State.eligible (s : State) (t : Team) (r : Req) : Bool :=
  match r.place with
  | .paren c => !t.evicted && !s.net.carries (.bounce r.id) && !s.behind r && s.causeCleared t r c
  | _ => false

/-- An engine's access that has been bounced goes on: its cause has cleared, or twice the limit has passed since (R286). -/
def State.opReissue (s : State) (op : Nat) : State :=
  match s.engineOp? op with
  | none => s
  | some o =>
    match o.held with
    | none => s
    | some (team, since) =>
      let free : EngineOp := { o with held := none, since := s.clk }
      if s.opWaits free && decide (s.clk < since + 2 * s.opLimit o) then s
      else (s.updOp free).updTeam team (fun t => { t with ovflow := if t.ovflow.contains o.id then t.ovflow.filter (· != o.id) else t.ovflow.drop 1 })

/-- PARENTHESIS_REISSUE (R286): the oldest eligible entry of its team is served again. -/
def execParenthesisReissue (req : Nat) (s : State) : Host.Outcome State Fault Refusal :=
  match s.req? req with
  | none => .next (s.opReissue req)
  | some r =>
    match s.team? r.team with
    | none => .next s
    | some t =>
      if !s.eligible t r || s.reqs.any (fun x => x.team == r.team && decide (x.id < r.id) && s.eligible t x) then .next s
      else
        let gone := if t.ovflow.contains r.id then t.ovflow.filter (· != r.id) else t.ovflow.drop 1
        let s1 := s.updTeam t.id (fun t => { t with ovflow := gone })
        let r' : Req := { r with pa := none, again := true }
        match r.op with
        | .lock _ _ _ _ => .next (s1.lockServe r')
        | _ =>
          match s1.delays with
          | true :: rest => .next ({ s1 with delays := rest }.placeReq r' (.queue 0))
          | false :: rest => .next ({ s1 with delays := rest }.serve r')
          | [] => .next (s1.serve r')

/-- BACKOFF_EXPIRE (R286): twice the limit of its queue has passed since the bounce; an eviction entry waits for its restore. -/
def execBackoffExpire (req : Nat) (s : State) : Host.Outcome State Fault Refusal :=
  match s.req? req with
  | none => .next s
  | some r =>
    match r.place with
    | .paren c =>
      let q : Fin 6 := if 16 ≤ c then Fin.ofNat 6 (c - 16) else if c = 0 || c = 9 then 0 else 3
      if c = 5 || c = 8 || decide (s.clk < r.since + 2 * s.holdLimit q) then .next s
      else .next { s with reqs := s.reqs.map (fun x => if x.id == req then { x with place := .paren 8 } else x) }
    | _ => .next s

/-! ### Answers (R82) -/

/-- Marked data cut into the answers of a request's parts. -/
def cutAnswer (n : LanePart → Nat) : List LanePart → Marked → List (List Byte × Bool)
  | [], _ => []
  | p :: ps, d => (bytesOf (d.take (n p)), anyMarked (d.take (n p))) :: cutAnswer n ps (d.drop (n p))

/-- Bytes that a part's answer has. -/
def ReqOp.answerLen (ty : Nat) : ReqOp → LanePart → Nat
  | .load _ _ _, p => p.len
  | .atomic _ _ _, _ => ((Ty.ofCode ty).getD .s32).width / 8
  | .store _ _, _ => 0
  | .reduce _ _, _ => 0
  | .lock _ _ _ _, _ => 0

/-- What the host has done for a request (R301, R302): the posted writes of the die's link before it are performed, and an atomic
has changed the value that it found. -/
def State.hostDone (s : State) (t : Team) (r : Req) (ans : List (List Byte × Bool)) : State :=
  let s1 := s.drainHost (coreDie t.core)
  let at' (s : State) (p : LanePart) : Option Nat := match (s.aim t p.lane p.va r.op.need r.op.isAtomic r.op.isLd64).1 with
    | .at' l _ => if l.space == 5 then some l.addr else none
    | _ => none
  let ty := (Ty.ofCode r.ty).getD .s32
  let n := ty.width / 8
  let by' : Writer := some (s.ctxOf t.launch, t.launch)
  (r.parts.zip (ans ++ List.replicate r.parts.length ([], false))).foldl (fun (s : State) (p, a) =>
    match at' s p, r.op with
    | some addr, .atomic op _ _ =>
      let old := leNat a.1
      s.hostWrite by' addr (leBytes n (atomNew ty op.val old (leNat (p.data.take n)) (leNat ((p.data.drop n).take n))))
    | some addr, .reduce op _ => s.hostWrite by' addr (leBytes n (atomNew ty op.val (leNat (s.mem.host.read addr n)) (leNat (p.data.take n)) 0))
    | _, _ => s) s1

/-- An acknowledgement brings its mark to the score of the path that the request's packet used (R292). -/
def State.reqScored (s : State) (t : Team) (r : Req) : State :=
  match r.via, (s.reqAim t r).1 with
  | some k, .at' l _ => s.scoreAck k.port (s.awayDev l) k.path
  | _, _ => s

/-- MEMORY_RESPONSE (R82, R375): what was performed on this device is delivered once its packet has come to the core. For a request that has left it, the data (for
each part in turn) and the status are the answer: 0 performed, 1 and 4 refused, 2 unreachable. -/
def execMemoryResponse (req : Nat) (data : Marked) (status : Nat) (s : State) : Host.Outcome State Fault Refusal :=
  match s.req? req with
  | none => .next s
  | some r =>
    match s.team? r.team with
    | none => .next { s with reqs := s.reqs.filter (fun x => x.id != r.id) }
    | some t =>
      match r.place with
      | .answered => if s.net.carries (.answer r.id) then .next s else .next (s.deliver r r.answer)
      | .remote =>
        if !r.answer.isEmpty then .next s
        else if status == 1 || status == 2 || status == 4 then .next ((s.reqScored t r).reqFault r (refusalCause status).1 (refusalCause status).2)
        else if status != 0 then .next s
        else
          let n := r.op.answerLen r.ty
          if data.length != (r.parts.map n).foldl (· + ·) 0 then .next s
          else
            let ans := cutAnswer n r.parts data
            match (s.reqAim t r).1 with
            | .at' l _ =>
              if l.space != 5 then .next ((s.reqScored t r).deliver r ans)
              else if s.hostReach then .next ((s.hostDone t r ans).deliver r ans)
              else .next s
            | _ => .next (s.deliver r ans)
      | _ => .next s

/-! ### The host links (R378, R379, R300) -/

/-- HOST_COMPLETION_ERROR (R378): 1 unsupported, 2 abort, 3 timeout, 4 loss of the link; a load that loses its link is sent again. -/
def execHostCompletionError (req code : Nat) (s : State) : Host.Outcome State Fault Refusal :=
  match s.req? req with
  | none => .next s
  | some r =>
    match s.team? r.team with
    | none => .next s
    | some t =>
      match r.place, (s.reqAim t r).1 with
      | .remote, .at' l _ =>
        if l.space != 5 || code < 1 || 4 < code then .next s
        else if r.op.isLoad then
          (if code == 4 then .next { s with reqs := s.reqs.map (fun x => if x.id == req then { x with since := s.clk } else x) }
           else .next (s.reqFault r 13 code))
        else .next (s.reqFault r 33 code)
      | _, _ => .next s

end Sys2Proof.Machine
end

