-- ==== Sys2Proof/Machine/Front.lean ====
section
/-! DEFINITION. The launch front end (R46-R65): queues and slots, records checked and released, groups and gangs placed, pre-emption,
eviction and restore (R61-R63, R70, R211, R343), the end of teams and launches (R42, R53, R353), the watchdog (R65, R340). -/

namespace Sys2Proof.Machine

/-! ### Queue descriptors (R46) and slots (R50) -/

def Slot.ctxNum (x : Slot) : Nat := recBits x.desc 95 80
def Slot.func (x : Slot) : Nat := recBits x.desc 75 71
def Slot.prio (x : Slot) : Nat := recBits x.desc 70 69
def Slot.ringLog (x : Slot) : Nat := recBits x.desc 68 64
def Slot.ringBase (x : Slot) : Nat := recBits x.desc 56 0

/-- WAKE of a queue, as the front end's copy of it reads (R49). -/
def State.wakeOf (s : State) (desc : Nat) : Nat := (s.mem.hbm.dword (desc + 24)).toNat

/-- Writes READIX back (R50). -/
def State.writeReadix (s : State) (x : Slot) : State := s.homeWrite none (x.map + 16) (leBytes 8 x.readix) false

/-- A slot freed: READIX is written back. -/
def State.freeSlot (s : State) (n : Nat) : State :=
  let x := s.slot n
  (s.writeReadix x).updSlot n (fun x => { Slot.reset with owner := x.owner })

/-- NOTIFY_WRITE (R47, R49): an unsigned atomic maximum on WAKE at its home; behind a line that is locked or an engine's it waits. -/
def execNotifyWrite (desc : Nat) (x : DWord) (s : State) : Host.Outcome State Fault Refusal :=
  let a := desc + 24
  if !paExists a || !paExists (a + 7) then .fault (.noSuchAddress a)
  else if (s.lockAt a).isSome || (s.ownerAt a).isSome then
    (if s.front.notifies.contains (desc, x) then .next s else .next (s.updFront (fun f => { f with notifies := f.notifies ++ [(desc, x)] })))
  else
    let s1 := (s.claimLine (lineOf a)).updFront (fun f => { f with notifies := f.notifies.filter (fun e => e != (desc, x)) })
    .next (s1.homeWrite none a (leBytes 8 (max x.toNat (s1.wakeOf desc))) false)

/-- The latest launch in progress of a queue. -/
def State.lastLaunch (s : State) (desc : Nat) : Nat := s.launches.foldl (fun m e => if e.2.queue == desc then max m e.1 else m) 0

/-- SLOT_MAP (R50, R64): a map into a slot that is Free or Stopped and owned by the queue's function. A write whose only set bits are reserved
ones is neither R50's write of 0 nor an address once they are ignored (R9): it does nothing (DESIGN CHOICE, log 13). -/
def execSlotMap (n : Fin 64) (addr : DWord) (s : State) : Host.Outcome State Fault Refusal :=
  let a := dw addr 56 6 * 64
  let x := s.slot n.val
  if a == 0 || !(x.st == .free || x.st == .stopped) then .next s
  else if !paExists a || !paExists (a + 63) then .fault (.noSuchAddress a)
  else
    let d := s.mem.hbm.read a 64
    let y : Slot := { Slot.reset with st := .idle, map := a, desc := d, readix := recBits d 191 128, owner := x.owner, prev := s.lastLaunch a }
    if y.func != x.owner then .next s
    else .next ((s.updSlot n.val (fun _ => y)).updCtx y.ctxNum (fun c => { c with func := y.func }))

/-- SLOT_UNMAP (R50). -/
def execSlotUnmap (n : Fin 64) (s : State) : Host.Outcome State Fault Refusal :=
  match (s.slot n.val).st with
  | .free => .next s
  | .unmapping => .next s
  | .dispatch => .next (s.updSlot n.val (fun x => { x with st := .unmapping }))
  | .idle => .next (s.freeSlot n.val)
  | .fetch => .next (s.freeSlot n.val)
  | .held => .next (s.freeSlot n.val)
  | .stopped => .next (s.freeSlot n.val)

/-- Whether the front end runs: it pauses while engine firmware is out of service (R314). -/
def State.frontOn (s : State) : Bool := s.inService 5 0 && s.inService 5 1

/-- RECORD_FETCH (R50). -/
def execRecordFetch (n : Fin 64) (s : State) : Host.Outcome State Fault Refusal :=
  let x := s.slot n.val
  if x.st == .idle && s.frontOn && decide (x.readix < s.wakeOf x.map) then .next (s.updSlot n.val (fun x => { x with st := .fetch })) else .next s

/-! ### Reads of the front end -/

/-- How a read of the front end ends; it waits while no host link is up. -/
inductive FrontRead where
  | data (d : List Byte)
  | miss (va : Nat)
  | waits
  | bad
  deriving DecidableEq, Repr

/-- Free bytes: what another device holds (log 12). -/
def State.freeBytes (s : State) : Nat → List Byte × State
  | 0 => ([], s)
  | n + 1 =>
    let (bs, s1) := s.freeBytes n
    (bs ++ [(Config.freeValue s1.free).setWidth 8], { s1 with free := s1.free + 1 })

/-- The posted writes of both dies have reached the host (R301): the front end reads there no older bytes (R48). -/
def State.drainBoth (s : State) : State := (s.drainHost 0).drainHost 1

/-- Reads n bytes for a context, page by page: committed data, host memory, a peer. -/
def frontGo (ctx : Nat) : Nat → Nat → Nat → State → FrontRead × State
  | 0, _, _, s => (.data [], s)
  | fuel + 1, va, n, s =>
    if n = 0 then (.data [], s)
    else if 2 ^ 57 ≤ va || isWindow va then (.bad, s)
    else
      let m := min n (4096 - va % 4096)
      match s.translate none ctx va .read with
      | (.miss, s1) => (.miss va, s1)
      | (.malformed, s1) => (.bad, s1)
      | (.noPerm, s1) => (.bad, s1)
      | (.hit h, s1) =>
        let l := hitLoc h
        let got : Option (List Byte × State) :=
          if l.space == 0 || (l.space == 7 && l.x == s.fab.self) then
            let s2 := (segLines [{ loc := { l with space := 0 }, len := m }]).foldl State.combineLine s1
            some (s2.mem.hbm.read l.addr m, s2)
          else if l.space == 5 then let s2 := s1.drainBoth; some (s2.mem.host.read l.addr m, s2)
          else if l.space == 7 then some (s1.freeBytes m)
          else none
        if l.space == 5 && !s1.hostReach then (.waits, s1)
        else match got with
        | none => (.bad, s1)
        | some (d, s2) =>
          match frontGo ctx fuel (va + m) (n - m) s2 with
          | (.data ds, s3) => (.data (d ++ ds), s3)
          | other => other

/-- A read of n bytes. -/
def State.frontRead (s : State) (ctx va n : Nat) : FrontRead × State := frontGo ctx (n / 4096 + 2) va n s

/-! ### The checks of a record (R54) -/

/-- How the checks of a record end. -/
inductive Checked where
  | good (record : List Byte)
  | stop (cause : Nat)
  | miss (va : Nat)
  | waits
  deriving DecidableEq, Repr

/-- Reserved fields of a descriptor and a record: those of the counter references too. -/
def descReserved : List (Nat × Nat) := [(511, 264), (127, 96), (79, 76), (63, 57)]
def recordReserved : List (Nat × Nat) :=
  [(1023, 896), (639, 592), (511, 505), (447, 441), (383, 377), (255, 249), (191, 182), (95, 88), (63, 57)]
    ++ [(526, 525), (542, 541), (558, 557), (574, 573), (590, 589)]

/-- Counter references of a record: dependences 0 to 3, then DONECT. -/
def recordRefs (r : List Byte) : List Nat := (List.range 5).map (fun i => recBits r (527 + 16 * i) (512 + 16 * i))

/-- A record as a launch, for the fields it has. -/
def Launch.ofRecord (r : List Byte) : Launch :=
  { id := 0, slot := 0, ctx := 0, func := 0, level := 0, record := r, next := 0, ended := 0, phase := 0, chan := [], heads := [], peers := []
    peerWait := [], md := none, icache := [], reported := [], waited := 0, waitSince := 0, landed := 0, queue := 0, block := none, dies := [], dead := false }

/-- Stage 3: the record's fields. -/
def fieldCause (r : List Byte) : Option Nat :=
  let l := Launch.ofRecord r
  if recordReserved.any (fun e => recBits r e.1 e.2 != 0) then some 1
  else if 96 < l.k || l.gang == 0 || 12 < l.gang then some 2
  else if 256 < l.n / 32 * (l.k / 8) then some 3
  else if carveL l.carve * 1024 < l.scratch then some 4
  else if l.scratch < l.argLen then some 5
  else if l.extent == 0 || l.groups * l.tg * l.n < l.extent then some 6
  else none

/-- Stage 4: the argument block and the phase header are read, then the counter references checked. -/
def State.checkRest (s : State) (c : Ctx) (r : List Byte) : Checked × State :=
  let l := Launch.ofRecord r
  match s.frontRead c.num l.argSrc l.argLen with
  | (.bad, s1) => (.stop 8, s1)
  | (.miss va, s1) => (.miss va, s1)
  | (.waits, s1) => (.waits, s1)
  | (.data _, s1) =>
    match s1.frontRead c.num l.phSrc 64 with
    | (.bad, s2) => (.stop 8, s2)
    | (.waits, s2) => (.waits, s2)
    | (.miss va, s2) => (.miss va, s2)
    | (.data _, s2) => if (recordRefs r).any (fun x => refOn x && !refIn c x) then (.stop 9, s2) else (.good r, s2)

/-- The four stages. -/
def State.checkRecord (s : State) (x : Slot) : Checked × State :=
  if descReserved.any (fun e => recBits x.desc e.1 e.2 != 0) then (.stop 1, s)
  else if x.ringLog == 0 || 20 < x.ringLog then (.stop 2, s)
  else if x.readix + 2 ^ x.ringLog < s.wakeOf x.map then (.stop 7, s)
  else
    match s.ctx? x.ctxNum with
    | none => (.stop 8, s)
    | some c =>
      match s.frontRead c.num (x.ringBase + 128 * (x.readix % 2 ^ x.ringLog)) 128 with
      | (.bad, s1) => (.stop 8, s1)
      | (.miss va, s1) => (.miss va, s1)
      | (.waits, s1) => (.waits, s1)
      | (.data r, s1) =>
        match fieldCause r with
        | some k => (.stop k, s1)
        | none => s1.checkRest c r

/-- A slot stops with a cause, which is written to the descriptor and reported (R50, R54, R344). -/
def State.stopSlot (s : State) (n cause : Nat) : State :=
  let x := s.slot n
  let s1 := (s.homeWrite none (x.map + 32) [BitVec.ofNat 8 cause] false).updSlot n (fun x => { x with st := .stopped })
  if (s1.ctx? x.ctxNum).isSome then s1.event x.ctxNum 6 0 0 cause x.map n else s1

/-- RECORD_CHECK (R54): a record that passes is held, READIX is raised and written back, and its dependences are tested (R52); a page
that is missing holds the slot in Fetch. -/
def execRecordCheck (n : Fin 64) (s : State) : Host.Outcome State Fault Refusal :=
  let x := s.slot n.val
  if x.st != .fetch || !s.frontOn then .next s
  else
    match s.checkRecord x with
    | (.stop c, s1) => .next (s1.stopSlot n.val c)
    | (.miss va, s1) => .next (s1.pageMiss x.ctxNum va 0)
    | (.waits, _) => .next s
    | (.good r, s1) =>
      let y : Slot := { x with st := .held, readix := x.readix + 1, record := r, hold := false }
      .next (((s1.writeReadix y).updSlot n.val (fun _ => y)).depTest n.val)

/-! ### Release (R50, R52, R53, R299) -/

/-- Whether a slot's launches join across devices, and whether this device initiates them (R299). -/
def State.mdOn (s : State) (n : Nat) : Bool := (s.reg (.mdJoin (Fin.ofNat 64 n))).getLsbD 63
def State.mdInit (s : State) (n : Nat) : Bool := (s.reg (.mdJoin (Fin.ofNat 64 n))).getLsbD 62

/-- Members of a multi-device launch, as the initiator lists them. -/
def State.mdMembers (s : State) (n : Nat) : List Nat :=
  let count := dw (s.reg (.mdJoin (Fin.ofNat 64 n))) 33 20
  let list := dw (s.reg (.mdList (Fin.ofNat 64 n))) 56 0
  (List.range count).map (fun i => leNat (s.mem.hbm.read (list + 4 * i) 2))

/-- The state of a launch across devices at its release. -/
def State.mdStart (s : State) (n : Nat) : Option MdState :=
  if !s.mdOn n then none
  else
    let ms := if s.mdInit n then s.mdMembers n else []
    some { initiator := s.mdInit n, members := ms, acked := [s.fab.self], raised := [], applied := [], confirmed := false, since := s.clk
           sentRaised := false, held := false }

/-- Groups with a lane: those above are never placed (R391). -/
def Launch.full (l : Launch) : Nat := (l.extent + l.tg * l.n - 1) / (l.tg * l.n)

/-- Passes over the groups that are never placed: they count as placed and ended. -/
def Launch.skip (l : Launch) : Launch :=
  if l.full ≤ l.next && l.next < l.groups then { l with next := l.groups, ended := l.ended + (l.groups - l.next) } else l

/-- RECORD_RELEASE (R50, R52, R53, R299). -/
def execRecordRelease (n : Fin 64) (s : State) : Host.Outcome State Fault Refusal :=
  let x := s.slot n.val
  let l0 := Launch.ofRecord x.record
  if x.st != .held || !x.hold || !s.frontOn || s.ctxHeld x.ctxNum || (l0.ordered && (s.launch? x.prev).isSome)
      || (s.mdOn n.val && !s.mdInit n.val && x.mdMsg == 0) then .next s
  else
    let (id, s1) := s.fresh
    let l : Launch := { l0 with id := id, slot := n.val, ctx := x.ctxNum, func := x.func, level := x.prio, queue := x.map
                                waitSince := s.clk, md := s.mdStart n.val }
    .next { (s1.updSlot n.val (fun x => { x with st := .dispatch, launch := id, prev := id, mdMsg := x.mdMsg - 1 })).updCtx x.ctxNum (fun c => { c with func := x.func }) with
            launches := NMap.put s1.launches id l }

/-! ### Room on cores (R40, R41, R57, R59) -/

/-- Resident teams of a core, leaving out some. -/
def State.residents (s : State) (core : Nat) (gone : List Nat) : List Team :=
  s.teamList.filter (fun t => t.core == core && !t.evicted && !gone.contains t.id)

/-- Footprint of a team in KiB. -/
def footprint (n k : Nat) : Nat := n / 32 * (k / 8)

/-- The quarter that takes a team: of those with fewer than four, the one with the most free space, the lowest among equals. -/
def pickQuarter (loads : List (Nat × Nat)) : Option Nat :=
  ((sortKey (fun e => e.1.2 * 4 + e.2) ((loads.zipIdx).filter (fun e => e.1.1 < 4))).head?).map (fun e => e.2)

/-- Quarters for n teams of one footprint; none where they do not fit. loads are the teams and KiB of each quarter. -/
def fitQuarters (fp : Nat) : Nat → List (Nat × Nat) → Option (List Nat)
  | 0, _ => some []
  | n + 1, loads =>
    match pickQuarter loads with
    | none => none
    | some q =>
      if 256 < (loads.getD q (0, 0)).2 + fp then none
      else (fitQuarters fp n (loads.set q ((loads.getD q (0, 0)).1 + 1, (loads.getD q (0, 0)).2 + fp))).map (fun qs => q :: qs)

/-- Teams and KiB of the quarters of a core. -/
def State.quarterLoads (s : State) (core : Nat) (gone : List Nat) : List (Nat × Nat) :=
  (List.range 4).map (fun q =>
    let ts := (s.residents core gone).filter (fun t => t.quarter == q)
    (ts.length, (ts.map (fun t => footprint t.n t.k)).foldl (· + ·) 0))

/-- Whether a group still takes room on its core, some teams left out. -/
def State.groupHere (s : State) (gone : List Nat) (g : Group) : Bool :=
  !g.saved && s.teamList.any (fun t => t.launch == g.launch && t.group == g.num && !t.evicted && !gone.contains t.id)

/-- The lowest offset where a scratchpad allocation fits (the place is the model's choice, log 14). -/
def fitScratch (size len : Nat) (taken : List (Nat × Nat)) : Option Nat :=
  let starts := 0 :: taken.map (fun e => e.1 + e.2)
  (sortKey (fun o => o) (starts.filter (fun o => decide (o + len ≤ size) && taken.all (fun e => decide (e.1 + e.2 ≤ o) || decide (o + len ≤ e.1))))).head?

/-- Scratchpad allocations of a core. -/
def State.scratches (s : State) (core : Nat) (gone : List Nat) : List (Nat × Nat) :=
  (s.groups.filter (fun g => g.core == core && s.groupHere gone g && g.len != 0)).map (fun g => (g.off, g.len))

/-- Whether a core's carve code allows a launch; a group that is evicted, or would be, still counts (R59). -/
def State.carveAllows (s : State) (core : Nat) (l : Launch) : Bool :=
  (s.groups.filter (fun g => g.core == core)).all (fun g =>
    match s.launch? g.launch with | some q => q.carve == l.carve | none => true)

/-- Contexts with a group on the device. -/
def State.residentCtxs (s : State) : NSet := s.groups.foldl (fun acc g => if g.saved then acc else NSet.add acc (s.ctxOf g.launch)) []

/-- A phase-tree channel for a launch on a die: the one it holds, or the lowest free one (R192). -/
def State.channel (s : State) (l : Launch) (die : Nat) : Option Nat :=
  match NMap.look l.chan die with
  | some c => some c
  | none => (List.range 16).find? (fun c => !s.launches.any (fun e => NMap.look e.2.chan die == some c))

/-- First stops of blocks of b stops in one row of a die, as pair numbers (R58). -/
def blocksOf (die b : Nat) : List Nat := (List.range 64).filterMap (fun i => if i % 8 + b ≤ 8 then some (die * 64 + i) else none)

/-- The core of member i of a gang placed on a block. -/
def blockCore (first i : Nat) : Nat := 2 * (first + i / 2) + i % 2

/-- Stops that a gang needs (R58): the smaller last gang's block is sized by the record's G like the others' (DESIGN CHOICE, log 14). -/
def Launch.stops (l : Launch) : Nat := (l.gang + 1) / 2

/-- Whether a core is closed to a group by a gang: reserved to another, or in the block of a larger one that has waited (R58). -/
def State.gangBars (s : State) (l : Launch) (core : Nat) : Bool :=
  (match (s.coreSt core).gang with
    | some (q, _) => q != l.id
    | none => false)
  || s.launches.any (fun e => e.1 != l.id && e.2.compat && decide (l.gang < e.2.gang) && decide (e.2.waitSince + 4096 ≤ s.clk)
      && (match e.2.block with
        | some b => decide (2 * b ≤ core) && decide (core < 2 * (b + e.2.stops))
        | none => false))

/-- Teams of a group that have a lane (R391). -/
def Launch.teamsOf (l : Launch) (g : Nat) : Nat := min l.tg ((l.extent - g * l.tg * l.n + l.n - 1) / l.n)

/-- Whether a core accepts a group of a launch, some teams left out (R57). -/
def State.accepts (s : State) (l : Launch) (g core : Nat) (gone : List Nat) : Bool :=
  let st := match NMap.look l.heads core with | some h => h.st == .isOpen | none => true
  st && s.inService 0 (corePair core) && !s.gangBars l core
    && (fitQuarters (footprint l.n l.k) (l.teamsOf g) (s.quarterLoads core gone)).isSome
    && decide ((s.residents core gone).length + l.tg ≤ 16)
    && (l.scratch == 0 || (fitScratch (carveL l.carve * 1024) l.scratch (s.scratches core gone)).isSome)
    && s.carveAllows core l
    && (decide (s.residentCtxs.length < 64) || NSet.has s.residentCtxs l.ctx)
    && (s.channel l (coreDie core)).isSome

/-! ### The order of offers (R18, R57, R58) -/

/-- The home pair of a group's affinity address, where it has one. -/
def State.homePair (s : State) (l : Launch) (g : Nat) : Option Nat :=
  match s.ctx? l.ctx with
  | none => none
  | some c =>
    if l.affBase == 0 then none
    else
      let va := (l.affBase + l.affStride * g) % 2 ^ 57
      match (State.walk c.num va 4 c.tblRoot s).1 with
      | none => none
      | some (x, _, level) =>
        if leafBad x level || dw x 5 4 != 0 then none
        else let k := stackOf (dw x 63 30 * 4096); some (64 * (k / 6) + anchorStop k)

/-- Resident teams of a pair. -/
def State.pairLoad (s : State) (p : Nat) : Nat := (s.residents (2 * p) []).length + (s.residents (2 * p + 1) []).length

/-- Hops between pairs; one on the other die stands 8 further (log 14). -/
def pairHops (p q : Nat) : Nat := hops (p % 64) (q % 64) + (if pairDie p == pairDie q then 0 else 8)

/-- The die with fewer resident teams. -/
def State.freeDie (s : State) : Nat :=
  let count (d : Nat) : Nat := (s.teamList.filter (fun t => !t.evicted && coreDie t.core == d)).length
  if count 1 < count 0 then 1 else 0

/-- Pairs in the order a group is offered to them, as far as its wait has widened them: 0 steps 1 and 2, 1 step 3, 2 step 4. -/
def State.offers (s : State) (l : Launch) (g : Nat) : List Nat :=
  match s.homePair l g with
  | none => sortKey (fun p => s.pairLoad p * 256 + p) ((List.range 64).map (fun i => s.freeDie * 64 + i))
  | some h =>
    let rank (ps : List Nat) : List Nat := sortKey (fun p => s.pairLoad p * 2 ^ 16 + pairHops h p * 256 + p) (ps.filter (· != h))
    let die := (List.range 64).map (fun i => pairDie h * 64 + i)
    let near := rank (die.filter (fun p => hops (h % 64) (p % 64) ≤ 2))
    let rest := rank (die.filter (fun p => 2 < hops (h % 64) (p % 64)))
    let far := rank ((List.range 64).map (fun i => (1 - pairDie h) * 64 + i))
    [h] ++ near ++ (if 1 ≤ l.waited then rest else []) ++ (if 2 ≤ l.waited then far else [])

/-- The first core, in the order of offers, that accepts a group. -/
def State.offerCore (s : State) (l : Launch) (g : Nat) (gone : List Nat) : Option Nat :=
  ((s.offers l g).flatMap (fun p => [2 * p, 2 * p + 1])).find? (fun c => s.accepts l g c gone)

/-- Blocks in the order a gang is offered to them. -/
def State.blockOffers (s : State) (l : Launch) : List Nat :=
  let b := l.stops
  let stopsOf (f : Nat) : List Nat := (List.range b).map (fun i => f + i)
  let load (f : Nat) : Nat := ((stopsOf f).map s.pairLoad).foldl (· + ·) 0
  let place (f : Nat) : Nat := f
  match s.homePair l l.next with
  | none => sortKey (fun f => load f * 256 + place f) (blocksOf s.freeDie b)
  | some h =>
    let near (f : Nat) : Nat := ((stopsOf f).map (fun p => pairHops h p)).foldl min 64
    let rank (fs : List Nat) : List Nat := sortKey (fun f => load f * 2 ^ 16 + near f * 256 + place f) fs
    let die := blocksOf (pairDie h) b
    rank (die.filter (fun f => near f == 0)) ++ rank (die.filter (fun f => near f != 0 && near f ≤ 2))
      ++ (if 1 ≤ l.waited then rank (die.filter (fun f => 2 < near f)) else [])
      ++ (if 2 ≤ l.waited then rank (blocksOf (1 - pairDie h) b) else [])

/-- Members of a launch's next gang that have a lane, as (index, group). -/
def Launch.members (l : Launch) : List (Nat × Nat) :=
  ((List.range (l.gangSize l.next)).map (fun i => (i, l.next + i))).filter (fun e => decide (e.2 < l.full))

/-- Cores of a block that accept their members, some teams left out. -/
def State.accepting (s : State) (l : Launch) (first : Nat) (gone : List Nat) : List Nat :=
  (l.members.filter (fun e => s.accepts l e.2 (blockCore first e.1) gone)).map (fun e => blockCore first e.1)

/-- The first block, in the order of offers, every core of which accepts its member. -/
def State.offerBlock (s : State) (l : Launch) (gone : List Nat) : Option Nat :=
  (s.blockOffers l).find? (fun f => decide ((s.accepting l f gone).length = l.members.length))

/-! ### Placement (R37, R41, R55, R59, R69, R71, R191) -/

/-- A mask of the low lanes. -/
def lowLanes (n : Nat) : LaneMask := BitVec.ofNat 1024 (2 ^ n - 1)

/-- A team as it starts (R37, R38). -/
def Launch.newTeam (l : Launch) (id g num core quarter slot : Nat) : Team :=
  let real := min l.n (l.extent - (g * l.tg + num) * l.n)
  let init := min l.n ((real + 3) / 4 * 4)
  { Team.blank with
    id := id, launch := l.id, group := g, num := num, core := core, quarter := quarter, slot := slot, n := l.n, k := l.k, tg := l.tg
    status := .running, rpc := l.entry, initMask := lowLanes init, real := lowLanes real, restartMask := lowLanes init
    frags := [(0, { st := .ready, pc := l.entry, mask := lowLanes init, join := 15, age := 0, sig := 0, clause := none, latch := .none
                    yielded := false, starve := 0 })] }

/-- The lowest free team slot of a core. -/
def State.freeTeamSlot (s : State) (core : Nat) : Nat :=
  ((List.range 16).find? (fun n => !(s.residents core []).any (fun t => t.slot == n))).getD 0

/-- Adds a group's teams, one in each quarter named. -/
def State.addTeams (l : Launch) (g core : Nat) : Nat → List Nat → State → State
  | _, [], s => s
  | num, q :: qs, s =>
    let (id, s1) := s.fresh
    State.addTeams l g core (num + 1) qs (s1.setTeam (l.newTeam id g num core q (s1.freeTeamSlot core)))

/-- The phase header of a launch on a core as it is loaded (R191). -/
def Launch.newHead (l : Launch) (image : List Byte) : CorePhase :=
  if l.phase == 0 then
    { hdr := { late := false, overrun := false, phase := 0, nextexp := sext (recBits image 127 64) 64, expect := sext (recBits image 63 0) 64 }, st := .isOpen }
  else { hdr := { late := false, overrun := false, phase := l.phase, nextexp := 0, expect := 0 }, st := .isOpen }

/-- An empty core takes a carve code: its L1 is written back, its partials too, and invalidated (R59). -/
def State.setCarve (s : State) (core carve : Nat) : State :=
  if (s.coreSt core).carve == carve then s
  else
    let s1 := ((s.mem.parts.filter (fun p => p.core == core)).map (fun p => p.sector)).foldl State.combine s
    let gone (p : Pend) : Pend := if p.core == core then { p with bytes := p.bytes.map (fun (a, b) => (a, { b.flush with kept := false })) } else p
    (s1.updMem (fun m => { m with pend := m.pend.map gone })).updCore core (fun c => { c with carve := carve, clean := [], ro := [] })

/-- Size and place of a member share (R71). -/
def shareLen (carve len : Nat) : Nat := len * carveX carve / carveL carve / 256 * 256

/-- A group becomes resident on a core: its argument block and phase header are copied before its teams are eligible (R55). Where a page of them
is missing it is asked for, and where they cannot be read, though the check of the record could read them, the group is not placed: it stays
unplaced until they can, and an answer 01 or 10 to that page request stops nothing (DESIGN CHOICE, log 13). -/
def State.placeGroup (s : State) (l : Launch) (g core : Nat) : Bool × State :=
  match s.frontRead l.ctx l.argSrc l.argLen with
  | (.bad, _) => (false, s)
  | (.waits, _) => (false, s)
  | (.miss va, s1) => (false, s1.pageMiss l.ctx va 0)
  | (.data args, s1) =>
    match s1.frontRead l.ctx l.phSrc 64 with
    | (.bad, _) => (false, s)
    | (.waits, _) => (false, s)
    | (.miss va, s2) => (false, s2.pageMiss l.ctx va 0)
    | (.data image, s2) =>
      match fitQuarters (footprint l.n l.k) (l.teamsOf g) (s2.quarterLoads core []) with
      | none => (false, s)
      | some qs =>
        let off := (fitScratch (carveL l.carve * 1024) l.scratch (s2.scratches core [])).getD 0
        let grp : Group := { launch := l.id, num := g, core := core, off := off, len := l.scratch, scratch := Store.empty.write 0 args false
                             shareLen := shareLen l.carve l.scratch, share := Store.empty, handles := [], endedTeams := [], lost := false
                             saved := false, kept := PairSt.reset }
        let first := !s2.groups.any (fun x => s2.ctxOf x.launch == l.ctx)
        let s3 := s2.setCarve core l.carve
        -- the descriptor is read when the context's first group is placed (R74)
        let s4 := if first then s3.updCtx l.ctx (fun c => { c with desc := s3.mem.hbm.read c.addr 64 }) else s3
        let s5 := { s4 with groups := s4.groups ++ [grp] }
        let s6 := s5.updLaunch l.id (fun q => { q with
          heads := if (NMap.look q.heads core).isSome then q.heads else NMap.put q.heads core (q.newHead image)
          chan := match s5.channel q (coreDie core) with | some c => NMap.put q.chan (coreDie core) c | none => q.chan })
        (true, State.addTeams l g core 0 qs s6)

/-- After the last group of a record has been placed, its slot goes on (R50). -/
def State.slotPlaced (s : State) (n : Nat) : State :=
  match s.launch? (s.slot n).launch with
  | none => s
  | some l =>
    if l.next < l.groups then s
    else
      match (s.slot n).st with
      | .dispatch => s.updSlot n (fun x => { x with st := .idle, record := [], launch := 0 })
      | .unmapping => s.freeSlot n
      | _ => s

/-- A launch goes on to the groups after those placed; members of a gang that have no lane count as placed and ended (R391). -/
def State.placed (s : State) (die n count : Nat) : State :=
  let id := (s.slot n).launch
  let s1 := s.updLaunch id (fun l => { l with next := l.next + count, ended := l.ended + (l.next + count - max l.next (min l.full (l.next + count))), waited := 0, waitSince := s.clk, block := none }.skip)
  let lv := match s.launch? id with | some l => s.levelOf l | none => 0
  (s1.updFront (fun f => { f with rr := NMap.set 0 f.rr (die * 4 + lv) ((n + 1) % 64) })).slotPlaced n

/-! ### Restoring (R63, R188, R211) -/

/-- Resources of a pair that a group kept. -/
def Group.owned (g : Group) : List Nat := (List.range 12).filter (fun r => (g.kept.owner r).isSome)

/-- Whether a core can take back a group that was saved whole. -/
def State.takesBack (s : State) (l : Launch) (g : Group) (core : Nat) : Bool :=
  coreDie core == coreDie g.core && (l.gang == 1 || core == g.core)
    && { s with groups := s.groups.filter (fun x => !(x.launch == g.launch && x.num == g.num)) }.accepts l g.num core []
    && (g.owned.isEmpty || (core % 2 == 0 && g.owned.all (fun r => ((s.pairSt (corePair core)).owner r).isNone)))

/-- Cores to which an evicted team can return now. -/
def State.returns (s : State) (t : Team) : List Nat :=
  match s.launch? t.launch, s.group? t.launch t.group with
  | some l, some g =>
    if !t.evicted || s.ctxHeld l.ctx then []
    else if g.saved then (List.range 256).filter (fun c => s.takesBack l g c)
    else if s.inService 0 (corePair g.core) && (fitQuarters (footprint t.n t.k) 1 (s.quarterLoads g.core [])).isSome
        && decide ((s.residents g.core []).length < 16) then [g.core]
    else []
  | _, _ => []

/-- A group that was saved whole comes back to a core: its allocation, its phase state, its lock-wait slots and its matrix resources; the FIFOs that its
launch leaves behind on the old core go (R120). -/
def State.returnGroup (s : State) (l : Launch) (g : Group) (core : Nat) : State :=
  let off := (fitScratch (carveL l.carve * 1024) g.len (s.scratches core [])).getD 0
  let others := s.groups.any (fun x => x.launch == g.launch && x.num != g.num && x.core == g.core)
  let s1 := (s.setCarve core l.carve).updGroup g.launch g.num (fun x => { x with core := core, off := off, saved := false, kept := PairSt.reset })
  let s2 : State := { s1 with teams := s1.teams.map (fun (k, t) => if t.launch == g.launch && t.group == g.num then (k, { t with core := core }) else (k, t)) }
  let moveWaiter (s : State) (t : Team) : State :=
    if core == g.core || !(s.coreSt g.core).waiters.contains t.id then s
    else (s.updCore g.core (fun c => { c with waiters := c.waiters.filter (· != t.id) })).updCore core (fun c => { c with waiters := c.waiters ++ [t.id] })
  let s2b := (s2.teamList.filter (inGroup g.launch g.num)).foldl moveWaiter s2
  let s2c := if core == g.core || others then s2b else s2b.updCore g.core (fun c => { c with fifos := c.fifos.filter (fun e => e.1 / 2 != g.launch) })
  let s3 := s2c.updLaunch g.launch (fun q =>
    if core == g.core || (NMap.look q.heads core).isSome then q
    else
      let late : CorePhase := { hdr := { late := false, overrun := false, phase := q.phase, nextexp := 0, expect := 0 }, st := .isOpen }
      let old := if others then late else (NMap.look q.heads g.core).getD late
      { q with heads := NMap.put (if others then q.heads else NMap.del q.heads g.core) core old })
  let key := groupKey g.launch g.num
  s3.updPair (corePair core) (fun p => g.owned.foldl (fun (p : PairSt) r =>
    let p1 := p.take key r
    let from' (q : PairSt) (t : Nat) : PairSt := if t == r then g.kept else q
    if r < 2 then
      { p1 with tile := (List.range 2).flatMap (fun t => (from' p1 t).tile.filter (fun e => e.1 / 65536 == t))
                tileTag := (List.range 2).flatMap (fun t => (from' p1 t).tileTag.filter (fun k => k / 65536 == t))
                rowGen := (List.range 2).flatMap (fun t => (from' p1 t).rowGen.filter (fun e => e.1 / 256 == t)) }
    else if r < 10 then { p1 with bufs := NMap.put p1.bufs (r - 2) (g.kept.buf (r - 2)) }
    else if r == 10 then { p1 with side := g.kept.side }
    else p1) p)

/-- A team takes up its locks again (R188): one it held in absence is its own with status 0. -/
def State.reclaim (s : State) (team : Nat) : State :=
  (s.mem.locks.filter (fun k => k.holder == team && k.absent)).foldl (fun (s : State) k =>
    ((s.updMem (fun m => { m with locks := m.locks.map (fun x => if x.line == k.line then { x with absent := false, timer := 0 } else x) })).freeWaiter
      team).lockStatus team 0) s

/-- The deadline of a team's waiting LOCK changed. -/
def State.shiftDeadline (s : State) (team : Nat) (f : Nat → Nat) : State :=
  { s with reqs := s.reqs.map (fun r => match r.op with
    | .lock d dl has try' => if r.team == team then { r with op := .lock d (f dl) has try' } else r
    | _ => r) }

/-- Whether an evicted team of a level or a higher one can return to a die: it goes before new groups (R63). -/
def State.returnsFirst (s : State) (die level : Nat) : Bool :=
  s.teamList.any (fun t => t.evicted && coreDie t.core == die
    && (match s.launch? t.launch with | some l => decide (s.levelOf l ≤ level) | none => false) && !(s.returns t).isEmpty)

/-! ### The dispatchers (R56-R58) -/

/-- Slots with groups to place, in the order a die's dispatcher takes them. -/
def State.dispatchOrder (s : State) (die : Nat) : List Nat :=
  (List.range 4).flatMap (fun lv =>
    let start := NMap.getD s.front.rr (die * 4 + lv) 0
    ((List.range 64).map (fun i => (start + i) % 64)).filter (fun n =>
      let x := s.slot n
      (x.st == .dispatch || x.st == .unmapping) && !s.ctxHeld x.ctxNum
        && (match s.launch? x.launch with | some l => s.levelOf l == lv | none => false)))

/-- What a dispatcher does for a slot: nothing, the placement of its next group or gang, or a change without one. -/
inductive Placing where
  | no
  | group (s : State)
  | gang (s : State)
  deriving DecidableEq, Repr

/-- All members of a gang placed on a block. -/
def State.placeMembers (l : Launch) (first : Nat) : List (Nat × Nat) → State → Bool × State
  | [], s => (true, s)
  | e :: es, s =>
    match s.placeGroup l e.2 (blockCore first e.1) with
    | (false, s1) => (false, s1)
    | (true, s1) =>
      match State.placeMembers ((s1.launch? l.id).getD l) first es s1 with
      | (ok, s2) => (ok, s2)

/-- Placement of a gang on a block; a page that is missing holds all of it back. -/
def State.placeGang (s : State) (l : Launch) (n first : Nat) : Placing :=
  match State.placeMembers l first l.members s with
  | (true, s1) =>
    let free (s : State) (c : Nat) : State := s.updCore c (fun x => { x with gang := none })
    let s2 := ((List.range (2 * l.stops)).map (fun i => 2 * first + i)).foldl free s1
    .gang (s2.placed (pairDie first) n (l.gangSize l.next))
  | (false, s1) => if s1.front.pages == s.front.pages then .no else .gang { s with front := s1.front, mem := { s.mem with host := s1.mem.host }, mgmt := s1.mgmt }

/-- A gang in compatibility mode (R58): it takes a block, reserves its cores one by one, and is placed when it has them all. -/
def State.reserveGang (s : State) (l : Launch) (n die : Nat) : Placing :=
  let block := match l.block with
    | some b => some b
    | none => (sortKey (fun f => 16 - (s.accepting l f []).length) (s.blockOffers l)).head?
  match block with
  | none => .no
  | some b =>
    if pairDie b != die then .no
    else
      let own (c : Nat) : Bool := (s.coreSt c).gang == some (l.id, l.next)
      let cores := l.members.map (fun e => blockCore b e.1)
      let new := (s.accepting l b []).filter (fun c => !own c)
      if new.isEmpty && cores.all (fun c => own c && (s.accepting l b []).contains c) then s.placeGang l n b
      else if new.isEmpty && l.block == some b then .no
      else .gang ((new.foldl (fun (s : State) c => s.updCore c (fun x => { x with gang := some (l.id, l.next) })) s).updLaunch l.id (fun l => { l with block := some b }))

/-- What a die's dispatcher does for a slot: it places what the order of offers gives to its die. A record of gangs of one group has its groups placed
as groups in either mode: nothing is reserved for them (DESIGN CHOICE, log 14). -/
def State.tryPlace (s : State) (die n : Nat) : Placing :=
  match s.launch? (s.slot n).launch with
  | none => .no
  | some l =>
    if l.groups ≤ l.next || s.returnsFirst die (s.levelOf l) then .no
    else if l.gang == 1 then
      match (s.offerCore l l.next []).filter (fun c => coreDie c == die) with
      | none => .no
      | some c =>
        match s.placeGroup l l.next c with
        | (true, s1) => .group (s1.placed die n 1)
        | (false, s1) => if s1.front.pages == s.front.pages then .no else .group s1
    else if l.compat then s.reserveGang l n die
    else
      match (s.offerBlock l []).filter (fun f => pairDie f == die) with
      | none => .no
      | some b => s.placeGang l n b

/-- The first slot of which a dispatcher can place something. -/
def State.placeFirst (die : Nat) : List Nat → State → Placing
  | [], _ => .no
  | n :: ns, s => match s.tryPlace die n with
    | .no => State.placeFirst die ns s
    | p => p

/-- GROUP_PLACE (R55-R57). -/
def execGroupPlace (die : Fin 2) (s : State) : Host.Outcome State Fault Refusal :=
  match if s.inService 5 die.val then State.placeFirst die.val (s.dispatchOrder die.val) s else .no with
  | .group s1 => .next s1
  | .gang _ => .next s
  | .no => .next s

/-- GANG_PLACE (R58). -/
def execGangPlace (die : Fin 2) (s : State) : Host.Outcome State Fault Refusal :=
  match if s.inService 5 die.val then State.placeFirst die.val (s.dispatchOrder die.val) s else .no with
  | .gang s1 => .next s1
  | .group _ => .next s
  | .no => .next s

/-- Whether something goes before the restore of a team (R63): an evicted team of a higher level that can return, or a new group of a higher level that
can be placed. -/
def State.goesFirst (s : State) (level : Nat) : Bool :=
  s.teamList.any (fun t => t.evicted && (match s.launch? t.launch with | some l => decide (s.levelOf l < level) | none => false) && !(s.returns t).isEmpty)
    || (List.range 2).any (fun die => (s.dispatchOrder die).any (fun n =>
        (match s.launch? (s.slot n).launch with | some l => decide (s.levelOf l < level) | none => false) && s.tryPlace die n != .no))

/-- TEAM_RESTORE (R63), at its level: the core is a free choice among those the rule allows. -/
def execTeamRestore (team : Nat) (s : State) : Host.Outcome State Fault Refusal :=
  match s.team? team with
  | none => .next s
  | some t =>
    match s.launch? t.launch, s.group? t.launch t.group, s.returns t with
    | some l, some g, c0 :: cs =>
      if s.goesFirst (s.levelOf l) then .next s else
      let (i, s0) := if cs.isEmpty then (0, s) else s.pick (cs.length + 1)
      let core := ((c0 :: cs)[i]?).getD c0
      let s1 := if g.saved then s0.returnGroup l g core else s0
      match fitQuarters (footprint t.n t.k) 1 (s1.quarterLoads core []) with
      | some (q :: _) =>
        let slot := s1.freeTeamSlot core
        let s2 := s1.updTeam team (fun t => { t with evicted := false, victim := false, core := core, quarter := q, slot := slot, savedReply := none })
        let s3 : State := { s2 with reqs := s2.reqs.map (fun r => if r.team == team && r.place == .paren 5 then { r with place := .paren 8 } else r) }
        let s4 := (s3.shiftDeadline team (fun d => s.clk + d)).reclaim team
        match t.savedReply, s4.team? team with
        | some v, some u => .next (s4.faultReply u v)
        | _, _ => .next s4
      | _ => .next s
    | _, _, _ => .next s

/-- AFFINITY_WIDEN (R57). -/
def execAffinityWiden (n : Fin 64) (s : State) : Host.Outcome State Fault Refusal :=
  match s.launch? (s.slot n.val).launch with
  | none => .next s
  | some l =>
    let w := if l.waitSince + 4096 < s.clk then 2 else if l.waitSince + 1024 < s.clk then 1 else 0
    if l.waited < w && l.next < l.groups then .next (s.updLaunch l.id (fun l => { l with waited := w })) else .next s

/-! ### Pre-emption and eviction (R61, R62) -/

/-- Whether a team has a matrix operation outstanding (R209). -/
def State.matrixOut (s : State) (t : Team) : Bool := s.pairs.any (fun p => p.2.ops.any (fun o => o.team == t.id && o.op != 0x98))

/-- Level of a team: its launch's. -/
def State.teamLevel (s : State) (t : Team) : Nat := match s.launch? t.launch with | some l => s.levelOf l | none => 0

/-- Age of a team: the greatest of its fragments'. -/
def Team.age (t : Team) : Nat := t.frags.foldl (fun m e => max m e.2.age) 0

/-- Whether a team's eviction would save whole a group whose sparsity queue holds entries (R211). -/
def State.keepsQueue (s : State) (gone : List Nat) (t : Team) : Bool :=
  let p := s.pairSt (corePair t.core)
  p.spqOwner == some (groupKey t.launch t.group) && !p.spq.isEmpty
    && (s.teamList.filter (fun x => x.launch == t.launch && x.group == t.group && x.id != t.id)).all (fun x => x.evicted || gone.contains x.id)

/-- The first victim on a core for a group (R61): some, where the group fits once the victims before the first that makes it fit have gone; none where
it never does. -/
def State.victims (s : State) (l : Launch) (g core : Nat) (first : Option Nat) : List Team → List Nat → Option Nat
  | [], gone => if s.accepts l g core gone then first else none
  | t :: rest, gone =>
    if s.accepts l g core gone then first
    else if s.keepsQueue gone t then State.victims s l g core first rest gone
    else State.victims s l g core (first.orElse (fun _ => some t.id)) rest (t.id :: gone)

/-- The candidates of steps 1 and 2 in offer order, each a core with the group that it would take. Those of a gang are the cores of its blocks with
the members that they would take (DEDUCED, log 14: R61 speaks of a group). -/
def State.preemptOffers (s : State) (l : Launch) : List (Nat × Nat) :=
  if l.gang == 1 then (s.offers l l.next).flatMap (fun p => [(2 * p, l.next), (2 * p + 1, l.next)])
  else (s.blockOffers l).flatMap (fun f => l.members.map (fun e => (blockCore f e.1, e.2)))

/-- PREEMPT (R61): the next victim on the first candidate core that holds teams of lower priority is told to stop; once it has gone the group is tried
again before another is. Where the group does not fit on that core even with every victim evicted, no second core is tried (DESIGN CHOICE, log 14). -/
def execPreempt (n : Fin 64) (s : State) : Host.Outcome State Fault Refusal :=
  let x := s.slot n.val
  match s.launch? x.launch with
  | none => .next s
  | some l =>
    let l0 := { l with waited := 0 }
    let leaving := (s.teamList.filter (fun t => t.victim)).map (fun t => t.id)
    let fits := if l.gang == 1 then (s.offerCore l0 l.next leaving).isSome else (s.offerBlock l0 leaving).isSome
    if !(x.st == .dispatch || x.st == .unmapping) || l.groups ≤ l.next || s.ctxHeld l.ctx || fits then .next s
    else
      let lower (c : Nat) : List Team := (s.residents c []).filter (fun t => decide (s.levelOf l < s.teamLevel t))
      match (s.preemptOffers l0).find? (fun e => !(lower e.1).isEmpty && !s.accepts l e.2 e.1 leaving) with
      | none => .next s
      | some (c, g) =>
        let can := (lower c).filter (fun t => !t.victim && !s.matrixOut t && t.status != .stopped && t.status != .ended)
        if (s.residents c []).any (fun t => t.victim) then .next s
        else
          match s.victims l g c none (sortKey (fun t => (3 - s.teamLevel t) * 2 ^ 40 + t.age) can) [] with
          | none => .next s
          | some v => .next (s.updTeam v (fun t => { t with victim := true }))

/-- Whether a fragment stands where an eviction may find it (R62): at a clause boundary, or parked. In mid-clause one in a registered wait (WAITCT, BAR,
a page) or blocked behind a bounced request of its team stands so too, since its wait may last until its team is restored (DESIGN CHOICE, log 15). -/
def Fragment.atRest (f : Fragment) (bounced : Bool) : Bool :=
  f.clause.isNone || f.st == .parked || (match f.latch with
    | .none => f.st == .blocked && bounced
    | .pending => f.st == .blocked && bounced
    | .done _ => false
    | .page _ _ => true
    | .fetch _ => true
    | .waiting _ => true
    | .counter _ _ => true)

/-- Saves a group whose every team is evicted (R62, R211). -/
def State.saveGroup (s : State) (launch num : Nat) : State :=
  match s.group? launch num with
  | none => s
  | some g =>
    let ts := s.teamList.filter (fun t => t.launch == launch && t.group == num)
    if g.saved || ts.isEmpty || !ts.all (fun t => t.evicted) then s
    else
      let key := groupKey launch num
      let p := s.pairSt (corePair g.core)
      let mine : PairSt := { p with
        ops := [], tileOwner := p.tileOwner.filter (fun e => e.2 == key), bufOwner := p.bufOwner.filter (fun e => e.2 == key)
        sideOwner := if p.sideOwner == some key then some key else none, spqOwner := none, spq := [] }
      (s.updGroup launch num (fun g => { g with saved := true, kept := mine })).updPair (corePair g.core) (fun p => p.release key)

/-- Whether a team can be saved now: every fragment at rest and no matrix operation outstanding, of a Stopped team no operation at
all. -/
def State.evictReady (s : State) (t : Team) : Bool :=
  let bounced := s.reqs.any (fun r => r.team == t.id && (match r.place with | .paren _ => true | _ => false))
  let rest := t.status == .parked || t.status == .halted || (t.status == .stopped && s.settledTeam t)
    || (t.status == .running && t.frags.all (fun e => e.2.atRest bounced))
  rest && !t.evicted && !s.matrixOut t && !s.keepsQueue [] t

/-- A team saved: its requests in shared queues are bounced, its room is freed. What is left of a LOCK's timeout is kept, which counts
only while its team is resident (R187). -/
def State.evictNow (s : State) (t : Team) : State :=
  let inQueue (r : Req) : Bool := r.team == t.id && (match r.place with | .queue _ => true | .net => true | .miss => true | .atIssue => true | _ => false)
  let s0 := s.shiftDeadline t.id (fun d => d - s.clk)
  let s1 := (s0.reqs.filter inQueue).foldl (fun (s : State) r => s.placeReq { r with pa := none } (.paren 5)) s0
  let s2 := s1.updTeam t.id (fun t => { t with evicted := true, victim := false })
  let s3 := s2.updCore t.core (fun c => { c with holder := c.holder.filter (fun e => e.2.1 != t.id) })
  s3.saveGroup t.launch t.group

/-- The team that a guest's switch takes next: the lowest core's, then slot's, of those on the device (R342). -/
def State.switchUnit (s : State) (ctx : Nat) : Option Team :=
  (sortKey (fun t => t.core * 16 + t.slot) (s.teamList.filter (fun t => s.ctxOf t.launch == ctx && !t.evicted && t.status != .ended))).head?

/-- Whether a function's switch of a context runs (R342). -/
def State.switchRuns (s : State) (ctx : Nat) : Bool :=
  match s.ctx? ctx with
  | none => false
  | some c => match NMap.look s.mgmt.func c.func with
    | some f => f.switching && !f.active && f.ctx == ctx
    | none => false

/-- TEAM_EVICT (R62, R343). The unit of a switch commits by an event of its own. -/
def execTeamEvict (team : Nat) (s : State) : Host.Outcome State Fault Refusal :=
  match s.team? team with
  | none => .next s
  | some t =>
    let ctx := s.ctxOf t.launch
    if !t.victim || !s.evictReady t || (s.switchRuns ctx && ((s.switchUnit ctx).map (fun u => u.id)) == some team) then .next s
    else .next (s.evictNow t)

/-- Every team of a selection is told to stop (R340, R342). -/
def State.evictAll (s : State) (sel : Team → Bool) : State :=
  { s with teams := s.teams.map (fun (k, t) => if sel t && !t.evicted && t.status != .ended then (k, { t with victim := true }) else (k, t)) }

/-! ### The end of teams, groups and launches (R42, R53) -/

/-- Whether a team meets the conditions of R42. -/
def State.mayRetire (s : State) (t : Team) : Bool :=
  t.status == .ended && t.flags.all (fun e => e.2 == 0) && t.paths.isEmpty && t.ovflow.isEmpty && !s.reqs.any (fun r => r.team == t.id)
    && (s.mem.locks.all (fun k => k.holder != t.id && k.queue.all (fun q => q.1 != t.id))) && !s.fab.transfers.any (fun x => x.team == t.id)
    && !s.pairs.any (fun p => p.2.ops.any (fun o => o.team == t.id))
    && !s.groups.any (fun g => g.handles.any (fun h => h.2.slices.any (fun c => c.team == t.id && c.inst != 0)))

/-- A group whose last team has gone stops being resident: its scratchpad, resources and, with the launch's last group there, FIFOs
are freed (R42, R120, R211). -/
def State.dropGroup (s : State) (launch num : Nat) : State :=
  match s.group? launch num with
  | none => s
  | some g =>
    if s.teamList.any (fun t => t.launch == launch && t.group == num) then s.saveGroup launch num
    else
      let s1 : State := { s with groups := s.groups.filter (fun x => !(x.launch == launch && x.num == num)) }
      let s2 := (s1.updPair (corePair g.core) (fun p => p.release (groupKey launch num))).updLaunch launch (fun l => { l with ended := l.ended + 1 })
      if s2.groups.any (fun x => x.launch == launch && x.core == g.core) then s2
      else s2.updCore g.core (fun c => { c with fifos := c.fifos.filter (fun e => e.1 / 2 != launch) })

/-- A team's room is freed, its posted answers and what waits for it forgotten. -/
def State.dropTeam (s : State) (t : Team) : State :=
  let s1 : State := { s with teams := NMap.del s.teams t.id }
  let s2 := s1.updCore t.core (fun c => { c with holder := c.holder.filter (fun e => e.2.1 != t.id), waiters := c.waiters.filter (· != t.id) })
  s2.dropGroup t.launch t.group

/-- TEAM_RETIRE (R42): what an ended team has still to release is released first (R271). -/
def execTeamRetire (team : Nat) (s : State) : Host.Outcome State Fault Refusal :=
  let s0 := s.retire team
  match s0.team? team with
  | none => .next s
  | some t => if s0.mayRetire t then .next (s0.dropTeam t) else if t.status == .ended then .next (s.letGo team) else .next s

/-- Whether a launch has completed: every group placed and ended, its final phase committed everywhere. -/
def State.finished (s : State) (l : Launch) : Bool :=
  decide (l.groups ≤ l.next) && decide (l.groups ≤ l.ended) && l.heads.all (fun e => e.2.st == .isOpen) && l.dies.isEmpty && l.peers.isEmpty
    && l.peerWait.isEmpty && !s.mem.pend.any (fun p => p.launch == l.id)
    && (match l.md with | some m => l.dead || (m.confirmed && !m.sentRaised && !m.held) | none => true)

/-- Cores reserved to a launch's gang are free again (R58). -/
def State.freeGang (s : State) (launch : Nat) : State :=
  (s.cores.filter (fun e => e.2.gang.any (fun q => q.1 == launch))).foldl (fun (s : State) e => s.updCore e.1 (fun c => { c with gang := none })) s

/-- A launch leaves the machine. -/
def State.dropLaunch (s : State) (l : Launch) : State :=
  { (s.freeGang l.id).updCtx l.ctx (fun c => { c with exhausted := NSet.rem c.exhausted l.id }) with launches := NMap.del s.launches l.id }

/-- LAUNCH_COMPLETE (R53, R353): a record of KIND 9 where poison was consumed, then DONECT is raised. -/
def execLaunchComplete (launch : Nat) (s : State) : Host.Outcome State Fault Refusal :=
  match s.launch? launch with
  | none => .next s
  | some l =>
    if !s.finished l then .next s
    else
      let s1 := match s.ctx? l.ctx with
        | some c => if c.check.getLsbD 63 then s.event l.ctx 9 0 0 0 c.check.toNat l.slot else s
        | none => s
      .next (if l.dead then s1.dropLaunch l else (s1.dropLaunch l).addRef l.donect 1)

/-! ### The watchdog, the clock, slot owners -/

/-- WATCHDOG_EXPIRE (R65, R340): the context is halted. -/
def execWatchdogExpire (ctx : Nat) (s : State) : Host.Outcome State Fault Refusal :=
  match s.ctx? ctx with
  | none => .next s
  | some c =>
    let v := s.watchdog ctx
    if c.halted || c.wdLimit == 0 || v ≤ c.wdLimit * 65536 then .next s
    else
      let s1 := (s.updCtx ctx (fun c => { c with halted := true })).evictAll (fun t => s.ctxOf t.launch == ctx)
      .next (s1.event ctx 5 0 0 0 v c.wdLimit)

/-- CLOCK_THROTTLE (R22). -/
def execClockThrottle (core : Fin 256) (s : State) : Host.Outcome State Fault Refusal :=
  .next (s.updCore core.val (fun c => { c with throttled := true }))

/-- THROTTLE_END (R22). -/
def execThrottleEnd (core : Fin 256) (s : State) : Host.Outcome State Fault Refusal :=
  .next (s.updCore core.val (fun c => { c with throttled := false }))

/-- SLOT_OWNER_WRITE (R64): functions 17 to 31 are ignored. -/
def execSlotOwnerWrite (n : Fin 64) (v : DWord) (s : State) : Host.Outcome State Fault Refusal :=
  let f := dw v 4 0
  if 16 < f then .next s else .next (s.updSlot n.val (fun x => { x with owner := f }))

end Sys2Proof.Machine
end

