-- ==== Sys2Proof/Machine/Commit.lean ====
section
/-! DEFINITION. Phases raised and committed (R191, R192, R281, R297), launches across devices (R299, R380-R382), and what a lock's
timers do (R187, R188, R364, R365). -/

namespace Sys2Proof.Machine

/-! ### Raising and committing -/

/-- ARRIVAL (R191, R236, R344). -/
def execArrival (core : Fin 256) (slot : Fin 64) (phase : Nat) (s : State) : Host.Outcome State Fault Refusal :=
  .next (s.arrival core.val slot.val phase)

/-- Whether a plain store of a launch on a core has still to be acknowledged (R192, R297). -/
def State.storesOut (s : State) (launch core : Nat) : Bool :=
  s.reqs.any (fun r => r.place != .answered
    && (match r.op with | .store cls _ => cls == .plain || cls == .strm | _ => false)
    && (match s.team? r.team with | some t => t.launch == launch && t.core == core | none => false))

/-- Whether a plain load that a launch's team on a core issued before its PHEND has still to be performed: its value is that of before the commit
(R263, DEDUCED, log 63). -/
def State.loadsOut (s : State) (launch core : Nat) : Bool :=
  s.reqs.any (fun r => r.place != .answered && r.op.isLoad
    && (match s.team? r.team with | some t => t.launch == launch && t.core == core && t.phaseDone && decide (r.id < t.phMark) | none => false))

/-- PHASE_RAISE (R192). -/
def execPhaseRaise (launch core : Nat) (s : State) : Host.Outcome State Fault Refusal :=
  match s.launch? launch with
  | none => .next s
  | some l =>
    match NMap.look l.heads core with
    | none => .next s
    | some h =>
      if h.st == .flushing && decide (h.hdr.expect ≤ 0) && !s.storesOut launch core && !s.loadsOut launch core then
        let s1 := s.updLaunch launch (fun l => { l with heads := NMap.put l.heads core { h with st := .raised } })
        .next (s1.send (.join launch core) 0 (coreStop core) (conjStop (coreDie core)))
      else .next s

/-- Whether a launch's tree is all raised: every core that takes part has raised, one at least in this phase; a core whose last group
has ended keeps its line raised. What its cores have raised has reached their die's Conjunction Engine. -/
def State.treeUp (s : State) (l : Launch) : Bool :=
  let idle (c : Nat) : Bool := !s.teamList.any (fun t => t.launch == l.id && t.core == c && t.status != .ended)
  l.heads.any (fun e => e.2.st == .raised) && l.heads.all (fun e => e.2.st == .raised || (e.2.st == .isOpen && idle e.1))
    && !l.heads.any (fun e => s.net.carries (.join l.id e.1))

/-- Pending versions of a launch from phases before its current one, homed on a die: those of its own teams, and those that looped back to this device. -/
def State.commitSel (s : State) (launch phase die : Nat) (p : Pend) (pa : Nat) : Bool :=
  p.launch == launch && p.phase != phase && s.homeOf pa / 64 == die
def State.commitPeerSel (s : State) (launch phase die : Nat) (p : PeerPend) (pa : Nat) : Bool :=
  p.dev == s.fab.self && p.launch == launch && p.phase != phase && s.homeOf pa / 64 == die

/-- A die applies a launch's commit (R281): the versions homed there settle, and what another store had overwritten goes with them (R278); its L1s drop the
sectors with the channel's commit tag. -/
def State.commitDie (s : State) (launch die : Nat) : State :=
  match s.launch? launch with
  | none => s
  | some l =>
    let sel := s.commitSel launch l.phase die
    let drop (p : Pend) : Pend :=
      let bytes := p.bytes.filter (fun e => !sel p e.1)
      let tagged := p.launch == launch && p.phase != l.phase && coreDie p.core == die
      { p with bytes := if tagged then bytes.map (fun (a, b) => (a, { b with kept := false })) else bytes, spilled := keepLines p.spilled bytes }
    (s.settle sel (s.commitPeerSel launch l.phase die)).updMem (fun m => { m with pend := (m.pend.map drop).filter (fun p => !p.bytes.isEmpty) })

/-- Whether a launch has versions of phases that have been committed at homes of a die. -/
def State.commitOwed (s : State) (launch phase die : Nat) : Bool :=
  s.mem.pend.any (fun p => p.bytes.any (fun e => s.commitSel launch phase die p e.1))
    || s.mem.peerPend.any (fun p => p.bytes.any (fun e => s.commitPeerSel launch phase die p e.1))

/-- A PHWAIT on a phase that has been committed and released is over, with the value 1; the present phase is waited for on (R197). -/
def released (phase : Nat) : Latch → Latch
  | .waiting k => if 65536 ≤ k && k < 131072 && k != phwaitKey phase then .done 1 else .waiting k
  | l => l

/-- Releases what waits for a commit, once it has been applied everywhere: held stores go on, waits for the phase end, and cores whose
teams have all passed already begin to flush. -/
def State.releaseTest (s : State) (launch : Nat) : State :=
  match s.launch? launch with
  | none => s
  | some l =>
    if s.unreleased launch then s
    else
      let s1 : State := { s with teams := s.teams.map (fun (k, t) =>
        if t.launch != launch then (k, t)
        else (k, { t with
          phaseDone := t.passed l.phase
          frags := t.frags.map (fun (e, f) => (e, { f with latch := released l.phase f.latch })) })) }
      (l.heads.map Prod.fst).foldl (fun (s : State) c =>
        if s.teamList.any (fun t => t.launch == launch && t.core == c && t.status != .ended) then s.phaseTest launch c else s) s1

/-- The commit of a launch's phase (R192, R281): discards that stand have been sent (R328), headers advance at once, versions settle die by die, commit messages leave for the
peers (R297), and stores that waited for room in the peer list go on. -/
def State.commitLaunch (s : State) (launch : Nat) : State :=
  match s.launch? launch with
  | none => s
  | some l =>
    let new := (l.phase + 1) % 65536
    let step (h : CorePhase) : CorePhase :=
      { hdr := { h.hdr with phase := new, expect := h.hdr.nextexp, nextexp := 0 }, st := .isOpen }
    let dies := (List.range 2).filter (s.commitOwed launch new)
    let (i, s0) := if dies.length == 2 then s.pick 2 else (0, s)
    let order := if i == 0 then dies else dies.reverse
    let s1 : State := { s0 with fab := { s0.fab with discards := s0.fab.discards.filter (fun d => d.2.1 != launch) }, teams := s0.teams.map (fun (k, t) =>
      if t.launch == launch && (t.passed l.phase || t.status == .ended) then (k, { t with irrev := 0, early := false }) else (k, t)) }
    let s2 := s1.updLaunch launch (fun l => { l with
      phase := new, heads := l.heads.map (fun (c, h) => (c, step h)), peers := [], peerWait := l.peerDevs.filter (· != s.fab.self), dies := order.drop 1 })
    let s3 := s2.updCtx l.ctx (fun c => { c with exhausted := NSet.rem c.exhausted launch })
    let s4 := match order with
      | d :: rest => rest.foldl (fun (s : State) e => s.send (.commit launch e) 0 (conjStop d) (conjStop e)) (s3.commitDie launch d)
      | [] => s3
    s4.releaseTest launch

/-- COMMIT_BROADCAST (R281): the broadcast has come over the bridge to the die that it has still to reach. -/
def execCommitBroadcast (launch : Nat) (die : Fin 2) (s : State) : Host.Outcome State Fault Refusal :=
  match s.launch? launch with
  | none => .next s
  | some l =>
    if !l.dies.contains die.val || s.net.carries (.commit launch die.val) then .next s
    else .next (((s.commitDie launch die.val).updLaunch launch (fun l => { l with dies := l.dies.filter (· != die.val) })).releaseTest launch)

/-- PEER_COMMIT_ACK (R297). -/
def execPeerCommitAck (launch dev : Nat) (s : State) : Host.Outcome State Fault Refusal :=
  match s.launch? launch with
  | none => .next s
  | some l =>
    if !l.peerWait.contains dev then .next s
    else .next ((s.updLaunch launch (fun l => { l with peerWait := l.peerWait.filter (· != dev) })).releaseTest launch)

/-- PEER_COMMIT_MESSAGE (R297): the versions that a phase of a peer's launch has here are settled. -/
def execPeerCommitMessage (src : Nat) (what : PeerPhase) (s : State) : Host.Outcome State Fault Refusal :=
  .next (s.settle noPend (fun p _ => p.dev == src && p.launch == what.launch && p.phase == what.phase % 65536))

/-- PEER_DISCARD_MESSAGE (R328): what a rolled-back task has here is dropped. -/
def execPeerDiscardMessage (src task : Nat) (s : State) : Host.Outcome State Fault Refusal :=
  .next (s.updMem (fun m => { m with peerPend := m.peerPend.filter (fun p => !(p.dev == src && p.task == task)) }))

/-! ### Launches across devices -/

/-- Commits, as the initiator, once every member has raised. -/
def State.mdCommitTest (s : State) (launch : Nat) : State :=
  match (s.launch? launch).bind (fun l => l.md) with
  | none => s
  | some m =>
    if m.initiator && m.sentRaised && m.members.all (fun d => NSet.has m.raised d) then
      (s.updLaunch launch (fun l => { l with md := some { m with sentRaised := false, raised := [], applied := [s.fab.self], held := true } })).commitLaunch launch
    else s

/-- PHASE_COMMIT (R192, R299): the tree is all raised: the phase commits, or, across devices, this member raises. -/
def execPhaseCommit (launch : Nat) (s : State) : Host.Outcome State Fault Refusal :=
  match s.launch? launch with
  | none => .next s
  | some l =>
    if !s.treeUp l || s.unreleased launch then .next s
    else
      match l.md with
      | none => .next (s.commitLaunch launch)
      | some m =>
        if l.dead then .next (s.commitLaunch launch)
        else if m.sentRaised then .next s
        else .next ((s.updLaunch launch (fun l => { l with md := some { m with sentRaised := true, raised := NSet.add m.raised s.fab.self } })).mdCommitTest launch)

/-- The oldest launch across devices of a slot that meets a condition. -/
def State.mdOf (s : State) (slot : Nat) (p : MdState → Bool) : Option (Launch × MdState) :=
  s.launches.findSome? (fun e => match e.2.md with
    | some m => if e.2.slot == slot && !e.2.dead && p m then some (e.2, m) else none
    | none => none)

/-- The state of a launch across devices changed. -/
def State.setMd (s : State) (launch : Nat) (m : MdState) : State := s.updLaunch launch (fun l => { l with md := some m })

/-- MD_LAUNCH_MESSAGE (R299): the held record may be released. -/
def execMdLaunchMessage (slot : Fin 64) (dev : Nat) (s : State) : Host.Outcome State Fault Refusal :=
  if s.mdOn slot.val && !s.mdInit slot.val && dw (s.reg (.mdJoin slot)) 47 34 == dev then .next (s.updSlot slot.val (fun x => { x with mdMsg := x.mdMsg + 1 }))
  else .next s

/-- MD_ACK (R299, R380): after the last acknowledgement the launch is confirmed. -/
def execMdAck (slot : Fin 64) (dev : Nat) (s : State) : Host.Outcome State Fault Refusal :=
  match s.mdOf slot.val (fun m => m.initiator && !m.confirmed) with
  | none => .next s
  | some (l, m) =>
    let acked := NSet.add m.acked dev
    .next (s.setMd l.id { m with acked := acked, confirmed := m.members.all (fun d => NSet.has acked d) })

/-- MD_CONFIRM (R380). -/
def execMdConfirm (slot : Fin 64) (s : State) : Host.Outcome State Fault Refusal :=
  match s.mdOf slot.val (fun m => !m.initiator && !m.confirmed) with
  | none => .next s
  | some (l, m) => .next (s.setMd l.id { m with confirmed := true })

/-- A team is ended as by R327, with no record (R341, R382); its stores that have not reached their homes go with its pending version (R328). -/
def State.killTeam (s : State) (t : Team) : State :=
  if t.status == .ended then s
  else
    let (_, s0) := s.stopTeam t .stopped
    let stray (r : Req) : Bool := r.team == t.id && (match r.op, r.place with
      | .store cls _, .queue _ => cls == .plain || cls == .strm
      | .store cls _, .miss => cls == .plain || cls == .strm
      | _, _ => false)
    let s1 : State := { s0 with reqs := s0.reqs.filter (fun r => !stray r) }
    (s1.updTeam t.id (fun t => { t with frags := [], joins := [], serial := [], record := none, savedReply := none, restartPending := false
                                        victim := false })).endTeam t.id

/-- A launch that is aborted or destroyed: its teams end and no further group of it is placed. -/
def State.killLaunch (s : State) (l : Launch) : State :=
  let s1 := ((s.teamList.filter (fun t => t.launch == l.id)).foldl State.killTeam s).freeGang l.id
  let s2 := s1.updLaunch l.id (fun l => { l with dead := true, ended := l.ended + (l.groups - l.next), next := l.groups })
  s2.slotPlaced l.slot

/-- Transfers of a launch that are outstanding complete with a status. -/
def State.failTransfers (s : State) (launch status : Nat) : State :=
  (s.fab.transfers.filter (fun x => x.launch == launch)).foldl (fun (s : State) x => s.endTransfer { x with packets := [], status := status }) s

/-- The abort of a launch across devices on this device (R382). The initiator names the first member that did not acknowledge; on
another member its number came with the message or is not known, a free value (log 12). -/
def State.mdAbort (s : State) (l : Launch) (m : MdState) : State :=
  let s1 := s.killLaunch l
  let s2 := s1.updMem (fun x => { x with pend := x.pend.filter (fun p => p.launch != l.id)
                                         peerPend := x.peerPend.filter (fun p => !(p.dev == s.fab.self && p.launch == l.id)) })
  let s3 := (s2.failTransfers l.id 5).updLaunch l.id (fun l => { l with heads := [], peers := [], peerWait := [], dies := [] })
  let late := m.members.find? (fun d => !NSet.has m.acked d)
  let (dev, s4) := match late with
    | some d => (d, s3)
    | none => ((Config.freeValue s3.free).toNat % 16384, { s3 with free := s3.free + 1 })
  s4.event l.ctx 14 0 0 l.slot l.landed dev

/-- Cycles of MDACKTO (R381): units of 100 ns. -/
def State.mdCycles (s : State) : Nat := max 1 (dw (s.reg .mdAckTo) 31 0) * 300

/-- MD_ACK_TIMEOUT (R381). -/
def execMdAckTimeout (slot : Fin 64) (s : State) : Host.Outcome State Fault Refusal :=
  match s.mdOf slot.val (fun m => m.initiator && !m.confirmed) with
  | none => .next s
  | some (l, m) => if m.since + s.mdCycles < s.clk then .next (s.mdAbort l m) else .next s

/-- MD_SELF_ABORT_TIMEOUT (R381). -/
def execMdSelfAbortTimeout (slot : Fin 64) (s : State) : Host.Outcome State Fault Refusal :=
  match s.mdOf slot.val (fun m => !m.initiator && !m.confirmed) with
  | none => .next s
  | some (l, m) => if m.since + 2 * s.mdCycles < s.clk then .next (s.mdAbort l m) else .next s

/-- MD_ABORT (R382): a member that still holds the record drops it. -/
def execMdAbort (slot : Fin 64) (s : State) : Host.Outcome State Fault Refusal :=
  match s.mdOf slot.val (fun m => !m.initiator && !m.confirmed) with
  | some (l, m) => .next (s.mdAbort l m)
  | none =>
    let x := s.slot slot.val
    if x.st == .held && s.mdOn slot.val && !s.mdInit slot.val then
      let s1 := s.updSlot slot.val (fun x => { x with st := .idle, record := [], hold := false, mdMsg := x.mdMsg - 1 })
      let (dev, s2) := ((Config.freeValue s1.free).toNat % 16384, { s1 with free := s1.free + 1 })
      .next (s2.event x.ctxNum 14 0 0 slot.val 0 dev)
    else .next s

/-- MD_RAISED (R299). -/
def execMdRaised (slot : Fin 64) (dev : Nat) (s : State) : Host.Outcome State Fault Refusal :=
  match s.mdOf slot.val (fun m => m.initiator && !m.held && !NSet.has m.raised dev) with
  | none => .next s
  | some (l, m) => .next ((s.setMd l.id { m with raised := NSet.add m.raised dev }).mdCommitTest l.id)

/-- MD_COMMIT (R299): the commit is applied; the release is still to come. -/
def execMdCommit (slot : Fin 64) (s : State) : Host.Outcome State Fault Refusal :=
  match s.mdOf slot.val (fun m => !m.initiator && m.sentRaised) with
  | none => .next s
  | some (l, m) => .next ((s.setMd l.id { m with sentRaised := false, raised := [], held := true }).commitLaunch l.id)

/-- MD_APPLIED (R299): after the last, the initiator releases. -/
def execMdApplied (slot : Fin 64) (dev : Nat) (s : State) : Host.Outcome State Fault Refusal :=
  match s.mdOf slot.val (fun m => m.initiator && m.held) with
  | none => .next s
  | some (l, m) =>
    let applied := NSet.add m.applied dev
    if m.members.all (fun d => NSet.has applied d) then .next ((s.setMd l.id { m with applied := [], held := false }).releaseTest l.id)
    else .next (s.setMd l.id { m with applied := applied })

/-- MD_RELEASE (R299). -/
def execMdRelease (slot : Fin 64) (s : State) : Host.Outcome State Fault Refusal :=
  match s.mdOf slot.val (fun m => !m.initiator && m.held) with
  | none => .next s
  | some (l, m) => .next ((s.setMd l.id { m with held := false }).releaseTest l.id)

/-! ### The timers of locks -/

/-- LOCK_TIMEOUT (R187, R188): the LOCK of a resident team leaves the queue, or the Parenthesis, with status 1. -/
def execLockTimeout (team : Nat) (s : State) : Host.Outcome State Fault Refusal :=
  match s.team? team with
  | none => .next s
  | some t =>
    let due (r : Req) : Bool := r.team == team && (match r.op with | .lock _ d has _ => has && decide (d < s.clk) | _ => false)
    if t.evicted || t.status == .stopped || !s.reqs.any due then .next s
    else
      let s1 := s.updMem (fun m => { m with locks := m.locks.map (fun k => { k with queue := k.queue.filter (fun q => q.1 != team) }) })
      .next ((s1.freeWaiter team).lockStatus team 1)

/-- ABSENCE_TIMER_EXPIRE (R188): the absent holder goes to the tail and the head takes the line, or the timer starts again. -/
def execAbsenceTimerExpire (line : Nat) (s : State) : Host.Outcome State Fault Refusal :=
  match s.mem.locks.find? (fun k => k.line == line) with
  | none => .next s
  | some k =>
    if !k.absent || s.clk < k.timer then .next s
    else if k.queue.isEmpty then
      .next (s.updMem (fun m => { m with locks := m.locks.map (fun x => if x.line == line then { x with timer := s.clk + 4096 } else x) }))
    else .next (s.passLock { k with queue := k.queue ++ [(k.holder, s.clk)] } k.check)

/-- The line a team waits for, and since when. -/
def State.awaits (s : State) (team : Nat) : Option (Nat × Nat) :=
  s.mem.locks.findSome? (fun k => (k.queue.find? (fun q => q.1 == team)).map (fun q => (k.line, q.2)))

/-- The chain of a probe from a line: holders with the lines they await, up to a number of hops; none where it does not come back. -/
def State.chain (s : State) (start : Nat) : Nat → Nat → Option (List (Nat × Nat))
  | 0, _ => none
  | hops + 1, line =>
    match s.mem.locks.find? (fun k => k.line == line) with
    | none => none
    | some k =>
      if k.holder == start then some []
      else
        match s.team? k.holder, s.awaits k.holder with
        | some h, some (l, _) => if h.status == .stopped then none else (State.chain s start hops l).map (fun c => (k.holder, l) :: c)
        | _, _ => none

/-- The bytes of a cycle's members in continuation records, three in each (R364). -/
def cycleRecords (s : State) (ctx : Nat) : Nat → List (Nat × Nat) → List (List Byte)
  | 0, _ => []
  | n + 1, ms =>
    if ms.isEmpty then []
    else
      let entry (m : Nat × Nat) : List Byte :=
        leBytes 8 m.2 ++ leBytes 8 (match s.team? m.1 with | some t => t.core * 256 + t.slot | none => 0)
      let body := (ms.take 3).flatMap entry
      (leBytes 8 (ctx * 2 ^ 48 + 3 * 2 ^ 32) ++ leBytes 8 0 ++ body ++ List.replicate (48 - body.length) 0) :: cycleRecords s ctx n (ms.drop 3)

/-- DEADLOCK_PROBE (R364, R365): of two that would find one cycle, the lower core's and slot's team faults. -/
def execDeadlockProbe (team : Nat) (s : State) : Host.Outcome State Fault Refusal :=
  match s.team? team, s.awaits team with
  | some t, some (line, since) =>
    if s.clk < since + 65536 || t.status == .stopped then .next s
    else
      match s.chain team 16 line with
      | none => .next s
      | some rest =>
        let cycle := (team, line) :: rest
        let r := s.reqs.find? (fun r => r.team == team && (match r.op with | .lock _ _ _ _ => true | _ => false))
        match r with
        | none => .next s
        | some r =>
          let ctx := s.ctxOf t.launch
          let s1 := takeFaultAt s team r.entry r.pc 18 0 0 line
          .next ((cycleRecords s ctx 6 cycle).foldl (fun (s : State) b => s.record ctx b) s1)
  | _, _ => .next s

end Sys2Proof.Machine
end

