-- ==== Sys2Proof/Machine/Pages.lean ====
section
/-! DEFINITION. The page service (R346-R348), registering contexts (R74) and invalidating translations (R80). -/

namespace Sys2Proof.Machine

/-! ### Page requests -/

/-- PAGE_REQUEST_WRITE (R346): the oldest request that is owed a record gets it, when the ring has room. -/
def execPageRequestWrite (s : State) : Host.Outcome State Fault Refusal :=
  match s.front.pages.find? PageReq.owed with
  | none => .next s
  | some q => .next (s.pgrWrite q)

/-- Whether a fragment waits for a page. -/
def Fragment.onPage (f : Fragment) (page : Nat) : Bool :=
  match f.latch with
  | .page va _ => va / 4096 == page
  | .fetch va => va / 4096 == page
  | _ => false

/-- Whether a request of a context waits for a page: bounced for it, or at the head of its queue with its walk's miss known. -/
def State.reqOnPage (s : State) (ctx page : Nat) (r : Req) : Bool :=
  (r.place == .paren 0 || (r.place == .queue 0 && r.pa.isNone && s.heads r)) && r.parts.any (fun p => p.va / 4096 == page)
    && (match s.team? r.team with | some t => s.ctxOf t.launch == ctx | none => false)

/-- A page request is answered by one of its numbers: the others stay known (R346), and held instructions and fetches look again. -/
def State.pageAnswered (s : State) (q : PageReq) (seq : Nat) : State :=
  let s1 := s.updFront (fun f => { f with
    pages := f.pages.filter (fun (x : PageReq) => !(x.ctx == q.ctx && x.page == q.page))
    answered := (q.seqs.filter (· != seq)).foldl NSet.add f.answered })
  { s1 with teams := s1.teams.map (fun (k, t) => if s.ctxOf t.launch == q.ctx
      then (k, { t with frags := t.frags.map (fun (e, f) => if f.onPage q.page then (e, { f with latch := .none }) else (e, f)) }) else (k, t)) }

/-- The page request that a sequence number names, or the state after a number that names none (R347). -/
def State.pageOf (s : State) (seq : Nat) : Option PageReq := s.front.pages.find? (fun q => q.seqs.contains seq)
def State.pageUnknown (s : State) (seq : Nat) : State := if NSet.has s.front.answered seq then s else s.countError 6

/-- PGRDONE_FILLED (R347): the cause clears, and each waiting request walks again. -/
def execPgrdoneFilled (seq : Nat) (s : State) : Host.Outcome State Fault Refusal :=
  match s.pageOf seq with
  | none => .next (s.pageUnknown seq)
  | some q => .next (s.pageAnswered q seq)

/-- A fault that an answer raises in a team: where, at which word, cause, lane and details. -/
structure PageFault where
  entry : Nat
  pc    : Nat
  cause : Nat
  lane  : Nat
  d0    : Nat
  d1    : Nat
  deriving DecidableEq, Repr

/-- The faults that wait in a team for a page, the one of the lowest address first; those of fetches last (R347, R348). -/
def State.pageFaults (s : State) (t : Team) (ctx page cause : Nat) : List PageFault :=
  let rs := (s.reqs.filter (fun r => r.team == t.id && s.reqOnPage ctx page r)).filterMap (fun r =>
    let ps := r.parts.filter (fun p => t.real.getLsbD p.lane)
    match sortKey (fun p => p.va) ps, sortKey (fun p => p.lane) ps with
    | a :: _, b :: _ => some ({ entry := r.entry, pc := r.pc, cause := cause, lane := b.lane, d0 := a.va, d1 := 0 } : PageFault)
    | _, _ => none)
  let is := t.frags.filterMap (fun (e, f) => match f.latch with
    | .page va lane => if va / 4096 == page then some ({ entry := e, pc := f.pc, cause := cause, lane := lane, d0 := va, d1 := 0 } : PageFault) else none
    | _ => none)
  let fs := t.frags.filterMap (fun (e, f) => match f.latch with
    | .fetch va => if va / 4096 == page then some ({ entry := e, pc := va, cause := 34, lane := 0, d0 := 0, d1 := cause } : PageFault) else none
    | _ => none)
  sortKey (fun x => x.d0) (rs ++ is) ++ fs

/-- An answer of 01 or 10 in a team: requests of helper lanes alone return zero (R38), any other wait faults. -/
def State.pageFail (s : State) (ctx page cause : Nat) (tid : Nat) : State :=
  match s.team? tid with
  | none => s
  | some t =>
    let mine := s.reqs.filter (fun r => r.team == tid && s.reqOnPage ctx page r)
    let helper (r : Req) : Bool := r.parts.all (fun p => !t.real.getLsbD p.lane)
    let zero (r : Req) : List (List Byte × Bool) := r.parts.map (fun p => (List.replicate p.len 0, false))
    let s1 := (mine.filter helper).foldl (fun (s : State) r => s.deliver r (zero r)) s
    match s.pageFaults t ctx page cause with
    | [] => s1
    | x :: _ =>
      let s2 : State := { s1 with reqs := s1.reqs.filter (fun r => !mine.any (fun m => m.id == r.id)) }
      takeFaultAt s2 tid x.entry x.pc x.cause x.lane x.d0 x.d1

/-- Whether a slot in Fetch waits for a page of a context. -/
def State.slotOnPage (s : State) (ctx page n : Nat) : Bool :=
  let x := s.slot n
  x.st == .fetch && x.ctxNum == ctx && (match (s.checkRecord x).1 with | .miss va => va / 4096 == page | _ => false)

/-- An answer of 01 or 10 (R347): the waiting teams fault, and slots that wait for the page stop with cause 8 (R54). -/
def pageFailed (seq cause : Nat) (s : State) : Host.Outcome State Fault Refusal :=
  match s.pageOf seq with
  | none => .next (s.pageUnknown seq)
  | some q =>
    let slots := (List.range 64).filter (s.slotOnPage q.ctx q.page)
    let teams := (s.teamList.filter (fun t => s.ctxOf t.launch == q.ctx)).map (fun t => t.id)
    let s1 := teams.foldl (fun (s : State) t => s.pageFail q.ctx q.page cause t) s
    .next (slots.foldl (fun (s : State) n => s.stopSlot n 8) (s1.pageAnswered q seq))

/-- PGRDONE_TRANSLATION_FAULT (R347). -/
def execPgrdoneTranslationFault (seq : Nat) (s : State) : Host.Outcome State Fault Refusal := pageFailed seq 12 s

/-- PGRDONE_PROTECTION_FAULT (R347). -/
def execPgrdoneProtectionFault (seq : Nat) (s : State) : Host.Outcome State Fault Refusal := pageFailed seq 13 s

/-! ### Contexts (R74) -/

/-- A context as it is registered. -/
def Ctx.fresh (num addr : Nat) (desc : List Byte) : Ctx :=
  { num := num, addr := addr, desc := desc, func := 0, user := [], dbg := 0, cjRange := [], check := 0, halted := false, crBase := 0
    crTail := 0, crHead := 0, crTag := 0, buffer := [], dropped := 0
    ck := { offset := 0, size := 0, en := false, isOpen := false, overflowed := false, full := [], log := [] }
    exhausted := [], switching := false }

/-- CTXDESC_WRITE (R74): a new number is registered, its descriptor read for the checks of R54; another address under a number in
use takes effect as any change of its descriptor does. It belongs to the function whose slot already names it (R64). -/
def execCtxdescWrite (addr : DWord) (ctx : Nat) (s : State) : Host.Outcome State Fault Refusal :=
  let a := dw addr 56 6 * 64
  if 65536 ≤ ctx then .next s
  else if !paExists a || !paExists (a + 63) then .fault (.noSuchAddress a)
  else
    match s.ctx? ctx with
    | some _ => .next (s.updCtx ctx (fun c => { c with addr := a }))
    | none =>
      let func := ((s.slots.find? (fun e => e.2.st != .free && e.2.ctxNum == ctx)).map (fun e => e.2.func)).getD 0
      .next { s with ctxs := NMap.put s.ctxs ctx { Ctx.fresh ctx a (s.mem.hbm.read a 64) with func := func } }

/-! ### Invalidations (R80) -/

/-- Whether a translation falls in an invalidation's scope. -/
def Xlinv.covers (x : Xlinv) (e : Tlb) : Bool :=
  !(x.keepG && leafBit e.leaf 9) && (match x.scope with
    | 0 => e.ctx == x.ctx && decide (e.va / 4096 ≤ x.page) && decide (x.page < (e.va + e.size) / 4096)
    | 1 => e.ctx == x.ctx
    | _ => true)

/-- Whether it concerns a context, and a range of that context's addresses: of an old page, the whole. -/
def Xlinv.ofCtx (x : Xlinv) (ctx : Nat) : Bool := x.scope == 2 || x.ctx == ctx
def Xlinv.range (x : Xlinv) (ctx va n : Nat) : Bool :=
  x.ofCtx ctx && n != 0 && (x.scope != 0 || (decide (va / 4096 ≤ x.last) && decide (x.first ≤ (va + n - 1) / 4096)))

/-- The pages through which the caches of cores and dies translate an address of a context. -/
def State.oldPages (s : State) (ctx va : Nat) : List Tlb :=
  (s.cores.filterMap (fun e => tlbLook e.2.tlb ctx va)) ++ (s.xlats.filterMap (fun e => tlbLook e.2 ctx va))

/-- An invalidation of one page, with what its old translations reach. -/
def State.pageXlinv (s : State) (keepG : Bool) (ctx page : Nat) : Xlinv :=
  let old := s.oldPages ctx (page * 4096)
  { scope := 0, ctx := ctx, keepG := keepG, page := page
    first := old.foldl (fun n e => min n (e.va / 4096)) page
    last := old.foldl (fun n e => max n ((e.va + e.size - 1) / 4096)) page }

/-- Drops the covered translations of every core and of both dies. -/
def State.dropTlb (s : State) (x : Xlinv) : State :=
  let left (l : List Tlb) : List Tlb := l.filter (fun e => !x.covers e)
  { s with
    cores := s.cores.filterMap (fun (c, k) =>
      let y := { k with tlb := left k.tlb }
      if y = CoreSt.reset then none else some (c, y))
    xlats := s.xlats.filterMap (fun (d, l) => if (left l).isEmpty then none else some (d, left l)) }

/-- Conjunction slots that hold translations in the scope. -/
def State.heldCj (s : State) (x : Xlinv) : List Nat :=
  (s.conj.slots.filter (fun e => x.range e.2.ctx (cjSrc e.2.desc) (cjSrcLen e.2.desc) || x.range e.2.ctx (cjDst e.2.desc) (cjDstLen e.2.desc))).map Prod.fst

/-- XLINVCTL's fields below BUSY (R80). -/
def Xlinv.word (x : Xlinv) : DWord := BitVec.ofNat 64 (x.keepG.toNat * 2 ^ 62 + x.scope * 2 ^ 60 + x.ctx % 65536)

/-- The start of an invalidation: armed slots that it covers are cancelled (R248). One that runs already is not disturbed. All
contexts: descriptors take effect anew (R74). -/
def startXlinv (x : Xlinv) (s : State) : Host.Outcome State Fault Refusal :=
  if s.mgmt.xlinv.isSome then .next s
  else
    let s1 := s.updMgmt (fun m => { m with xlinv := some x, xlinvCtl := x.word })
    let s2 := (s1.heldCj x).foldl (fun (s : State) k => (s.cjCancel k).2) s1
    if x.scope == 2 then
      .next { s2 with ctxs := s2.ctxs.map (fun (k, c) => (k, { c with desc := s2.mem.hbm.read c.addr 64 })) }
    else .next s2

/-- XLINVCTL as it reads: BUSY and the fields of the last write that was taken (R80). -/
def State.xlinvCtl (s : State) : DWord := BitVec.ofNat 64 (s.mgmt.xlinv.isSome.toNat * 2 ^ 63 + s.mgmt.xlinvCtl.toNat % 2 ^ 63)

/-- The page that XLINVADDR names. -/
def State.xlinvPage (s : State) : Nat := dw (s.reg .xlinvAddr) 56 12

/-- XLINV_PAGE (R80). -/
def execXlinvPage (keepG : Bool) (ctx : Nat) (s : State) : Host.Outcome State Fault Refusal :=
  startXlinv (s.pageXlinv keepG ctx s.xlinvPage) s

/-- XLINV_CONTEXT (R80). -/
def execXlinvContext (keepG : Bool) (ctx : Nat) (s : State) : Host.Outcome State Fault Refusal :=
  startXlinv { scope := 1, ctx := ctx, keepG := keepG, page := 0, first := 0, last := 0 } s

/-- XLINV_ALL (R80). -/
def execXlinvAll (keepG : Bool) (s : State) : Host.Outcome State Fault Refusal :=
  startXlinv { scope := 2, ctx := 0, keepG := keepG, page := 0, first := 0, last := 0 } s

/-- Whether an access that translated in the scope has still to be performed: a request past its translation, an engine operation or a
recorded slice of the context, a transfer, a round, a posted write that has not reached the host (R80, R229, R237, R248, R301). Of one page all
accesses of its context are waited for: an old entry that covered more than the page is perhaps held no longer. -/
def State.xlinvWaits (s : State) (x : Xlinv) : Bool :=
  let teamIn (t : Nat) : Bool := match s.team? t with | some t => x.ofCtx (s.ctxOf t.launch) | none => false
  s.reqs.any (fun r => r.pa.isSome && teamIn r.team && (match r.place with | .paren _ => false | .answered => false | .lockWait => false | _ => true))
    || s.pairs.any (fun p => p.2.ops.any (fun o => o.op != 0x98 && teamIn o.team))
    || s.groups.any (fun g => x.ofCtx (s.ctxOf g.launch) && g.handles.any (fun h => h.2.st == .filling && !h.2.slices.isEmpty))
    || s.fab.transfers.any (fun t => x.ofCtx t.ctx)
    || s.conj.rounds.any (fun r => x.ofCtx r.ctx)
    || s.mem.posted.any (fun e => e.2.any (fun w => x.ofCtx w.1))

/-- XLINV_DONE (R80). -/
def execXlinvDone (s : State) : Host.Outcome State Fault Refusal :=
  match s.mgmt.xlinv with
  | none => .next s
  | some x => if s.xlinvWaits x then .next s else .next ((s.dropTlb x).updMgmt (fun m => { m with xlinv := none }))

end Sys2Proof.Machine
end

