-- ==== Sys2Proof/Machine/Switch.lean ====
section
/-! DEFINITION. Contexts resumed and destroyed (R341), contexts and functions switched off the device (R342), and the reset of a
function (R383). -/

namespace Sys2Proof.Machine

/-! ### Resume and destroy (R341) -/

/-- A context's victims that have not been saved are victims no more. -/
def State.spare (s : State) (ctx : Nat) : State :=
  { s with teams := s.teams.map (fun (k, t) => if s.ctxOf t.launch == ctx then (k, { t with victim := false }) else (k, t)) }

/-- The watchdog of a context armed to 0 (R65). -/
def State.armWatchdog (s : State) (ctx : Nat) : State :=
  { s with cores := s.cores.filterMap (fun (k, c) =>
      let y := { c with watch := NMap.del c.watch ctx }
      if y = CoreSt.reset then none else some (k, y)) }

/-- CTXCTL as it reads (R341): an operation is done with the write that starts it, so that BUSY reads 0 and the fields are those of the last one. -/
def State.setCtxCtl (s : State) (op ctx : Nat) : State := s.updMgmt (fun m => { m with ctxCtl := BitVec.ofNat 64 (op * 2 ^ 61 + ctx % 65536) })

/-- CTX_RESUME (R341): a halted context goes on, and so does one that a guest has switched off the device (log 17). -/
def execCtxResume (ctx : Nat) (s : State) : Host.Outcome State Fault Refusal :=
  match s.ctx? ctx with
  | none => .next s
  | some c =>
    if !(c.halted || c.switching) || s.switchRuns ctx then .next s
    else
      let s1 := ((s.armWatchdog ctx).updCtx ctx (fun c => { c with halted := false, switching := false })).setCtxCtl 1 ctx
      .next (if s.preempted c.func then s1 else s1.spare ctx)

/-- A context destroyed: its teams end, its Conjunction slots are cancelled, its handles unbound, its matrix resources released, its slots
unmapped, its descriptor is unregistered. -/
def State.destroy (s : State) (ctx : Nat) : State :=
  let ls := (s.launches.map Prod.snd).filter (fun l => l.ctx == ctx)
  let s1 := ls.foldl (fun (s : State) l => match s.launch? l.id with | some x => s.killLaunch x | none => s) s
  let s2 := ((s.conj.slots.filter (fun e => e.2.ctx == ctx)).map Prod.fst).foldl (fun (s : State) k => (s.cjCancel k).2) s1
  let unbind (g : Group) : Group := if s.ctxOf g.launch == ctx then { g with handles := g.handles.map (fun (k, h) => (k, { h with bound := false })) } else g
  let s3 : State := { s2 with groups := s2.groups.map unbind }
  let s4 := (s3.groups.filter (fun g => s.ctxOf g.launch == ctx)).foldl (fun (s : State) g =>
    s.updPair (corePair g.core) (fun p => p.release (groupKey g.launch g.num))) s3
  let slots := (List.range 64).filter (fun n => (s4.slot n).st != .free && (s4.slot n).ctxNum == ctx)
  let s5 := slots.foldl State.freeSlot s4
  let ends (x : FuncSt) : FuncSt := if x.switching && x.ctx == ctx then { x with switching := false, active := false, left := 0 } else x
  let s6 := s5.updMgmt (fun m => { m with func := m.func.map (fun (k, x) => (k, ends x)) })
  { s6 with ctxs := NMap.del s6.ctxs ctx }

/-- CTX_DESTROY (R341). -/
def execCtxDestroy (ctx : Nat) (s : State) : Host.Outcome State Fault Refusal :=
  match s.ctx? ctx with
  | none => .next s
  | some _ => .next ((s.destroy ctx).setCtxCtl 2 ctx)

/-- FUNCTION_LEVEL_RESET (R383): a notify that has still to reach its queue's WAKE is discarded. -/
def execFunctionLevelReset (f : Nat) (s : State) : Host.Outcome State Fault Refusal :=
  let mine (s : State) (n : Nat) : Bool := (s.slot n).st != .free && (s.slot n).func == f
  let queues := ((List.range 64).filter (mine s)).map (fun n => (s.slot n).map)
  let s1 := ((s.ctxs.filter (fun e => e.2.func == f)).map Prod.fst).foldl State.destroy s
  let s2 := ((List.range 64).filter (mine s1)).foldl State.freeSlot s1
  .next (s2.updFront (fun x => { x with notifies := x.notifies.filter (fun e => !queues.contains e.1) }))

/-! ### Switches (R342) -/

/-- A function's switch state. -/
def State.funcSt (s : State) (f : Nat) : FuncSt :=
  NMap.getD s.mgmt.func f { switching := false, preempted := false, ctx := 0, units := 0, active := false, left := 0 }
def State.setFunc (s : State) (f : Nat) (x : FuncSt) : State := s.updMgmt (fun m => { m with func := NMap.put m.func f x })

/-- VFSWITCH and SWCURSOR of a function as they read (R342). -/
def State.vfSwitch (s : State) (f : Nat) : DWord :=
  let x := s.funcSt f
  BitVec.ofNat 64 (x.switching.toNat * 2 ^ 63 + x.ctx % 65536)
def State.swCursor (s : State) (f : Nat) : DWord :=
  let x := s.funcSt f
  BitVec.ofNat 64 (x.active.toNat * 2 ^ 63 + x.ctx % 65536 * 2 ^ 32 + x.units % 2 ^ 32)

/-- Teams of a context on the device. -/
def State.unitsLeft (s : State) (ctx : Nat) : Nat := (s.teamList.filter (fun t => s.ctxOf t.launch == ctx && !t.evicted && t.status != .ended)).length

/-- A switch goes on to its next unit, or has ended. -/
def State.switchNext (s : State) (f : Nat) : State :=
  let x := s.funcSt f
  match s.switchUnit x.ctx with
  | some t => s.updTeam t.id (fun t => { t with victim := true })
  | none => s.setFunc f { x with switching := false }

/-- VFSWITCH_WRITE (R342): a write while BUSY is ignored, one of a function that has been pre-empted ignored and counted. -/
def execVfswitchWrite (v : DWord) (s : State) : Host.Outcome State Fault Refusal :=
  let ctx := dw v 15 0
  match s.ctx? ctx with
  | none => .next s
  | some c =>
    let x := s.funcSt c.func
    if !v.getLsbD 63 then .next s
    else if x.preempted then .next (s.countError 7)
    else if x.switching then .next s
    else
      let s1 := (s.setFunc c.func { x with switching := true, ctx := ctx, units := 0 }).updCtx ctx (fun c => { c with switching := true })
      .next (s1.switchNext c.func)

/-- Every team of a function's contexts is told to stop. -/
def State.evictFunc (s : State) (f : Nat) : State :=
  s.evictAll (fun t => match s.ctx? (s.ctxOf t.launch) with | some c => c.func == f | none => false)

/-- SWITCH_UNIT_COMMIT (R342): the current unit's state is saved and the next one begins; where the function has been pre-empted meanwhile,
the cursor is saved and the rest is evicted with it. -/
def execSwitchUnitCommit (ctx : Nat) (s : State) : Host.Outcome State Fault Refusal :=
  match s.ctx? ctx with
  | none => .next s
  | some c =>
    let x := s.funcSt c.func
    let saved (s : State) (n : Nat) : State :=
      if x.preempted then (s.setFunc c.func { x with active := true, units := x.units + n, left := s.unitsLeft ctx }).evictFunc c.func
      else (s.setFunc c.func { x with units := x.units + n }).switchNext c.func
    if !s.switchRuns ctx then .next s
    else
      match s.switchUnit ctx with
      | none => .next (saved s 0)
      | some t =>
        if !t.victim then .next (saved s 0)
        else if s.evictReady t then .next (saved (s.evictNow t) 1) else .next s

/-- Whether a pre-emption of a function is still under way: BUSY of FUNCPRE. -/
def State.preempting (s : State) (f : Nat) : Bool :=
  ((s.funcSt f).switching && !(s.funcSt f).active) || s.teamList.any (fun t => t.victim && !t.evicted
    && (match s.ctx? (s.ctxOf t.launch) with | some c => c.func == f | none => false))

/-- FUNCPRE as it reads (R342): BUSY while the pre-emption of its function is under way, and the fields last taken. -/
def State.setFuncPre (s : State) (restore f : Nat) : State := s.updMgmt (fun m => { m with funcPre := BitVec.ofNat 64 (restore * 2 ^ 62 + f % 32) })
def State.funcPre (s : State) : DWord :=
  let f := dw s.mgmt.funcPre 4 0
  BitVec.ofNat 64 (((s.funcSt f).preempted && s.preempting f).toNat * 2 ^ 63 + s.mgmt.funcPre.toNat)

/-- FUNC_PREEMPT (R342): a switch of the function lets its current unit commit first. -/
def execFuncPreempt (f : Nat) (s : State) : Host.Outcome State Fault Refusal :=
  let x := s.funcSt f
  if f == 0 || 16 < f || x.preempted then .next s
  else
    let s1 := (s.setFunc f { x with preempted := true }).setFuncPre 0 f
    .next (if x.switching then s1 else s1.evictFunc f)

/-- FUNC_RESTORE (R342): the rest of an interrupted switch counts as committed. -/
def execFuncRestore (f : Nat) (s : State) : Host.Outcome State Fault Refusal :=
  let x := s.funcSt f
  if !x.preempted || s.preempting f then .next s
  else .next ((s.setFunc f { x with switching := false, preempted := false, active := false, units := x.units + x.left, left := 0 }).setFuncPre 1 f)

end Sys2Proof.Machine
end

