-- ==== Sys2Proof/Machine/Ckpt.lean ====
section
/-! DEFINITION. Checkpoint intervals (R360-R362). -/

namespace Sys2Proof.Machine

/-- A command has ended: CKCTL's OP, RESULT and CTX (R360). BUSY reads 0 between commands: each is one step. -/
def State.ckDone (s : State) (op result ctx : Nat) : State :=
  s.updMgmt (fun m => { m with ckCtl := BitVec.ofNat 64 (op * 2 ^ 61 + result * 2 ^ 59 + ctx % 65536) })

/-- A context's interval with no line logged. -/
def Ckpt.fresh (c : Ckpt) (opened : Bool) : Ckpt := { c with isOpen := opened, overflowed := false, full := [], log := [] }

/-- CK_OPEN (R360, R361): the previous log is discarded. -/
def execCkOpen (ctx : Nat) (s : State) : Host.Outcome State Fault Refusal :=
  match s.ctx? ctx with
  | none => .next s
  | some _ => .next ((s.updCtx ctx (fun c => { c with ck := c.ck.fresh true })).ckDone 1 0 ctx)

/-- A logged line restored: its bytes and its marks as they were. -/
def State.restoreLine (s : State) (e : Nat × List Byte × List Nat) : State :=
  let data := (e.2.1.zipIdx).map (fun (b, i) => (b, e.2.2.contains ((e.1 + i) / 8)))
  ((markRuns e.1 data).foldl (fun (s : State) r => s.commitWrite none r.1 r.2.1 r.2.2) s).invalidate e.1 256

/-- CK_ROLLBACK (R362): partials that the context's reductions have left on cores go with its pending versions (log 10). -/
def execCkRollback (ctx : Nat) (s : State) : Host.Outcome State Fault Refusal :=
  match s.ctx? ctx with
  | none => .next s
  | some c =>
    if !c.halted then .next (s.ckDone 2 1 ctx)
    else if !c.ck.isOpen then .next (s.ckDone 2 3 ctx)
    else if c.ck.overflowed then .next (s.ckDone 2 2 ctx)
    else
      let s1 := s.updMem (fun m => { m with pend := m.pend.filter (fun p => s.ctxOf p.launch != ctx), parts := m.parts.filter (fun p => p.ctx != ctx) })
      let s2 := c.ck.log.foldl State.restoreLine s1
      .next ((s2.updCtx ctx (fun c => { c with ck := c.ck.fresh true })).ckDone 2 0 ctx)

/-- CK_CLOSE (R360, R361): the log is discarded, logging stops. -/
def execCkClose (ctx : Nat) (s : State) : Host.Outcome State Fault Refusal :=
  match s.ctx? ctx with
  | none => .next s
  | some c => if !c.ck.isOpen then .next (s.ckDone 3 3 ctx) else .next ((s.updCtx ctx (fun c => { c with ck := c.ck.fresh false })).ckDone 3 0 ctx)

end Sys2Proof.Machine
end

