-- ==== Sys2Proof/Machine/Boot.lean ====
section
/-! DEFINITION. Bring-up: measurements (R304), signed images (R305, R306), configuration records (R309, R310), the boot order (R303), and
the requests of the DOE mailbox (R308, R384). -/

namespace Sys2Proof.Machine

/-! ### Measurements (R304) -/

/-- An extension of a measurement register with an image. -/
def State.extend (s : State) (i : Nat) (image : List Byte) : State :=
  let x := Config.shake512 (leBytes 64 (s.measured i).toNat ++ leBytes 64 (Config.shake512 image).toNat)
  s.updBoot (fun b => { b with meas := NMap.set 0 b.meas i x })

/-! ### Signed images (R305, R306) and configuration records (R309) -/

def imageMagic : Nat := 0x524441425F594D4E
def recordMagic : Nat := 0x47464E435F594D4E

/-- Header and body of an image or record, and its signature. -/
def signedPart (i : List Byte) : List Byte := i.take (64 + recBits i 191 160)
def signature (i : List Byte) : List Byte := (i.drop (64 + recBits i 191 160)).take (recBits i 159 128)

/-- Whether the signature over header and body is whole and verifies. -/
def signedOk (i : List Byte) : Bool :=
  decide (recBits i 159 128 ≤ 1280) && decide (64 + recBits i 191 160 + recBits i 159 128 ≤ i.length) && Config.falconOk (signedPart i) (signature i)

/-- The checks of an image for a KIND (R305). -/
def State.imageOk (s : State) (kind : Nat) (i : Image) : Bool :=
  recBits i 63 0 == imageMagic && recBits i 95 64 == kind && recBits i 511 256 == 0 && recBits i 127 96 == 0 && signedOk i
    && decide (NMap.getD s.boot.minSvn kind 0 ≤ recBits i 255 192)

/-- The image at an address of the flash, for an update (R314), when it passes. -/
def State.flashImage (s : State) (kind addr : Nat) : Option Image :=
  (NMap.look s.boot.flash addr).bind (fun i => if s.imageOk kind i then some i else none)

/-- The copy of an image that passes, A before B (R306). Images lie in the flash by KIND and unit. -/
def State.goodImage (s : State) (kind unit : Nat) : Option Image :=
  let key := kind * 64 + unit
  let try' (m : NMap Image) : Option Image := (NMap.look m key).bind (fun i => if s.imageOk kind i then some i else none)
  match try' s.boot.imagesA with
  | some i => some i
  | none => try' s.boot.imagesB

/-- Verifies and measures an image; none where both copies fail. -/
def State.loadImage (s : State) (kind unit reg : Nat) : Option State := (s.goodImage kind unit).map (s.extend reg)

/-- The checks of a configuration record by itself. -/
def recordOk (r : Image) : Bool :=
  recBits r 63 0 == recordMagic && recBits r 511 256 == 0 && recBits r 111 64 == 0 && recBits r 191 160 % 16 == 0
    && decide (1 ≤ recBits r 127 112 ∧ recBits r 127 112 ≤ 6) && signedOk r

/-- The records of the flash that are accepted, in ascending SEQ: of two with one SEQ neither is. -/
def acceptedRecords (rs : List Image) : List Image :=
  let ok := rs.filter recordOk
  let seq (r : Image) : Nat := recBits r 255 192
  sortKey seq (ok.filter (fun r => decide ((ok.filter (fun x => seq x == seq r)).length = 1)))

/-- Entries of a record's body: key and value. -/
def recordEntries (r : Image) : List (Nat × Nat) :=
  (List.range (recBits r 191 160 / 16)).map (fun i =>
    (leNat ((r.drop (64 + 16 * i)).take 8), leNat ((r.drop (72 + 16 * i)).take 8)))

/-- A hold limit as it is stored (R285). -/
def clampHold (n : Nat) : Nat := max 64 (min 4096 n)

/-- One entry applied (R310). The values of KINDs 1 and 2 are read where they are used. -/
def applyEntry (kind : Nat) (s : State) (e : Nat × Nat) : State :=
  let s1 := s.updBoot (fun b => { b with applied := NMap.put b.applied (kind * 2 ^ 64 + e.1) (BitVec.ofNat 64 e.2) })
  match kind with
  | 3 => { s1 with svc := if e.2 == 0 then NMap.put s1.svc e.1 .out else NMap.del s1.svc e.1 }
  | 4 => if e.1 < 6 then s1.setReg (.holdLim (Fin.ofNat 6 e.1)) (BitVec.ofNat 64 (clampHold (e.2 % 2 ^ 13))) else s1
  | 5 => if e.1 < 4 then s1.setReg (.scrubCfg (Fin.ofNat 4 e.1)) (BitVec.ofNat 64 (Nat.land e.2 0x8000FFFF)) else s1
  | 6 => s1.updBoot (fun b => { b with minSvn := NMap.put b.minSvn e.1 (max (NMap.getD b.minSvn e.1 0) e.2) })
  | _ => s1

/-- A record applied and measured. -/
def applyRecord (s : State) (r : Image) : State := ((recordEntries r).foldl (applyEntry (recBits r 127 112)) s).extend 2 r

/-! ### The boot order (R303) -/

/-- What device reset leaves: the flash, the host, and what HBM held stay (log 2). -/
def State.wiped (s : State) : State :=
  { State.reset with
    free := s.free, agenda := s.agenda, delays := s.delays, upsets := s.upsets, hostUp := s.hostUp
    mem := { MemSt.reset with hbm := s.mem.hbm, host := s.mem.host }
    boot := { BootSt.reset with imagesA := s.boot.imagesA, imagesB := s.boot.imagesB, records := s.boot.records
                                flash := s.boot.flash, identity := s.boot.identity } }

/-- Bring-up stopped at a step by an image that fails. -/
def State.bootStop (s : State) (stage kind : Nat) : State := s.updBoot (fun b => { b with stage := stage, failed := some kind })

/-- Loads images in order: the state after the last, or after the first that fails. -/
def loadAll (stage : Nat) : List (Nat × Nat × Nat) → State → Bool × State
  | [], s => (true, s.updBoot (fun b => { b with stage := stage }))
  | (kind, unit, reg) :: rest, s =>
    match s.loadImage kind unit reg with
    | some s1 => loadAll stage rest s1
    | none => (false, s.bootStop (stage - 1) kind)

/-- A port trained: the lanes that came up, of the half that a record names for it. -/
def State.trainPort (s : State) (p : Nat) : State :=
  let lanes := Config.trained s.free % 65536
  let used := match NMap.look s.boot.applied (2 * 2 ^ 64 + p) with
    | some h => Nat.land lanes (255 * 2 ^ (8 * dw h 0 0))
    | none => lanes
  { s.updPort p (fun x => x.found used) with free := s.free + 1 }

/-- Step 1 ends: the alias key is derived from the identity key and MEAS0, and the identity region becomes unreadable (R307). -/
def State.deriveAlias (s : State) : State :=
  let seed := Config.shake512 (s.boot.identity ++ leBytes 64 (s.measured 0).toNat)
  s.updBoot (fun b => { b with aliasSeed := some seed, idReadable := false })

/-- DEVICE_RESET (R303): the steps in order, each after the one before it has ended. -/
def execDeviceReset (s : State) : Host.Outcome State Fault Refusal :=
  match loadAll 1 [(1, 0, 0)] s.wiped with
  | (false, s1) => .next s1
  | (true, s1) =>
    let s2 := (acceptedRecords s1.boot.records).foldl applyRecord s1.deriveAlias
    match loadAll 3 [(2, 0, 1)] (s2.updBoot (fun b => { b with stage := 2 })) with
    | (false, s3) => .next s3
    | (true, s3) =>
      match loadAll 4 ((List.range 12).map (fun i => (3, i, 3))) s3 with
      | (false, s4) => .next s4
      | (true, s4) =>
        match loadAll 5 [(5, 0, 5), (5, 1, 6)] s4 with
        | (false, s5) => .next s5
        | (true, s5) =>
          match loadAll 6 ((List.range 8).map (fun i => (4, i, 4))) s5 with
          | (false, s6) => .next s6
          | (true, s6) => .next (((List.range 8).foldl State.trainPort s6).updBoot (fun b => { b with stage := bootReady }))

/-! ### The DOE mailbox (R308, R384) -/

/-- SPDM_GET_VERSION (R308). -/
def execSpdmGetVersion (s : State) : Host.Outcome State Fault Refusal := .next (s.spdm none .version)
/-- SPDM_GET_CAPABILITIES (R308). -/
def execSpdmGetCapabilities (s : State) : Host.Outcome State Fault Refusal := .next (s.spdm none .capabilities)
/-- SPDM_NEGOTIATE_ALGORITHMS (R308). -/
def execSpdmNegotiateAlgorithms (s : State) : Host.Outcome State Fault Refusal := .next (s.spdm none .algorithms)
/-- SPDM_GET_DIGESTS (R308). -/
def execSpdmGetDigests (s : State) : Host.Outcome State Fault Refusal := .next (s.spdm none .digests)
/-- SPDM_GET_CERTIFICATE (R308). -/
def execSpdmGetCertificate (s : State) : Host.Outcome State Fault Refusal := .next (s.spdm none .certificate)
/-- SPDM_CHALLENGE (R308). -/
def execSpdmChallenge (nonce : List Byte) (s : State) : Host.Outcome State Fault Refusal := .next (s.spdm none (.challenge nonce))
/-- SPDM_GET_MEASUREMENTS (R308). -/
def execSpdmGetMeasurements (nonce : List Byte) (s : State) : Host.Outcome State Fault Refusal := .next (s.spdm none (.measurements nonce))
/-- SPDM_UNSUPPORTED (R384). -/
def execSpdmUnsupported (request : Byte) (s : State) : Host.Outcome State Fault Refusal := .next (s.spdm none (.unsupported request))

end Sys2Proof.Machine
end

