-- ==== Sys2Proof/Machine/Control.lean ====
section
/-! DEFINITION. Control instructions, 0x00-0x0F (R138-R145). -/

namespace Sys2Proof.Machine

/-- Checks a target and moves the fragment (R139). -/
def transfer (iss : Issue) (s : State) (target : Nat) : Eff :=
  if 2 ^ 57 ≤ target then .stop 4 0 0 0
  else if target % 4 != 0 then .stop 3 0 0 0
  else .moved (s.updTeam iss.tid (fun t => t.goto iss.entry target))

/-- The scalar or literal of a control instruction. -/
def ctlSrc (iss : Issue) : Src → Nat
  | .reg r => teamReg iss false 0 r
  | .lit w => w.toNat

/-- H + the signed literal or scalar (R139). -/
def relTarget (iss : Issue) (b : Src) : Nat :=
  let off : Int := match b with
    | .reg r => sext (teamReg iss false 0 r) 64
    | .lit w => sext w.toNat 32
  wrapI ((iss.cl.hdr : Int) + off) 64

/-- Lanes of a mask in which a predicate passes, negated or not. -/
def passing (iss : Issue) (m : LaneMask) (p : Fin 8) (neg : Bool) : LaneMask :=
  let q := NMap.getD iss.team.pred p.val 0
  m &&& (if neg then ~~~q else q)

/-- NOP (R141). -/
def execNop (s : State) : Host.Outcome State Fault Refusal := run .nop s (fun _ s => .done s)

/-- BRA (R141). -/
def execBra (b : Src) (s : State) : Host.Outcome State Fault Refusal :=
  run (.bra b) s (fun iss s => if iss.act == 0 then .ends s else transfer iss s (relTarget iss b))

/-- The split of R31, or serial mode where no entry is free (R35). -/
def splitFrag (iss : Issue) (s : State) (taken : LaneMask) (target join : Nat) : Eff :=
  let next := iss.cl.hdr + 4 * (iss.cl.len + 1)
  let t := (s.team? iss.tid).getD iss.team
  let f := (t.frag? iss.entry).getD iss.frag
  let rest := f.mask &&& ~~~taken
  match (List.range 8).find? (fun e => (t.frag? e).isNone), (List.range 8).find? (fun j => (NMap.look t.joins j).isNone) with
  | some e, some j =>
    let base : Fragment := { f with join := j, sig := 0, clause := none, st := .ready, latch := .none, starve := 0 }
    let t1 := { t with joins := NMap.put t.joins j { addr := join, expected := 2, arrived := 0, outer := f.join } }
    let t2 := (t1.setFrag iss.entry { base with st := t.readySt iss.entry, mask := rest, pc := next, yielded := f.yielded || iss.cl.yield }).setFrag e
      { base with mask := taken, pc := target }
    .moved (s.updTeam iss.tid (fun _ => Team.settle settleFuel (Team.settle settleFuel t2 iss.entry) e))
  | _, _ =>
    if 64 ≤ t.serial.length then .stop 5 0 0 0
    else
      let r : SerialRec := { entry := iss.entry, join := f.join, lanes := rest, addr := next, reconv := join, side := false }
      let f' : Fragment := { f with
        mask := taken, pc := target, sig := 0, clause := none, st := .serial, latch := .none, starve := 0, yielded := f.yielded || iss.cl.yield }
      .moved (s.updTeam iss.tid (fun _ => Team.settle settleFuel ({ t with serial := r :: t.serial }.setFrag iss.entry f') iss.entry))

/-- BRC (R142): falls through, transfers as a whole, splits or enters serial mode. -/
def execBrc (neg : Bool) (pa : Fin 8) (b : Src) (s : State) : Host.Outcome State Fault Refusal :=
  run (.brc neg pa b) s (fun iss s =>
    let taken := passing iss iss.act pa neg
    let (tj, jo) : Int × Int := match b with
      | .reg r => let x := teamReg iss false 0 r; (sext (x / 2 ^ 32) 32, sext x 32)
      | .lit w => (sext (w.toNat / 2 ^ 16) 16, sext w.toNat 16)
    let target := wrapI ((iss.cl.hdr : Int) + 4 * tj) 64
    let join := wrapI ((iss.cl.hdr : Int) + 4 * jo) 64
    if taken == 0 then .ends s
    else if taken == iss.act then transfer iss s target
    else if 2 ^ 57 ≤ target || 2 ^ 57 ≤ join then .stop 4 0 0 0
    else if target % 4 != 0 || join % 4 != 0 then .stop 3 0 0 0
    else splitFrag iss s taken target join)

/-- BRANY (R141). -/
def execBrany (neg : Bool) (pa : Fin 8) (b : Src) (s : State) : Host.Outcome State Fault Refusal :=
  run (.brany neg pa b) s (fun iss s =>
    if passing iss iss.val pa neg == 0 then .ends s else transfer iss s (relTarget iss b))

/-- BRALL (R141). -/
def execBrall (neg : Bool) (pa : Fin 8) (b : Src) (s : State) : Host.Outcome State Fault Refusal :=
  run (.brall neg pa b) s (fun iss s =>
    if iss.val != 0 && passing iss iss.val pa neg == iss.val then transfer iss s (relTarget iss b) else .ends s)

/-- JMP (R141). -/
def execJmp (b : Src) (s : State) : Host.Outcome State Fault Refusal :=
  run (.jmp b) s (fun iss s => if iss.act == 0 then .ends s else transfer iss s (ctlSrc iss b))

/-- CALL (R141): the link is the clause that follows. -/
def execCall (d : Reg) (b : Src) (s : State) : Host.Outcome State Fault Refusal :=
  run (.call d b) s (fun iss s =>
    if iss.act == 0 then .ends s
    else
      let link := BitVec.ofNat 64 (iss.cl.hdr + 4 * (iss.cl.len + 1))
      match d with
      | .s n => transfer iss (s.updTeam iss.tid (fun t => t.setS n.val link false)) (relTarget iss b)
      | .v _ => transfer iss s (relTarget iss b)
      | .q _ => transfer iss s (relTarget iss b))

/-- RET (R141). -/
def execRet (b : Reg) (s : State) : Host.Outcome State Fault Refusal :=
  run (.ret b) s (fun iss s => if iss.act == 0 then .ends s else transfer iss s (teamReg iss false 0 b))

/-- LOOP (R141): the scalar falls by one, modulo 2^64, and the fragment transfers while it is not zero. -/
def execLoop (d : Reg) (b : Src) (s : State) : Host.Outcome State Fault Refusal :=
  run (.loop d b) s (fun iss s =>
    if iss.act == 0 then .ends s
    else
      match d with
      | .s n =>
        let x := iss.team.s n.val - 1
        let s1 := s.updTeam iss.tid (fun t => t.setS n.val x (NSet.has t.stag n.val))
        if x == 0 then .ends s1 else transfer iss s1 (relTarget iss b)
      | .v _ => .ends s
      | .q _ => .ends s)

/-- FUSE (R32, R35): to the reconvergence of the top serial record, or to the join; a NOP with neither. -/
def execFuse (s : State) : Host.Outcome State Fault Refusal :=
  run .fuse s (fun iss s =>
    match topSerial iss.team iss.entry, NMap.look iss.team.joins iss.frag.join with
    | some r, _ => .moved (s.updTeam iss.tid (fun t => t.goto iss.entry r.reconv))
    | none, some j => .moved (s.updTeam iss.tid (fun t => t.goto iss.entry j.addr))
    | none, none => .ends s)

/-- YIELD (R141, R60). -/
def execYield (s : State) : Host.Outcome State Fault Refusal :=
  run .yield s (fun iss s => .ends (s.updTeam iss.tid (fun t =>
    match t.frag? iss.entry with
    | some f => t.setFrag iss.entry { f with yielded := true }
    | none => t)))

/-- EXIT (R141): the active lanes leave; a fragment left empty ends, and with the last one the team. -/
def execExit (s : State) : Host.Outcome State Fault Refusal :=
  run .exit s (fun iss s =>
    if iss.act == 0 then .ends s
    else
      let left := iss.frag.mask &&& ~~~iss.act
      let s1 := s.updTeam iss.tid (fun t =>
        match t.frag? iss.entry with
        | some f => t.setFrag iss.entry { f with mask := left }
        | none => t)
      if left == 0 then
        .moved (((s1.updTeam iss.tid (fun t => Team.settle settleFuel t iss.entry)).endIfEmpty iss.tid).barriers iss.team.launch iss.team.group)
      else .ends s1)

/-- STOP (R141): every lane of every fragment leaves. -/
def execStop (s : State) : Host.Outcome State Fault Refusal :=
  run .stop s (fun iss s =>
    if iss.act == 0 then .ends s
    else .moved ((s.updTeam iss.tid (fun t => { t with frags := [], joins := [], serial := [] })).endIfEmpty iss.tid))

/-- A signature mismatch (R337): with a restart label and fewer than two retries the team is rolled back, a record of
KIND 4 is written and the team restarts; otherwise it is a fatal fault. -/
def mismatch (s : State) (iss : Issue) : Eff :=
  match s.launch? iss.team.launch with
  | none => .stop 8 0 0 0
  | some l =>
    if l.restart != 0 && decide (iss.team.retries < 2) then
      let t := iss.team
      let phase := s.phaseOf t + (t.passed (s.phaseOf t)).toNat
      let ((line, n), s1) := s.stopTeam t .stopped
      let t1 := (s1.team? iss.tid).getD t
      let s2 := s1.record iss.ctx (faultRecord t1 iss.ctx 4 iss.entry 8 (taskWord t phase) iss.frag.pc 0 0 0 line n)
      let s3 := s2.updTeam iss.tid (fun t => { t with retries := t.retries + 1 })
      .moved (s3.restartWhenSettled iss.tid)
    else .stop 8 0 0 0

/-- SIGCHK (R144): whether or not a lane is active. -/
def execSigchk (b : Src) (s : State) : Host.Outcome State Fault Refusal :=
  run (.sigchk b) s (fun iss s =>
    if iss.frag.sig.toNat == ctlSrc iss b % 2 ^ 32 then .done s else mismatch s iss)

/-- SIGRD (R144). -/
def execSigrd (d : Reg) (s : State) : Host.Outcome State Fault Refusal :=
  run (.sigrd d) s (fun iss s =>
    laneOp s iss false 32 32 iss.ty.width (fun x => x) d none none (fun _ _ _ _ g => (some iss.frag.sig.toNat, g)))

/-- ELECT (R145). -/
def execElect (p : Fin 8) (s : State) : Host.Outcome State Fault Refusal :=
  run (.elect p) s (fun iss s =>
    if iss.act == 0 then .done s
    else .done (s.updTeam iss.tid (fun t => t.writeP p.val iss.act (maskOf iss.low.toList))))

end Sys2Proof.Machine
end

