-- ==== Sys2Proof/Machine/Exchange.lean ====
section
/-! DEFINITION. Exchange between lanes, 0x50-0x56 (R165-R168). -/

namespace Sys2Proof.Machine

/-- A second source read as an unsigned 32-bit value (R166). -/
def opdC (s : State) (iss : Issue) (b : Option Src) : Opd :=
  match b with
  | some (.lit w) => .all w.toNat false
  | some (.reg r) => opdB s iss none (some (.reg r))
  | none => .all 0 false

/-- A move between lanes (R166): every active lane takes the register of its source lane as it stands (R39). -/
def exchange (iss : Issue) (s : State) (d a : Reg) (b : Option Src) (from' : Nat → Nat → Nat) : Eff :=
  if iss.act == 0 then .done s
  else if iss.low.isSome && !portsReady s iss.team none none b then .wait .none s
  else
    let w := iss.ty.width
    let oc := opdC s iss b
    let oa := opdReg s iss 0 a
    let outs : List LaneOut := (lanesOf iss.act iss.team.n).map (fun l =>
      let (c, tc) := opdAt iss.team 32 l oc
      let (x, tx) := opdAt iss.team w (from' l c) oa
      { lane := l, val := x, tag := tc || tx })
    .done (writeOut { popAll s iss none b with free := s.free + 1 } iss w (scalarExt iss.ty) d outs)

/-- Source lane of QSWAP. -/
def qswapFrom (x : QuadX) (l : Nat) : Nat :=
  match x with
  | .x1 => Nat.xor l 1
  | .x2 => Nat.xor l 2
  | .x3 => Nat.xor l 3

/-- Source lane of SHFL: within the row of 32 lanes. -/
def shflFrom (m : ShflMode) (l c : Nat) : Nat :=
  let rb := l / 32 * 32
  match m with
  | .idx => rb + c % 32
  | .up => if c ≤ l - rb then l - c else l
  | .dn => if l + c < rb + 32 then l + c else l
  | .xor => rb + Nat.xor (l - rb) (c % 32)

/-- Source lane of TSHFL: modulo the team's lanes. -/
def tshflFrom (m : TshflMode) (n l c : Nat) : Nat :=
  match m with
  | .idx => c % n
  | .up => wrapMod ((l : Int) - c) n
  | .dn => (l + c) % n
where
  /-- An integer modulo the lane count. -/
  wrapMod (x : Int) (n : Nat) : Nat := (x % (n : Int)).toNat

/-- QSWAP (R166). -/
def execQswap (x : QuadX) (d a : Reg) (s : State) : Host.Outcome State Fault Refusal :=
  run (.qswap x d a) s (fun iss s => exchange iss s d a none (fun l _ => qswapFrom x l))
/-- QBCAST (R166). -/
def execQbcast (l : Fin 4) (d a : Reg) (s : State) : Host.Outcome State Fault Refusal :=
  run (.qbcast l d a) s (fun iss s => exchange iss s d a none (fun k _ => k / 4 * 4 + l.val))
/-- SHFL (R166). -/
def execShfl (m : ShflMode) (d a : Reg) (b : Src) (s : State) : Host.Outcome State Fault Refusal :=
  run (.shfl m d a b) s (fun iss s => exchange iss s d a (some b) (shflFrom m))
/-- TSHFL (R166). -/
def execTshfl (m : TshflMode) (d a : Reg) (b : Src) (s : State) : Host.Outcome State Fault Refusal :=
  run (.tshfl m d a b) s (fun iss s => exchange iss s d a (some b) (tshflFrom m iss.team.n))

/-- One step of SCAN or REDX: an ADD, MIN or MAX of R153 on every element (R167). -/
def combineStep (iss : Issue) (f : EVal → EVal → EVal) (x y : Nat) (g : Word) : Nat × Word :=
  eachElem iss.ty (exact iss (fun a b _ => f a b)) x y 0 g

/-- The operation of a SCAN. -/
def scanOp (iss : Issue) (m : ScanMode) (a b : EVal) : EVal :=
  match m with
  | .add => a.add iss.mode b
  | .xadd => a.add iss.mode b
  | .max => a.max b
  | .min => a.min b

/-- A value that no step combines, as it is written (R88, R89): under a floating type a NaN becomes the canonical one and a subnormal
goes to a zero under the flush bit; no draw is made. -/
def asResult (iss : Issue) (x : Nat) : Nat := (eachElem iss.ty (exact iss (fun a _ _ => a)) x 0 0 1).1

/-- Inclusive combinations over lanes in ascending order; each step draws from the generator of the lane that its result
is written to, given with it. Answers the results in order and the generators drawn from. -/
def scanGo (f : Nat → Nat → Word → Nat × Word) (gen : Nat → Word) :
    Nat × Bool → List (Nat × Nat × Bool) → List (Nat × Bool) × List (Nat × Word)
  | _, [] => ([], [])
  | (acc, tag), (g, x, tx) :: rest =>
    let (r, g') := f acc x (gen g)
    let (rs, gs) := scanGo f gen (r, tag || tx) rest
    ((r, tag || tx) :: rs, (g, g') :: gs)

/-- SCAN (R167). -/
def execScan (m : ScanMode) (d a : Reg) (s : State) : Host.Outcome State Fault Refusal :=
  run (.scan m d a) s (fun iss s =>
    if iss.act == 0 then .done s
    else if !tyArith iss.ty then .stop 6 0 0 0
    else
      let w := iss.ty.width
      let ks := lanesOf iss.val iss.team.n
      let oa := opdReg s iss 0 a
      let vals := ks.map (fun l => opdAt iss.team w l oa)
      let s1 := { s with free := s.free + 1 }
      match ks, vals with
      | k0 :: ks', v :: vs =>
        let v0 := (asResult iss v.1, v.2)
        let f := combineStep iss (scanOp iss m)
        let gens (gs : List (Nat × Word)) : State := if iss.mode == .rst && iss.ty.isFloat then writeGens s1 iss.tid gs else s1
        let (outs, gs) : List LaneOut × List (Nat × Word) := match m with
          | .xadd =>
            let (rs, gs) := scanGo f iss.team.g v0 ((ks'.drop 1).zip (vs.take (ks'.length - 1)))
            ({ lane := k0, val := 0, tag := false } ::
              (ks'.zip (v0 :: rs)).map (fun (l, v) => { lane := l, val := v.1, tag := v.2 }), gs)
          | _ =>
            let (rs, gs) := scanGo f iss.team.g v0 (ks'.zip vs)
            (((k0 :: ks').zip (v0 :: rs)).map (fun (l, v) => { lane := l, val := v.1, tag := v.2 }), gs)
        .done (writeOut (gens gs) iss w (scalarExt iss.ty) d outs)
      | _, _ => .done s1)

/-- The combination of REDX: its steps draw one after another from the generator of the lowest lane. -/
def redxGo (f : Nat → Nat → Word → Nat × Word) : Nat × Bool → Word → List (Nat × Bool) → (Nat × Bool) × Word
  | acc, g, [] => (acc, g)
  | (acc, tag), g, (x, tx) :: rest => let (r, g') := f acc x g; redxGo f (r, tag || tx) g' rest

/-- A step of REDX. -/
def redxStep (iss : Issue) (m : RedxMode) (x y : Nat) (g : Word) : Nat × Word :=
  match m with
  | .add => combineStep iss (fun a b => a.add iss.mode b) x y g
  | .min => combineStep iss EVal.min x y g
  | .max => combineStep iss EVal.max x y g
  | .or => (Nat.lor x y, g)

/-- REDX (R167). -/
def execRedx (m : RedxMode) (d a : Reg) (s : State) : Host.Outcome State Fault Refusal :=
  run (.redx m d a) s (fun iss s =>
    if iss.act == 0 then .done s
    else if !tyArith iss.ty then .stop 6 0 0 0
    else
      let w := iss.ty.width
      let ks := lanesOf iss.val iss.team.n
      let oa := opdReg s iss 0 a
      let s1 := { s with free := s.free + 1 }
      match ks.map (fun l => opdAt iss.team w l oa), iss.low with
      | v0 :: vs, some low =>
        let ((r, tag), g) := redxGo (redxStep iss m) (if m == .or then v0 else (asResult iss v0.1, v0.2)) (iss.team.g low) vs
        let s2 := if iss.mode == .rst && iss.ty.isFloat then writeGens s1 iss.tid [(low, g)] else s1
        .done (writeOut s2 iss w (scalarExt iss.ty) d (ks.map (fun l => { lane := l, val := r, tag := tag })))
      | _, _ => .done s1)

/-- MATCH.row (R168). -/
def execMatchRow (d a : Reg) (s : State) : Host.Outcome State Fault Refusal :=
  run (.matchRow d a) s (fun iss s =>
    let w := iss.ty.width
    let oa := opdReg s iss 0 a
    let outs : List LaneOut := (lanesOf iss.val iss.team.n).map (fun l =>
      let same := (List.range 32).filter (fun i =>
        iss.val.getLsbD (l / 32 * 32 + i) && (opdAt iss.team w (l / 32 * 32 + i) oa).1 == (opdAt iss.team w l oa).1)
      { lane := l, val := same.foldl (fun acc i => acc + 2 ^ i) 0
        tag := (List.range 32).any (fun i => iss.val.getLsbD (l / 32 * 32 + i) && (opdAt iss.team w (l / 32 * 32 + i) oa).2) })
    .done (writeOut s iss w (wordExt iss.ty) d (outs.map (fun o => if d.isS then { o with val := wordExt iss.ty o.val } else o))))

/-- MATCH.all (R168). -/
def execMatchAll (p : Fin 8) (a : Reg) (s : State) : Host.Outcome State Fault Refusal :=
  run (.matchAll p a) s (fun iss s =>
    let oa := opdReg s iss 0 a
    match (lanesOf iss.val iss.team.n).map (fun l => (opdAt iss.team iss.ty.width l oa).1) with
    | [] => .done s
    | x :: xs => .done (s.updTeam iss.tid (fun t => t.writeP p.val iss.val (if xs.all (· == x) then BitVec.allOnes 1024 else 0))))

end Sys2Proof.Machine
end

