-- ==== Sys2Proof/Machine/Service.lean ====
section
/-! DEFINITION. Service units (R313, R314, R386) and the scrubber (R354-R358). -/

namespace Sys2Proof.Machine

/-! ### Service units -/

/-- Kinds of unit: 0 core pair, 1 L2 slice, 2 HBM channel, 3 Fyolo port, 4 host link, 5 engine firmware of a die; how many there are. -/
def unitCount (cls : Nat) : Nat :=
  match cls with
  | 0 => 128 | 1 => 128 | 2 => 384 | 3 => 8 | 4 => 2 | 5 => 2
  | _ => 0

/-- Key of a unit. -/
def unitKey (cls unit : Nat) : Nat := cls * 65536 + unit

/-- State of a unit. -/
def State.unitSt (s : State) (cls unit : Nat) : UnitSt := NMap.getD s.svc (unitKey cls unit) .inService
def State.setUnit (s : State) (cls unit : Nat) (x : UnitSt) : State := { s with svc := NMap.set .inService s.svc (unitKey cls unit) x }

/-- A command of SVCCTL taken (R313): its fields below GO, and its RESULT: 0 done, 1 refused, 2 busy, 3 failed. -/
def State.svcDone (s : State) (action cls unit result : Nat) : State :=
  s.updMgmt (fun m => { m with svcCtl := BitVec.ofNat 64 (action * 2 ^ 60 + cls % 16 * 2 ^ 56 + unit % 65536), svcLast := unitKey cls unit, svcResult := result })

/-- SVCSTAT (R313): the STATE of the unit of the last command, and its RESULT. -/
def State.svcStat (s : State) : DWord :=
  let st : Nat := match NMap.getD s.svc s.mgmt.svcLast .inService with
    | .inService => 0 | .draining => 1 | .out => 2 | .returning => 3
  BitVec.ofNat 64 (st * 2 ^ 62 + s.mgmt.svcResult * 2 ^ 60)

/-- What a completed service action extends MEAS7 with: the unit's place in SVCCTL and the action (log 22). -/
def actionBytes (action cls unit : Nat) : List Byte := leBytes 8 (action * 2 ^ 60 + cls * 2 ^ 56 + unit)

/-- SVC_DRAIN (R314): no work is placed on the unit from now on; the teams of a pair are evicted, but for the gangs, which end there. -/
def execSvcDrain (cls unit : Nat) (s : State) : Host.Outcome State Fault Refusal :=
  if unitCount cls ≤ unit then .next (s.svcDone 0 cls unit 1)
  else
    match s.unitSt cls unit with
    | .inService =>
      let s1 := (s.setUnit cls unit .draining).svcDone 0 cls unit 0
      if cls == 0 then
        .next (s1.evictAll (fun t => corePair t.core == unit && (match s.launch? t.launch with | some l => l.gang == 1 | none => true)))
      else .next s1
    | .draining => .next (s.svcDone 0 cls unit 2)
    | .returning => .next (s.svcDone 0 cls unit 2)
    | .out => .next s

/-- A drain of a pair that is stopped evicts nothing more; teams of a context that is held are still victims (R314). -/
def State.stopDrain (s : State) (cls unit : Nat) : State :=
  if cls != 0 then s
  else { s with teams := s.teams.map (fun (k, t) => if corePair t.core == unit && !s.ctxHeld (s.ctxOf t.launch) then (k, { t with victim := false }) else (k, t)) }

/-- SVC_RETURN (R314, R386): from Out it may fail, which leaves the unit Out. -/
def execSvcReturn (cls unit : Nat) (s : State) : Host.Outcome State Fault Refusal :=
  if unitCount cls ≤ unit then .next (s.svcDone 1 cls unit 1)
  else
    match s.unitSt cls unit with
    | .inService => .next s
    | .draining => .next (((s.stopDrain cls unit).setUnit cls unit .returning).svcDone 1 cls unit 0)
    | .returning => .next (s.svcDone 1 cls unit 2)
    | .out =>
      let (i, s1) := s.pick 2
      .next (if i == 0 then (s1.setUnit cls unit .returning).svcDone 1 cls unit 0 else s1.svcDone 1 cls unit 3)

/-- A command that only an Out unit takes. -/
def onlyOut (s : State) (action cls unit : Nat) (act : State → State) : Host.Outcome State Fault Refusal :=
  if unitCount cls ≤ unit then .next (s.svcDone action cls unit 1)
  else
    match s.unitSt cls unit with
    | .inService => .next (s.svcDone action cls unit 1)
    | .draining => .next (s.svcDone action cls unit 2)
    | .returning => .next (s.svcDone action cls unit 2)
    | .out => .next (act s)

/-- A repair or update that has been done is measured, as every service action (R304). -/
def State.actionDone (s : State) (action cls unit : Nat) : State := (s.svcDone action cls unit 0).extend 7 (actionBytes action cls unit)

/-- SVC_REPAIR (R304, R314, R386): it is done or fails. -/
def execSvcRepair (cls unit : Nat) (s : State) : Host.Outcome State Fault Refusal :=
  onlyOut s 2 cls unit (fun s =>
    let (i, s1) := s.pick 2
    let s2 := if cls == 2 then s1.updMgmt (fun m => { m with badChan := if i == 0 then NSet.rem m.badChan unit else NSet.add m.badChan unit }) else s1
    if i == 0 then s2.actionDone 2 cls unit else s2.svcDone 2 cls unit 3)

/-- What an update of a unit loads: the KIND of its image and its measurement register (log 22). -/
def updateImage (cls unit : Nat) : Option (Nat × Nat) :=
  match cls with
  | 2 => some (3, 3)
  | 3 => some (4, 4)
  | 5 => some (5, 5 + unit)
  | _ => none

/-- SVC_UPDATE (R304, R314): the image at an address of the flash is verified and measured; where it fails the unit is unchanged. -/
def execSvcUpdate (cls : Nat) (what : UnitImage) (s : State) : Host.Outcome State Fault Refusal :=
  onlyOut s 3 cls what.unit (fun s =>
    match (updateImage cls what.unit).bind (fun k => (s.flashImage k.1 what.addr).map (s.extend k.2)) with
    | some s1 => s1.actionDone 3 cls what.unit
    | none => s.svcDone 3 cls what.unit 3)

/-- Pending versions of a slice are spilled, its lines leave the L2, and with it none of its index keeps requester-side copies (R275, R280). -/
def State.spillSlice (s : State) (slice : Nat) : State :=
  let add (bytes : NMap PByte) (out : NSet) : NSet := ((versionLines bytes).filter (fun l => homeSlice l == slice)).foldl NSet.add out
  s.updMem (fun m => { m with
    pend := m.pend.map (fun p => { p with spilled := add p.bytes p.spilled })
    peerPend := m.peerPend.map (fun p => { p with spilled := add p.bytes p.spilled })
    xcopies := m.xcopies.filter (fun x => homeSlice (x * 64) % 64 != slice % 64)
    tags := m.tags.filterMap (fun (k, ls) => let left := ls.filter (fun l => homeSlice l != slice); if left.isEmpty then none else some (k, left)) })

/-- A draining unit when it is empty, as it goes Out; none while it is not empty. -/
def State.emptied (s : State) (cls unit : Nat) : Option State :=
  match cls with
  | 0 =>
    if s.teamList.any (fun t => corePair t.core == unit && !t.evicted) || s.groups.any (fun g => corePair g.core == unit
        && (match s.launch? g.launch with | some l => l.gang != 1 | none => false)) then none else some s
  | 1 => some (s.spillSlice unit)
  | 2 => some s
  | 3 => if (s.port unit).unacked.isEmpty && (s.port unit).out.isEmpty then some (s.updPort unit (fun x => { x with up := false, retrain := false })) else none
  | 4 => if s.linkUp unit || (NMap.getD s.mem.posted unit []).isEmpty then some (s.drainLink unit) else none
  | 5 => if s.conj.rounds.any (fun r => r.key / 8192 == unit) then none else some s
  | _ => none

/-- UNIT_EMPTY (R314). -/
def execUnitEmpty (cls unit : Nat) (s : State) : Host.Outcome State Fault Refusal :=
  if s.unitSt cls unit != .draining then .next s
  else
    match s.emptied cls unit with
    | none => .next s
    | some s1 => .next ((s1.setUnit cls unit .out).extend 7 (actionBytes 0 cls unit))

/-- A unit that comes back: a port trains again, the versions kept at the other die's slice are spilled (R275). -/
def State.reloaded (s : State) (cls unit : Nat) : State :=
  match cls with
  | 1 => s.spillSlice unit
  | 2 => s.updMgmt (fun m => { m with badChan := NSet.rem m.badChan unit })
  | 3 =>
    if (s.port unit).up then s
    else
      let s1 := s.trainPort unit
      let x := s1.port unit
      if s1.fab.opened && (halfOk x.laneOk 0 || halfOk x.laneOk 1) then s1.updPort unit (fun x => { x with up := true }) else s1
  | _ => s

/-- UNIT_READY (R314). -/
def execUnitReady (cls unit : Nat) (s : State) : Host.Outcome State Fault Refusal :=
  if s.unitSt cls unit != .returning then .next s
  else .next (((s.reloaded cls unit).setUnit cls unit .inService).extend 7 (actionBytes 1 cls unit))

/-! ### Scrubbing (R354-R358) -/

/-- Marks a granule of a storage. -/
def Store.mark (x : Store) (g : Nat) : Store := { x with poison := NSet.add x.poison g }

/-- Marks the pending bytes of a team's versions that a selection takes: they settle as marked granules (R358, R264). -/
def State.markPend (s : State) (sel : Pend → Nat → Bool) : State :=
  s.updMem (fun m => { m with pend := m.pend.map (fun p => { p with bytes := p.bytes.map (fun (a, b) => if sel p a then (a, { b with tag := true }) else (a, b)) }) })

/-- Core of a team; 0 for none. -/
def State.coreOf (s : State) (team : Nat) : Nat := match s.team? team with | some t => t.core | none => 0

/-- Level, unit, storage index or address of what a scrub reads, and the context it belongs to. -/
def State.scrubPlace (s : State) (t : ScrubTarget) : Fin 4 × Nat × Nat × Nat :=
  let ctxOfTeam (n : Nat) : Nat := match s.team? n with | some t => s.ctxOf t.launch | none => 0xFFFF
  let quarter (n : Nat) : Nat := match s.team? n with | some t => t.core * 4 + t.quarter | none => 0
  let ctxOfLaunch (l : Nat) : Nat := match s.launch? l with | some l => l.ctx | none => 0xFFFF
  let core (l g : Nat) : Nat := match s.group? l g with | some g => g.core | none => 0
  match t with
  | .hbm g => (3, stackOf (8 * g), sectorOf (8 * g) * 64, 0xFFFF)
  | .chip g => (2, 64 * (8 * g / 2 ^ 25) + 8 * g / 256 % 64, 8 * g, 0xFFFF)
  | .counter d n => (2, 64 * d.val + n / 32 % 64, d.val * 32768 + 8 * n, 0xFFFF)
  | .vector team r l => (0, quarter team, vkey r l, ctxOfTeam team)
  | .scalar team r => (0, quarter team, r, ctxOfTeam team)
  | .predicate team r => (0, quarter team, r, ctxOfTeam team)
  | .accumulator p i => (0, 2 * p.val * 4, i, 0xFFFF)
  | .l1 c sector => (1, c.val, sector * 64, 0xFFFF)
  | .scratch l g x => (1, core l g, 8 * x, ctxOfLaunch l)
  | .share l g x => (1, core l g, 8 * x, ctxOfLaunch l)
  | .priv team x => (1, s.coreOf team, 8 * x, ctxOfTeam team)
  | .version team g => (2, s.homeOf (8 * g), 8 * g, ctxOfTeam team)
  | .checkpoint g => (2, s.homeOf (8 * g), 8 * g, 0xFFFF)
  | .matrixTags p => (1, 2 * p.val, 0, 0xFFFF)
  | .conjunction d n => (2, 64 * d.val, n, match NMap.look s.conj.slots (d.val * 8192 + n) with | some x => x.ctx | none => 0xFFFF)
  | .teamControl team => (1, s.coreOf team, 0, ctxOfTeam team)
  | .directory line => (2, s.homeOf line, lineOf line, 0xFFFF)

/-- Kind of the log record of an uncorrectable error, found by a scrub or by an access (R355). -/
def scrubKind (byScrub : Bool) (t : ScrubTarget) : Nat :=
  match t with
  | .counter _ _ => 6
  | .matrixTags _ => 6
  | .conjunction _ _ => 6
  | .teamControl _ => 6
  | .directory _ => 4
  | _ => if byScrub then 3 else 1

/-- A directory entry rebuilt (R358): every copy is recalled, the lock queue rebuilt in core and slot order, and the bytes of each pending
version whose data or mask is lost (a free choice) marked. -/
def State.rebuild (s : State) (line0 : Nat) : State :=
  let line := lineOf line0
  let secs := (List.range 4).map (fun i => line / 64 + i)
  let s1 : State := { s with cores := s.cores.filterMap (fun (c, x) =>
    let y := { x with clean := secs.foldl NSet.rem x.clean }
    if y = CoreSt.reset then none else some (c, y)) }
  let teams := (s.mem.pend.filter (fun p => p.bytes.any (fun e => lineOf e.1 == line))).map (fun p => p.team)
  let s2 := teams.foldl (fun (s : State) t => s.flushLine t line) s1
  let s3 := s2.updMem (fun m => { m with locks := m.locks.map (fun k => if k.line == line
    then { k with queue := sortKey (fun q => match s.team? q.1 with | some t => t.core * 16 + t.slot | none => 0) k.queue } else k) })
  teams.foldl (fun (s : State) t =>
    let (i, s') := s.pick 2
    if i == 0 then s' else s'.markPend (fun p a => p.team == t && lineOf a == line)) s3

/-- What an uncorrectable error does (R354, R357). -/
def State.damage (s : State) (t : ScrubTarget) : State :=
  match t with
  | .hbm g =>
    let sec := 8 * (8 * g / 64)
    s.updMem (fun m => { m with hbm := (List.range 8).foldl (fun x i => x.mark (sec + i)) m.hbm })
  | .chip g => s.updMem (fun m => { m with chip := m.chip.mark g })
  | .counter d n => s.updMem (fun m => { m with ctr := m.ctr.mark (d.val * 4096 + n) })
  | .vector team r l => s.updTeam team (fun t => { t with vtag := NSet.add t.vtag (vkey r l) })
  | .scalar team r => s.updTeam team (fun t => { t with stag := NSet.add t.stag r })
  | .predicate _ _ => s
  | .accumulator p i => s.updPair p.val (fun p => { p with tileTag := NSet.add p.tileTag i })
  | .l1 c sector =>
    let mine (p : Pend) : Bool := p.core == c.val
    (s.markPend (fun p a => mine p && sectorOf a == sector && (match NMap.look p.bytes a with | some b => b.inL1 | none => false))).updCore c.val
      (fun x => { x with clean := NSet.rem x.clean sector })
  | .scratch l g x => s.updGroup l g (fun q => { q with scratch := q.scratch.mark x })
  | .share l g x => s.updGroup l g (fun q => { q with share := q.share.mark x })
  | .priv team x => s.updTeam team (fun t => { t with priv := t.priv.mark x })
  | .version team g => s.markPend (fun p a => p.team == team && a / 8 == g)
  | .checkpoint g => s.updMem (fun m => { m with locks := m.locks.map (fun k => if k.line == lineOf (8 * g) then { k with check := k.check.mark g } else k) })
  | .matrixTags p => s.startReset p.val false
  | .conjunction d n =>
    let key := d.val * 8192 + n
    match NMap.look s.conj.slots key with
    | none => s
    | some x =>
      let s1 := s.updConj (fun c => { c with slots := NMap.del c.slots key, queue := c.queue.map (fun (k, q) => (k, q.filter (· != key))) })
      s1.event x.ctx 10 0 0 0 key 0
  | .teamControl team =>
    match (s.team? team).bind (fun t => t.frags.head?) with
    | some (e, _) => takeFault s team e 9 0 0 1
    | none => s
  | .directory line => s.rebuild line

/-- SCRUB_LINE (R311, R354, R356): a corrected error is written back, an uncorrectable one marked or handled by its storage, and both are logged.
A scrub reads only while its level is scrubbed; an error that an access meets is found without it. -/
def execScrubLine (target : ScrubTarget) (outcome : ScrubOutcome) (s : State) : Host.Outcome State Fault Refusal :=
  let (level, unit, index, ctx) := s.scrubPlace target
  let on := (s.reg (.scrubCfg level)).getLsbD 31
  match outcome with
  | .clean => .next s
  | .corrected => .next (if on then s.logError level 2 unit ctx index else s)
  | .uncorrectable => .next (if on then (s.damage target).logError level (scrubKind true target) unit ctx index else s)
  | .metCorrected => .next (s.logError level 0 unit ctx index)
  | .metUncorrectable => .next ((s.damage target).logError level (scrubKind false target) unit ctx index)

end Sys2Proof.Machine
end

