-- ==== Sys2Proof/Machine/Manage.lean ====
section
/-! DEFINITION. Writes of management registers that have no row of their own (R9), the host links (R300, R379), and RESYNC (R385). -/

namespace Sys2Proof.Machine

/-! ### Register writes (R9) -/

/-- Bits of a register that are not reserved, as runs (high, low). -/
def regFields : MReg → List (Nat × Nat)
  | .crBase _ => [(59, 0)]
  | .crHead _ => [(63, 0)]
  | .crTag _ => [(63, 0)]
  | .pgrBase => [(59, 0)]
  | .pgrHead => [(63, 0)]
  | .levelFloor _ => [(1, 0)]
  | .xlinvAddr => [(56, 12)]
  | .holdLim _ => [(12, 0)]
  | .l2VerCfg => [(3, 0)]
  | .fyWin _ => [(63, 61), (56, 0)]
  | .fyCtr _ => [(27, 16), (11, 0)]
  | .fyLnk _ => [(47, 32), (10, 0)]
  | .fyE2e => [(19, 0)]
  | .fyRtBase => [(56, 12)]
  | .mctBase => [(56, 12)]
  | .mdJoin _ => [(63, 62), (47, 20)]
  | .mdList _ => [(56, 0)]
  | .mdAckTo => [(31, 0)]
  | .scrubCfg _ => [(31, 31), (15, 0)]
  | .errLog _ => [(56, 12), (7, 4)]
  | .dbgCtl _ => [(0, 0)]
  | .cjRange _ _ => [(28, 16), (12, 0)]
  | .svcCtl => [(63, 56), (15, 0)]
  | .ckLog => [(63, 16), (0, 0)]

/-- A value with its reserved bits zero (R9). -/
def unreserved (r : MReg) (v : DWord) : DWord := BitVec.ofNat 64 ((regFields r).foldl (fun n f => n + dw v f.1 f.2 * 2 ^ f.2) 0)

/-- A new hold limit applies to waits that begin after the write: those under way keep the limit they began with (R285). -/
def State.keepWaits (s : State) (c : Fin 6) (old new : Nat) : State :=
  let shift (n : Nat) : Nat := n + old - new
  let mine (r : Req) : Bool := r.place == .queue c || (c == 4 && r.place == .remote)
  { s with
    reqs := s.reqs.map (fun r => if mine r then { r with since := shift r.since } else r)
    conj := { s.conj with rounds := s.conj.rounds.map (fun r => if c == 3 then { r with since := shift r.since } else r) } }

/-- REGISTER_WRITE (R9). -/
def execRegisterWrite (r : MReg) (v : DWord) (s : State) : Host.Outcome State Fault Refusal :=
  let x := unreserved r v
  match r with
  | .crBase ctx => .next (s.updCtx ctx (fun c => { c with crBase := x }))
  | .crHead ctx => .next (s.updCtx ctx (fun c => { c with crHead := x.toNat }))
  | .crTag ctx => .next (s.updCtx ctx (fun c => { c with crTag := x.toNat }))
  | .pgrBase => .next (s.updFront (fun f => { f with pgrBase := x }))
  | .pgrHead => .next (s.updFront (fun f => { f with pgrHead := x.toNat }))
  | .levelFloor f => .next (s.updFront (fun y => { y with floor := NMap.set 0 y.floor f.val x.toNat }))
  | .holdLim c =>
    let n := clampHold x.toNat
    .next ((s.keepWaits c (s.holdLimit c) n).setReg r (BitVec.ofNat 64 n))
  | .l2VerCfg => .next (if x.toNat < 2 || 8 < x.toNat || !s.ctxs.isEmpty then s else s.setReg r x)
  | .fyLnk _ => .next (s.setReg r (BitVec.ofNat 64 (dw x 47 32 * 2 ^ 32 + max 64 (min 1024 (dw x 10 0)))))
  | .dbgCtl ctx =>
    match s.ctx? ctx with
    | none => .next s
    | some _ =>
      let s1 := s.updCtx ctx (fun c => { c with dbg := x })
      .next (if x.getLsbD 0 then s1.extend 7 (leBytes 8 x.toNat) else s1)
  | .cjRange ctx d => .next (s.updCtx ctx (fun c => { c with cjRange := NMap.set 0 c.cjRange d.val x }))
  | .ckLog => .next ((s.setReg r x).updCtx (dw x 63 48) (fun c => { c with ck := { c.ck with offset := dw x 47 32, size := dw x 31 16, en := x.getLsbD 0 } }))
  | .xlinvAddr => .next (s.setReg r x)
  | .fyWin _ => .next (s.setReg r x)
  | .fyCtr _ => .next (s.setReg r x)
  | .fyE2e => .next (s.setReg r x)
  | .fyRtBase => .next (s.setReg r x)
  | .mctBase => .next (s.setReg r x)
  | .mdJoin _ => .next (s.setReg r x)
  | .mdList _ => .next (s.setReg r x)
  | .mdAckTo => .next (s.setReg r x)
  | .scrubCfg _ => .next (s.setReg r x)
  | .errLog _ => .next (s.setReg r x)
  | .svcCtl =>
    -- a start with ACTION 0 to 3 is a service event; 4 to 7 are refused (R313)
    .next (if x.getLsbD 63 && 4 ≤ dw x 62 60 then s.svcDone (dw x 62 60) (dw x 59 56) (dw x 15 0) 1 else s)

/-! ### The host links (R300, R379) -/

/-- A posted write reaches the host. -/
def State.hostStore (s : State) (w : Nat × Nat × List Byte) : State := s.hostWrite (some (w.1, 0)) w.2.1 w.2.2

/-- Whether a request is a host read that has left by a link. -/
def State.hostRead (s : State) (link : Nat) (r : Req) : Bool :=
  r.place == .remote && r.op.isLoad && (match s.team? r.team with
    | some t => s.hostLink (coreDie t.core) == link && (match (s.reqAim t r).1 with | .at' l _ => l.space == 5 | _ => false)
    | none => false)

/-- Posted writes of a link given over to the other. -/
def State.crossPosted (s : State) (link : Nat) : State :=
  let ws := NMap.getD s.mem.posted link []
  let o := 1 - link
  if ws.isEmpty then s
  else s.updMem (fun m => { m with posted := NMap.put (NMap.del m.posted link) o (NMap.getD m.posted o [] ++ ws) })

/-- HOST_LINK_DOWN (R379): of the posted writes a free number has been sent, each of which may be lost; the rest leaves by the other link,
and reads are sent again. -/
def execHostLinkDown (die : Fin 2) (s : State) : Host.Outcome State Fault Refusal :=
  let d := die.val
  if !s.linkUp d then .next s
  else
    let ws := NMap.getD s.mem.posted d []
    let (n, s1) := s.pick (ws.length + 1)
    let sent := ws.take n
    let s2 := sent.foldl (fun (s : State) w => let (i, s') := s.pick 2; if i == 0 then s' else s'.hostStore w) s1
    let reads := s.reqs.filter (s.hostRead d)
    let ctxOfReq (r : Req) : Nat := match s.team? r.team with | some t => s.ctxOf t.launch | none => 0
    let again (r : Req) : Req := if reads.any (fun x => x.id == r.id) then { r with since := s.clk } else r
    let s3 : State := { s2 with
      hostUp := NMap.set true s2.hostUp d false
      reqs := s2.reqs.map again
      mem := { s2.mem with posted := if n == ws.length then NMap.del s2.mem.posted d else NMap.put s2.mem.posted d (ws.drop n) } }
    let s4 := if s3.linkUp (1 - d) then s3.crossPosted d else s3
    let cs := (reads.map ctxOfReq ++ ws.map (fun w => w.1)).foldl NSet.add ([] : NSet)
    .next (cs.foldl (fun (s : State) c => s.event c 15 0 0 d ((sent.filter (fun w => w.1 == c)).length) ((reads.filter (fun r => ctxOfReq r == c)).length)) s4)

/-- HOST_LINK_UP (R300): writes that waited for a link with none up leave by this one. -/
def execHostLinkUp (die : Fin 2) (s : State) : Host.Outcome State Fault Refusal :=
  let d := die.val
  if s.linkUp d then .next s
  else
    let s1 : State := { s with hostUp := NMap.set true s.hostUp d true }
    .next (if s1.linkUp (1 - d) then s1 else s1.crossPosted (1 - d))

/-! ### RESYNC (R385) -/

/-- Code of a slot's state in a section. -/
def SlotSt.code : SlotSt → Nat
  | .free => 0 | .idle => 1 | .fetch => 2 | .held => 3 | .dispatch => 4 | .unmapping => 5 | .stopped => 6

/-- Code of a Conjunction slot's state. -/
def CjSt.code : CjSt → Nat
  | .free => 0 | .armed => 1 | .firing => 2 | .closing => 3

/-- The values that the entries of a section show. -/
def State.section (s : State) (n : Nat) : List (List Nat) :=
  let cs := s.ctxs.map Prod.snd
  let slots := (List.range 64).filter (fun n => (s.slot n).st != .free)
  let team (t : Team) : List Nat := [s.ctxOf t.launch, t.core, t.slot, t.record.getD (2 ^ 64 - 1)]
  match n with
  | 1 => cs.map (fun c => [0, c.num, c.func, c.halted.toNat]) ++ s.mgmt.func.map (fun e => [1, e.1, e.2.preempted.toNat, e.2.switching.toNat])
      ++ (s.teamList.filter (fun t => t.status == .stopped)).map (fun t => 2 :: team t)
  | 2 => slots.map (fun n => [n, (s.slot n).st.code, (s.slot n).map, (s.slot n).owner])
  | 3 => slots.map (fun n => [(s.slot n).map, s.wakeOf (s.slot n).map, (s.slot n).readix])
  | 4 => cs.map (fun c => [0, c.num, c.crHead, c.crTail]) ++ (s.teamList.filter (fun t => t.status == .parked || t.status == .halted)).map (fun t => 1 :: team t)
  | 5 => cs.map (fun c => [0, c.num, c.buffer.length, c.dropped])
      ++ cs.flatMap (fun c => c.buffer.zipIdx.map (fun ((_, r), i) => [2, c.num, i] ++ (List.range 8).map (fun j => leNat ((r.drop (8 * j)).take 8))))
      ++ s.front.pages.map (fun q => [1, q.ctx, q.page, q.bits, q.seqs.headD 0])
  | 6 => s.conj.slots.map (fun e => [e.2.ctx, e.1, e.2.st.code])
  | 7 => s.mem.locks.flatMap (fun k => [0, k.line, s.coreOf k.holder, k.absent.toNat] :: k.queue.map (fun q => [1, k.line, s.coreOf q.1, q.2]))
  | 8 => cs.map (fun c => [c.num, 288 * s.spiltOf c.num])
  | _ => (List.range 4).map (fun l => [l, NMap.getD s.mgmt.errCnt l 0, NMap.getD s.mgmt.errTail l 0])

/-- Bytes of a section's entry: 32, in the section with the buffered fault records 96. -/
def entrySize (n : Nat) : Nat := if n == 5 then 96 else 32
def entryBytes (n : Nat) (vs : List Nat) : List Byte := (List.range (entrySize n)).map (fun i => ((Config.resyncEntry n vs)[i]?).getD 0)

/-- A section that has room bytes for itself: its header, then as many entries as fit; none without room for the header. -/
def State.sectionBytes (s : State) (n room : Nat) : List Byte :=
  if room < 16 then []
  else
    let es := s.section n
    let fit := min es.length ((room - 16) / entrySize n)
    leBytes 8 (n * 2 ^ 56 + (decide (fit < es.length)).toNat * 2 ^ 48 + entrySize n * 2 ^ 32 + fit) ++ leBytes 8 s.clk ++ (es.take fit).flatMap (entryBytes n)

/-- The sections in order, in a buffer of size bytes. -/
def State.sections (s : State) (size : Nat) : List Byte :=
  (List.range 9).foldl (fun acc i => acc ++ s.sectionBytes (i + 1) (size - acc.length)) []

/-- RESYNC (R385): other commands are refused. -/
def execResync (v : DWord) (s : State) : Host.Outcome State Fault Refusal :=
  if !v.getLsbD 63 || dw v 62 60 != 1 || !s.hostReach then .next s
  else
    let body := s.sections (2 ^ (dw v 11 8 + 12) - 8)
    .next ((s.hostWrite none (dw v 59 12 * 4096) (leBytes 8 (8 + body.length) ++ body)).updMgmt (fun m => { m with mbCmd := BitVec.ofNat 64 (v.toNat % 2 ^ 63 / 256 * 256) }))

end Sys2Proof.Machine
end

