-- ==== Sys2Proof/Machine/Pred.lean ====
section
/-! DEFINITION. Moods, predicates and moves, 0x10-0x1B (R146-R151). -/

namespace Sys2Proof.Machine

/-- The identity extension of a scalar result. -/
def zext (x : Nat) : Nat := x

/-- Whether a mood value breaks R127. -/
def moodBad (v : Nat) : Bool :=
  bitsN v 26 23 == 15 || decide (6 ≤ bitsN v 22 20) || bitsN v 17 0 != 0
    || (bitsN v 27 27 == 0 && (bitsN v 31 31 != 0 || bitsN v 30 28 != 0))

/-- MOOD (R147): governs clauses whose headers issue later. -/
def execMood (md : Fin 4) (b : Src) (s : State) : Host.Outcome State Fault Refusal :=
  run (.mood md b) s (fun iss s =>
    match iss.low with
    | none => .done s
    | some l =>
      if !portsReady s iss.team none none (some b) then .wait .none s
      else
        let v := match b with
          | .lit w => w.toNat
          | .reg _ => (opdAt iss.team iss.ty.width l (opdB s iss none (some b))).1 % 2 ^ 32
        let s1 := popAll s iss none (some b)
        if moodBad v then .stop 7 l 0 0
        else .done (s1.updTeam iss.tid (fun t => { t with moods := NMap.set 0 t.moods md.val (BitVec.ofNat 32 v) })))

/-- MOODRD (R147). -/
def execMoodrd (d : Reg) (ma : Fin 4) (s : State) : Host.Outcome State Fault Refusal :=
  run (.moodrd d ma) s (fun iss s =>
    laneOp s iss false 32 32 iss.ty.width zext d none none (fun _ _ _ _ g => (some (iss.team.mood ma.val).toNat, g)))

/-- CMP (R148). -/
def execCmp (p : Fin 8) (c : Cond) (a : Reg) (b : Src) (s : State) : Host.Outcome State Fault Refusal :=
  run (.cmp p c a b) s (fun iss s =>
    if iss.act == 0 then .done s
    else if iss.ty == .q4x8 then .stop 6 0 0 0
    else if iss.low.isSome && !portsReady s iss.team none (some a) (some b) then .wait .none s
    else
      let oa := opdA s iss (some a)
      let ob := opdB s iss (some a) (some b)
      let w := iss.ty.width
      let hit := (lanesOf iss.act iss.team.n).filter (fun l =>
        condHolds iss.ty iss.ftz c (opdAt iss.team w l oa).1 (opdAt iss.team w l ob).1)
      let s1 := { popAll s iss (some a) (some b) with free := s.free + 1 }
      .done (s1.updTeam iss.tid (fun t => t.writeP p.val iss.act (maskOf hit))))

/-- The lane-wise predicate operations (R149). -/
def predOp (iss : Issue) (s : State) (p : Fin 8) (f : LaneMask → LaneMask → LaneMask) (x y : Nat) : Eff :=
  .done (s.updTeam iss.tid (fun t => t.writeP p.val iss.act (f (NMap.getD t.pred x 0) (NMap.getD t.pred y 0))))

/-- PAND (R149). -/
def execPand (p pa pb : Fin 8) (s : State) : Host.Outcome State Fault Refusal :=
  run (.pand p pa pb) s (fun iss s => predOp iss s p (fun x y => x &&& y) pa.val pb.val)
/-- POR (R149). -/
def execPor (p pa pb : Fin 8) (s : State) : Host.Outcome State Fault Refusal :=
  run (.por p pa pb) s (fun iss s => predOp iss s p (fun x y => x ||| y) pa.val pb.val)
/-- PXOR (R149). -/
def execPxor (p pa pb : Fin 8) (s : State) : Host.Outcome State Fault Refusal :=
  run (.pxor p pa pb) s (fun iss s => predOp iss s p (fun x y => x ^^^ y) pa.val pb.val)
/-- PNOT (R149). -/
def execPnot (p pa : Fin 8) (s : State) : Host.Outcome State Fault Refusal :=
  run (.pnot p pa) s (fun iss s => predOp iss s p (fun x _ => ~~~x) pa.val pa.val)

/-- PMOV (R149): bit (b mod width) of a, at the mood width. -/
def execPmov (p : Fin 8) (a : Reg) (b : Src) (s : State) : Host.Outcome State Fault Refusal :=
  run (.pmov p a b) s (fun iss s =>
    if iss.act == 0 then .done s
    else if iss.low.isSome && !portsReady s iss.team none (some a) (some b) then .wait .none s
    else
      let oa := opdA s iss (some a)
      let ob := opdB s iss (some a) (some b)
      let w := iss.ty.width
      let hit := (lanesOf iss.act iss.team.n).filter (fun l =>
        Nat.testBit (opdAt iss.team w l oa).1 ((opdAt iss.team w l ob).1 % w))
      let s1 := { popAll s iss (some a) (some b) with free := s.free + 1 }
      .done (s1.updTeam iss.tid (fun t => t.writeP p.val iss.act (maskOf hit))))

/-- VOTE (R149): one value to every active lane that is not a helper. -/
def execVote (p : Fin 8) (k : VoteKind) (pa : Fin 8) (s : State) : Host.Outcome State Fault Refusal :=
  run (.vote p k pa) s (fun iss s =>
    let x := NMap.getD iss.team.pred pa.val 0 &&& iss.val
    let r := match k with
      | .any => x != 0
      | .all => x == iss.val
      | .uni => x == 0 || x == iss.val
    .done (s.updTeam iss.tid (fun t => t.writeP p.val iss.val (if r then BitVec.allOnes 1024 else 0))))

/-- BALLOT (R149): the mask word of the passing lanes that b names. -/
def execBallot (d : Reg) (pa : Fin 8) (b : Src) (s : State) : Host.Outcome State Fault Refusal :=
  run (.ballot d pa b) s (fun iss s =>
    let x := NMap.getD iss.team.pred pa.val 0 &&& iss.val
    laneOp s iss false 32 iss.ty.width iss.ty.width (wordExt iss.ty) d none (some b) (fun _ _ w _ g =>
      let m := if iss.team.n / 32 ≤ w % 2 ^ 32 then 0 else maskWord x (w % 2 ^ 32)
      (some (if d.isS then wordExt iss.ty m else m), g)))

/-- SELP (R149). -/
def execSelp (d a : Reg) (pb : Fin 8) (s : State) : Host.Outcome State Fault Refusal :=
  run (.selp d a pb) s (fun iss s =>
    laneOp s iss false iss.ty.width 32 iss.ty.width (scalarExt iss.ty) d (some a) none (fun l x _ _ g =>
      (if iss.team.p pb.val l then some x else none, g)))

/-- The special of a lane (R125). -/
def special (s : State) (iss : Issue) (sp : Special) (l : Nat) : Nat :=
  let t := iss.team
  match sp with
  | .lane => l
  | .quadlane => l % 4
  | .teamlanes => t.n
  | .team => t.num
  | .group => t.group
  | .gang => match s.launch? t.launch with | some x => t.group / x.gang | none => 0
  | .launch => match s.launch? t.launch with | some x => x.slot | none => 0
  | .core => t.core
  | .pair => corePair t.core
  | .die => coreDie t.core
  | .dev => s.fab.self
  | .phase => s.phaseOf t
  | .clock => s.clk % 2 ^ 64
  | .task => (taskWord t (s.phaseOf t)).toNat
  | .context => iss.ctx
  | .helper => if t.real.getLsbD l then 0 else 1
  | .carve => (s.coreSt t.core).carve
  | .quarter => t.quarter

/-- SRD (R150): the low 32 bits to a 32-bit vector register, all 64 to a pair, a scalar or a port. -/
def execSrd (d : Reg) (sp : Special) (s : State) : Host.Outcome State Fault Refusal :=
  run (.srd d sp) s (fun iss s =>
    let w := match d with
      | .v _ => iss.ty.width
      | .s _ => 64
      | .q _ => 64
    laneOp s iss false 32 32 w zext d none none (fun l _ _ _ g => (some (special s iss sp l), g)))

/-- SWR gen (R150): a generator is never 0. -/
def execSwrGen (b : Src) (s : State) : Host.Outcome State Fault Refusal :=
  run (.swrGen b) s (fun iss s =>
    if iss.act == 0 then .done s
    else if iss.low.isSome && !portsReady s iss.team none none (some b) then .wait .none s
    else
      let ob := opdB s iss none (some b)
      let gs := (lanesOf iss.act iss.team.n).map (fun l =>
        let x := BitVec.ofNat 32 (opdAt iss.team iss.ty.width l ob).1
        (l, if x == 0 then 1 else x))
      .done (writeGens { popAll s iss none (some b) with free := s.free + 1 } iss.tid gs))

/-- SWR sig (R150): the value written, not 0. -/
def execSwrSig (b : Src) (s : State) : Host.Outcome State Fault Refusal :=
  run (.swrSig b) s (fun iss s =>
    match iss.low with
    | none => .done s
    | some l =>
      if !portsReady s iss.team none none (some b) then .wait .none s
      else
        let x := BitVec.ofNat 32 (opdAt iss.team iss.ty.width l (opdB s iss none (some b))).1
        .done ((popAll s iss none (some b)).updTeam iss.tid (fun t =>
          match t.frag? iss.entry with
          | some f => t.setFrag iss.entry { f with sig := x }
          | none => t)))

/-- Extension of a literal written to a scalar or port (R151). -/
def moviExt (ty : Ty) (x : Nat) : Nat :=
  if ty == .s32 || ty == .s16x2 || ty == .s8x4 then wrapI (sext x 32) 64 else x % 2 ^ 32

/-- MOV (R151): 64 bits when neither field names a vector register, else the mood width. -/
def execMov (d a : Reg) (s : State) : Host.Outcome State Fault Refusal :=
  run (.mov d a) s (fun iss s =>
    let w := if d.isV || a.isV then iss.ty.width else 64
    laneOp s iss false w 32 w (wordExt iss.ty) d (some a) none (fun _ x _ _ g => (some x, g)))

/-- MOVI (R151): MOV with b as its source; a literal takes the width of the mood. -/
def execMovi (d : Reg) (b : Src) (s : State) : Host.Outcome State Fault Refusal :=
  run (.movi d b) s (fun iss s =>
    match b with
    | .reg r =>
      let w := if d.isV || r.isV then iss.ty.width else 64
      laneOp s iss false 32 w w (wordExt iss.ty) d none (some b) (fun _ _ y _ g => (some y, g))
    | .lit _ =>
      if iss.ty.width = 64 || d.isV then
        laneOp s iss false 32 iss.ty.width iss.ty.width zext d none (some b) (fun _ _ y _ g => (some y, g))
      else
        laneOp s iss false 32 32 64 zext d none (some b) (fun _ _ y _ g => (some (moviExt iss.ty y), g)))

end Sys2Proof.Machine
end

