-- ==== Sys2Proof/Machine/Dispatch.lean ====
section
/-! DEFINITION. One arm per constructor of Instr, each one direct call of its meaning. -/

namespace Sys2Proof.Machine

/-- What an instruction or event does to a state. -/
def exec (i : Instr) (s : State) : Host.Outcome State Fault Refusal :=
  match i with
  | .nop => Sys2Proof.Machine.execNop s
  | .bra b => Sys2Proof.Machine.execBra b s
  | .brc neg pa b => Sys2Proof.Machine.execBrc neg pa b s
  | .brany neg pa b => Sys2Proof.Machine.execBrany neg pa b s
  | .brall neg pa b => Sys2Proof.Machine.execBrall neg pa b s
  | .jmp b => Sys2Proof.Machine.execJmp b s
  | .call d b => Sys2Proof.Machine.execCall d b s
  | .ret b => Sys2Proof.Machine.execRet b s
  | .loop d b => Sys2Proof.Machine.execLoop d b s
  | .fuse => Sys2Proof.Machine.execFuse s
  | .yield => Sys2Proof.Machine.execYield s
  | .exit => Sys2Proof.Machine.execExit s
  | .stop => Sys2Proof.Machine.execStop s
  | .sigchk b => Sys2Proof.Machine.execSigchk b s
  | .sigrd d => Sys2Proof.Machine.execSigrd d s
  | .elect p => Sys2Proof.Machine.execElect p s
  | .mood md b => Sys2Proof.Machine.execMood md b s
  | .moodrd d ma => Sys2Proof.Machine.execMoodrd d ma s
  | .cmp p c a b => Sys2Proof.Machine.execCmp p c a b s
  | .pand p pa pb => Sys2Proof.Machine.execPand p pa pb s
  | .por p pa pb => Sys2Proof.Machine.execPor p pa pb s
  | .pxor p pa pb => Sys2Proof.Machine.execPxor p pa pb s
  | .pnot p pa => Sys2Proof.Machine.execPnot p pa s
  | .pmov p a b => Sys2Proof.Machine.execPmov p a b s
  | .vote p k pa => Sys2Proof.Machine.execVote p k pa s
  | .ballot d pa b => Sys2Proof.Machine.execBallot d pa b s
  | .selp d a pb => Sys2Proof.Machine.execSelp d a pb s
  | .srd d sp => Sys2Proof.Machine.execSrd d sp s
  | .swrGen b => Sys2Proof.Machine.execSwrGen b s
  | .swrSig b => Sys2Proof.Machine.execSwrSig b s
  | .mov d a => Sys2Proof.Machine.execMov d a s
  | .movi d b => Sys2Proof.Machine.execMovi d b s
  | .add d a b => Sys2Proof.Machine.execAdd d a b s
  | .sub d a b => Sys2Proof.Machine.execSub d a b s
  | .mul d a b => Sys2Proof.Machine.execMul d a b s
  | .mulhi d a b => Sys2Proof.Machine.execMulhi d a b s
  | .fma d a b => Sys2Proof.Machine.execFma d a b s
  | .fms d a b => Sys2Proof.Machine.execFms d a b s
  | .fnma d a b => Sys2Proof.Machine.execFnma d a b s
  | .min d a b => Sys2Proof.Machine.execMin d a b s
  | .max d a b => Sys2Proof.Machine.execMax d a b s
  | .abs d a => Sys2Proof.Machine.execAbs d a s
  | .neg d a => Sys2Proof.Machine.execNeg d a s
  | .clamp d a b => Sys2Proof.Machine.execClamp d a b s
  | .div d a b => Sys2Proof.Machine.execDiv d a b s
  | .rem d a b => Sys2Proof.Machine.execRem d a b s
  | .sqrt d a => Sys2Proof.Machine.execSqrt d a s
  | .rsq d a => Sys2Proof.Machine.execRsq d a s
  | .rcp d a => Sys2Proof.Machine.execRcp d a s
  | .exp2 d a => Sys2Proof.Machine.execExp2 d a s
  | .log2 d a => Sys2Proof.Machine.execLog2 d a s
  | .sin d a => Sys2Proof.Machine.execSin d a s
  | .cos d a => Sys2Proof.Machine.execCos d a s
  | .tanh d a => Sys2Proof.Machine.execTanh d a s
  | .cvt e d a st => Sys2Proof.Machine.execCvt e d a st s
  | .pack src d a b => Sys2Proof.Machine.execPack src d a b s
  | .unpack d a b => Sys2Proof.Machine.execUnpack d a b s
  | .dot4 d a b => Sys2Proof.Machine.execDot4 d a b s
  | .dot2 d a b => Sys2Proof.Machine.execDot2 d a b s
  | .frc d a => Sys2Proof.Machine.execFrc d a s
  | .rnd d a => Sys2Proof.Machine.execRnd d a s
  | .and d a b => Sys2Proof.Machine.execAnd d a b s
  | .or d a b => Sys2Proof.Machine.execOr d a b s
  | .xor d a b => Sys2Proof.Machine.execXor d a b s
  | .not d a => Sys2Proof.Machine.execNot d a s
  | .shl d a b => Sys2Proof.Machine.execShl d a b s
  | .shr d a b => Sys2Proof.Machine.execShr d a b s
  | .sar d a b => Sys2Proof.Machine.execSar d a b s
  | .rot d a b => Sys2Proof.Machine.execRot d a b s
  | .popc d a => Sys2Proof.Machine.execPopc d a s
  | .clz d a => Sys2Proof.Machine.execClz d a s
  | .brev d a => Sys2Proof.Machine.execBrev d a s
  | .bfe d a b => Sys2Proof.Machine.execBfe d a b s
  | .bfi d a b => Sys2Proof.Machine.execBfi d a b s
  | .addc d a b => Sys2Proof.Machine.execAddc d a b s
  | .lea d a b => Sys2Proof.Machine.execLea d a b s
  | .qswap x d a => Sys2Proof.Machine.execQswap x d a s
  | .qbcast l d a => Sys2Proof.Machine.execQbcast l d a s
  | .shfl m d a b => Sys2Proof.Machine.execShfl m d a b s
  | .scan m d a => Sys2Proof.Machine.execScan m d a s
  | .redx m d a => Sys2Proof.Machine.execRedx m d a s
  | .matchRow d a => Sys2Proof.Machine.execMatchRow d a s
  | .matchAll p a => Sys2Proof.Machine.execMatchAll p a s
  | .tshfl m d a b => Sys2Proof.Machine.execTshfl m d a b s
  | .ld8 cls d a b => Sys2Proof.Machine.execLd8 cls d a b s
  | .ld16 cls d a b => Sys2Proof.Machine.execLd16 cls d a b s
  | .ld32 cls d a b => Sys2Proof.Machine.execLd32 cls d a b s
  | .ld64 cls d a b => Sys2Proof.Machine.execLd64 cls d a b s
  | .ld128 cls d a b => Sys2Proof.Machine.execLd128 cls d a b s
  | .st8 cls d a b => Sys2Proof.Machine.execSt8 cls d a b s
  | .st16 cls d a b => Sys2Proof.Machine.execSt16 cls d a b s
  | .st32 cls d a b => Sys2Proof.Machine.execSt32 cls d a b s
  | .st64 cls d a b => Sys2Proof.Machine.execSt64 cls d a b s
  | .st128 cls d a b => Sys2Proof.Machine.execSt128 cls d a b s
  | .pf k a b => Sys2Proof.Machine.execPf k a b s
  | .atadd ord d a b => Sys2Proof.Machine.execAtadd ord d a b s
  | .atmin ord d a b => Sys2Proof.Machine.execAtmin ord d a b s
  | .atmax ord d a b => Sys2Proof.Machine.execAtmax ord d a b s
  | .atand ord d a b => Sys2Proof.Machine.execAtand ord d a b s
  | .ator ord d a b => Sys2Proof.Machine.execAtor ord d a b s
  | .atxor ord d a b => Sys2Proof.Machine.execAtxor ord d a b s
  | .atxch ord d a b => Sys2Proof.Machine.execAtxch ord d a b s
  | .atcas ord d a b => Sys2Proof.Machine.execAtcas ord d a b s
  | .atinc ord d a b => Sys2Proof.Machine.execAtinc ord d a b s
  | .rdadd rel d a b => Sys2Proof.Machine.execRdadd rel d a b s
  | .rdmin rel d a b => Sys2Proof.Machine.execRdmin rel d a b s
  | .rdmax rel d a b => Sys2Proof.Machine.execRdmax rel d a b s
  | .rdand rel d a b => Sys2Proof.Machine.execRdand rel d a b s
  | .rdor rel d a b => Sys2Proof.Machine.execRdor rel d a b s
  | .rdxor rel d a b => Sys2Proof.Machine.execRdxor rel d a b s
  | .lock d a b => Sys2Proof.Machine.execLock d a b s
  | .trylk d a => Sys2Proof.Machine.execTrylk d a s
  | .unlock d a => Sys2Proof.Machine.execUnlock d a s
  | .lkqry d a => Sys2Proof.Machine.execLkqry d a s
  | .phhdr cur b => Sys2Proof.Machine.execPhhdr cur b s
  | .phend => Sys2Proof.Machine.execPhend s
  | .phwait d a pb => Sys2Proof.Machine.execPhwait d a pb s
  | .phrd fld d => Sys2Proof.Machine.execPhrd fld d s
  | .fence k sc => Sys2Proof.Machine.execFence k sc s
  | .bar => Sys2Proof.Machine.execBar s
  | .gbar => Sys2Proof.Machine.execGbar s
  | .waitp path b => Sys2Proof.Machine.execWaitp path b s
  | .waitct a b => Sys2Proof.Machine.execWaitct a b s
  | .ctset rel a b => Sys2Proof.Machine.execCtset rel a b s
  | .ctadd rel d a b => Sys2Proof.Machine.execCtadd rel d a b s
  | .ctrd d a => Sys2Proof.Machine.execCtrd d a s
  | .bld fb sq d a b => Sys2Proof.Machine.execBld fb sq d a b s
  | .mma fb sq d a b => Sys2Proof.Machine.execMma fb sq d a b s
  | .mmas fb sq d a b => Sys2Proof.Machine.execMmas fb sq d a b s
  | .accz fb sq d => Sys2Proof.Machine.execAccz fb sq d s
  | .accld fb sq d a b => Sys2Proof.Machine.execAccld fb sq d a b s
  | .accst fb sq d a b => Sys2Proof.Machine.execAccst fb sq d a b s
  | .accrd d a => Sys2Proof.Machine.execAccrd d a s
  | .accwr d a => Sys2Proof.Machine.execAccwr d a s
  | .spmld fb sq d a b => Sys2Proof.Machine.execSpmld fb sq d a b s
  | .qnt fb sq d a b => Sys2Proof.Machine.execQnt fb sq d a b s
  | .dqnt fb sq d a b => Sys2Proof.Machine.execDqnt fb sq d a b s
  | .mxqry d => Sys2Proof.Machine.execMxqry d s
  | .cpsl fb sq d a b => Sys2Proof.Machine.execCpsl fb sq d a b s
  | .hbind d a b => Sys2Proof.Machine.execHbind d a b s
  | .hwait d a => Sys2Proof.Machine.execHwait d a s
  | .hrel d a => Sys2Proof.Machine.execHrel d a s
  | .hstat d a => Sys2Proof.Machine.execHstat d a s
  | .put fb sq d a b => Sys2Proof.Machine.execPut fb sq d a b s
  | .get fb sq d a b => Sys2Proof.Machine.execGet fb sq d a b s
  | .bulk fb sq d => Sys2Proof.Machine.execBulk fb sq d s
  | .send fb sq d a => Sys2Proof.Machine.execSend fb sq d a s
  | .recv a => Sys2Proof.Machine.execRecv a s
  | .fxqry d b => Sys2Proof.Machine.execFxqry d b s
  | .cjpost fb sq d => Sys2Proof.Machine.execCjpost fb sq d s
  | .cjcancel d a => Sys2Proof.Machine.execCjcancel d a s
  | .cjqry d a => Sys2Proof.Machine.execCjqry d a s
  | .trap b => Sys2Proof.Machine.execTrap b s
  | .chkerr d b => Sys2Proof.Machine.execChkerr d b s
  | .bkpt b => Sys2Proof.Machine.execBkpt b s
  | .eret => Sys2Proof.Machine.execEret s
  | .sysrd d reg => Sys2Proof.Machine.execSysrd d reg s
  | .syswr reg b => Sys2Proof.Machine.execSyswr reg b s
  | .taskrd d item => Sys2Proof.Machine.execTaskrd d item s
  | .deviceReset => Sys2Proof.Machine.execDeviceReset s
  | .notifyWrite desc x => Sys2Proof.Machine.execNotifyWrite desc x s
  | .slotMap n addr => Sys2Proof.Machine.execSlotMap n addr s
  | .slotUnmap n => Sys2Proof.Machine.execSlotUnmap n s
  | .recordFetch n => Sys2Proof.Machine.execRecordFetch n s
  | .recordCheck n => Sys2Proof.Machine.execRecordCheck n s
  | .recordRelease n => Sys2Proof.Machine.execRecordRelease n s
  | .groupPlace die => Sys2Proof.Machine.execGroupPlace die s
  | .gangPlace die => Sys2Proof.Machine.execGangPlace die s
  | .affinityWiden n => Sys2Proof.Machine.execAffinityWiden n s
  | .preempt n => Sys2Proof.Machine.execPreempt n s
  | .teamEvict team => Sys2Proof.Machine.execTeamEvict team s
  | .teamRestore team => Sys2Proof.Machine.execTeamRestore team s
  | .teamRetire team => Sys2Proof.Machine.execTeamRetire team s
  | .launchComplete launch => Sys2Proof.Machine.execLaunchComplete launch s
  | .watchdogExpire ctx => Sys2Proof.Machine.execWatchdogExpire ctx s
  | .clockThrottle core => Sys2Proof.Machine.execClockThrottle core s
  | .slotOwnerWrite n v => Sys2Proof.Machine.execSlotOwnerWrite n v s
  | .ctxdescWrite addr ctx => Sys2Proof.Machine.execCtxdescWrite addr ctx s
  | .xlinvPage keepG ctx => Sys2Proof.Machine.execXlinvPage keepG ctx s
  | .xlinvContext keepG ctx => Sys2Proof.Machine.execXlinvContext keepG ctx s
  | .xlinvAll keepG => Sys2Proof.Machine.execXlinvAll keepG s
  | .xlinvDone => Sys2Proof.Machine.execXlinvDone s
  | .translationWalk req => Sys2Proof.Machine.execTranslationWalk req s
  | .pageRequestWrite => Sys2Proof.Machine.execPageRequestWrite s
  | .pgrdoneFilled seq => Sys2Proof.Machine.execPgrdoneFilled seq s
  | .pgrdoneTranslationFault seq => Sys2Proof.Machine.execPgrdoneTranslationFault seq s
  | .pgrdoneProtectionFault seq => Sys2Proof.Machine.execPgrdoneProtectionFault seq s
  | .memoryResponse req data status => Sys2Proof.Machine.execMemoryResponse req data status s
  | .holdLimitBounce req => Sys2Proof.Machine.execHoldLimitBounce req s
  | .parenthesisReissue req => Sys2Proof.Machine.execParenthesisReissue req s
  | .backoffExpire req => Sys2Proof.Machine.execBackoffExpire req s
  | .homeLoad req => Sys2Proof.Machine.execHomeLoad req s
  | .writeNotice req => Sys2Proof.Machine.execWriteNotice req s
  | .sectorFlush core sector => Sys2Proof.Machine.execSectorFlush core sector s
  | .homeSyncStore req => Sys2Proof.Machine.execHomeSyncStore req s
  | .homeAtomic req => Sys2Proof.Machine.execHomeAtomic req s
  | .homeReduction req => Sys2Proof.Machine.execHomeReduction req s
  | .recall core sector => Sys2Proof.Machine.execRecall core sector s
  | .writeUpdate upd core => Sys2Proof.Machine.execWriteUpdate upd core s
  | .updateSwitch upd => Sys2Proof.Machine.execUpdateSwitch upd s
  | .missFill slice line => Sys2Proof.Machine.execMissFill slice line s
  | .arrival core slot phase => Sys2Proof.Machine.execArrival core slot phase s
  | .phaseRaise launch core => Sys2Proof.Machine.execPhaseRaise launch core s
  | .phaseCommit launch => Sys2Proof.Machine.execPhaseCommit launch s
  | .commitBroadcast launch die => Sys2Proof.Machine.execCommitBroadcast launch die s
  | .peerCommitMessage src what => Sys2Proof.Machine.execPeerCommitMessage src what s
  | .peerDiscardMessage src task => Sys2Proof.Machine.execPeerDiscardMessage src task s
  | .lockTimeout team => Sys2Proof.Machine.execLockTimeout team s
  | .absenceTimerExpire line => Sys2Proof.Machine.execAbsenceTimerExpire line s
  | .deadlockProbe team => Sys2Proof.Machine.execDeadlockProbe team s
  | .engineOpStart op => Sys2Proof.Machine.execEngineOpStart op s
  | .engineOpComplete op => Sys2Proof.Machine.execEngineOpComplete op s
  | .sparsityEntryArrive pair entry => Sys2Proof.Machine.execSparsityEntryArrive pair entry s
  | .matrixQueryCommand team => Sys2Proof.Machine.execMatrixQueryCommand team s
  | .matrixBadCommand team => Sys2Proof.Machine.execMatrixBadCommand team s
  | .copyLineLand op => Sys2Proof.Machine.execCopyLineLand op s
  | .copyFull group handle => Sys2Proof.Machine.execCopyFull group handle s
  | .handleDrainDone group handle => Sys2Proof.Machine.execHandleDrainDone group handle s
  | .copyCancel team => Sys2Proof.Machine.execCopyCancel team s
  | .copyProgress team => Sys2Proof.Machine.execCopyProgress team s
  | .copyBadCommand team => Sys2Proof.Machine.execCopyBadCommand team s
  | .conjunctionQueryCommand team => Sys2Proof.Machine.execConjunctionQueryCommand team s
  | .conjunctionBadCommand team => Sys2Proof.Machine.execConjunctionBadCommand team s
  | .fabricQueryCommand team => Sys2Proof.Machine.execFabricQueryCommand team s
  | .fabricBadCommand team => Sys2Proof.Machine.execFabricBadCommand team s
  | .packetForm transfer => Sys2Proof.Machine.execPacketForm transfer s
  | .fyoloInbound r => Sys2Proof.Machine.execFyoloInbound r s
  | .packetAck transfer packet status data => Sys2Proof.Machine.execPacketAck transfer packet status data s
  | .multicastForward mc => Sys2Proof.Machine.execMulticastForward mc s
  | .flitReceive port seq ok => Sys2Proof.Machine.execFlitReceive port seq ok s
  | .linkAck port seq => Sys2Proof.Machine.execLinkAck port seq s
  | .linkNak port seq => Sys2Proof.Machine.execLinkNak port seq s
  | .acktoExpire port => Sys2Proof.Machine.execAcktoExpire port s
  | .laneLoss port lane => Sys2Proof.Machine.execLaneLoss port lane s
  | .retrainDone port => Sys2Proof.Machine.execRetrainDone port s
  | .endToEndTimeout transfer packet => Sys2Proof.Machine.execEndToEndTimeout transfer packet s
  | .fyselfWrite v => Sys2Proof.Machine.execFyselfWrite v s
  | .fyrtinvWrite v => Sys2Proof.Machine.execFyrtinvWrite v s
  | .conjunctionRoundIssue die => Sys2Proof.Machine.execConjunctionRoundIssue die s
  | .conjunctionRoundComplete round status data => Sys2Proof.Machine.execConjunctionRoundComplete round status data s
  | .callReplyWrite ctx value => Sys2Proof.Machine.execCallReplyWrite ctx value s
  | .faultRecordDrain ctx => Sys2Proof.Machine.execFaultRecordDrain ctx s
  | .teamRestart team => Sys2Proof.Machine.execTeamRestart team s
  | .mxresetWrite v => Sys2Proof.Machine.execMxresetWrite v s
  | .matrixResetError pair => Sys2Proof.Machine.execMatrixResetError pair s
  | .matrixResetDone pair => Sys2Proof.Machine.execMatrixResetDone pair s
  | .ctxResume ctx => Sys2Proof.Machine.execCtxResume ctx s
  | .ctxDestroy ctx => Sys2Proof.Machine.execCtxDestroy ctx s
  | .vfswitchWrite v => Sys2Proof.Machine.execVfswitchWrite v s
  | .switchUnitCommit ctx => Sys2Proof.Machine.execSwitchUnitCommit ctx s
  | .funcPreempt f => Sys2Proof.Machine.execFuncPreempt f s
  | .funcRestore f => Sys2Proof.Machine.execFuncRestore f s
  | .ckOpen ctx => Sys2Proof.Machine.execCkOpen ctx s
  | .ckRollback ctx => Sys2Proof.Machine.execCkRollback ctx s
  | .ckClose ctx => Sys2Proof.Machine.execCkClose ctx s
  | .svcDrain cls unit => Sys2Proof.Machine.execSvcDrain cls unit s
  | .svcReturn cls unit => Sys2Proof.Machine.execSvcReturn cls unit s
  | .svcRepair cls unit => Sys2Proof.Machine.execSvcRepair cls unit s
  | .svcUpdate cls what => Sys2Proof.Machine.execSvcUpdate cls what s
  | .unitEmpty cls unit => Sys2Proof.Machine.execUnitEmpty cls unit s
  | .unitReady cls unit => Sys2Proof.Machine.execUnitReady cls unit s
  | .scrubLine target outcome => Sys2Proof.Machine.execScrubLine target outcome s
  | .resync v => Sys2Proof.Machine.execResync v s
  | .spdmGetVersion => Sys2Proof.Machine.execSpdmGetVersion s
  | .spdmGetCapabilities => Sys2Proof.Machine.execSpdmGetCapabilities s
  | .spdmNegotiateAlgorithms => Sys2Proof.Machine.execSpdmNegotiateAlgorithms s
  | .spdmGetDigests => Sys2Proof.Machine.execSpdmGetDigests s
  | .spdmGetCertificate => Sys2Proof.Machine.execSpdmGetCertificate s
  | .spdmChallenge nonce => Sys2Proof.Machine.execSpdmChallenge nonce s
  | .spdmGetMeasurements nonce => Sys2Proof.Machine.execSpdmGetMeasurements nonce s
  | .spdmUnsupported request => Sys2Proof.Machine.execSpdmUnsupported request s
  | .functionLevelReset f => Sys2Proof.Machine.execFunctionLevelReset f s
  | .hostCompletionError req code => Sys2Proof.Machine.execHostCompletionError req code s
  | .hostLinkDown die => Sys2Proof.Machine.execHostLinkDown die s
  | .mdLaunchMessage slot dev => Sys2Proof.Machine.execMdLaunchMessage slot dev s
  | .mdAck slot dev => Sys2Proof.Machine.execMdAck slot dev s
  | .mdConfirm slot => Sys2Proof.Machine.execMdConfirm slot s
  | .mdAckTimeout slot => Sys2Proof.Machine.execMdAckTimeout slot s
  | .mdSelfAbortTimeout slot => Sys2Proof.Machine.execMdSelfAbortTimeout slot s
  | .mdAbort slot => Sys2Proof.Machine.execMdAbort slot s
  | .mdRaised slot dev => Sys2Proof.Machine.execMdRaised slot dev s
  | .mdCommit slot => Sys2Proof.Machine.execMdCommit slot s
  | .mdApplied slot dev => Sys2Proof.Machine.execMdApplied slot dev s
  | .mdRelease slot => Sys2Proof.Machine.execMdRelease slot s
  | .registerWrite r v => Sys2Proof.Machine.execRegisterWrite r v s
  | .replayStoreReissue round => Sys2Proof.Machine.execReplayStoreReissue round s
  | .failedPathMarkExpire port dev path => Sys2Proof.Machine.execFailedPathMarkExpire port dev path s
  | .peerCommitAck launch dev => Sys2Proof.Machine.execPeerCommitAck launch dev s
  | .throttleEnd core => Sys2Proof.Machine.execThrottleEnd core s
  | .hostLinkUp die => Sys2Proof.Machine.execHostLinkUp die s

end Sys2Proof.Machine
end

