-- ==== Sys2Proof/Machine/Issue.lean ====
section
/-! DEFINITION. Issue: fetching words (R79, R114, R348), opening clauses (R111, R112, R131), and the choice of the fragment that
issues in a quarter (R43, R60). -/

namespace Sys2Proof.Machine

/-! ### Fetch -/

/-- How a fetch ends: a word, a page miss, or a fetch fault with its underlying cause (R325, code 34). -/
inductive Fetched where
  | word (w : Word) (s : State)
  | miss (s : State)
  | fault (cause : Nat)
  deriving DecidableEq, Repr

/-- The word a launch fetches: where it was written since the launch's release, the one it found, or one that the launch itself has stored
(R114). -/
def codeWord (s : State) (launch key : Nat) (now : Word) : Word × State :=
  match (s.launch? launch).bind (fun l => NMap.look l.icache key) with
  | none => (now, s)
  | some h => s.oneOf now ((h.filter (fun w => w.2)).map Prod.fst)

/-- Fetches the word at an address for a team; from the host it comes behind the link's posted writes (R301). Code at a peer comes from outside
this device: its words are free values (log 6). -/
def State.fetchWord (s : State) (t : Team) (va : Nat) : Fetched :=
  if isWindow va then .fault 13
  else
    match s.translate (some t.core) (s.ctxOf t.launch) va .exec with
    | (.miss, s1) => .miss s1
    | (.malformed, _) => .fault 12
    | (.noPerm, _) => .fault 13
    | (.hit h, s1) =>
      let l := hitLoc h
      if l.space == 0 || (l.space == 7 && l.x == s.fab.self) then
        let (w, s2) := codeWord s1 t.launch l.addr (BitVec.ofNat 32 (leNat (s1.mem.hbm.read l.addr 4)))
        .word w s2
      else if l.space == 5 then
        let s2 := s1.drainHost (coreDie t.core)
        let (w, s3) := codeWord s2 t.launch (hostWordKey + l.addr) (BitVec.ofNat 32 (leNat (s2.mem.host.read l.addr 4)))
        .word w s3
      else .word (BitVec.ofNat 32 (Config.freeValue s1.free).toNat) { s1 with free := s1.free + 1 }

/-! ### What a fragment would issue -/

/-- What a fragment can do next: nothing, issue an instruction from a state, or only change the state (a fault, a wait for
a page). -/
inductive Attempt where
  | none
  | issue (i : Instr) (s : State)
  | only (s : State)
  deriving DecidableEq, Repr

/-- The state with a fragment changed. -/
def State.updFrag (s : State) (tid e : Nat) (f : Fragment → Fragment) : State :=
  s.updTeam tid (fun t => match t.frag? e with
    | some x => t.setFrag e (f x)
    | none => t)

/-- A fetch that misses holds its fragment (R348). -/
def State.fetchMiss (s : State) (t : Team) (e va : Nat) : State :=
  (s.updFrag t.id e (fun f => { f with st := .blocked, latch := .fetch va })).pageMiss (s.ctxOf t.launch) va Need.exec.bits

/-- A fetch fault at the word itself. -/
def State.fetchFault (s : State) (t : Team) (e va cause : Nat) : State :=
  takeFault (s.updFrag t.id e (fun f => { f with pc := va })) t.id e 34 0 0 cause

/-- The body word at a fragment's PC, in its open clause: decoded, with its literal when it has one in the clause. -/
def bodyAttempt (s : State) (t : Team) (e pc : Nat) (c : Clause) : Attempt :=
  let stop := c.hdr + 4 * (c.len + 1)
  match s.fetchWord t pc with
  | .miss s1 => .only (s1.fetchMiss t e pc)
  | .fault d => .only (s.fetchFault t e pc d)
  | .word w s1 =>
    let go (lit : Option Word) (s2 : State) : Attempt :=
      match decodeWord w lit with
      | .ok i => .issue i { s2 with issuing := some (t.id, e) }
      | .error _ => .only (takeFault s2 t.id e 1 0 0 0)
    if wordsOf w == 2 && pc + 4 < stop then
      match s1.fetchWord t (pc + 4) with
      | .miss s2 => .only (s2.fetchMiss t e (pc + 4))
      | .fault d => .only (s1.fetchFault t e (pc + 4) d)
      | .word l s2 => go (some l) s2
    else go none s1

/-- Opens the clause at a fragment's PC: its header decoded, its wait mask tested, the mood read; then its first body
word. -/
def headerAttempt (s : State) (t : Team) (e : Nat) (f : Fragment) : Attempt :=
  match s.fetchWord t f.pc with
  | .miss s1 => .only (s1.fetchMiss t e f.pc)
  | .fault d => .only (s.fetchFault t e f.pc d)
  | .word w s1 =>
    match decodeHeader w with
    | none => .only (takeFault s1 t.id e 1 0 0 0)
    | some h =>
      if (List.range 12).any (fun i => h.wait.getLsbD i && t.flag i != 0) then .none
      else
        let c : Clause := { hdr := f.pc, len := h.len, setA := h.setA, setB := h.setB, mood := t.mood h.msel.val, yield := h.yield }
        bodyAttempt (s1.updFrag t.id e (fun f => { f with pc := f.pc + 4, clause := some c })) t e (f.pc + 4) c

/-- What a fragment of a running, resident team can do. Registered waits end by the events they wait for. -/
def attempt (s : State) (tid e : Nat) : Attempt :=
  match s.team? tid with
  | none => .none
  | some t =>
    match t.frag? e with
    | none => .none
    | some f =>
      let waits := match f.latch with
        | .none => false
        | .pending => false
        | .done _ => false
        | .page _ _ => true
        | .fetch _ => true
        | .waiting _ => true
        | .counter _ _ => true
      if t.evicted || t.status != .running || f.st == .parked || waits then .none
      else
        -- a wait on a register is tested anew
        let s1 := if f.latch == .pending then s.updFrag tid e (fun f => { f with latch := .none }) else s
        match f.clause with
        | some c => bodyAttempt s1 t e f.pc c
        | none => if t.victim then .none else headerAttempt s1 t e f

/-! ### The choice in a quarter (R60) -/

/-- A candidate of a quarter. -/
structure Cand where
  tid   : Nat
  entry : Nat
  frag  : Fragment
  deriving DecidableEq, Repr

/-- Until when a quarter's datapath is held by the word that issued last (R28, R60). -/
def State.busyUntil (s : State) (q : Nat) : Nat := NMap.getD (s.coreSt (q / 4)).busy (q % 4) 0

/-- Quarters that hold a running team, as core × 4 + quarter. -/
def State.runningQuarters (s : State) : NSet :=
  s.teamList.foldl (fun acc t => if !t.evicted && t.status == .running then NSet.add acc (t.core * 4 + t.quarter) else acc) ([] : NSet)

/-- Those of them that may issue in this cycle: a quarter issues one word at a time (R60). -/
def State.quarters (s : State) : NSet := s.runningQuarters.filter (fun q => decide (s.busyUntil q ≤ s.clk))

/-- Fragments of a quarter, by team slot and fragment entry. -/
def State.quarterFrags (s : State) (q : Nat) : List Cand :=
  let ts := sortKey (fun t => t.slot) (s.teamList.filter (fun t => !t.evicted && t.status == .running && t.core * 4 + t.quarter == q))
  ts.flatMap (fun t => t.frags.map (fun e => { tid := t.id, entry := e.1, frag := e.2 }))

/-- Core-clock cycles without issue after which a fragment wins (R43, R60). -/
def starveLimit : Nat := 48

/-- The order in which a quarter's fragments are tried: the starved ones, longest first; the one that keeps the quarter; the
oldest; last those that yielded. Ties go to the lowest slot, then the lowest entry. -/
def issueOrder (holder : Option (Nat × Nat)) (cs : List Cand) : List Cand :=
  let byAge := sortKey (fun c => 2 ^ 32 - c.frag.age)
  let starved := sortKey (fun c => 2 ^ 64 - c.frag.starve) (cs.filter (fun c => decide (starveLimit ≤ c.frag.starve)))
  let rest := cs.filter (fun c => decide (c.frag.starve < starveLimit))
  let held := rest.filter (fun c => holder == some (c.tid, c.entry) && c.frag.clause.isSome)
  let other := rest.filter (fun c => !(holder == some (c.tid, c.entry) && c.frag.clause.isSome))
  starved ++ held ++ byAge (other.filter (fun c => !c.frag.yielded)) ++ byAge (other.filter (fun c => c.frag.yielded))

/-- A choice made anew ends the yields of a quarter's fragments; the one that keeps the quarter is not chosen anew. -/
def State.clearYields (s : State) (q : Nat) : State :=
  { s with teams := s.teams.map (fun (k, t) => if !t.evicted && t.core * 4 + t.quarter == q
      then (k, { t with frags := t.frags.map (fun (e, f) => (e, { f with yielded := false })) }) else (k, t)) }

/-- Whether a fragment only waits at issue, as it did before: nothing of its instruction was performed. -/
def State.onlyWaits (s : State) (tid e : Nat) (old : Latch) : Bool :=
  match (s.team? tid).bind (fun t => t.frag? e) with
  | some f => f.st == .blocked && (f.latch == .none || f.latch == .pending || f.latch == old)
  | none => false

/-- A fragment that cannot issue is blocked (R30, R43), with its wait on a register noted, and keeps the quarter no longer (R60). -/
def State.cannotIssue (s : State) (q tid e : Nat) (pend : Bool) : State :=
  let s1 := s.updFrag tid e (fun f => { f with
    st := if f.st == .ready || f.st == .serial then .blocked else f.st
    latch := if f.latch == .none || f.latch == .pending then (if pend then .pending else .none) else f.latch })
  if NMap.look (s.coreSt (q / 4)).holder (q % 4) == some (tid, e) then s1.updCore (q / 4) (fun c => { c with holder := NMap.del c.holder (q % 4) }) else s1

/-- Records which fragment keeps the quarter after an issue. -/
def State.keepQuarter (s : State) (q tid e : Nat) : State :=
  let inClause := match (s.team? tid).bind (fun t => t.frag? e) with
    | some f => f.clause.isSome
    | none => false
  s.updCore (q / 4) (fun c => { c with holder := if inClause then NMap.put c.holder (q % 4) (tid, e) else NMap.del c.holder (q % 4) })

/-- Tries the fragments of a quarter in order: the outcome of the first that issues, or the state in which those that wait
are marked blocked. -/
def tryFrags (q : Nat) (holder : Option (Nat × Nat)) : List Cand → State → Option (Host.Outcome State Fault Refusal) × State
  | [], s => (none, s)
  | c :: cs, s =>
    match attempt s c.tid c.entry with
    | .none => tryFrags q holder cs (s.cannotIssue q c.tid c.entry false)
    | .only s1 => (some (.next s1), s)
    | .issue i s1 =>
      let s2 := if holder == some (c.tid, c.entry) && c.frag.clause.isSome then s1 else s1.clearYields q
      match exec i s2 with
      | .next s3 =>
        if s3.onlyWaits c.tid c.entry c.frag.latch then
          tryFrags q holder cs (s.cannotIssue q c.tid c.entry (((s3.team? c.tid).bind (fun t => t.frag? c.entry)).any (fun f => f.latch == .pending)))
        else (some (.next (s3.keepQuarter q c.tid c.entry)), s)
      | .fault f => (some (.fault f), s)
      | .refused r => (some (.refused r), s)

/-- Tries quarters in order. -/
def tryQuarters : List Nat → State → Option (Host.Outcome State Fault Refusal) × State
  | [], s => (none, s)
  | q :: qs, s =>
    let holder := NMap.look (s.coreSt (q / 4)).holder (q % 4)
    match tryFrags q holder (issueOrder holder (s.quarterFrags q)) s with
    | (some o, s1) => (some o, s1)
    | (none, s1) => tryQuarters qs s1

/-- One instruction of the cores: the quarters run side by side, and which of those that are free in this cycle is seen to issue first is
a free choice (log 1). No time passes while one of them can issue (R43, R60). -/
def coresStep (s : State) : Option (Host.Outcome State Fault Refusal) × State :=
  match s.quarters with
  | [] => (none, s)
  | [q] => tryQuarters [q] s
  | qs =>
    let (i, s1) := s.pick qs.length
    tryQuarters (qs.drop i ++ qs.take i) s1

end Sys2Proof.Machine
end

