-- ==== Sys2Proof/Machine/Transit.lean ====
section
/-! DEFINITION. Requests on the network (R283-R285, R287-R289): their injection, their arrival, the passing of its cycles; and what the diagnostic port
shows of slices and stops (R276, R277, R312). -/

namespace Sys2Proof.Machine

/-! ### In and out -/

/-- Whether a slice's ingress takes one more request: it has 64 entries, one of them for agents that never bounce (R284, R285). -/
def State.ingressRoom (s : State) (slice : Nat) : Bool :=
  decide ((s.reqs.filter (fun r => r.place == .queue 3 && r.pa.any (fun k => decide (k < 2 ^ 64) && s.homeOf k == slice))).length < 63)

/-- A request's place on its way. -/
def State.setPlace (s : State) (r : Req) (p : Place) : State :=
  { s with reqs := s.reqs.map (fun x => if x.id == r.id then { r with place := p, since := s.clk, arrived := s.clk } else x) }

/-- The stop a request goes to first: its requester-side slice, or its performer. -/
def State.firstStop (s : State) (t : Team) (r : Req) : Nat :=
  match (s.reqAim t r).1 with
  | .at' l _ => if l.space == 0 then (s.sideOf t.core r.op l.addr).getD (s.homeOf l.addr) else s.locStop t.core l
  | _ => coreStop t.core

/-- A head of a core's injection queue enters the network when its first buffer there has room. -/
def State.inject (s : State) (r : Req) : State :=
  match s.team? r.team with
  | none => s
  | some t =>
    if 0 < s.net.credits (coreStop t.core) 0 .request 0 then
      ((s.unsend (.request r.id)).setPlace r .net).send (.request r.id) (dataFlits r.payload) (coreStop t.core) (s.firstStop t r)
    else s

/-- Whether a core's injection queue takes one more request. -/
def State.injectRoom (s : State) (core : Nat) : Bool :=
  decide ((s.reqs.filter (fun r => r.place == .queue 2 && s.reqCore r == core)).length < Config.injectDepth + 2)

/-- A head of a core's L1 miss queue goes on to its injection queue. -/
def State.missOut (s : State) (r : Req) : State := if s.injectRoom (s.reqCore r) then s.setPlace r (.queue 2) else s

/-- A request's packet has arrived: at the requester-side slice it is answered or goes on to the home, at its performer it waits for the queue's
room. -/
def State.arriveReq (s : State) (k : NetPkt) (id : Nat) : State :=
  match s.req? id with
  | none => s.unsend k.load
  | some r =>
    match s.team? r.team, r.place with
    | some t, .net =>
      match (s.reqAim t r).1 with
      | .at' l _ =>
        let home := if l.space == 0 then s.homeOf l.addr else k.dst
        if k.dst == home || s.sideServes t r then
          if l.space == 0 && !s.ingressRoom k.dst then s else (s.unsend k.load).setPlace r (.queue l.queue)
        else (s.unsend k.load).send k.load k.flits k.dst home
      | _ => (s.unsend k.load).setPlace r (.queue 0)
    | _, _ => s.unsend k.load

/-- What becomes of a packet that has arrived: a copy answers an update or a recall; every other class is sunk (R288). -/
def State.sink (s : State) (k : NetPkt) : State :=
  match k.load with
  | .request id => s.arriveReq k id
  | .update u c =>
    match s.mem.updates.find? (fun x => x.id == u) with
    | some x => (s.unsend k.load).send (.updated u c) 0 k.dst (s.sectorStop (x.sectors.headD 0))
    | none => s.unsend k.load
  | .recall c x => (s.unsend k.load).send (.recalled c x) 0 k.dst (s.sectorStop x)
  | _ => { s with net := { s.net with pkts := s.net.pkts.filter (fun y => y.id != k.id) } }

/-! ### Cycles -/

/-- One cycle: packets move, those that have arrived are sunk, and the heads of the cores' queues go on. -/
def State.netCycle (s : State) : State :=
  let s1 : State := { s with net := s.net.cycle s.clk }
  let s2 := (s1.net.arrived s.clk).foldl State.sink s1
  let heads (s : State) (c : Fin 6) : List Req := s.reqs.filter (fun r => r.place == .queue c && s.heads r)
  let s3 := (heads s2 2).foldl State.inject s2
  (heads s3 1).foldl State.missOut s3

/-- Whether nothing is on the network or on its way there. -/
def State.netStill (s : State) : Bool := s.net.pkts.isEmpty && !s.reqs.any (fun r => r.place == .queue 1 || r.place == .queue 2)

/-- Some cycles of the network, the clock with them. -/
def State.ride : Nat → State → State
  | 0, s => s
  | n + 1, s => if s.netStill then s else State.ride n { s with clk := s.clk + 1 }.netCycle

/-! ### The directory, and the diagnostic port (R277, R312) -/

/-- Code of a sector's state. -/
def SectorSt.code : SectorSt → Nat
  | .i => 0 | .s => 1 | .w => 2 | .u => 3 | .l => 4

/-- Whether a core holds a copy of a line, a partial or dirty bytes of it. -/
def State.coreHolds (s : State) (core line : Nat) : Bool :=
  let c := s.coreSt core
  c.clean.any (fun x => x / 4 * 256 == line) || c.ro.any (fun x => x / 4 * 256 == line)
    || s.mem.parts.any (fun p => p.core == core && p.sector / 4 * 256 == line)
    || s.mem.pend.any (fun p => p.core == core && p.bytes.any (fun e => e.2.inL1 && lineOf e.1 == line))

/-- The stop of a line's lock holder or of the engine that owns it. -/
def State.ownerStop (s : State) (line : Nat) : Nat :=
  match s.lockAt line, (NMap.getD s.mem.owned line []).head? with
  | some k, _ => s.teamStop k.holder % 64
  | none, some op => ((s.engineOp? op).map (fun o => o.pair % 64)).getD 0
  | none, none => 0

/-- A line's directory entry as its home's diagnostic port shows it. -/
def State.dirEntry (s : State) (line : Nat) : BitVec 128 :=
  let die := s.homeOf line / 64
  let b (i : Nat) (x : Bool) : Nat := if x then 2 ^ i else 0
  let sharer (i : Nat) : Bool := s.coreHolds (2 * (64 * die + i)) line || s.coreHolds (2 * (64 * die + i) + 1) line
  let sharers := ((List.range 64).map (fun i => b (64 + i) (sharer i))).foldl (· + ·) 0
  let versions := (s.mem.pend.filter (fun p => p.bytes.any (fun e => lineOf e.1 == line))).length
    + (s.mem.peerPend.filter (fun p => p.bytes.any (fun e => lineOf e.1 == line))).length
  let secs := ((List.range 4).map (fun i => (s.sectorSt (line / 64 + i)).code * 2 ^ (3 * i))).foldl (· + ·) 0
  BitVec.ofNat 128 (sharers
    + b 63 ((List.range 4).any (fun i => NSet.has s.mem.xcopies (line / 64 + i)))
    + b 62 (NMap.look s.mem.owned line).isSome
    + b 61 (s.mem.pend.any (fun p => NSet.has p.spilled line) || s.mem.peerPend.any (fun p => NSet.has p.spilled line))
    + min 255 versions * 2 ^ 48 + s.ownerStop line * 2 ^ 42 + secs)

/-- The lines a slice has an entry for, in ascending order: those in its ways, and those that it is home to with versions, partials, locks or owners. -/
def State.dirLines (s : State) (slice : Nat) : NSet :=
  let all := s.mem.tags.flatMap (fun e => e.2) ++ s.wayLines ++ s.mem.locks.map (fun k => k.line) ++ s.mem.parts.map (fun p => p.sector / 4 * 256)
    ++ (s.mem.owned.map Prod.fst).filter (fun k => decide (k < 2 ^ 64))
  (all.filter (fun l => s.homeOf l == slice)).foldl NSet.add ([] : NSet)

/-- What the diagnostic port is asked for: a slice's directory entry, a head flit at a stop, a virtual channel's credits at a stop's input. -/
inductive DiagSel where
  | entry (slice index : Nat)
  | head (stop index : Nat)
  | credits (stop link : Nat) (cls : NetClass) (vc : Nat)
  deriving DecidableEq, Repr

/-- A read through the diagnostic port by the management core (R312): none where nothing stands. It changes no state. -/
def State.diagRead (s : State) : DiagSel → Option (BitVec 512)
  | .entry slice index => ((s.dirLines slice)[index]?).map (fun l => (s.dirEntry l).zeroExtend 512)
  | .head stop index => (s.net.heads stop)[index]?
  | .credits stop link cls vc => some (BitVec.ofNat 512 (s.net.credits stop link cls vc))

end Sys2Proof.Machine
end

