-- ==== Sys2Proof/Machine/Agenda.lean ====
section
/-! DEFINITION. What the engines, homes and the front end may do next (log 1): every event of the machine's own, each tried, the
ones whose condition does not hold changing nothing. -/

namespace Sys2Proof.Machine

/-- What the host answers a request that reads there: for each part in turn the data as it stands once the posted writes of the die's
link have reached it (R301) and the parts before it are performed (R302). -/
def State.hostAnswer (s : State) (t : Team) (r : Req) : Marked :=
  let h0 := (s.drainHost (coreDie t.core)).mem.host
  let ty := (Ty.ofCode r.ty).getD .s32
  let n := ty.width / 8
  (r.parts.foldl (fun ((out, h) : Marked × Store) p =>
    match (s.aim t p.lane p.va r.op.need r.op.isAtomic (r.op.isLd64 && p.len == 8)).1 with
    | .at' l _ =>
      (out ++ markAll false (h.read l.addr (r.op.answerLen r.ty p)),
        match r.op with
        | .atomic op _ _ => (atomStore h l.addr ty op.val (leNat (p.data.take n)) (leNat ((p.data.drop n).take n)) p.tag).2
        | .reduce op _ => (atomStore h l.addr ty op.val (leNat (p.data.take n)) 0 p.tag).2
        | _ => h)
    | _ => (out ++ markAll false (List.replicate (r.op.answerLen r.ty p) 0), h)) ([], h0)).1

/-- Events of a team. -/
def teamEvents (id : Nat) : List Instr :=
  [.teamEvict id, .teamRestore id, .teamRetire id, .teamRestart id, .lockTimeout id, .deadlockProbe id, .matrixQueryCommand id, .matrixBadCommand id
   , .copyCancel id, .copyProgress id, .copyBadCommand id, .conjunctionQueryCommand id, .conjunctionBadCommand id, .fabricQueryCommand id
   , .fabricBadCommand id]

/-- Events of a slot. -/
def slotEvents (n : Fin 64) : List Instr :=
  [.recordFetch n, .recordCheck n, .recordRelease n, .preempt n, .affinityWiden n, .mdAckTimeout n, .mdSelfAbortTimeout n]

/-- Events of a request: its own device's, and the answer of the host. -/
def reqEvents (s : State) (r : Req) : List Instr :=
  let home : List Instr := match r.place with
    | .queue _ => [.translationWalk r.id, .homeLoad r.id, .writeNotice r.id, .homeSyncStore r.id, .homeAtomic r.id, .homeReduction r.id, .holdLimitBounce r.id]
    | .paren _ => [.translationWalk r.id, .parenthesisReissue r.id, .backoffExpire r.id]
    | .miss => (match r.pa with | some k => [.missFill (s.homeOf k) k, .holdLimitBounce r.id] | none => [])
    | .remote => if r.via.isSome then [.endToEndTimeout r.id 1] else []
    | .answered => [.memoryResponse r.id [] 0]
    | .lockWait => []
    | .update => []
    | .atIssue => []
    | .net => []
  let host : List Instr := match r.place, s.team? r.team with
    | .remote, some t => (match (s.reqAim t r).1 with
      | .at' l _ => if l.space == 5 then [.memoryResponse r.id (s.hostAnswer t r) 0] else []
      | _ => [])
    | _, _ => []
  home ++ host

/-- Events of a launch. -/
def launchEvents (l : Launch) : List Instr :=
  l.heads.map (fun e => .phaseRaise l.id e.1) ++ [.phaseCommit l.id, .commitBroadcast l.id 0, .commitBroadcast l.id 1, .launchComplete l.id]

/-- Events of the caches: dirty sectors flushed, clean ones dropped, write-updates. -/
def State.cacheEvents (s : State) : List Instr :=
  let dirty : List Instr := s.mem.pend.flatMap (fun p => (p.bytes.filter (fun e => e.2.inL1)).map (fun e => .sectorFlush (Fin.ofNat 256 p.core) (sectorOf e.1)))
  let clean : List Instr := s.cores.flatMap (fun e => (e.2.clean ++ e.2.ro).map (fun x => .recall (Fin.ofNat 256 e.1) x))
  dirty ++ clean ++ s.mem.updates.flatMap (fun u => u.waiting.map (fun c => .writeUpdate u.id c) ++ [.updateSwitch u.id])

/-- Events of the engines: matrix and copy operations, handles, resets. -/
def State.engineEvents (s : State) : List Instr :=
  let ops : List Instr := s.pairs.flatMap (fun e => e.2.ops.flatMap (fun o => [.engineOpStart o.id, .engineOpComplete o.id, .copyLineLand o.id, .holdLimitBounce o.id
    , .parenthesisReissue o.id]))
  let handles : List Instr := s.groups.flatMap (fun g => g.handles.flatMap (fun h =>
    [.copyFull (groupKey g.launch g.num) (Fin.ofNat 8 h.1), .handleDrainDone (groupKey g.launch g.num) (Fin.ofNat 8 h.1)]))
  let resets : List Instr := s.pairs.map (fun e => .matrixResetDone (Fin.ofNat 128 e.1))
  ops ++ handles ++ resets

/-- Events of the fabric and the Conjunction Engines. -/
def State.fabricEvents (s : State) : List Instr :=
  let xfers : List Instr := s.fab.transfers.flatMap (fun x => [.packetForm x.id, .endToEndTimeout x.id 0] ++ x.packets.map (fun k => .endToEndTimeout x.id k.num))
  let ports : List Instr := (List.range 8).flatMap (fun p => [.acktoExpire (Fin.ofNat 8 p), .retrainDone (Fin.ofNat 8 p)])
  let marks : List Instr := s.fab.marks.map (fun e => .failedPathMarkExpire (Fin.ofNat 8 (e.1 / 5 / 16384)) (e.1 / 5 % 16384) (e.1 % 5))
  let rounds : List Instr := s.conj.rounds.flatMap (fun r => (if r.far then [] else [.conjunctionRoundComplete r.id 0 []]) ++ [.replayStoreReissue r.id, .holdLimitBounce r.id])
  xfers ++ ports ++ marks ++ rounds ++ [.conjunctionRoundIssue 0, .conjunctionRoundIssue 1] ++ s.fab.waiting.map (fun r => .fyoloInbound r)
    ++ s.fab.mcast.map (fun m => .multicastForward m.id)

/-- Events that the machine's own units may raise. What another device, the host or the world outside does comes by the agenda. -/
def State.candidates (s : State) : List Instr :=
  s.teams.flatMap (fun e => teamEvents e.1) ++ (List.range 64).flatMap (fun n => slotEvents (Fin.ofNat 64 n))
    ++ [.groupPlace 0, .groupPlace 1, .gangPlace 0, .gangPlace 1] ++ s.front.notifies.map (fun e => .notifyWrite e.1 e.2)
    ++ s.reqs.flatMap (reqEvents s) ++ s.launches.flatMap (fun e => launchEvents e.2) ++ s.cacheEvents ++ s.engineEvents ++ s.fabricEvents
    ++ s.mem.locks.map (fun k => .absenceTimerExpire k.line)
    ++ s.ctxs.flatMap (fun e => [.watchdogExpire e.1, .faultRecordDrain e.1, .switchUnitCommit e.1])
    ++ s.svc.flatMap (fun e => [.unitEmpty (e.1 / 65536) (e.1 % 65536), .unitReady (e.1 / 65536) (e.1 % 65536)])
    ++ [.pageRequestWrite, .xlinvDone]

/-- The first candidate that changes the state. -/
def tryEvents : List Instr → State → Option (Host.Outcome State Fault Refusal)
  | [], _ => none
  | i :: is, s =>
    match exec i s with
    | .next s1 => if s1 = s then tryEvents is s else some (.next s1)
    | .fault f => some (.fault f)
    | .refused r => some (.refused r)

/-- Free choices for what comes (log 9): whether the next requests are delayed or miss, and datapath errors of the next instruction
(R336). -/
def State.lots (s : State) : State :=
  let (i, s1) := s.pick 2
  let (n, s2) := s1.pick 4
  { s2 with delays := if s.delays.length < 8 then s.delays ++ [i == 1] else s.delays, upsets := n }

/-- One event of the engines: a free choice among the events that can happen in this cycle. -/
def enginesStep (s : State) : Option (Host.Outcome State Fault Refusal) :=
  let s1 := s.lots
  let cs := s1.candidates
  let (i, s2) := s1.pick (cs.length + 1)
  tryEvents (cs.drop i ++ cs.take i) s2

/-- An outcome with the side that moves next. -/
def withTurn (t : Turn) : Host.Outcome State Fault Refusal → Host.Outcome State Fault Refusal
  | .next s => .next { s with turn := t }
  | .fault f => .fault f
  | .refused r => .refused r

/-- A free number of the posted writes of a host link leave it for the host, in order (R301). -/
def State.postedOut (link : Nat) (s : State) : State :=
  let ws := NMap.getD s.mem.posted link []
  if ws.isEmpty || !s.linkUp link then s
  else
    let (n, s1) := s.pick (ws.length + 1)
    let s2 := (ws.take n).foldl (fun (s : State) (c, a, d) => s.hostWrite (some (c, 0)) a d) s1
    s2.updMem (fun m => { m with posted := NMap.set [] m.posted link (ws.drop n) })

/-- Time passes while no quarter can issue: a free number of cycles (log 4), at least one and no more than until the first quarter whose
datapath is held is free again, so that what is ready issues in the bounded time of R43. Meanwhile packets ride the networks (R287), and posted
writes leave for the host. -/
def idle (s : State) : State :=
  let free := (s.runningQuarters.map s.busyUntil).filter (fun b => decide (s.clk < b))
  let n := free.foldl (fun n b => min n (b - s.clk)) (Config.elapsed s.free + 1)
  let s1 : State := { State.ride n s with clk := s.clk, free := s.free + 1, turn := .cores }
  ((s1.pass n).postedOut 0).postedOut 1

/-- Whose move it is: the side whose turn it is moves if it can, else the other. Time passes at the cores' turn when none of them can
issue. -/
def sidesStep (s : State) : Host.Outcome State Fault Refusal :=
  match s.turn with
  | .cores =>
    match coresStep s with
    | (some o, _) => withTurn .engines o
    | (none, s1) =>
      match enginesStep (idle s1) with
      | some o => withTurn .cores o
      | none => .next (idle s1)
  | .engines =>
    match enginesStep s with
    | some o => withTurn .cores o
    | none =>
      match coresStep s with
      | (some o, _) => withTurn .engines o
      | (none, s1) => .next (idle s1)

end Sys2Proof.Machine
end

