-- ==== Sys2Proof/Machine/Step.lean ====
section
/-! DEFINITION. One step of the machine, and the state in which a given word is fetched next. -/

namespace Sys2Proof.Machine

/-- Device reset runs its boot order before anything else can happen (R303). -/
def State.booting (s : State) : Bool := decide (s.boot.stage < bootReady) && s.boot.failed.isNone

/-- Events that a device whose bring-up has stopped still takes. -/
def afterStop (i : Instr) : Bool :=
  match i with
  | .deviceReset => true
  | .spdmGetVersion => true
  | .spdmGetCapabilities => true
  | .spdmNegotiateAlgorithms => true
  | .spdmGetDigests => true
  | .spdmGetCertificate => true
  | .spdmChallenge _ => true
  | .spdmGetMeasurements _ => true
  | .spdmUnsupported _ => true
  | _ => false

/-- One step: the boot order first; then an event that the outside has delivered; then the cores and the engines in turn
(log 1, log 5). A device whose bring-up has stopped takes only what its mailbox takes, and a reset (R306). -/
def step (s : State) : Host.Outcome State Fault Refusal :=
  if s.booting then exec .deviceReset s
  else
    match s.agenda with
    | i :: rest => if s.boot.failed.isNone || afterStop i then exec i { s with agenda := rest } else .next { s with agenda := rest }
    | [] => if s.boot.failed.isNone then sidesStep s else .next (idle s)

/-- A team that is placed alone on core 0 (log 5). -/
def Team.placed : Team :=
  { Team.blank with
    id := 1, launch := 1, n := 32, k := 96, tg := 1, status := .running
    frags := [(0, { st := .ready, pc := 2 ^ 38, mask := BitVec.ofNat 1024 (2 ^ 32 - 1), join := 15, age := 0, sig := 0, clause := none
                    latch := .none, yielded := false, starve := 0 })]
    initMask := BitVec.ofNat 1024 (2 ^ 32 - 1), real := BitVec.ofNat 1024 (2 ^ 32 - 1), rpc := 2 ^ 38
    restartMask := BitVec.ofNat 1024 (2 ^ 32 - 1) }

/-- Its launch record: entry 2^38, N = 32, 96 registers, T = 1, gang 1, one group, 32 lanes. -/
def placedRecord : List Byte := leBytes 8 (2 ^ 38) ++ leBytes 8 (11 * 2 ^ 5 + 2 ^ 12) ++ leBytes 8 32 ++ List.replicate 88 0

/-- The launch of that team. -/
def Launch.placed : Launch :=
  { id := 1, slot := 0, ctx := 0, func := 0, level := 0, record := placedRecord, next := 1, ended := 0, phase := 0, chan := []
    heads := [], peers := [], peerWait := [], md := none, icache := [], reported := [], waited := 0, waitSince := 0, landed := 0, queue := 0, block := none, dies := [], dead := false }

/-- Its context: the page tables stand at 0. -/
def Ctx.placed : Ctx :=
  { num := 0, addr := 0, desc := [], func := 0, user := [], dbg := 0, cjRange := [], check := 0, halted := false, crBase := 0
    crTail := 0, crHead := 0, crTag := 0, buffer := [], dropped := 0
    ck := { offset := 0, size := 0, en := false, isOpen := false, overflowed := false, full := [], log := [] }
    exhausted := [], switching := false }

/-- Its page tables: 2^38 leads to local HBM at 2^30, in a page of 1 GiB. -/
def placedTables (m : Store) : Store :=
  ((m.setDword 0 (BitVec.ofNat 64 (1 * 2 ^ 30 + 1))).setDword 0x1000 (BitVec.ofNat 64 (2 * 2 ^ 30 + 1))).setDword 0x2800
    (BitVec.ofNat 64 (2 ^ 18 * 2 ^ 30 + 0x3C0F))

/-- The state in which the very next step fetches the instruction with bits w: booted, one team alone on the machine, at a
clause of two words whose first word is the instruction's, the second its literal or a word never reached (log 5). -/
def State.withFetchWord (s : State) (nbits w : Nat) : State :=
  let code : List Byte := leBytes 4 0x2000FF00 ++ leBytes 8 (w % 2 ^ (min nbits 64))
  { s with
    turn := .cores, agenda := [], delays := [], upsets := 0, issuing := none, xlats := []
    boot := { s.boot with stage := bootReady, failed := none }
    teams := [(1, Team.placed)], launches := [(1, Launch.placed)], ctxs := [(0, Ctx.placed)], cores := []
    groups := [{ launch := 1, num := 0, core := 0, off := 0, len := 0, scratch := Store.empty, shareLen := 0, share := Store.empty
                 handles := [], endedTeams := [], lost := false, saved := false, kept := PairSt.reset }]
    nextId := max s.nextId 2
    mem := { s.mem with hbm := (placedTables s.mem.hbm).write (2 ^ 30) code false } }

end Sys2Proof.Machine
end

