-- ==== Sys2Proof/Safety.lean ====
section
/-! DEFINITION. What a safe run is, and the terms that claims are stated in: when an instruction of a fragment runs, how it completes, what
a lane-wise result writes, what control moves. -/

namespace Sys2Proof

open Sys2Proof.Machine

/-- A storage in canonical form: its bytes listed by strictly rising address, none zero. -/
def Machine.Store.wf (s : Store) : Bool := Memory.wf s.bytes

/-- The memories of the machine are in canonical form: local HBM, the chip scratchpad, the counters, the host. -/
def Machine.State.memWf (s : State) : Bool := s.mem.hbm.wf && s.mem.chip.wf && s.mem.ctr.wf && s.mem.host.wf

/-- n steps end in no fault and no refusal. -/
def safeFor : Nat → State → Prop
  | 0, _ => True
  | n + 1, s => ∃ t, step s = .next t ∧ safeFor n t

/-- A run from a state is safe when every number of its steps is. -/
def SafeRun (s : State) : Prop := ∀ n, safeFor n s

namespace Machine

/-! ### An instruction that runs -/

/-- The fragment of iss issues i, which passes the checks made as it issues: its registers are within the launch's and even where they must be
(R118, R131), none of them is still to be written (R34), and the datapath makes no error (R336). -/
structure Issues (s : State) (iss : Issue) (i : Instr) : Prop where
  issue : issueOf s = some iss
  legal : dynFault iss i = none
  clear : regsPending s iss i = false
  calm  : s.upsets = 0

/-- The state after an instruction of iss that is done with s': the fragment goes on behind its words, its quarter is held for its passes
(R28, R60). -/
def goesOn (s' : State) (iss : Issue) (i : Instr) : State := (finish s' iss i.words false).occupy iss i

/-- The state after a control instruction that ends its clause (R139). -/
def endsClause (s' : State) (iss : Issue) (i : Instr) : State := (finish s' iss i.words true).occupy iss i

/-- The state after a control instruction that has moved its fragment. -/
def moves (s' : State) (iss : Issue) (i : Instr) : State := s'.occupy iss i

/-- A team without its fragments, joins and serial records: registers, ports, flags and what it is. -/
def Team.quiet (t : Team) : Team := { t with frags := [], joins := [], serial := [] }

/-- Nothing but teams, cores and time differs. -/
structure SameOutside (s t : State) : Prop where
  groups   : t.groups = s.groups
  launches : t.launches = s.launches
  pairs    : t.pairs = s.pairs
  slots    : t.slots = s.slots
  ctxs     : t.ctxs = s.ctxs
  mem      : t.mem = s.mem
  reqs     : t.reqs = s.reqs
  net      : t.net = s.net
  xlats    : t.xlats = s.xlats
  conj     : t.conj = s.conj
  fab      : t.fab = s.fab
  front    : t.front = s.front
  mgmt     : t.mgmt = s.mgmt
  svc      : t.svc = s.svc
  boot     : t.boot = s.boot
  hostUp   : t.hostUp = s.hostUp
  agenda   : t.agenda = s.agenda
  delays   : t.delays = s.delays
  turn     : t.turn = s.turn
  upsets   : t.upsets = s.upsets
  nextId   : t.nextId = s.nextId
  issuing  : t.issuing = s.issuing

/-! ### Lane-wise results (R119, R133, R135) -/

/-- A vector register of a lane after a result of some lanes was written to r (and r + 1 at 64 bits). -/
def laneValue (t : Team) (w r : Nat) (val : Nat → Option Nat) (q l : Nat) : Word :=
  match val l with
  | some x => if q = r then BitVec.ofNat 32 x else if w = 64 ∧ q = r + 1 then BitVec.ofNat 32 (x / 2 ^ 32) else t.v q l
  | none => t.v q l

/-- Its poison mark. -/
def laneTag (t : Team) (w r : Nat) (val : Nat → Option Nat) (tag : Nat → Bool) (q l : Nat) : Bool :=
  if (val l).isSome ∧ (q = r ∨ w = 64 ∧ q = r + 1) then tag l else NSet.has t.vtag (vkey q l)

/-- s2 is s1 with a result written to a destination, and nothing else: to a vector register in the lanes that have a value, to a scalar or a
port the value of the lowest active lane that is not a helper, with the extension a scalar takes. -/
def Writes (s1 : State) (iss : Issue) (w : Nat) (ext : Nat → Nat) (d : Reg) (val : Nat → Option Nat) (tag : Nat → Bool) (s2 : State) : Prop :=
  match d with
  | .v r => ∃ t t', s1.team? iss.tid = some t ∧ s2 = s1.updTeam iss.tid (fun _ => t')
      ∧ (∀ q l, l < 1024 → t'.v q l = laneValue t w r.val val q l)
      ∧ (∀ q l, l < 1024 → NSet.has t'.vtag (vkey q l) = laneTag t w r.val val tag q l)
      ∧ { t' with vec := [], vtag := [] } = { t with vec := [], vtag := [] }
  | .s r => s2 = match iss.low.bind (fun l => (val l).map (fun x => (x, tag l))) with
      | some (x, m) => s1.updTeam iss.tid (fun t => t.setS r.val (BitVec.ofNat 64 (if w = 64 then x else ext x)) m)
      | none => s1
  | .q r => s2 = match iss.low.bind val with
      | some x => s1.pushPort iss.tid r.val (BitVec.ofNat 64 (x % 2 ^ w))
      | none => s1

/-- s1 is s0 with the rounding generators of the lanes that have a new one stepped under rst (R92), and nothing else. -/
def Steps (s0 : State) (iss : Issue) (lanes : List Nat) (gen : Nat → Word) (s1 : State) : Prop :=
  (iss.mode ≠ .rst ∨ lanes = [] → s1 = s0) ∧
  (iss.mode = .rst → lanes ≠ [] → ∃ t t', s0.team? iss.tid = some t ∧ s1 = s0.updTeam iss.tid (fun _ => t')
    ∧ (∀ l, t'.g l = if l ∈ lanes then gen l else t.g l) ∧ { t' with gen := [] } = { t with gen := [] })

/-- Lane l has a value in a result that is computed in lanes. -/
def inLanes (lanes : List Nat) (val : Nat → Option Nat) (l : Nat) : Option Nat := if l ∈ lanes then val l else none

/-- The value of an operand of i in a lane. -/
def valA (s : State) (iss : Issue) (w : Nat) (a : Option Reg) (l : Nat) : Nat := (opdAt iss.team w l (opdA s iss a)).1
def valB (s : State) (iss : Issue) (w : Nat) (a : Option Reg) (b : Option Src) (l : Nat) : Nat := (opdAt iss.team w l (opdB s iss a b)).1
def tagA (s : State) (iss : Issue) (w : Nat) (a : Option Reg) (l : Nat) : Bool := (opdAt iss.team w l (opdA s iss a)).2
def tagB (s : State) (iss : Issue) (w : Nat) (a : Option Reg) (b : Option Src) (l : Nat) : Bool := (opdAt iss.team w l (opdB s iss a b)).2

/-- The old value of a destination in a lane. -/
def valD (s : State) (iss : Issue) (w : Nat) (d : Reg) (l : Nat) : Nat := (opdAt iss.team w l (opdReg s iss 0 d)).1
def tagD (s : State) (iss : Issue) (w : Nat) (d : Reg) (l : Nat) : Bool := (opdAt iss.team w l (opdReg s iss 0 d)).2

/-- The state once the operands of i are read: its word is in the signature, the entries of its ports are gone. -/
def readState (s : State) (iss : Issue) (i : Instr) (a : Option Reg) (b : Option Src) : State :=
  { popAll (hashed s iss i) iss a b with free := s.free + 1 }

/-- A lane-wise instruction completes with f of its operands in every lane it computes: f answers the result and the generator. With no active
lane it does nothing; with a port that is not ready it waits (R121). -/
def LaneWise (i : Instr) (ok : Issue → Prop) (wa wb wd : Issue → Nat) (ext : Issue → Nat → Nat) (readD : Issue → Bool) (d : Reg) (a : Option Reg)
    (b : Option Src) (f : State → Issue → Nat → Nat → Nat → Nat → Word → Option Nat × Word) : Prop :=
  ∀ s iss, Issues s iss i → ok iss →
    let out (l : Nat) := f s iss l (valA s iss (wa iss) a l) (valB s iss (wb iss) a b l) (valD s iss (wd iss) d l) (iss.team.g l)
    let tag (l : Nat) := tagA s iss (wa iss) a l || tagB s iss (wb iss) a b l || (readD iss && tagD s iss (wd iss) d l)
    (iss.act = 0 → exec i s = .next (goesOn (hashed s iss i) iss i)) ∧
    (iss.act ≠ 0 → (iss.low.isSome → portsReady s iss.team (some d) a b) →
      ∃ s1 s2, Steps (readState s iss i a b) iss (outLanes iss d) (fun l => (out l).2) s1
        ∧ Writes s1 iss (wd iss) (ext iss) d (inLanes (outLanes iss d) (fun l => (out l).1)) tag s2
        ∧ exec i s = .next (goesOn s2 iss i)) ∧
    (iss.act ≠ 0 → iss.low.isSome → portsReady s iss.team (some d) a b = false → exec i s = .next (block (hashed s iss i) iss .none))

end Machine

end Sys2Proof

namespace Sys2Proof.Claims

open Sys2Proof Sys2Proof.Machine

/-! ### Lane-wise results -/

/-- Element-wise arithmetic (R135) in the types an instruction accepts, at the width of the mood's type. -/
def Elementwise (i : Instr) (ok : Ty → Bool) (readD : Bool) (d a : Reg) (b : Option Src) (f : Issue → Nat → Nat → Nat → Word → Nat × Word) : Prop :=
  LaneWise i (fun iss => ok iss.ty = true) (fun iss => iss.ty.width) (fun iss => iss.ty.width) (fun iss => iss.ty.width) (fun iss => scalarExt iss.ty)
    (fun _ => readD) d (some a) b (fun _ iss _ x y z g => (some (eachElem iss.ty (f iss) x y z g).1, (eachElem iss.ty (f iss) x y z g).2))

/-- A value narrowed or rounded once (R90, R91, R135) of the exact values of the elements. -/
def Rounded (f : Issue → EVal → EVal → EVal → EVal) (iss : Issue) (x y z : Nat) (g : Word) : Nat × Word := exact iss (f iss) x y z g

/-- A type an instruction does not accept is a fatal fault (R136, R325: cause 6), once a lane is active. -/
def TypeFault (i : Instr) (ok : Ty → Bool) : Prop :=
  ∀ s iss, Issues s iss i → iss.act ≠ 0 → ok iss.ty = false → exec i s = .next (takeFault s iss.tid iss.entry 6 0 0 0)

/-- A lane-wise operation on raw operands at the width of the mood's type (R160). -/
def Rawwise (i : Instr) (readD : Bool) (d a : Reg) (b : Option Src) (f : Ty → Nat → Nat → Nat → Nat) : Prop :=
  LaneWise i (fun _ => True) (fun iss => iss.ty.width) (fun iss => iss.ty.width) (fun iss => iss.ty.width) (fun iss => scalarExt iss.ty)
    (fun _ => readD) d (some a) b (fun _ iss _ x y z g => (some (f iss.ty x y z), g))

/-- s2 is s1 with predicate p written in some lanes, and nothing else. -/
def SetsPred (s1 : State) (iss : Issue) (p : Nat) (at' val : Nat → Bool) (s2 : State) : Prop :=
  ∃ t t', s1.team? iss.tid = some t ∧ s2 = s1.updTeam iss.tid (fun _ => t')
    ∧ (∀ q l, l < 1024 → t'.p q l = if q = p ∧ at' l = true then val l else t.p q l) ∧ { t' with pred := [] } = { t with pred := [] }

/-- An instruction that writes a predicate from predicates. -/
def PredWise (i : Instr) (p : Fin 8) (at' : Issue → LaneMask) (val : Issue → Nat → Bool) : Prop :=
  ∀ s iss, Issues s iss i → ∃ s2, SetsPred (hashed s iss i) iss p.val (at' iss).getLsbD (val iss) s2 ∧ exec i s = .next (goesOn s2 iss i)

/-- An instruction that writes a predicate from two operands of the mood's width, in the active lanes; a port that is not ready is waited for. -/
def Compares (i : Instr) (ok : Issue → Prop) (p : Fin 8) (a : Reg) (b : Src) (val : Issue → Nat → Nat → Bool) : Prop :=
  ∀ s iss, Issues s iss i → ok iss →
    (iss.act = 0 → exec i s = .next (goesOn (hashed s iss i) iss i)) ∧
    (iss.act ≠ 0 → (iss.low.isSome → portsReady s iss.team none (some a) (some b)) →
      ∃ s2, SetsPred (readState s iss i (some a) (some b)) iss p.val iss.act.getLsbD
          (fun l => decide (l < iss.team.n) && val iss (valA s iss iss.ty.width (some a) l) (valB s iss iss.ty.width (some a) (some b) l)) s2
        ∧ exec i s = .next (goesOn s2 iss i)) ∧
    (iss.act ≠ 0 → iss.low.isSome → portsReady s iss.team none (some a) (some b) = false → exec i s = .next (block (hashed s iss i) iss .none))

/-- A move between lanes (R166): every active lane takes register a of the lane that from' names, as it stood. -/
def Moves (i : Instr) (d a : Reg) (b : Option Src) (from' : Issue → Nat → Nat → Nat) : Prop :=
  ∀ s iss, Issues s iss i →
    let c (l : Nat) := opdAt iss.team 32 l (opdC s iss b)
    let x (l : Nat) := opdAt iss.team iss.ty.width (from' iss l (c l).1) (opdReg s iss 0 a)
    (iss.act = 0 → exec i s = .next (goesOn (hashed s iss i) iss i)) ∧
    (iss.act ≠ 0 → (iss.low.isSome → portsReady s iss.team none none b) →
      ∃ s2, Writes (readState s iss i none b) iss iss.ty.width (scalarExt iss.ty) d (inLanes (lanesOf iss.act iss.team.n) (fun l => some (x l).1))
          (fun l => (c l).2 || (x l).2) s2
        ∧ exec i s = .next (goesOn s2 iss i)) ∧
    (iss.act ≠ 0 → iss.low.isSome → portsReady s iss.team none none b = false → exec i s = .next (block (hashed s iss i) iss .none))

/-- A transfer of control (R139): beyond 2^57, or not to a word, it faults; else the fragment goes there. -/
def TransfersTo (i : Instr) (s : State) (iss : Issue) (s' : State) (target : Nat) : Prop :=
  (2 ^ 57 ≤ target → exec i s = .next (takeFault s iss.tid iss.entry 4 0 0 0)) ∧
  (target < 2 ^ 57 → target % 4 ≠ 0 → exec i s = .next (takeFault s iss.tid iss.entry 3 0 0 0)) ∧
  (target < 2 ^ 57 → target % 4 = 0 → exec i s = .next (moves (s'.updTeam iss.tid (fun t => t.goto iss.entry target)) iss i))

/-- A branch: taken when takes says so, else its clause ends. -/
def Branches (i : Instr) (takes : Issue → Bool) (target : Issue → Nat) : Prop :=
  ∀ s iss, Issues s iss i →
    (takes iss = false → exec i s = .next (endsClause (hashed s iss i) iss i)) ∧
    (takes iss = true → TransfersTo i s iss (hashed s iss i) (target iss))

/-- A combination of the values of lanes in ascending order, the first as it is written, each step rounded (R88, R89, R167). -/
def combined (iss : Issue) (f : EVal → EVal → EVal) (x : Nat → Nat) : List Nat → Nat
  | [] => 0
  | k :: ks => ks.foldl (fun acc j => (combineStep iss f acc (x j) 1).1) (asResult iss (x k))

/-- s2 is s1 with an instruction's results in the lanes that are active and no helpers. -/
def WritesReal (i : Instr) (s : State) (iss : Issue) (d : Reg) (val : Nat → Nat) (tag : Nat → Bool) : Prop :=
  ∃ s2, Writes { hashed s iss i with free := s.free + 1 } iss iss.ty.width (scalarExt iss.ty) d (inLanes (lanesOf iss.val iss.team.n) (fun l => some (val l))) tag s2
    ∧ exec i s = .next (goesOn s2 iss i)

/-- The address of the clause that follows. -/
def nextClause (iss : Issue) : Nat := iss.cl.hdr + 4 * (iss.cl.len + 1)

/-- The value of a control instruction's source. -/
def plainSrc (iss : Issue) : Src → Nat
  | .lit w => w.toNat
  | .reg (.s r) => (iss.team.s r.val).toNat
  | .reg (.v r) => (iss.team.v r.val 0).toNat
  | .reg (.q _) => 0

/-- The header's address and a signed offset, modulo 2^64 (R139). -/
def headerPlus (iss : Issue) : Src → Nat
  | .lit w => (BitVec.ofNat 64 iss.cl.hdr + w.signExtend 64).toNat
  | .reg r => (BitVec.ofNat 64 iss.cl.hdr + BitVec.ofNat 64 (plainSrc iss (.reg r))).toNat

/-- Whether a lane passes a predicate, negated or not. -/
def guarded (iss : Issue) (pa : Fin 8) (neg : Bool) (l : Nat) : Bool := iss.team.p pa.val l != neg

/-- The addresses of BRC (R142): the header's and 4 times a signed offset, the target's in the high half, the join's in the low one. -/
def branchWord (iss : Issue) (b : Src) (target : Bool) : Nat :=
  let off : BitVec 64 := match b with
    | .lit w => if target then (w.extractLsb' 16 16).signExtend 64 else (w.extractLsb' 0 16).signExtend 64
    | .reg r =>
      let x := BitVec.ofNat 64 (plainSrc iss (.reg r))
      if target then (x.extractLsb' 32 32).signExtend 64 else (x.extractLsb' 0 32).signExtend 64
  (BitVec.ofNat 64 iss.cl.hdr + 4 * off).toNat

/-! ### Outcomes -/

/-- Instruction i of iss is done with s'. -/
def Completes (i : Instr) (s : State) (iss : Issue) (s' : State) : Prop := exec i s = .next (goesOn s' iss i)

/-- Instruction i of iss waits at its word; of what it changed only s' stands. -/
def Waits (i : Instr) (s : State) (iss : Issue) (l : Latch) (s' : State) : Prop := exec i s = .next (block s' iss l)

/-- Instruction i of iss raises a fatal fault (R325): cause, lane, DETAIL0. -/
def Traps (i : Instr) (s : State) (iss : Issue) (cause lane d0 : Nat) : Prop := exec i s = .next (takeFault s iss.tid iss.entry cause lane d0 0)

/-! ### Memory -/

/-- Nothing of the memory accesses of the team of iss is outstanding, no access of it is held back; its launch and its group. -/
structure Settled (s : State) (iss : Issue) (l : Launch) (g : Group) : Prop where
  key    : iss.team.id = iss.tid
  runs   : iss.team.status = .running
  launch : s.launch? iss.team.launch = some l
  group  : s.group? iss.team.launch iss.team.group = some g
  single : l.md = none
  noLock : iss.team.lockOut = false
  noOver : iss.team.ovflow = []
  room   : ∀ p, (iss.team.path p).length < 1023
  none'  : ∀ r ∈ s.reqs, r.team ≠ iss.tid
  older  : ∀ r ∈ s.reqs, r.id < s.nextId
  noCast : s.fab.mcast = []

/-- Offset o of the team's own scratchpad. -/
def scratchLoc (iss : Issue) (o : Nat) : Loc := { space := 1, x := iss.team.launch, y := iss.team.group, addr := o }

/-- Offset o of the team's own scratchpad window (R67, R71) holds an access of size bytes within a dword, or of two whole ones; no
engine holds its line. -/
def InScratch (s : State) (iss : Issue) (l : Launch) (o size : Nat) : Prop :=
  o + size ≤ l.scratch ∧ (o % 8 + size ≤ 8 ∨ size = 16 ∧ o % 8 = 0) ∧ NMap.look s.mem.owned (scratchLoc iss o).key = none

/-- Nothing but the team's registers, counts of accesses and acquire mark differs, and numbers given out. -/
def OnlyRegisters (s : State) (iss : Issue) (i : Instr) (s' : State) (t' : Team) : Prop :=
  s'.team? iss.tid = some t' ∧ (∀ u, u ≠ iss.tid → s'.team? u = s.team? u) ∧
  { s' with teams := [], nextId := 0 } = { s with teams := [], nextId := 0 } ∧
  ∃ t0, (hashed s iss i).team? iss.tid = some t0 ∧
    { t' with vec := [], vtag := [], scal := [], stag := [], paths := [], acq := 0, irrev := 0 } =
      { t0 with vec := [], vtag := [], scal := [], stag := [], paths := [], acq := 0, irrev := 0 }

/-- What a load puts into registers (R176): bytes and halfwords extended to 32 bits as the mood's type is signed or not. -/
def loadWord (ty : Ty) (size : Nat) (data : List Byte) : Nat :=
  if size ≤ 2 ∧ ty.isS then wrapI (sext (leNat data) (8 * size)) 32 else leNat data

/-- A load of the team's own scratchpad in one lane (R176, R119). -/
def LoadsScratch (i : Instr) (acq : Bool) (size : Nat) (d a : Reg) (b : Src) : Prop :=
  ∀ s iss l g lane o, Issues s iss i → Settled s iss l g → addrTag iss a b lane = false → effAddr iss a b lane = winBase 1 + o →
    InScratch s iss l o size → g.scratch.tagged o size = false →
    let x := loadWord iss.ty size (g.scratch.read o size)
    let n := (size + 3) / 4
    (∀ r, d = .v r → lanesOf iss.act iss.team.n = [lane] → ∃ s' t', Completes i s iss s' ∧ OnlyRegisters s iss i s' t' ∧
      (∀ q m, m < 1024 → t'.v q m = if m = lane ∧ r.val ≤ q ∧ q < r.val + n then BitVec.ofNat 32 (x / 2 ^ (32 * (q - r.val))) else iss.team.v q m) ∧
      (∀ q m, m < 1024 → NSet.has t'.vtag (vkey q m) = (NSet.has iss.team.vtag (vkey q m) && !decide (m = lane ∧ r.val ≤ q ∧ q < r.val + n))) ∧
      t'.scal = iss.team.scal ∧ t'.stag = iss.team.stag ∧ t'.irrev = iss.team.irrev ∧ t'.acq = if acq then s.mem.seq else iss.team.acq) ∧
    (∀ r, d = .s r → size ≤ 8 → iss.low = some lane → ∃ s' t', Completes i s iss s' ∧ OnlyRegisters s iss i s' t' ∧
      (∀ q, t'.s q = if q = r.val then BitVec.ofNat 64 (if size ≤ 4 then wordExt iss.ty x else x) else iss.team.s q) ∧
      (∀ q, NSet.has t'.stag q = (NSet.has iss.team.stag q && q != r.val)) ∧
      t'.vec = iss.team.vec ∧ t'.vtag = iss.team.vtag ∧ t'.irrev = iss.team.irrev ∧ t'.acq = if acq then s.mem.seq else iss.team.acq)

/-- The data of a store in a lane (R177): low bytes of a run of vector registers, or of a scalar. -/
def storeWord (iss : Issue) (size : Nat) (d : Reg) (lane : Nat) : Nat :=
  match d with
  | .v r => (List.range ((size + 3) / 4)).foldr (fun j acc => (iss.team.v (r.val + j) lane).toNat + acc * 2 ^ 32) 0
  | .s r => (iss.team.s r.val).toNat
  | .q _ => 0

/-- Whether a register of that data is tagged. -/
def storeTag (iss : Issue) (size : Nat) (d : Reg) (lane : Nat) : Bool :=
  match d with
  | .v r => (List.range ((size + 3) / 4)).any (fun j => NSet.has iss.team.vtag (vkey (r.val + j) lane))
  | .s r => NSet.has iss.team.stag r.val
  | .q _ => false

/-- Only n bytes at o of the team's own scratchpad differ, holding x, the team's registers, and its counts of accesses. -/
def OnlyScratch (s : State) (iss : Issue) (i : Instr) (g : Group) (o n x : Nat) (s' : State) (t' : Team) : Prop :=
  s'.team? iss.tid = some t' ∧ (∀ u, u ≠ iss.tid → s'.team? u = s.team? u) ∧
  { s' with teams := [], nextId := 0, groups := [] } = { s with teams := [], nextId := 0, groups := [] } ∧
  (∃ t0, (hashed s iss i).team? iss.tid = some t0 ∧
    { t' with vec := [], vtag := [], scal := [], stag := [], paths := [], acq := 0, irrev := 0 } =
      { t0 with vec := [], vtag := [], scal := [], stag := [], paths := [], acq := 0, irrev := 0 }) ∧
  (∃ g', s'.group? iss.team.launch iss.team.group = some g' ∧ { g' with scratch := g.scratch } = g ∧
    (∀ k, k < n → g'.scratch.bytes.read (o + k) = BitVec.ofNat 8 (x / 256 ^ k)) ∧
    ∀ c, c < o ∨ o + n ≤ c → g'.scratch.bytes.read c = g.scratch.bytes.read c) ∧
  ∀ l m, ¬(l = iss.team.launch ∧ m = iss.team.group) → s'.group? l m = s.group? l m

/-- A store to the team's own scratchpad in one lane (R177). -/
def StoresScratch (i : Instr) (size : Nat) (d a : Reg) (b : Src) : Prop :=
  ∀ s iss l g lane o, Issues s iss i → Settled s iss l g → lanesOf iss.val iss.team.n = [lane] → addrTag iss a b lane = false →
    storeTag iss size d lane = false → effAddr iss a b lane = winBase 1 + o → InScratch s iss l o size →
    ∃ s' t', Completes i s iss s' ∧ OnlyScratch s iss i g o size (storeWord iss size d lane) s' t' ∧
      t'.vec = iss.team.vec ∧ t'.vtag = iss.team.vtag ∧ t'.scal = iss.team.scal ∧ t'.stag = iss.team.stag ∧ t'.acq = iss.team.acq ∧ t'.irrev = iss.team.irrev

/-- An operand of an atomic in a lane at the width of the mood's type (R181); next is the second one of ATCAS. -/
def atomWord (iss : Issue) (d : Reg) (next : Bool) (lane : Nat) : Nat :=
  let w := iss.ty.width
  match d with
  | .v r =>
    let k := if next then r.val + w / 32 else r.val
    if w = 32 then (iss.team.v k lane).toNat else (iss.team.v k lane).toNat + (iss.team.v (k + 1) lane).toNat * 2 ^ 32
  | .s r => (iss.team.s (if next then r.val + 1 else r.val)).toNat % 2 ^ w
  | .q _ => 0

/-- Whether such an operand is tagged. -/
def atomTag (iss : Issue) (d : Reg) (next : Bool) (lane : Nat) : Bool := (atomReg iss d next lane).2

/-- A fetch-atomic on an element of the team's own scratchpad in one lane (R181-R183): the element becomes new' of its old value and the
operands, the old value goes to d, and the irreversible count rises (R258). -/
def AtomicScratch (i : Instr) (op : Nat) (ord : AtOrder) (d a : Reg) (b : Src) (new' : Ty → Nat → Nat → Nat → Nat) : Prop :=
  ∀ s iss l g lane o, Issues s iss i → Settled s iss l g → atomTypes iss.ty op = true → iss.low = some lane → (d.isV = true → lanesOf iss.val iss.team.n = [lane]) →
    addrTag iss a b lane = false → atomTag iss d false lane = false → (op = 7 → atomTag iss d true lane = false) →
    effAddr iss a b lane = winBase 1 + o → InScratch s iss l o (iss.ty.width / 8) → o % (iss.ty.width / 8) = 0 →
    g.scratch.tagged o (iss.ty.width / 8) = false → (∀ q, d ≠ .q q) →
    let w := iss.ty.width
    let old := leNat (g.scratch.read o (w / 8))
    ∃ s' t', Completes i s iss s' ∧
      OnlyScratch s iss i g o (w / 8) (new' iss.ty old (atomWord iss d false lane) (atomWord iss d true lane)) s' t' ∧
      t'.irrev = min 65535 (iss.team.irrev + 1) ∧ (t'.acq = if ord = .acq ∨ ord = .ar then s.mem.seq else iss.team.acq) ∧
      (∀ r, d = .v r → t'.scal = iss.team.scal ∧ t'.stag = iss.team.stag ∧
        ∀ q m, m < 1024 → t'.v q m = if m = lane ∧ r.val ≤ q ∧ q < r.val + w / 32 then BitVec.ofNat 32 (old / 2 ^ (32 * (q - r.val))) else iss.team.v q m) ∧
      ∀ r, d = .s r → t'.vec = iss.team.vec ∧ t'.vtag = iss.team.vtag ∧
        ∀ q, t'.s q = if q = r.val then BitVec.ofNat 64 (if w = 32 then scalarExt iss.ty old else old) else iss.team.s q

/-- A reduction on an element of the team's own scratchpad in one lane (R184, R185): it is performed there at once, nothing returns. -/
def ReducesScratch (i : Instr) (op : Nat) (d a : Reg) (b : Src) (new' : Ty → Nat → Nat → Nat) : Prop :=
  ∀ s iss l g lane o, Issues s iss i → Settled s iss l g → atomTypes iss.ty op = true → lanesOf iss.val iss.team.n = [lane] →
    addrTag iss a b lane = false → atomTag iss d false lane = false →
    effAddr iss a b lane = winBase 1 + o → InScratch s iss l o (iss.ty.width / 8) → o % (iss.ty.width / 8) = 0 →
    g.scratch.tagged o (iss.ty.width / 8) = false →
    let w := iss.ty.width
    ∃ s' t', Completes i s iss s' ∧
      OnlyScratch s iss i g o (w / 8) (new' iss.ty (leNat (g.scratch.read o (w / 8))) (atomWord iss d false lane)) s' t' ∧
      t'.irrev = min 65535 (iss.team.irrev + 1) ∧ t'.vec = iss.team.vec ∧ t'.vtag = iss.team.vtag ∧ t'.scal = iss.team.scal ∧ t'.stag = iss.team.stag ∧
      t'.acq = iss.team.acq

/-- The precise check of an access in one lane (R170, R66, R67, R172): no lane, an address from 2^57 on, a misaligned one, one beyond the
scratchpad of the launch. -/
def ChecksLanes (i : Instr) (ok : Issue → Prop) (align : Issue → Nat) (lanes : Issue → List Nat) (a : Reg) (b : Src) : Prop :=
  ∀ s iss, Issues s iss i → ok iss →
    (lanes iss = [] → Completes i s iss (hashed s iss i)) ∧
    ∀ lane, lanes iss = [lane] → iss.team.real.getLsbD lane = true → addrTag iss a b lane = false →
      let ea := effAddr iss a b lane
      (2 ^ 57 ≤ ea → Traps i s iss 4 lane ea) ∧
      (ea < 2 ^ 57 → ea % align iss ≠ 0 → Traps i s iss 15 lane ea) ∧
      ∀ l o, ea = winBase 1 + o → ea % align iss = 0 → s.launch? iss.team.launch = some l → l.scratch ≤ o → o < 2 ^ 32 → Traps i s iss 10 lane ea

/-! ### Results of the memory and system chapters -/

/-- s2 is s1 with a 32-bit status in d (R186, R228), and nothing else. -/
def Status (s1 : State) (iss : Issue) (d : Reg) (v : Nat) (s2 : State) : Prop :=
  Writes s1 iss 32 (wordExt iss.ty) d (inLanes (outLanes iss d) (fun _ => some (v % 2 ^ 32))) (fun _ => false) s2

/-- s2 is s1 with a 64-bit result in d (R186), and nothing else: a vector register takes the width of the mood's type. -/
def Wide (s1 : State) (iss : Issue) (d : Reg) (x : Nat) (s2 : State) : Prop :=
  let w := if d.isV then iss.ty.width else 64
  Writes s1 iss w id d (inLanes (outLanes iss d) (fun _ => some (x % 2 ^ w))) (fun _ => false) s2

/-- An instruction whose result is one word for all lanes. -/
def GivesWide (i : Instr) (s s1 : State) (iss : Issue) (d : Reg) (x : Nat) : Prop := ∃ s2, Wide s1 iss d x s2 ∧ Completes i s iss s2
def GivesStatus (i : Instr) (s s1 : State) (iss : Issue) (d : Reg) (v : Nat) : Prop := ∃ s2, Status s1 iss d v s2 ∧ Completes i s iss s2

/-- With no active lane that is no helper, an instruction does nothing. -/
def NeedsLane (i : Instr) : Prop := ∀ s iss, Issues s iss i → iss.low = none → Completes i s iss (hashed s iss i)

/-- The address of a lock instruction reaches local HBM at pa, and its translation changes nothing. -/
def LocksAt (s : State) (iss : Issue) (i : Instr) (a : Reg) (l : Nat) (need : Need) (pa : Nat) : Prop :=
  iss.low = some l ∧ teamTag iss true l a = false ∧
  ∃ h, (hashed s iss i).lockAim iss.team l (teamReg iss true l a) need = (.at' { space := 0, x := 0, y := 0, addr := pa } h, hashed s iss i)

/-- A signed source of 64 bits: a literal and a vector register give 32 bits, sign-extended. -/
def signedWord (iss : Issue) (l : Nat) : Src → Int
  | .lit w => w.toInt
  | .reg (.s n) => (iss.team.s n.val).toInt
  | .reg (.v n) => (iss.team.v n.val l).toInt
  | .reg (.q _) => 0

/-- No access of the team of iss is under way or held back; its launch runs on this device alone. -/
structure Quiet (s : State) (iss : Issue) : Prop where
  key    : iss.team.id = iss.tid
  noLock : iss.team.lockOut = false
  noOver : iss.team.ovflow = []
  none'  : ∀ r ∈ s.reqs, r.team ≠ iss.tid
  room   : ∀ p, (iss.team.path p).length < 1023
  single : ∀ q, s.launch? iss.team.launch = some q → q.md = none

/-- The address of a counter instruction names counter n of die d, in the ranges of the context (R73, R74, R203). -/
structure AtCounter (s : State) (iss : Issue) (l : Nat) (a : Reg) (d n : Nat) : Prop where
  lane  : iss.low = some l
  addr  : teamReg iss true l a = winBase 4 + counterAddr d n
  bound : d < 2 ∧ n < 4096
  range : ∃ c, s.ctx? iss.ctx = some c ∧ c.ctrLo d ≤ n ∧ n ≤ c.ctrHi d

/-- The counter at o holds v, no other does otherwise than before; what waited for that value waits no more (R203, R249). -/
def CounterBecomes (s s' : State) (o v : Nat) : Prop :=
  s'.counter o = v ∧ (∀ c, c < o ∨ o + 8 ≤ c → s'.mem.ctr.bytes.read c = s.mem.ctr.bytes.read c) ∧
  (∀ u t e f th, s'.team? u = some t → t.frag? e = some f → f.latch = .counter o th → v < th) ∧
  ∀ k x, NMap.look s'.conj.slots k = some x → x.st = .armed → refAddr x.trig = o → v < x.thresh

/-- The precise check of a counter address (R203). -/
def ChecksCounter (i : Instr) (a : Reg) : Prop :=
  ∀ s iss l, Issues s iss i → iss.low = some l → iss.frag.latch = .none →
    let va := teamReg iss true l a
    (2 ^ 57 ≤ va → Traps i s iss 4 0 va) ∧
    (va < winBase 0 → Traps i s iss 11 0 va) ∧
    (∀ d n c, va = winBase 4 + counterAddr d n → d < 2 → n < 4096 → s.ctx? iss.ctx = some c → n < c.ctrLo d ∨ c.ctrHi d < n → Traps i s iss 10 0 va) ∧
    ∀ o, va = winBase 4 + o → o < 65536 → o % 8 ≠ 0 → Traps i s iss 11 0 va

/-- The pair of the team of iss. -/
def pairOf (iss : Issue) : Nat := corePair iss.team.core

/-- The pair of iss takes matrix instructions: an even core, no reset under way, no operation of its group lost (R132, R208, R338, R339). -/
structure MatrixUsable (s : State) (iss : Issue) : Prop where
  key  : iss.team.id = iss.tid
  even : iss.team.core % 2 = 0
  runs : (s.pairSt (pairOf iss)).resetAt = none
  kept : ∀ g, s.group? iss.team.launch iss.team.group = some g → g.lost = false

/-- A matrix instruction of iss that acts in lane l reaches its own checks. -/
structure MatrixReady (s : State) (iss : Issue) (l : Nat) : Prop extends MatrixUsable s iss where
  lane : iss.low = some l

/-- What the matrix instructions check of a pair and of the mood's type, where they act at all. -/
def MatrixChecks (i : Instr) (ok : Ty → Bool) (acts : Issue → Prop) : Prop := ∀ s iss, Issues s iss i → acts iss →
  (iss.team.core % 2 = 1 → Traps i s iss 19 0 0) ∧
  (iss.team.core % 2 = 0 → (s.pairSt (pairOf iss)).resetAt ≠ none → Waits i s iss .none (hashed s iss i)) ∧
  (MatrixUsable s iss → ok iss.ty = false → Traps i s iss 6 0 0)

/-- The gate of a matrix instruction that acts in the lowest active lane, or in the active lanes without helpers. -/
def MatrixGate (i : Instr) (ok : Ty → Bool) : Prop := NeedsLane i ∧ MatrixChecks i ok (fun iss => iss.low ≠ none)

/-- The pair has a free submission slot and the flag of iss has room; no acquire of the team is under way; no other group owns what is
named (R115, R174, R211, R212). -/
structure MaySubmit (s : State) (iss : Issue) (fb : Bool) (names : List Nat) : Prop where
  mine : (s.pairSt (pairOf iss)).heldByOther iss.gkey names = false
  slot : ((s.pairSt (pairOf iss)).ops.filter (fun x => x.team == iss.team.id && !x.started)).length < 8
  flag : flagRoom iss (selFlag iss fb) = true
  acq  : s.acquiring iss.team = false

/-- Instruction i submits one operation: it joins the pair's operations and takes what it names, its destination's lines are its own, the
flag of the clause rises, and nothing else of the pair is done (R212, R214). -/
def Submits (i : Instr) (s : State) (iss : Issue) (fb sq : Bool) (names : List Nat) (srcs dsts : List Range) (what : EngineOp → List Seg → Prop) : Prop :=
  MaySubmit s iss fb names → (∀ r ∈ srcs ++ dsts, s.unsettled iss.team r.va r.n = false) →
  ∀ ss ds s1 s2, probeAll iss.team 11 srcs (hashed s iss i) = (.ok ss, s1) → probeAll iss.team 11 dsts s1 = (.ok ds, s2) →
    ∃ s3 o t', Completes i s iss s3 ∧ (s3.pairSt (pairOf iss)).ops = (s.pairSt (pairOf iss)).ops ++ [o] ∧ what o ss ∧
      o.dsts = ds ∧ o.team = iss.tid ∧ o.entry = iss.entry ∧ o.pc = iss.frag.pc ∧ o.group = iss.gkey ∧ o.pair = pairOf iss ∧ o.flag = selFlag iss fb ∧
      o.sq = sq ∧ o.started = false ∧ o.mood = iss.cl.mood ∧
      (∀ r ∈ names, (s3.pairSt (pairOf iss)).owner r = some iss.gkey) ∧
      s3.team? iss.tid = some t' ∧ { t' with frags := [], flags := [], early := false } = { iss.team with frags := [], flags := [], early := false } ∧
      (∀ f, t'.flag f = iss.team.flag f + if f = selFlag iss fb ∧ f < 12 then 1 else 0)

/-- A copy instruction of iss names handle h of its group, which is x (R228, R231). -/
structure AtHandle (s : State) (iss : Issue) (l h : Nat) (g : Group) (x : Handle) : Prop where
  lane   : iss.low = some l
  key    : iss.team.id = iss.tid
  bound  : h < 8
  group  : s.group? iss.team.launch iss.team.group = some g
  handle : g.handle h = x

/-- s' is s with handle h of the group of iss changed to y; the pairs are not looked at. -/
def HandleBecomes (s s' : State) (iss : Issue) (h : Nat) (g : Group) (y : Handle) : Prop :=
  { s' with groups := [], pairs := [] } = { s with groups := [], pairs := [] } ∧
  (∃ g', s'.group? iss.team.launch iss.team.group = some g' ∧ g'.handle h = y ∧ { g' with handles := [] } = { g with handles := [] } ∧
    ∀ k, k ≠ h → g'.handle k = g.handle k) ∧
  ∀ l m, ¬(l = iss.team.launch ∧ m = iss.team.group) → s'.group? l m = s.group? l m

/-- What a fabric instruction asks for: kind, control word, source and destination address, length, and the data of a message. -/
structure Asked where
  kind : Nat
  ctl  : Nat
  src  : Nat
  dst  : Nat
  len  : Nat
  data : Marked

/-- Instruction i opens one transfer (R235, R236): its record follows the others, its flag and path count rise, the irreversible count too. -/
def OpensTransfer (i : Instr) (s : State) (iss : Issue) (fb sq : Bool) (x : Asked) : Prop :=
  ∀ ss ds s1, (hashed s iss i).fabBoth iss.team (if x.kind = 1 then getSrc else putSrc) (if x.kind = 1 then getDst else putDst) x.src x.dst x.len false
      = ((.ok ss, .ok ds), s1) →
    let path := if (ss ++ ds).any (fun g => isFar g.loc) then 4 else ((ds.head?).map (fun g => g.loc.path)).getD 0
    let inRange (r : Nat) : Prop := refOn r = true → ∃ c, s.ctx? iss.ctx = some c ∧ refIn c r = true
    inRange (ctlLctr x.ctl) →
    flagRoom iss (selFlag iss fb) = true →
    (x.kind = 2 → segsMeet s.fab.self ss ds = true → Traps i s iss 26 0 x.dst) ∧
    ((x.kind = 2 → segsMeet s.fab.self ss ds = false) → (ds.any (fun g => !isFar g.loc) = true → inRange (ctlRctr x.ctl)) →
      iss.team.pathRoom [path] = true → s.acquiring iss.team = false → s.unsettled iss.team x.src x.len = false →
      ∃ s3 y t', Completes i s iss s3 ∧ s3.fab.transfers = s.fab.transfers ++ [y] ∧
        y.kind = x.kind ∧ y.team = iss.tid ∧ y.ctx = iss.ctx ∧ y.src = x.src ∧ y.dst = x.dst ∧ y.len = x.len ∧ y.srcs = ss ∧ y.dsts = ds ∧
        y.lctr = ctlLctr x.ctl ∧ y.rctr = ctlRctr x.ctl ∧ y.flag = selFlag iss fb ∧ y.sq = sq ∧ y.formed = 0 ∧ y.packets = [] ∧ y.status = 0 ∧ y.data = x.data ∧
        s3.team? iss.tid = some t' ∧ t'.irrev = min 65535 (iss.team.irrev + 1) ∧ t'.path path = iss.team.path path ++ [y.inst] ∧
        (∀ f, t'.flag f = iss.team.flag f + if f = selFlag iss fb ∧ f < 12 then 1 else 0) ∧
        { t' with frags := [], flags := [], paths := [], irrev := 0 } = { iss.team with frags := [], flags := [], paths := [], irrev := 0 })

/-- The checks of a control word before anything else but the room of its flag, at which nothing is performed (R115, R235, R325: causes 25 and
27). -/
def ChecksControl (i : Instr) (s : State) (iss : Issue) (fb : Bool) (ctl : Nat) (ok : Prop) : Prop :=
  (flagRoom iss (selFlag iss fb) = false → Waits i s iss .none (hashed s iss i)) ∧
  (flagRoom iss (selFlag iss fb) = true → ctlBad ctl = true ∨ ¬ok → Traps i s iss 25 0 ctl) ∧
  (flagRoom iss (selFlag iss fb) = true → ctlBad ctl = false → ok → refOn (ctlLctr ctl) = true → (∀ c, s.ctx? iss.ctx = some c → refIn c (ctlLctr ctl) = false) → Traps i s iss 27 0 (ctlLctr ctl))

/-! ### Events -/

/-- Event i answers a next state with a property. -/
def Gives (i : Instr) (s : State) (P : State → Prop) : Prop := ∃ s', exec i s = .next s' ∧ P s'

/-- No plain store, partial or peer's store stands in a pending version. -/
structure NothingPending (s : State) : Prop where
  pend  : s.mem.pend = []
  peers : s.mem.peerPend = []
  parts : s.mem.parts = []

/-- The registers of a team stay as they are. -/
def SameRegisters (t t' : Team) : Prop :=
  t'.vec = t.vec ∧ t'.vtag = t.vtag ∧ t'.scal = t.scal ∧ t'.stag = t.stag ∧ t'.pred = t.pred ∧ t'.moods = t.moods ∧ t'.gen = t.gen ∧ t'.priv = t.priv

/-- Request r of team t, of one part p, is the next at its home and goes to l in local HBM, where nothing else is under way; its line hits (R173, R278,
R284), and no core holds a read-only copy that it would have to update (R282). s1 is s with the part translated. -/
structure AtHome (s : State) (r : Req) (t : Team) (p : LanePart) (l : Loc) (h : Hit) (s1 : State) : Prop where
  kept    : s.req? r.id = some r
  team    : s.team? r.team = some t
  queued  : r.place = .queue 3
  walked  : ∃ key, r.pa = some key ∧ s.missAt key = false ∧ s.homeNext r key = true ∧ s.l2Holds key = true
  first   : s.behind r = false
  parts   : r.parts = [p]
  alone   : r.twins = []
  aim     : s.aim t p.lane p.va r.op.need r.op.isAtomic r.op.isLd64 = (.at' l h, s1)
  here    : l.space = 0
  pending : NothingPending s
  locks   : s.mem.locks = []
  owned   : s.mem.owned = []
  updates : s.mem.updates = []
  mcast   : s.fab.mcast = []
  copies  : s.copiesOf [sectorOf l.addr] = []

/-- The request r has been performed: its answer is on its way back. -/
def Answered (s s' : State) (r : Req) (as : List (List Byte × Bool)) : Prop :=
  s'.req? r.id = some { r with place := .answered, answer := as, since := s.clk }

/-- No core holds a clean copy of the sectors of n bytes at pa. -/
def NoCopies (s' : State) (pa n : Nat) : Prop := ∀ c i, i < n → NSet.has (s'.coreSt c).clean (sectorOf (pa + i)) = false

/-- Event i takes the oldest word of side 8 + q of team n, which is t, leaves rest there, and answers w on side q; full, that side notes the
loss (R215, R232, R244, R251). -/
def Replies (i : Instr) (s : State) (n q : Nat) (t : Team) (rest : List DWord) (w : Nat) : Prop :=
  Gives i s (fun s' => s'.mem = s.mem ∧ s'.reqs = s.reqs ∧ ∃ t', s'.team? n = some t' ∧ SameRegisters t t' ∧ t'.frags = t.frags ∧ (t'.port (8 + q)).q = rest ∧
    ((t.port q).q.length < 8 → (t'.port q).q = (t.port q).q ++ [BitVec.ofNat 64 w]) ∧
    (8 ≤ (t.port q).q.length → t'.port q = { t.port q with ovf := true }) ∧ ∀ p, p ≠ q → p ≠ 8 + q → t'.port p = t.port p)

/-- The team t has been restarted as t' at the restart label of its launch l (R333). -/
def Restarted (l : Launch) (t t' : Team) : Prop :=
  t'.status = .running ∧ (∃ f, t'.frags = [(0, f)] ∧ f.pc = l.restart ∧ f.mask = t.restartMask ∧ f.st = .ready ∧ f.join = 15 ∧ f.clause = none ∧ f.latch = .none) ∧
  t'.joins = [] ∧ t'.serial = [] ∧ t'.vec = [] ∧ t'.scal = [] ∧ t'.pred = [] ∧ t'.moods = [] ∧ t'.flags = [] ∧ t'.gen = [] ∧ t'.ports = [] ∧
  t'.ovflow = [] ∧ t'.restartMode = true ∧ t'.record = none ∧ t'.restartPending = false ∧ t'.restarts = min (2 ^ 32 - 1) (t.restarts + 1) ∧
  t'.priv = t.priv ∧ t'.rpc = t.rpc ∧ t'.irrev = t.irrev ∧ t'.real = t.real ∧ t'.core = t.core ∧ t'.lastPhase = t.lastPhase

/-- A count of ignored or lost requests has risen, nothing else has changed. -/
def Counted (s s' : State) (k : Nat) : Prop := NMap.getD s'.mgmt.errors k 0 = NMap.getD s.mgmt.errors k 0 + 1 ∧ { s' with mgmt := s.mgmt } = s

end Sys2Proof.Claims
end

