-- ==== Sys2Proof/Certificates/Slice0/Obligations.lean ====
section
/-! DEFINITION. What is claimed of the machine. -/

open Sys2Proof Sys2Proof.Machine Sys2Proof.Claims

/-- R153, R135: each element of the result is the exact value of the operation, narrowed or rounded once. -/
def Obligations.ArithmeticResults : Prop := ∀ (d a : Reg) (b : Src),
  Elementwise (.add d a b) tyArith false d a (some b) (Rounded fun iss x y _ => x.add iss.mode y) ∧
  Elementwise (.sub d a b) tyArith false d a (some b) (Rounded fun iss x y _ => x.add iss.mode y.neg) ∧
  Elementwise (.mul d a b) tyArith false d a (some b) (Rounded fun _ x y _ => x.mul y) ∧
  Elementwise (.fma d a b) tyArith true d a (some b) (Rounded fun iss x y z => (x.mul y).add iss.mode z) ∧
  Elementwise (.fms d a b) tyArith true d a (some b) (Rounded fun iss x y z => (x.mul y).add iss.mode z.neg) ∧
  Elementwise (.fnma d a b) tyArith true d a (some b) (Rounded fun iss x y z => z.add iss.mode (x.mul y).neg) ∧
  Elementwise (.min d a b) tyArith false d a (some b) (Rounded fun _ x y _ => x.min y) ∧
  Elementwise (.max d a b) tyArith false d a (some b) (Rounded fun _ x y _ => x.max y) ∧
  Elementwise (.clamp d a b) tyArith true d a (some b) (Rounded fun _ x y z => clampE x y z) ∧
  Elementwise (.abs d a) tyArith false d a none (fun iss x _ _ g => signOp iss EVal.abs x g) ∧
  Elementwise (.neg d a) tyArith false d a none (fun iss x _ _ g => signOp iss EVal.neg x g) ∧
  Elementwise (.mulhi d a b) Ty.isInt false d a (some b) (fun iss x y _ g =>
    (bitsOfInt iss.ty.ew ((intOfBits iss.ty.isS iss.ty.ew x * intOfBits iss.ty.isS iss.ty.ew y) / ((2 ^ iss.ty.ew : Nat) : Int)), g))

/-- R154, R155, R156: division, remainder, the elementary functions and the fractional parts. That the elementary functions are
evaluated to a precision that rounds as the exact value does is the model's reading (log 7). -/
def Obligations.DivisionAndElementaryResults : Prop := ∀ (d a : Reg) (b : Src),
  Elementwise (.div d a b) tyArith false d a (some b) divElem ∧
  Elementwise (.rem d a b) tyArith false d a (some b) remElem ∧
  Elementwise (.sqrt d a) Ty.isFloat false d a none (Rounded fun _ x _ _ => sqrtE x) ∧
  Elementwise (.rsq d a) Ty.isFloat false d a none (Rounded fun _ x _ _ => rsqE x) ∧
  Elementwise (.rcp d a) Ty.isFloat false d a none (Rounded fun _ x _ _ => rcpE x) ∧
  Elementwise (.exp2 d a) Ty.isFloat false d a none (Rounded fun _ x _ _ => exp2E x) ∧
  Elementwise (.log2 d a) Ty.isFloat false d a none (Rounded fun _ x _ _ => log2E x) ∧
  Elementwise (.sin d a) Ty.isFloat false d a none (Rounded fun _ x _ _ => sinE x) ∧
  Elementwise (.cos d a) Ty.isFloat false d a none (Rounded fun _ x _ _ => cosE x) ∧
  Elementwise (.tanh d a) Ty.isFloat false d a none (Rounded fun _ x _ _ => tanhE x) ∧
  Elementwise (.frc d a) Ty.isFloat false d a none frcElem ∧
  Elementwise (.rnd d a) Ty.isFloat false d a none rndElem

/-- R157, R158, R159: conversions, packing, dot products. -/
def Obligations.ConversionAndDotResults : Prop := ∀ (d a : Reg) (b : Src) (e : Fin 4) (st : Fin 15) (src : PackSrc),
  let from' := (Ty.ofCode st.val).getD .s32
  let plain (t : Ty) : Bool := tyArith t && t != .b32
  let quads (t : Ty) : Bool := t == .s8x4 || t == .n8x4 || t == .e4m3x4 || t == .e5m2x4
  let halves (t : Ty) : Bool := t == .s16x2 || t == .bf16x2 || t == .f16x2
  let sum (t : Ty) : Ty := if t.isFloat then .f32 else if t.isS then .s32 else .n32
  LaneWise (.cvt e d a st) (fun iss => plain iss.ty = true ∧ plain from' = true) (fun _ => from'.width) (fun _ => 32) (fun iss => iss.ty.width)
    (fun iss => scalarExt iss.ty) (fun iss => decide (from'.count < iss.ty.count)) d (some a) none (fun _ iss _ x _ z g => (some (cvtPlace iss from' e.val x z g).1, (cvtPlace iss from' e.val x z g).2)) ∧
  LaneWise (.pack src d a b) (fun iss => halves iss.ty = true ∨ quads iss.ty = true) (fun _ => 32) (fun _ => 32) (fun _ => 32)
    (fun iss => scalarExt iss.ty) (fun iss => quads iss.ty) d (some a) (some b) (fun _ iss _ x y z g =>
      let r := cvtAll iss (packTy src) [x, y] g
      (some (ofElements iss.ty.ew (if halves iss.ty then r.1 else r.1 ++ [element iss.ty z 0, element iss.ty z 1])), r.2)) ∧
  LaneWise (.dot4 d a b) (fun iss => quads iss.ty = true) (fun _ => 32) (fun _ => 32) (fun _ => 32) (fun iss => scalarExt (sum iss.ty)) (fun _ => true) d (some a)
    (some b) (fun _ iss _ x y z g => (some (dotLane iss x y z g).1, (dotLane iss x y z g).2)) ∧
  LaneWise (.dot2 d a b) (fun iss => halves iss.ty = true) (fun _ => 32) (fun _ => 32) (fun _ => 32) (fun iss => scalarExt (sum iss.ty)) (fun _ => true) d (some a)
    (some b) (fun _ iss _ x y z g => (some (dotLane iss x y z g).1, (dotLane iss x y z g).2)) ∧
  LaneWise (.unpack d a b) (fun iss => tyArith iss.ty = true ∧ iss.ty.ew < 32) (fun _ => 32) (fun _ => 32) (fun _ => 32)
    (fun iss => scalarExt (unpackTy iss.ty)) (fun _ => false) d (some a) (some b) (fun _ iss _ x y _ g =>
      let v := valueOf iss.ty iss.ftz (element iss.ty x (y % iss.ty.count))
      (some (if iss.ty.isFloat then (roundF .f32 .rne false false v 1).1 else bitsOfInt 32 v.truncI), g))

/-- R160, R161, R162, R164: bitwise and address instructions. -/
def Obligations.BitwiseResults : Prop := ∀ (d a : Reg) (b : Src),
  Rawwise (.and d a b) false d a (some b) (fun _ x y _ => x &&& y) ∧
  Rawwise (.or d a b) false d a (some b) (fun _ x y _ => x ||| y) ∧
  Rawwise (.xor d a b) false d a (some b) (fun _ x y _ => x ^^^ y) ∧
  Rawwise (.not d a) false d a none (fun t x _ _ => 2 ^ t.width - 1 - x) ∧
  Rawwise (.shl d a b) false d a (some b) (fun t x y _ => bitElems t (shlElem t.ew) x y) ∧
  Rawwise (.shr d a b) false d a (some b) (fun t x y _ => bitElems t (shrElem t.ew) x y) ∧
  Rawwise (.sar d a b) false d a (some b) (fun t x y _ => bitElems t (sarElem t.ew) x y) ∧
  Rawwise (.rot d a b) false d a (some b) (fun t x y _ => bitElems t (rotElem t.ew) x y) ∧
  Rawwise (.popc d a) false d a none (fun t x _ _ => bitElems t (fun e _ => popcElem t.ew e) x 0) ∧
  Rawwise (.clz d a) false d a none (fun t x _ _ => bitElems t (fun e _ => clzElem t.ew e) x 0) ∧
  Rawwise (.brev d a) false d a none (fun t x _ _ => bitElems t (fun e _ => brevElem t.ew e) x 0) ∧
  Rawwise (.bfe d a b) false d a (some b) (fun t x y _ => bfeVal t x y) ∧
  Rawwise (.bfi d a b) true d a (some b) (fun t x y z => bfiVal t x y z) ∧
  LaneWise (.lea d a b) (fun _ => True) (fun _ => 64) (fun iss => iss.ty.width) (fun _ => 64) (fun _ x => x) (fun _ => false) d (some a) (some b)
    (fun _ iss _ x y _ g => (some (wrapI ((x : Int) + sext y 32 * ((leaScale iss.ty : Nat) : Int)) 64), g))

/-- R163: the sum with p7 of the lane as carry in, and the carry out in p7. -/
def Obligations.AddWithCarry : Prop := ∀ (d a : Reg) (b : Src) s iss, Issues s iss (.addc d a b) → iss.act ≠ 0 →
  (iss.low.isSome → portsReady s iss.team (some d) (some a) (some b)) →
  let w := iss.ty.width
  let sum (l : Nat) : Nat := valA s iss w (some a) l + valB s iss w (some a) (some b) l + (iss.team.p 7 l).toNat
  ∃ s1 s2 s3, Steps (readState s iss (.addc d a b) (some a) (some b)) iss (outLanes iss d) iss.team.g s1 ∧
    Writes s1 iss w (scalarExt iss.ty) d (inLanes (outLanes iss d) (fun l => some (sum l % 2 ^ w)))
      (fun l => tagA s iss w (some a) l || tagB s iss w (some a) (some b) l) s2 ∧
    SetsPred s2 iss 7 (fun l => decide (l ∈ outLanes iss d)) (fun l => decide (2 ^ w ≤ sum l)) s3 ∧
    exec (.addc d a b) s = .next (goesOn s3 iss (.addc d a b))

/-- R145, R149: logic on predicates in the active lanes; a vote in the active lanes that are no helpers. -/
def Obligations.PredicateResults : Prop := ∀ (p x y : Fin 8),
  PredWise (.pand p x y) p (·.act) (fun iss l => iss.team.p x.val l && iss.team.p y.val l) ∧
  PredWise (.por p x y) p (·.act) (fun iss l => iss.team.p x.val l || iss.team.p y.val l) ∧
  PredWise (.pxor p x y) p (·.act) (fun iss l => iss.team.p x.val l != iss.team.p y.val l) ∧
  PredWise (.pnot p x) p (·.act) (fun iss l => !iss.team.p x.val l) ∧
  PredWise (.vote p .any x) p (·.val) (fun iss _ => (List.range 1024).any (fun l => iss.val.getLsbD l && iss.team.p x.val l)) ∧
  PredWise (.vote p .all x) p (·.val) (fun iss _ => (List.range 1024).all (fun l => !iss.val.getLsbD l || iss.team.p x.val l)) ∧
  PredWise (.vote p .uni x) p (·.val) (fun iss _ => (List.range 1024).all (fun l => !iss.val.getLsbD l || iss.team.p x.val l)
    || (List.range 1024).all (fun l => !iss.val.getLsbD l || !iss.team.p x.val l)) ∧
  ∀ s iss, Issues s iss (.elect p) →
    (iss.act = 0 → exec (.elect p) s = .next (goesOn (hashed s iss (.elect p)) iss (.elect p))) ∧
    (iss.act ≠ 0 → ∃ s2, SetsPred (hashed s iss (.elect p)) iss p.val iss.act.getLsbD (fun l => iss.low == some l) s2 ∧
      exec (.elect p) s = .next (goesOn s2 iss (.elect p)))

/-- R123, R148, R149: comparisons, and a bit of an operand, into a predicate. -/
def Obligations.CompareResults : Prop := ∀ (p : Fin 8) (c : Cond) (a : Reg) (b : Src),
  Compares (.cmp p c a b) (fun iss => iss.ty ≠ .q4x8) p a b (fun iss x y => condHolds iss.ty iss.ftz c x y) ∧
  Compares (.pmov p a b) (fun _ => True) p a b (fun iss x y => x.testBit (y % iss.ty.width)) ∧
  TypeFault (.cmp p c a b) (fun t => t != .q4x8)

/-- R149, R150, R151: a mask word of the passing lanes, a predicated select, specials, moves. -/
def Obligations.SelectSpecialAndMoveResults : Prop := ∀ (d a : Reg) (b : Src) (p : Fin 8) (sp : Special),
  let w (iss : Issue) := iss.ty.width
  LaneWise (.ballot d p b) (fun _ => True) (fun _ => 32) w w (fun iss => wordExt iss.ty) (fun _ => false) d none (some b)
    (fun _ iss _ _ y _ g =>
      let m := if iss.team.n / 32 ≤ y % 2 ^ 32 then 0 else maskWord (NMap.getD iss.team.pred p.val 0 &&& iss.val) (y % 2 ^ 32)
      (some (if d.isS then wordExt iss.ty m else m), g)) ∧
  LaneWise (.selp d a p) (fun _ => True) w (fun _ => 32) w (fun iss => scalarExt iss.ty) (fun _ => false) d (some a) none
    (fun _ iss l x _ _ g => (if iss.team.p p.val l then some x else none, g)) ∧
  LaneWise (.srd d sp) (fun _ => True) (fun _ => 32) (fun _ => 32) (fun iss => if d.isV then iss.ty.width else 64) (fun _ x => x) (fun _ => false)
    d none none (fun s iss l _ _ _ g => (some (special s iss sp l), g)) ∧
  LaneWise (.mov d a) (fun _ => True) (fun iss => if d.isV || a.isV then iss.ty.width else 64) (fun _ => 32)
    (fun iss => if d.isV || a.isV then iss.ty.width else 64) (fun iss => wordExt iss.ty) (fun _ => false) d (some a) none
    (fun _ _ _ x _ _ g => (some x, g)) ∧
  LaneWise (.movi d (.reg a)) (fun _ => True) (fun _ => 32) (fun iss => if d.isV || a.isV then iss.ty.width else 64)
    (fun iss => if d.isV || a.isV then iss.ty.width else 64) (fun iss => wordExt iss.ty) (fun _ => false) d none (some (.reg a))
    (fun _ _ _ _ y _ g => (some y, g)) ∧
  ∀ x : Word,
    LaneWise (.movi d (.lit x)) (fun iss => d.isV = true ∨ iss.ty.width = 64) (fun _ => 32) w w (fun _ x => x) (fun _ => false) d none (some (.lit x))
      (fun _ iss _ _ _ _ g => (some (litValue iss.ty x % 2 ^ iss.ty.width), g)) ∧
    LaneWise (.movi d (.lit x)) (fun iss => d.isV = false ∧ iss.ty.width = 32) (fun _ => 32) (fun _ => 32) (fun _ => 64) (fun _ x => x)
      (fun _ => false) d none (some (.lit x)) (fun _ iss _ _ _ _ g =>
        (some (if iss.ty = .s32 ∨ iss.ty = .s16x2 ∨ iss.ty = .s8x4 then (x.signExtend 64).toNat else x.toNat), g))

/-- R144, R147, R150: moods, rounding generators and the signature read and written. -/
def Obligations.MoodAndGeneratorResults : Prop := ∀ (d : Reg) (m : Fin 4) (b : Src),
  LaneWise (.moodrd d m) (fun _ => True) (fun _ => 32) (fun _ => 32) (fun iss => iss.ty.width) (fun _ x => x) (fun _ => false) d none none
    (fun _ iss _ _ _ _ g => (some (iss.team.mood m.val).toNat, g)) ∧
  LaneWise (.sigrd d) (fun _ => True) (fun _ => 32) (fun _ => 32) (fun iss => iss.ty.width) (fun _ x => x) (fun _ => false) d none none
    (fun _ iss _ _ _ _ g => (some iss.frag.sig.toNat, g)) ∧
  ∀ s iss,
    let pops (i : Instr) : State := popAll (hashed s iss i) iss none (some b)
    let src (l : Nat) : Nat := valB s iss iss.ty.width none (some b) l
    let mood (l : Nat) : Nat := match b with
      | .lit w => w.toNat
      | .reg _ => src l % 2 ^ 32
    (Issues s iss (.mood m b) → (iss.low = none → exec (.mood m b) s = .next (goesOn (hashed s iss (.mood m b)) iss (.mood m b))) ∧
      ∀ l, iss.low = some l → portsReady s iss.team none none (some b) →
        (moodBad (mood l) = true → exec (.mood m b) s = .next (takeFault s iss.tid iss.entry 7 l 0 0)) ∧
        (moodBad (mood l) = false → exec (.mood m b) s = .next (goesOn ((pops (.mood m b)).updTeam iss.tid (fun t =>
          { t with moods := NMap.set 0 t.moods m.val (BitVec.ofNat 32 (mood l)) })) iss (.mood m b)))) ∧
    (Issues s iss (.swrSig b) → (iss.low = none → exec (.swrSig b) s = .next (goesOn (hashed s iss (.swrSig b)) iss (.swrSig b))) ∧
      ∀ l, iss.low = some l → portsReady s iss.team none none (some b) →
        exec (.swrSig b) s = .next (goesOn ((pops (.swrSig b)).updFrag iss.tid iss.entry (fun f => { f with sig := BitVec.ofNat 32 (src l) })) iss (.swrSig b))) ∧
    (Issues s iss (.swrGen b) → (iss.act = 0 → exec (.swrGen b) s = .next (goesOn (hashed s iss (.swrGen b)) iss (.swrGen b))) ∧
     (lanesOf iss.act iss.team.n ≠ [] → (iss.low.isSome → portsReady s iss.team none none (some b)) →
      ∃ t t', (pops (.swrGen b)).team? iss.tid = some t ∧
        (∀ l, l < 1024 → t'.g l = if l < iss.team.n ∧ iss.act.getLsbD l = true then
          (if src l % 2 ^ 32 = 0 then 1 else BitVec.ofNat 32 (src l)) else t.g l) ∧
        { t' with gen := [] } = { t with gen := [] } ∧
        exec (.swrGen b) s = .next (goesOn { (pops (.swrGen b)).updTeam iss.tid (fun _ => t') with free := s.free + 1 } iss (.swrGen b))))

/-- R166: moves between lanes. -/
def Obligations.ExchangeResults : Prop := ∀ (d a : Reg) (b : Src) (k : Fin 4),
  Moves (.qswap .x1 d a) d a none (fun _ l _ => l ^^^ 1) ∧
  Moves (.qswap .x2 d a) d a none (fun _ l _ => l ^^^ 2) ∧
  Moves (.qswap .x3 d a) d a none (fun _ l _ => l ^^^ 3) ∧
  Moves (.qbcast k d a) d a none (fun _ l _ => l - l % 4 + k.val) ∧
  Moves (.shfl .idx d a b) d a (some b) (fun _ l c => l - l % 32 + c % 32) ∧
  Moves (.shfl .up d a b) d a (some b) (fun _ l c => if c ≤ l % 32 then l - c else l) ∧
  Moves (.shfl .dn d a b) d a (some b) (fun _ l c => if l % 32 + c < 32 then l + c else l) ∧
  Moves (.shfl .xor d a b) d a (some b) (fun _ l c => l - l % 32 + (l % 32 ^^^ c % 32)) ∧
  Moves (.tshfl .idx d a b) d a (some b) (fun iss _ c => c % iss.team.n) ∧
  Moves (.tshfl .up d a b) d a (some b) (fun iss l c => (((l : Int) - c) % (iss.team.n : Int)).toNat) ∧
  Moves (.tshfl .dn d a b) d a (some b) (fun iss l c => (l + c) % iss.team.n)

/-- R167, R168: scans and reductions over the active lanes that are no helpers, in ascending order; matches. -/
def Obligations.ScanReduceAndMatchResults : Prop := ∀ (d a : Reg) (p : Fin 8) s iss,
  let ks := lanesOf iss.val iss.team.n
  let x (l : Nat) : Nat := (opdAt iss.team iss.ty.width l (opdReg s iss 0 a)).1
  let tag (l : Nat) : Bool := (opdAt iss.team iss.ty.width l (opdReg s iss 0 a)).2
  let add (y z : EVal) : EVal := y.add iss.mode z
  let upTo (l : Nat) := ks.filter (fun k => decide (k ≤ l))
  let below (l : Nat) := ks.filter (fun k => decide (k < l))
  (iss.low.isSome → tyArith iss.ty = true → iss.mode ≠ .rst → d.isV = true →
    (Issues s iss (.scan .add d a) → WritesReal (.scan .add d a) s iss d (fun l => combined iss add x (upTo l)) (fun l => (upTo l).any tag)) ∧
    (Issues s iss (.scan .max d a) → WritesReal (.scan .max d a) s iss d (fun l => combined iss EVal.max x (upTo l)) (fun l => (upTo l).any tag)) ∧
    (Issues s iss (.scan .min d a) → WritesReal (.scan .min d a) s iss d (fun l => combined iss EVal.min x (upTo l)) (fun l => (upTo l).any tag)) ∧
    (Issues s iss (.scan .xadd d a) → WritesReal (.scan .xadd d a) s iss d (fun l => combined iss add x (below l)) (fun l => (below l).any tag))) ∧
  (iss.low.isSome → tyArith iss.ty = true → iss.mode ≠ .rst →
    (Issues s iss (.redx .add d a) → WritesReal (.redx .add d a) s iss d (fun _ => combined iss add x ks) (fun _ => ks.any tag)) ∧
    (Issues s iss (.redx .min d a) → WritesReal (.redx .min d a) s iss d (fun _ => combined iss EVal.min x ks) (fun _ => ks.any tag)) ∧
    (Issues s iss (.redx .max d a) → WritesReal (.redx .max d a) s iss d (fun _ => combined iss EVal.max x ks) (fun _ => ks.any tag)) ∧
    (Issues s iss (.redx .or d a) → WritesReal (.redx .or d a) s iss d (fun _ => ks.foldl (fun acc l => acc ||| x l) 0) (fun _ => ks.any tag))) ∧
  (Issues s iss (.matchRow d a) → d.isV = true → ∃ (v : Nat → Nat) (s2 : State),
    (∀ l i, l < 1024 → (v l).testBit i = (decide (i < 32) && iss.val.getLsbD (l - l % 32 + i) && x (l - l % 32 + i) == x l)) ∧
    Writes (hashed s iss (.matchRow d a)) iss iss.ty.width (wordExt iss.ty) d (inLanes ks (fun l => some (if d.isS then wordExt iss.ty (v l) else v l)))
      (fun l => (List.range 32).any (fun i => iss.val.getLsbD (l - l % 32 + i) && tag (l - l % 32 + i))) s2 ∧
    exec (.matchRow d a) s = .next (goesOn s2 iss (.matchRow d a))) ∧
  (Issues s iss (.matchAll p a) → iss.low.isSome → ∃ s2,
    SetsPred (hashed s iss (.matchAll p a)) iss p.val iss.val.getLsbD (fun _ => ks.all (fun l => x l == x (ks.headD 0))) s2 ∧
    exec (.matchAll p a) s = .next (goesOn s2 iss (.matchAll p a)))

/-- R139, R141: transfers of control, and what they do when not taken. -/
def Obligations.BranchResults : Prop := ∀ (b : Src) (r : Fin 24) (pa : Fin 8) (neg : Bool),
  Branches (.bra b) (fun iss => iss.act != 0) (fun iss => headerPlus iss b) ∧
  Branches (.jmp b) (fun iss => iss.act != 0) (fun iss => plainSrc iss b) ∧
  Branches (.ret (.s r)) (fun iss => iss.act != 0) (fun iss => (iss.team.s r.val).toNat) ∧
  Branches (.brany neg pa b) (fun iss => (List.range 1024).any (fun l => iss.val.getLsbD l && guarded iss pa neg l)) (fun iss => headerPlus iss b) ∧
  Branches (.brall neg pa b) (fun iss => iss.val != 0 && (List.range 1024).all (fun l => !iss.val.getLsbD l || guarded iss pa neg l))
    (fun iss => headerPlus iss b) ∧
  ∀ s iss,
    (Issues s iss (.call (.s r) b) →
      (iss.act = 0 → exec (.call (.s r) b) s = .next (endsClause (hashed s iss (.call (.s r) b)) iss (.call (.s r) b))) ∧
      (iss.act ≠ 0 → TransfersTo (.call (.s r) b) s iss
        ((hashed s iss (.call (.s r) b)).updTeam iss.tid (fun t => t.setS r.val (BitVec.ofNat 64 (nextClause iss)) false)) (headerPlus iss b))) ∧
    (Issues s iss (.loop (.s r) b) →
      let counted := (hashed s iss (.loop (.s r) b)).updTeam iss.tid (fun t => t.setS r.val (iss.team.s r.val - 1) (NSet.has t.stag r.val))
      (iss.act = 0 → exec (.loop (.s r) b) s = .next (endsClause (hashed s iss (.loop (.s r) b)) iss (.loop (.s r) b))) ∧
      (iss.act ≠ 0 → iss.team.s r.val = 1 → exec (.loop (.s r) b) s = .next (endsClause counted iss (.loop (.s r) b))) ∧
      (iss.act ≠ 0 → iss.team.s r.val ≠ 1 → TransfersTo (.loop (.s r) b) s iss counted (headerPlus iss b)))

/-- R31, R35, R142: a conditional branch falls through, transfers as a whole, splits its fragment, or enters serial mode. -/
def Obligations.ConditionalBranchResults : Prop := ∀ (neg : Bool) (pa : Fin 8) (b : Src) s iss, Issues s iss (.brc neg pa b) →
  let target := branchWord iss b true
  let join := branchWord iss b false
  let taken := maskOf ((List.range 1024).filter (fun l => iss.act.getLsbD l && guarded iss pa neg l))
  let next := nextClause iss
  let t := iss.team
  (taken = 0 → exec (.brc neg pa b) s = .next (endsClause (hashed s iss (.brc neg pa b)) iss (.brc neg pa b))) ∧
  (taken ≠ 0 → taken = iss.act → TransfersTo (.brc neg pa b) s iss (hashed s iss (.brc neg pa b)) target) ∧
  (taken ≠ 0 → taken ≠ iss.act → 2 ^ 57 ≤ target ∨ 2 ^ 57 ≤ join → exec (.brc neg pa b) s = .next (takeFault s iss.tid iss.entry 4 0 0 0)) ∧
  (taken ≠ 0 → taken ≠ iss.act → target < 2 ^ 57 → join < 2 ^ 57 → target % 4 ≠ 0 ∨ join % 4 ≠ 0 →
    exec (.brc neg pa b) s = .next (takeFault s iss.tid iss.entry 3 0 0 0)) ∧
  (taken ≠ 0 → taken ≠ iss.act → target < 2 ^ 57 → join < 2 ^ 57 → target % 4 = 0 → join % 4 = 0 →
    -- an entry e and a join j are free: the fragment splits (where neither side stands at the join yet)
    (∀ e j, (∀ k, k ≤ e → (t.frag? k).isNone = decide (k = e)) → (∀ k, k ≤ j → (NMap.look t.joins k).isNone = decide (k = j)) → e < 8 → j < 8 →
      iss.entry ≠ e → topSerial t iss.entry = none → topSerial t e = none → target ≠ join → next ≠ join →
      ∃ s' t', exec (.brc neg pa b) s = .next (moves s' iss (.brc neg pa b)) ∧ s'.team? iss.tid = some t' ∧ SameOutside s s' ∧ t'.quiet = t.quiet ∧
        (∀ f, t'.frag? iss.entry = some f → f.pc = next ∧ f.mask = iss.frag.mask &&& ~~~taken ∧ f.join = j ∧ f.st = .ready ∧ f.clause = none ∧ f.sig = 0) ∧
        (∀ f, t'.frag? e = some f → f.pc = target ∧ f.mask = taken ∧ f.join = j ∧ f.st = .ready ∧ f.clause = none ∧ f.sig = 0) ∧
        (t'.frag? iss.entry).isSome ∧ (t'.frag? e).isSome ∧
        NMap.look t'.joins j = some { addr := join, expected := 2, arrived := 0, outer := iss.frag.join } ∧
        (∀ k, k ≠ e → k ≠ iss.entry → t'.frag? k = t.frag? k) ∧ (∀ k, k ≠ j → NMap.look t'.joins k = NMap.look t.joins k)) ∧
    -- no entry is free: serial mode
    ((∀ k, k < 8 → (t.frag? k).isSome) → 64 ≤ t.serial.length → exec (.brc neg pa b) s = .next (takeFault s iss.tid iss.entry 5 0 0 0)) ∧
    ((∀ k, k < 8 → (t.frag? k).isSome) → t.serial.length < 64 → target ≠ join →
      ∃ s' t', exec (.brc neg pa b) s = .next (moves s' iss (.brc neg pa b)) ∧ s'.team? iss.tid = some t' ∧ SameOutside s s' ∧ t'.quiet = t.quiet ∧
        t'.serial = { entry := iss.entry, join := iss.frag.join, lanes := iss.frag.mask &&& ~~~taken, addr := next, reconv := join, side := false } :: t.serial ∧
        (∃ f, t'.frag? iss.entry = some f ∧ f.pc = target ∧ f.mask = taken ∧ f.join = iss.frag.join ∧ f.st = .serial ∧ f.clause = none ∧ f.sig = 0) ∧
        (∀ k, k ≠ iss.entry → t'.frag? k = t.frag? k) ∧ t'.joins = t.joins))

/-- R32, R35, R141, R144: FUSE, YIELD, NOP, EXIT, STOP and a signature that matches. -/
def Obligations.FragmentControlResults : Prop := ∀ (b : Src) s iss,
  (Issues s iss .nop → exec .nop s = .next (goesOn (hashed s iss .nop) iss .nop)) ∧
  (Issues s iss .yield → exec .yield s = .next (endsClause ((hashed s iss .yield).updFrag iss.tid iss.entry (fun f => { f with yielded := true })) iss .yield)) ∧
  (Issues s iss .fuse → topSerial iss.team iss.entry = none → NMap.look iss.team.joins iss.frag.join = none →
    exec .fuse s = .next (endsClause (hashed s iss .fuse) iss .fuse)) ∧
  (Issues s iss .fuse → topSerial iss.team iss.entry = none → ∀ j, NMap.look iss.team.joins iss.frag.join = some j →
    exec .fuse s = .next (moves ((hashed s iss .fuse).updTeam iss.tid (fun t => t.goto iss.entry j.addr)) iss .fuse)) ∧
  (Issues s iss .fuse → ∀ r, topSerial iss.team iss.entry = some r →
    exec .fuse s = .next (moves ((hashed s iss .fuse).updTeam iss.tid (fun t => t.goto iss.entry r.reconv)) iss .fuse)) ∧
  (Issues s iss .exit → iss.act = 0 → exec .exit s = .next (endsClause (hashed s iss .exit) iss .exit)) ∧
  (Issues s iss .exit → iss.act ≠ 0 → iss.frag.mask &&& ~~~iss.act ≠ 0 →
    exec .exit s = .next (endsClause ((hashed s iss .exit).updFrag iss.tid iss.entry (fun f => { f with mask := iss.frag.mask &&& ~~~iss.act })) iss .exit)) ∧
  (Issues s iss .exit → iss.act ≠ 0 → iss.frag.mask &&& ~~~iss.act = 0 → iss.team.frags = [(iss.entry, iss.frag)] → iss.team.serial = [] →
    iss.team.status = .running → ∃ s' t', exec .exit s = .next (moves s' iss .exit) ∧ s'.team? iss.tid = some t' ∧ t'.status = .ended ∧ t'.frags = []) ∧
  (Issues s iss .stop → iss.act = 0 → exec .stop s = .next (endsClause (hashed s iss .stop) iss .stop)) ∧
  (Issues s iss .stop → iss.act ≠ 0 → iss.team.status = .running → ∃ s' t', exec .stop s = .next (moves s' iss .stop) ∧ s'.team? iss.tid = some t' ∧
    t'.status = .ended ∧ t'.frags = [] ∧ t'.joins = [] ∧ t'.serial = []) ∧
  (Issues s iss (.sigchk b) → iss.frag.sig.toNat = plainSrc iss b % 2 ^ 32 → exec (.sigchk b) s = .next (goesOn s iss (.sigchk b))) ∧
  (Issues s iss (.sigchk b) → iss.frag.sig.toNat ≠ plainSrc iss b % 2 ^ 32 → (∀ l, s.launch? iss.team.launch = some l → l.restart = 0 ∨ 2 ≤ iss.team.retries) →
    exec (.sigchk b) s = .next (takeFault s iss.tid iss.entry 8 0 0 0))

/-- R119, R171, R176: a load of the team's scratchpad puts the bytes there into its registers and changes nothing else. -/
def Obligations.LoadResults : Prop := ∀ (cls : LdClass) (d a : Reg) (b : Src),
  LoadsScratch (.ld8 cls d a b) (cls == .acq) 1 d a b ∧ LoadsScratch (.ld16 cls d a b) (cls == .acq) 2 d a b ∧
  LoadsScratch (.ld32 cls d a b) (cls == .acq) 4 d a b ∧ LoadsScratch (.ld64 cls d a b) (cls == .acq) 8 d a b ∧
  LoadsScratch (.ld128 cls d a b) (cls == .acq) 16 d a b

/-- R177: a store to the team's scratchpad puts the low bytes of its register there and changes no other byte. -/
def Obligations.StoreResults : Prop := ∀ (cls : StClass) (d a : Reg) (b : Src),
  StoresScratch (.st8 cls d a b) 1 d a b ∧ StoresScratch (.st16 cls d a b) 2 d a b ∧ StoresScratch (.st32 cls d a b) 4 d a b ∧
  StoresScratch (.st64 cls d a b) 8 d a b ∧ StoresScratch (.st128 cls d a b) 16 d a b

/-- R181, R182, R183, R184, R185: fetch-atomics and reductions on the team's scratchpad. -/
def Obligations.AtomicResults : Prop := ∀ (ord : AtOrder) (rel : Bool) (d a : Reg) (b : Src),
  let by' (op : Nat) (t : Ty) (o x _y : Nat) : Nat := ofElements t.ew ((List.range t.count).map (fun k => atomElem t op (element t o k) (element t x k)))
  AtomicScratch (.atadd ord d a b) 0 ord d a b (by' 0) ∧ AtomicScratch (.atmin ord d a b) 1 ord d a b (by' 1) ∧
  AtomicScratch (.atmax ord d a b) 2 ord d a b (by' 2) ∧ AtomicScratch (.atand ord d a b) 3 ord d a b (fun _ o x _ => o &&& x) ∧
  AtomicScratch (.ator ord d a b) 4 ord d a b (fun _ o x _ => o ||| x) ∧ AtomicScratch (.atxor ord d a b) 5 ord d a b (fun _ o x _ => o ^^^ x) ∧
  AtomicScratch (.atxch ord d a b) 6 ord d a b (fun _ _ x _ => x) ∧
  AtomicScratch (.atcas ord d a b) 7 ord d a b (fun _ o x y => if o = x then y else o) ∧
  AtomicScratch (.atinc ord d a b) 8 ord d a b (fun _ o x _ => if x ≤ o then 0 else o + 1) ∧
  ReducesScratch (.rdadd rel d a b) 0 d a b (fun t o x => by' 0 t o x 0) ∧ ReducesScratch (.rdmin rel d a b) 1 d a b (fun t o x => by' 1 t o x 0) ∧
  ReducesScratch (.rdmax rel d a b) 2 d a b (fun t o x => by' 2 t o x 0) ∧ ReducesScratch (.rdand rel d a b) 3 d a b (fun _ o x => o &&& x) ∧
  ReducesScratch (.rdor rel d a b) 4 d a b (fun _ o x => o ||| x) ∧ ReducesScratch (.rdxor rel d a b) 5 d a b (fun _ o x => o ^^^ x)

/-- R66, R67, R119, R170, R172, R180, R182: what the check of a memory access finds; a prefetch changes no register. -/
def Obligations.AccessChecks : Prop := ∀ (lc : LdClass) (sc : StClass) (ord : AtOrder) (rel : Bool) (k : PfKind) (d a : Reg) (b : Src),
  let all (_ : Issue) : Prop := True
  let one (_ : Issue) : Nat := 1
  let lds (iss : Issue) : List Nat := match d with
    | .s _ => iss.low.toList
    | .v _ => lanesOf iss.act iss.team.n
    | .q _ => []
  let sts (iss : Issue) : List Nat := lanesOf iss.val iss.team.n
  let ats (iss : Issue) : List Nat := match d with
    | .s _ => iss.low.toList
    | .v _ => lanesOf iss.val iss.team.n
    | .q _ => []
  let ty (op : Nat) (iss : Issue) : Prop := atomTypes iss.ty op = true
  let al (iss : Issue) : Nat := iss.ty.width / 8
  (ChecksLanes (.ld8 lc d a b) all one lds a b ∧ ChecksLanes (.ld16 lc d a b) all one lds a b ∧ ChecksLanes (.ld32 lc d a b) all one lds a b ∧
    ChecksLanes (.ld64 lc d a b) all one lds a b ∧ ChecksLanes (.ld128 lc d a b) all one lds a b) ∧
  (ChecksLanes (.st8 sc d a b) all one sts a b ∧ ChecksLanes (.st16 sc d a b) all one sts a b ∧ ChecksLanes (.st32 sc d a b) all one sts a b ∧
    ChecksLanes (.st64 sc d a b) all one sts a b ∧ ChecksLanes (.st128 sc d a b) all one sts a b) ∧
  (ChecksLanes (.atadd ord d a b) (ty 0) al ats a b ∧ ChecksLanes (.atmin ord d a b) (ty 1) al ats a b ∧ ChecksLanes (.atmax ord d a b) (ty 2) al ats a b ∧
    ChecksLanes (.atand ord d a b) (ty 3) al ats a b ∧ ChecksLanes (.ator ord d a b) (ty 4) al ats a b ∧ ChecksLanes (.atxor ord d a b) (ty 5) al ats a b ∧
    ChecksLanes (.atxch ord d a b) (ty 6) al ats a b ∧ ChecksLanes (.atcas ord d a b) (ty 7) al ats a b ∧ ChecksLanes (.atinc ord d a b) (ty 8) al ats a b) ∧
  (ChecksLanes (.rdadd rel d a b) (ty 0) al sts a b ∧ ChecksLanes (.rdmin rel d a b) (ty 1) al sts a b ∧ ChecksLanes (.rdmax rel d a b) (ty 2) al sts a b ∧
    ChecksLanes (.rdand rel d a b) (ty 3) al sts a b ∧ ChecksLanes (.rdor rel d a b) (ty 4) al sts a b ∧ ChecksLanes (.rdxor rel d a b) (ty 5) al sts a b) ∧
  ∀ s iss, Issues s iss (.pf k a b) →
    (iss.team.ovflow ≠ [] → Waits (.pf k a b) s iss .pending (hashed s iss (.pf k a b))) ∧ (iss.team.ovflow = [] →
    ((∃ s', Completes (.pf k a b) s iss s' ∧ s'.teams = (hashed s iss (.pf k a b)).teams ∧ s'.reqs = s.reqs ∧ s'.groups = s.groups) ∨
      ∃ c lane va, (c = 4 ∨ c = 12 ∨ c = 13) ∧ Traps (.pf k a b) s iss c lane va) ∧
    ((∀ l ∈ lanesOf iss.val iss.team.n, addrTag iss a b l = false → winBase 0 ≤ effAddr iss a b l ∧ effAddr iss a b l < 2 ^ 57) →
      Completes (.pf k a b) s iss (hashed s iss (.pf k a b))))

/-- R186, R187, R188, R190: LOCK, TRYLK, UNLOCK and LKQRY. -/
def Obligations.LockResults : Prop := ∀ (d a : Reg) (b : Src),
  (NeedsLane (.lock d a b) ∧ NeedsLane (.trylk d a) ∧ NeedsLane (.unlock d a) ∧ NeedsLane (.lkqry d a)) ∧
  ∀ s iss l pa,
    let takes (i : Instr) (tryOnly : Bool) : Prop := Issues s iss i → LocksAt s iss i a l .both pa → iss.team.id = iss.tid →
      (∀ v, iss.frag.latch = .done v → ∃ s1 s2, Status (hashed s iss i) iss d v s1 ∧ Completes i s iss s2 ∧
        s2 = (s1.updTeam iss.tid (fun t => { t with lockOut := false, acq := if v = 0 then s.mem.seq else t.acq }))) ∧
      (iss.frag.latch = .none → s.lockHeldBack iss = false → (∀ r ∈ s.reqs, r.team ≠ iss.tid) →
        (∀ k, s.lockAt pa = some k → k.holder = iss.tid → k.absent = false → ∃ s1 s2, Status { hashed s iss i with nextId := s.nextId + 1 } iss d 2 s1 ∧
          s2 = s1.updTeam iss.tid (fun t => { t with lockOut := false }) ∧ Completes i s iss s2) ∧
        (∀ k, s.lockAt pa = some k → k.holder ≠ iss.tid → 8 ≤ (s.locksOf iss.tid).length → ∃ s1 s2,
          Status { hashed s iss i with nextId := s.nextId + 1 } iss d 4 s1 ∧ s2 = s1.updTeam iss.tid (fun t => { t with lockOut := false }) ∧ Completes i s iss s2) ∧
        (∀ k, s.lockAt pa = some k → k.holder ≠ iss.tid → (s.locksOf iss.tid).length < 8 → tryOnly = true → ∃ s1 s2,
          Status { hashed s iss i with nextId := s.nextId + 1 } iss d 5 s1 ∧ s2 = s1.updTeam iss.tid (fun t => { t with lockOut := false }) ∧ Completes i s iss s2) ∧
        (∀ k, s.lockAt pa = some k → k.holder ≠ iss.tid → (s.locksOf iss.tid).length < 8 → tryOnly = false → (s.coreSt iss.team.core).waiters.length < 32 →
          ∃ s1, Waits i s iss (.waiting 1) s1 ∧ (∃ t, s1.team? iss.tid = some t ∧ t.lockOut = true) ∧
            (s1.coreSt iss.team.core).waiters = (s.coreSt iss.team.core).waiters ++ [iss.tid] ∧
            (s1.lockAt pa).map (fun k => k.queue) = some (k.queue ++ [(iss.tid, s.clk)]) ∧ s1.mem.hbm = s.mem.hbm) ∧
        (s.lockAt pa = none → (s.locksOf iss.tid).length < 8 → s.ownerAt pa = none → s.mem.updates = [] → s.mem.parts = [] → s.mem.pend = [] → s.mem.peerPend = [] →
          ∃ s2 k, Completes i s iss s2 ∧ s2.lockAt pa = some k ∧ k.holder = iss.tid ∧ k.absent = false ∧ k.queue = [] ∧ k.handoffs = 0 ∧ k.check = k.copy ∧
            (∀ c, c < 256 → k.copy.bytes.read (k.line + c) = s.mem.hbm.bytes.read (k.line + c)) ∧ s2.mem.hbm = s.mem.hbm ∧ ∃ t, s2.team? iss.tid = some t ∧ t.acq = s.mem.seq))
    takes (.lock d a b) false ∧ takes (.trylk d a) true ∧
    (Issues s iss (.unlock d a) → LocksAt s iss (.unlock d a) a l .both pa → s.touchWaits iss.team (teamReg iss true l a) = false →
      (∀ r ∈ s.reqs, r.team = iss.tid → r.writes = false) → iss.team.id = iss.tid →
      (s.lockAt pa = none → GivesStatus (.unlock d a) s (hashed s iss (.unlock d a)) iss d 3) ∧
      (∀ k, s.lockAt pa = some k → k.holder ≠ iss.tid → GivesStatus (.unlock d a) s (hashed s iss (.unlock d a)) iss d 3) ∧
      (∀ k, s.lockAt pa = some k → k.holder = iss.tid → k.absent = false → k.queue = [] → ∃ s1, GivesStatus (.unlock d a) s s1 iss d 0 ∧ s1.lockAt pa = none ∧
        (∀ c, c < 256 → s1.mem.hbm.bytes.read (k.line + c) = k.copy.bytes.read (k.line + c)) ∧
        ∃ t, s1.team? iss.tid = some t ∧ t.irrev = min 65535 (iss.team.irrev + 1))) ∧
    (Issues s iss (.lkqry d a) → LocksAt s iss (.lkqry d a) a l .read pa → s.touchWaits iss.team (teamReg iss true l a) = false →
      (s.lockAt pa = none → GivesWide (.lkqry d a) s (hashed s iss (.lkqry d a)) iss d 0) ∧
      ∀ k h, s.lockAt pa = some k → s.team? k.holder = some h → k.holder ≠ iss.tid → h.core < 256 → h.slot < 16 → k.handoffs < 2 ^ 32 → k.queue.length < 2 ^ 14 →
        GivesWide (.lkqry d a) s (hashed s iss (.lkqry d a)) iss d
          (2 ^ 63 + k.queue.length * 2 ^ 48 + h.core * 2 ^ 40 + h.slot * 2 ^ 36 + k.handoffs))

/-- R194, R195, R196, R197: PHHDR, PHEND, PHWAIT and PHRD: where each completes, on conditions on the state and the operands alone, and what it
does. -/
def Obligations.PhaseResults : Prop := ∀ (b : Src) (d a : Reg) (pb : Fin 8) (fld : PhField),
  (NeedsLane (.phhdr true b) ∧ NeedsLane (.phhdr false b) ∧ NeedsLane (.phwait d a pb)) ∧
  (∀ s iss cur, Issues s iss (.phhdr cur b) → cur = false ∨ iss.team.phaseDone = false → ∃ s', exec (.phhdr cur b) s = .next (goesOn s' iss (.phhdr cur b))) ∧
  (∀ s iss, Issues s iss .phend → iss.team.phaseDone = false → s.reqs.any (fun r => r.team == iss.tid && r.pendingWrite) = false →
    ∃ s', exec .phend s = .next (goesOn s' iss .phend)) ∧
  (∀ s iss, Issues s iss (.phwait d a pb) → portsReady s iss.team (some d) none none → (∃ v, iss.frag.latch = .done v) ∨
      ((∀ k, iss.frag.latch ≠ .waiting k) ∧ ∃ l, iss.low = some l ∧
        let delta := (BitVec.ofNat 16 (s.phaseOf iss.team) - BitVec.ofNat 16 (teamReg iss false l a)).toNat
        1 ≤ delta ∧ delta < 2 ^ 15 ∧ (delta = 1 → s.unreleased iss.team.launch = false)) →
    ∃ s', exec (.phwait d a pb) s = .next (goesOn s' iss (.phwait d a pb))) ∧
  (∀ s iss, Issues s iss (.phrd fld d) → iss.act = 0 ∨ portsReady s iss.team (some d) none none →
    ∃ s', exec (.phrd fld d) s = .next (goesOn s' iss (.phrd fld d))) ∧
  ∀ s iss l q, s.launch? iss.team.launch = some q →
    let core := iss.team.core
    let h := q.head core
    let x (l : Nat) : Int := match b with
      | .reg (.s n) => (iss.team.s n.val).toInt
      | .reg (.v n) => (iss.team.v n.val l).toInt
      | .reg (.q _) => 0
      | .lit w => w.toInt
    let wrap (y : Int) : Int := (BitVec.ofInt 64 y).toInt
    let heads (s2 : State) (h' : CorePhase) : Prop := ∃ q', s2.launch? iss.team.launch = some q' ∧ q'.head core = h' ∧ ∀ c, c ≠ core → q'.head c = q.head c
    (Issues s iss (.phhdr false b) → iss.low = some l → ∃ s2, Completes (.phhdr false b) s iss s2 ∧
      heads s2 { h with hdr := { h.hdr with nextexp := wrap (h.hdr.nextexp + x l) } }) ∧
    (Issues s iss (.phhdr true b) → iss.low = some l → iss.team.phaseDone = true → Waits (.phhdr true b) s iss .none (hashed s iss (.phhdr true b))) ∧
    (Issues s iss (.phhdr true b) → iss.low = some l → iss.team.phaseDone = false → ∃ s2, Completes (.phhdr true b) s iss s2 ∧
      heads s2 { h with hdr := { h.hdr with expect := wrap (h.hdr.expect + x l) } }) ∧
    (Issues s iss .phend → iss.team.phaseDone = true → Waits .phend s iss .none (hashed s iss .phend)) ∧
    (Issues s iss .phend → iss.team.phaseDone = false → (∀ r ∈ s.reqs, r.team ≠ iss.tid) → ∃ s2 t', Completes .phend s iss s2 ∧ s2.team? iss.tid = some t' ∧
      t'.phaseDone = true ∧ t'.lastPhase = h.hdr.phase ∧ t'.rpc = nextClause iss ∧
      (∀ k, t'.restartMask.getLsbD k = iss.team.frags.any (fun e => e.2.mask.getLsbD k)) ∧ t'.phMark = s.nextId ∧ t'.retries = 0 ∧
      { t' with phaseDone := false, lastPhase := 0, rpc := 0, restartMask := 0, phMark := 0, retries := 0, frags := [] } =
        { iss.team with phaseDone := false, lastPhase := 0, rpc := 0, restartMask := 0, phMark := 0, retries := 0, frags := [] }) ∧
    (Issues s iss (.phwait d a pb) → iss.low = some l → portsReady s iss.team (some d) none none → (∀ k, iss.frag.latch ≠ .waiting k) →
      (∀ v, iss.frag.latch ≠ .done v) →
      let delta := (BitVec.ofNat 16 h.hdr.phase - BitVec.ofNat 16 (teamReg iss false l a)).toNat
      (delta = 0 ∨ delta = 1 ∧ s.unreleased iss.team.launch = true →
        Waits (.phwait d a pb) s iss (.waiting (65536 + teamReg iss false l a % 65536)) (hashed s iss (.phwait d a pb))) ∧
      (1 ≤ delta → delta < 2 ^ 15 → (delta = 1 → s.unreleased iss.team.launch = false) → ∃ s1 s2, Wide (hashed s iss (.phwait d a pb)) iss d delta s1 ∧ Completes (.phwait d a pb) s iss s2 ∧
        ∃ t1 t2, s1.team? iss.tid = some t1 ∧ s2 = s1.updTeam iss.tid (fun _ => t2) ∧ t2.acq = s.mem.seq ∧
          (∀ k m, m < 1024 → t2.p k m = if k = pb.val ∧ iss.act.getLsbD m = true then decide (2 ≤ delta) else t1.p k m) ∧
          { t2 with pred := [], acq := 0 } = { t1 with pred := [], acq := 0 }) ∧
      (2 ^ 15 ≤ delta → Traps (.phwait d a pb) s iss 16 0 0)) ∧
    (∀ v, Issues s iss (.phwait d a pb) → iss.low = some l → portsReady s iss.team (some d) none none → iss.frag.latch = .done v → v < 2 →
      ∃ s1 s2, Wide (hashed s iss (.phwait d a pb)) iss d v s1 ∧ Completes (.phwait d a pb) s iss s2 ∧ ∃ t2, s2 = s1.updTeam iss.tid (fun _ => t2) ∧
        t2.acq = s.mem.seq ∧ ∀ m, m < 1024 → iss.act.getLsbD m = true → t2.p pb.val m = false) ∧
    (Issues s iss (.phrd fld d) → iss.act ≠ 0 → portsReady s iss.team (some d) none none →
      GivesWide (.phrd fld d) s (hashed s iss (.phrd fld d)) iss d (match fld with
        | .phase => h.hdr.phase
        | .exp => (BitVec.ofInt 64 h.hdr.expect).toNat
        | .next => (BitVec.ofInt 64 h.hdr.nextexp).toNat
        | .flags => h.hdr.overrun.toNat + 2 * h.hdr.late.toNat))

/-- R200, R201, R202, R263, R265, R267: FENCE, BAR, GBAR and WAITP. That an acquire orders all that the group has published before it is the model's
choice (log 51). -/
def Obligations.FenceAndBarrierResults : Prop := ∀ (k : FenceKind) (sc : Scope) (path : Fin 7) (b : Src) s iss,
  (Issues s iss (.fence k sc) → s.fenceWaits iss.team k sc = true → Waits (.fence k sc) s iss .none (hashed s iss (.fence k sc))) ∧
  (Issues s iss (.fence k sc) → s.fenceWaits iss.team k sc = false →
    let acquired := if k = .st then hashed s iss (.fence k sc) else (hashed s iss (.fence k sc)).updTeam iss.team.id (fun t => { t with acq := s.mem.seq })
    let near := sc = .team ∨ sc = .group ∨ sc = .gang
    -- a fence over loads alone, or of the team, orders what comes after it behind what it has read
    (sc = .team ∨ k = .ld ∧ near → Completes (.fence k sc) s iss acquired) ∧
    -- one that covers stores publishes them to the group
    (sc = .group ∨ sc = .gang → k ≠ .ld → Completes (.fence k sc) s iss { acquired with mem := { s.mem with
      seq := s.mem.seq + 1
      pend := s.mem.pend.map (fun p => if p.team = iss.team.id then { p with bytes := p.bytes.map (fun e => (e.1, e.2.publish (s.mem.seq + 1))) } else p) } }) ∧
    -- one of scope die or wider, of whatever kind, merges the team's versions: only what another team overwrote in the L1 is still in them
    (¬near → ∃ s2, Completes (.fence k sc) s iss s2 ∧ s2.mem.seq = s.mem.seq + (if k = .ld then 0 else 1) ∧
      ∀ p ∈ s2.mem.pend, p.team = iss.team.id → ∀ a b, NMap.look p.bytes a = some b → b.lost = true)) ∧
  (∀ i key, (i = .bar ∧ key = 3) ∨ (i = .gbar ∧ key = 4) → Issues s iss i →
    let others (t : Team) : Prop := t.launch = iss.team.launch ∧ (i = .bar → t.group = iss.team.group) ∧
      (∀ q, s.launch? iss.team.launch = some q → i = .gbar → t.group / q.gang = iss.team.group / q.gang)
    (∀ v, iss.frag.latch = .done v → Completes i s iss (hashed s iss i)) ∧
    ((∀ v, iss.frag.latch ≠ .done v) → s.fenceWaits iss.team .all (if i = .bar then .group else .gang) = true → Waits i s iss .none (hashed s iss i)) ∧
    ((∀ v, iss.frag.latch ≠ .done v) → s.fenceWaits iss.team .all (if i = .bar then .group else .gang) = false → s.launch? iss.team.launch ≠ none →
      -- some team that has not ended has not arrived: the fragment parks
      (∀ u t, s.team? u = some t → u ≠ iss.tid → others t → t.status ≠ .ended → (∃ e f, t.frag? e = some f ∧ f.latch ≠ .waiting key) →
        Waits i s iss (.waiting key) ((hashed s iss i).updFrag iss.tid iss.entry (fun f => { f with latch := .waiting key }))) ∧
      -- it is the last to arrive: all go on
      (iss.team.status ≠ .ended → iss.team.frags = [(iss.entry, iss.frag)] →
        (∀ u t, (u, t) ∈ s.teams → u ≠ iss.tid → others t → t.status = .ended ∨ (t.frags ≠ [] ∧ ∀ e ∈ t.frags, e.2.latch = .waiting key)) →
        (∀ u t, (u, t) ∈ s.teams → u = iss.tid → t = iss.team) →
        ∃ s2, Completes i s iss s2 ∧ s2.mem.seq = s.mem.seq + 1 ∧ s2.mem.hbm = s.mem.hbm ∧
          ∀ u t, s2.team? u = some t → others t → t.status ≠ .ended → t.acq = s.mem.seq + 1 ∧ ∀ e ∈ t.frags, e.2.latch = .done 0))) ∧
  (Issues s iss (.waitp path b) → (iss.low = none → Completes (.waitp path b) s iss (hashed s iss (.waitp path b))) ∧
    ∀ l t, iss.low = some l → (s.retire iss.tid).team? iss.tid = some t →
      ((t.path path.val).length ≤ (match b with | .lit w => w.toNat | .reg r => teamReg iss false l r) →
        Completes (.waitp path b) s iss ((hashed s iss (.waitp path b)).retire iss.tid)) ∧
      ((match b with | .lit w => w.toNat | .reg r => teamReg iss false l r) < (t.path path.val).length →
        Waits (.waitp path b) s iss .none ((hashed s iss (.waitp path b)).retire iss.tid)))

/-- R203, R204: WAITCT, CTSET, CTADD and CTRD. -/
def Obligations.CounterResults : Prop := ∀ (rel : Bool) (d a : Reg) (b : Src),
  (NeedsLane (.waitct a b) ∧ NeedsLane (.ctset rel a b) ∧ NeedsLane (.ctadd rel d a b) ∧ NeedsLane (.ctrd d a)) ∧
  (ChecksCounter (.waitct a b) a ∧ ChecksCounter (.ctset rel a b) a ∧ ChecksCounter (.ctadd rel d a b) a ∧ ChecksCounter (.ctrd d a) a) ∧
  ∀ s iss l die n, AtCounter s iss l a die n →
    let o := counterAddr die n
    let x : BitVec 64 := BitVec.ofInt 64 (signedWord iss l b)
    let acquired (t : State) : State := t.updTeam iss.tid (fun t => { t with acq := s.mem.seq })
    let plain (t : Team) : Team := { t with paths := [], early := false, irrev := 0 }
    (Issues s iss (.waitct a b) → (∃ v, iss.frag.latch = .done v) ∨ (iss.frag.latch = .none ∧ iss.team.waitsBehind s = false ∧ teamSrc iss false l b ≤ s.counter o) →
      Completes (.waitct a b) s iss (acquired (hashed s iss (.waitct a b)))) ∧
    (Issues s iss (.waitct a b) → iss.frag.latch = .none → iss.team.waitsBehind s = false → s.counter o < teamSrc iss false l b →
      Waits (.waitct a b) s iss (.counter o (teamSrc iss false l b)) (hashed s iss (.waitct a b))) ∧
    (Quiet s iss → Issues s iss (.ctset rel a b) → ∃ s2 t', Completes (.ctset rel a b) s iss s2 ∧ CounterBecomes s s2 o x.toNat ∧
      s2.team? iss.tid = some t' ∧ t'.irrev = min 65535 (iss.team.irrev + 1) ∧ { plain t' with frags := [] } = { plain iss.team with frags := [] }) ∧
    (Quiet s iss → s.mem.ctr.tagged o 8 = false → Issues s iss (.ctadd rel d a b) → ∃ s1 s2 s3 t0 t1 t2 t3,
      (hashed s iss (.ctadd rel d a b)).team? iss.tid = some t0 ∧ s1.team? iss.tid = some t1 ∧ plain t1 = plain t0 ∧ t1.irrev = min 65535 (iss.team.irrev + 1) ∧
      Wide s1 iss d (s.counter o) s2 ∧ s2.team? iss.tid = some t2 ∧ s3.team? iss.tid = some t3 ∧ { t3 with frags := [] } = { t2 with frags := [] } ∧
      CounterBecomes s s3 o (s.mem.ctr.dword o + x).toNat ∧ Completes (.ctadd rel d a b) s iss s3) ∧
    (Quiet s iss → s.mem.ctr.tagged o 8 = false → Issues s iss (.ctrd d a) → ∃ s1 s2 t0 t1,
      (hashed s iss (.ctrd d a)).team? iss.tid = some t0 ∧ s1.team? iss.tid = some t1 ∧ plain t1 = plain t0 ∧
      { s1 with teams := [], nextId := 0 } = { s with teams := [], nextId := 0 } ∧
      Wide s1 iss d (s.counter o) s2 ∧ Completes (.ctrd d a) s iss (acquired s2))

/-- R132, R136, R208, R338: what every matrix and converter instruction checks first. -/
def Obligations.MatrixGates : Prop := ∀ (fb sq : Bool) (d a r : Reg) (b : Src),
  let any' (_ : Ty) : Bool := true
  let wide (t : Ty) : Bool := t == .f32 || t == .b32
  MatrixGate (.bld fb sq d a r) any' ∧ MatrixGate (.mma fb sq d a r) any' ∧ MatrixGate (.mmas fb sq d a r) any' ∧ MatrixGate (.accz fb sq d) any' ∧
  MatrixGate (.accld fb sq d a b) accTypes ∧ MatrixGate (.accst fb sq d a b) accTypes ∧ MatrixGate (.accwr d a) wide ∧
  (∀ s iss, Issues s iss (.accrd d a) → iss.act = 0 → Completes (.accrd d a) s iss (hashed s iss (.accrd d a))) ∧ MatrixChecks (.accrd d a) wide (fun iss => iss.act ≠ 0) ∧
  MatrixGate (.spmld fb sq d a b) any' ∧ MatrixGate (.qnt fb sq d a b) cvTypes ∧ MatrixGate (.dqnt fb sq d a b) cvTypes

/-- R206, R216, R220, R221: BLD, MMA and MMAS submit their operations, with the buffers and the tile that the selector names; what they reject. -/
def Obligations.MultiplyIssueResults : Prop := ∀ (fb sq : Bool) (d a b : Reg) s iss l, MatrixReady s iss l → anyTag iss l [a, b] = false →
  let p := s.pairSt (pairOf iss)
  let sel := teamReg iss false l d
  let rec' := teamReg iss true l a
  let x' := teamReg iss true l b
  let n := sel % 8
  let reads (i : Instr) (x : Inflection) (bytes : List Byte) : Prop := readRecord (hashed s iss i) iss rec' = .ok x bytes
  let used (x : Inflection) : List Nat := if x.double then [n, n + 1] else [n]
  let bld := Instr.bld fb sq d a b
  (Issues s iss bld → (selOk sel = false → Traps bld s iss 20 0 sel) ∧
    (selOk sel = true → p.heldByOther iss.gkey [2 + n] = true → Waits bld s iss .none (hashed s iss bld)) ∧
    ∀ x bytes, selOk sel = true → p.heldByOther iss.gkey [2 + n] = false → reads bld x bytes →
      (x.double = true → n % 2 = 1 → Traps bld s iss 20 0 sel) ∧
      (¬(x.double = true ∧ n % 2 = 1) → x' % 256 ≠ 0 → Traps bld s iss 15 0 x') ∧
      (¬(x.double = true ∧ n % 2 = 1) → x' % 256 = 0 → (x.cb.scen = true → x.bscale % 64 = 0) →
        Submits bld s iss fb sq ((used x).map (fun i => 2 + i))
          [{ va := x', n := 256 * x.cb.rowBytes x.k', need := .read }, { va := x.bscale, n := 256 * x.cb.scaleBytes x.k', need := .read }] []
          (fun o ss => o.op = 0x88 ∧ o.d = BitVec.ofNat 64 sel ∧ o.recd = bytes ∧ o.srcs = ss ∧ o.rd = [] ∧ o.wr = (used x).map (fun i => 2 + i)))) ∧
  ∀ (sparse : Bool), let mma := if sparse then Instr.mmas fb sq d a b else Instr.mma fb sq d a b
    Issues s iss mma → (selOk sel = false → Traps mma s iss 20 0 sel) ∧
    ∀ x bytes, selOk sel = true → p.heldByOther iss.gkey [2 + n, sel / 16 % 2] = false → reads mma x bytes →
      let legal : Bool := if sparse then (x.ca.sparse != 0) != (x.cb.sparse != 0) else x.ca.sparse == 0 && x.cb.sparse == 0
      let loaded (i : Nat) : Prop := p.owner (2 + i) = some iss.gkey ∧ (p.buf i).valid = true ∧ (p.buf i).bctl = x.bctl ∧ (p.buf i).double = x.double
      let side : List Nat := match x.spCtl with
        | some c => if c.sparse = 1 then [10] else [11]
        | none => []
      (legal = false → Traps mma s iss 20 0 rec') ∧
      (legal = true → (∃ i ∈ used x, ¬loaded i) → Traps mma s iss 20 0 sel) ∧
      (legal = true → ¬(x.double = true ∧ n % 2 = 1) → (∀ i ∈ used x, loaded i) → x' % 256 = 0 → ∀ ga,
        scratchSeg (hashed s iss mma) iss.team x' (256 * x.ca.rowBytes x.k') = .ok ga → s.unsettled iss.team x' (256 * x.ca.rowBytes x.k') = false →
        x.ca.scen = false → x' < 2 ^ 57 →
        Submits mma s iss fb sq ((used x).map (fun i => 2 + i) ++ side ++ [sel / 16 % 2]) [] [] (fun o ss =>
          o.op = (if sparse then 0x8A else 0x89) ∧ o.d = BitVec.ofNat 64 sel ∧ o.recd = bytes ∧ o.srcs = [ga] ++ ss ∧
          o.rd = (used x).map (fun i => 2 + i) ++ side ∧ o.wr = [sel / 16 % 2]))

/-- R222, R224, R225, R226: ACCZ, ACCLD, ACCST, SPMLD, QNT and DQNT submit their operations, over the rows of memory that their operands name;
what they reject. -/
def Obligations.TransferIssueResults : Prop := ∀ (fb sq : Bool) (d a : Reg) (b : Src) s iss l, MatrixReady s iss l →
  let sel := teamReg iss false l d
  let tile := sel / 16 % 2
  let va := teamReg iss true l a
  let y := teamSrc iss false l b
  let n := 256 * (iss.ty.ew / 8)
  let rows (base pitch m size : Nat) (need : Need) : List Range := (List.range m).map (fun i => { va := base + i * pitch, n := size, need := need })
  (Issues s iss (.accz fb sq d) → (selOk sel = false → Traps (.accz fb sq d) s iss 20 0 sel) ∧
    (selOk sel = true → Submits (.accz fb sq d) s iss fb sq [tile] [] [] (fun o _ => o.op = 0x8B ∧ o.d = BitVec.ofNat 64 sel ∧ o.wr = [tile] ∧ o.rd = []))) ∧
  (anyTag iss l [a] = false →
    (∀ (load : Bool), let i := if load then Instr.accld fb sq d a b else Instr.accst fb sq d a b
      accTypes iss.ty = true → Issues s iss i →
        (selOk sel = false → Traps i s iss 20 0 sel) ∧
        (selOk sel = true → y % 256 ≠ 0 ∨ y < n → Traps i s iss 20 0 y) ∧
        (selOk sel = true → y % 256 = 0 → n ≤ y → 2 ^ 57 ≤ va → Traps i s iss 4 0 va) ∧
        (selOk sel = true → y % 256 = 0 → n ≤ y → va < 2 ^ 57 → va % 256 ≠ 0 → Traps i s iss 15 0 va) ∧
        (selOk sel = true → y % 256 = 0 → n ≤ y → va < 2 ^ 57 → va % 256 = 0 →
          Submits i s iss fb sq [tile] (if load then rows va y 256 n .read else []) (if load then [] else rows va y 256 n .write) (fun o ss =>
            o.op = (if load then 0x8C else 0x8D) ∧ o.d = BitVec.ofNat 64 sel ∧ o.srcs = ss ∧ o.rd = (if load then [] else [tile]) ∧ o.wr = (if load then [tile] else [])))) ∧
    (Issues s iss (.spmld fb sq d a b) →
      (sel % 64 ≠ 0 ∨ y % 64 ≠ 0 ∨ 16384 < sel + y → Traps (.spmld fb sq d a b) s iss 20 0 sel) ∧
      (sel % 64 = 0 → y % 64 = 0 → sel + y ≤ 16384 → Submits (.spmld fb sq d a b) s iss fb sq [10] [{ va := va, n := y, need := .read }] []
        (fun o ss => o.op = 0x90 ∧ o.d = BitVec.ofNat 64 sel ∧ o.srcs = ss ∧ o.wr = [10] ∧ o.rd = []))) ∧
    ∀ (k : Fin 24) (quant : Bool), let i := if quant then Instr.qnt fb sq (.s k) a b else Instr.dqnt fb sq (.s k) a b
      cvTypes iss.ty = true → NSet.has iss.team.stag k.val = false → NSet.has iss.team.stag (k.val + 1) = false → Issues s iss i →
        let ctl := y % 2 ^ 32
        let pitch := ctl / 2 ^ 12 * 16
        let m := ctl / 16 % 256 + 1
        let nsc := 256 / (if ctl / 8 % 2 = 1 then 16 else 32)
        let s0 := (iss.team.s k.val).toNat
        let s1 := (iss.team.s (k.val + 1)).toNat
        let bad : Prop := if quant then ctl / 4 % 2 = 1 ∧ ctl % 4 ≠ 0 else ctl % 8 ≠ 0
        let halves (e sc : Nat) (need : Need) : List Range := (List.range m).flatMap (fun i => [{ va := e + 128 * i, n := 128, need := need }, { va := sc + nsc * i, n := nsc, need := need }])
        (bad ∨ pitch < n → Traps i s iss 20 0 ctl) ∧
        (¬bad → n ≤ pitch → Submits i s iss fb sq [] (if quant then rows va pitch m n .read else halves va s1 .read)
          (if quant then halves s0 s1 .write else rows s0 pitch m n .write) (fun o ss =>
            o.op = (if quant then 0x91 else 0x92) ∧ o.b = BitVec.ofNat 64 ctl ∧ o.srcs = ss ∧ o.wr = [12] ∧ o.rd = []
            ∧ o.gens = if iss.mode = .rst then (List.range iss.team.n).map (fun i => (i, iss.team.g i)) else [])))

/-- R223, R227: elements of the accumulator read and written by lanes; the pair's state word. -/
def Obligations.AccumulatorElementResults : Prop := ∀ (d a : Reg) s iss, MatrixUsable s iss → iss.ty = .f32 ∨ iss.ty = .b32 →
  let p := s.pairSt (pairOf iss)
  let pos (m : Nat) : Nat := teamReg iss false m a % 2 ^ 32
  let free (lanes : List Nat) (write : Bool) : Prop := (∀ m ∈ lanes, teamTag iss false m a = false ∧ pos m < 2 ^ 17) ∧
    (∀ o ∈ p.ops, ∀ m ∈ lanes, pos m / 65536 ∉ o.wr ∧ (write = true → pos m / 65536 ∉ o.rd)) ∧
    ∀ m ∈ lanes, ∀ g, p.owner (pos m / 65536) = some g → g = iss.gkey
  let taken (lanes : List Nat) (s1 : State) : Prop := (∀ m ∈ lanes, (s1.pairSt (pairOf iss)).owner (pos m / 65536) = some iss.gkey)
  (∀ lanes, lanes = lanesOf iss.act iss.team.n → Issues s iss (.accrd d a) → d.isV = true → free lanes false →
    (∀ m ∈ lanes, NSet.has p.tileTag (pos m) = false) → ∃ s1 s2, taken lanes s1 ∧ { s1 with pairs := [] } = { hashed s iss (.accrd d a) with pairs := [] } ∧
      (s1.pairSt (pairOf iss)).tile = p.tile ∧
      Writes s1 iss 32 id d (inLanes lanes (fun m => some (NMap.getD p.tile (pos m) 0).toNat)) (fun _ => false) s2 ∧ Completes (.accrd d a) s iss s2) ∧
  (∀ lanes, lanes = lanesOf iss.val iss.team.n → Issues s iss (.accwr d a) → d.isV = true → free lanes true →
    (∀ m ∈ lanes, teamTag iss false m d = false) → ∃ s1, taken lanes s1 ∧ { s1 with pairs := [] } = { hashed s iss (.accwr d a) with pairs := [] } ∧
      (∀ k, NMap.getD (s1.pairSt (pairOf iss)).tile k 0 = match (lanes.filter (fun m => pos m == k)).getLast? with
        | some m => BitVec.ofNat 32 (teamReg iss false m d)
        | none => NMap.getD p.tile k 0) ∧
      Completes (.accwr d a) s iss s1) ∧
  (∀ lanes i, (i = .accrd d a ∧ lanes = lanesOf iss.act iss.team.n) ∨ (i = .accwr d a ∧ lanes = lanesOf iss.val iss.team.n) → Issues s iss i →
    ∀ m, lanes = [m] → teamTag iss false m a = false → 2 ^ 17 ≤ pos m → Traps i s iss 20 m (pos m)) ∧
  (NeedsLane (.mxqry d) ∧ (Issues s iss (.mxqry d) →
    let busy (lane : Nat) : Nat := if p.ops.any (fun o => o.started && o.laneNo == lane) then 1 else 0
    let mine (tile : Nat) : Nat := if p.owner tile = some iss.gkey then 1 else 0
    GivesWide (.mxqry d) s (hashed s iss (.mxqry d)) iss d (busy 0 * 2 ^ 63 + busy 1 * 2 ^ 62
      + ((List.range 8).map (fun i => if (p.buf i).valid then 2 ^ i else 0)).sum * 2 ^ 48 + mine 1 * 2 ^ 47 + mine 0 * 2 ^ 46 + p.spq.length * 2 ^ 40
      + (p.ops.filter (fun o => !o.started)).length * 2 ^ 32 + p.mmaCount % 2 ^ 32)))

/-- R228, R229, R230, R231: HBIND, CPSL, HWAIT, HREL and HSTAT. -/
def Obligations.CopyResults : Prop := ∀ (fb sq : Bool) (d a : Reg) (b : Src),
  (NeedsLane (.hbind d a b) ∧ NeedsLane (.cpsl fb sq d a b) ∧ NeedsLane (.hwait d a) ∧ NeedsLane (.hrel d a) ∧ NeedsLane (.hstat d a)) ∧
  (∀ s iss l, iss.low = some l → 7 < teamReg iss false l a → ∀ i, i = .hwait d a ∨ i = .hrel d a ∨ i = .hstat d a → Issues s iss i →
    Traps i s iss 22 0 (teamReg iss false l a)) ∧
  ∀ s iss l g x,
    (let w := teamSrc iss true l b
     let base := teamReg iss true l a
     let len := w / 256 % 2 ^ 32
     let kind := w / 16 % 2
     let i := Instr.hbind d a b
     AtHandle s iss l (w % 8) g x → anyTag iss l [a] = false → Issues s iss i →
      (2 ^ 40 ≤ w ∨ w / 32 % 8 ≠ 0 ∨ len = 0 → Traps i s iss 23 0 w) ∧
      (w < 2 ^ 40 → w / 32 % 8 = 0 → len ≠ 0 →
        (kind = 1 → iss.team.core % 2 = 1 → Traps i s iss 19 0 0) ∧
        (kind = 0 → 2 ^ 57 < base + len → Traps i s iss 4 0 base) ∧
        (kind = 0 → base + len ≤ 2 ^ 57 → base < winBase 0 → winBase 0 < base + len → Traps i s iss 24 0 base) ∧
        (kind = 0 → base + len ≤ winBase 0 → x.st ≠ .free → GivesStatus i s (hashed s iss i) iss d 1) ∧
        (kind = 0 → base + len ≤ winBase 0 → x.st = .free → ∃ s1, GivesStatus i s s1 iss d 0 ∧ s1.pairs = s.pairs ∧
          HandleBecomes (hashed s iss i) s1 iss (w % 8) g { x with bound := true, kind := 0, base := base, len := len, arr := w.testBit 3 }) ∧
        (kind = 1 → iss.team.core % 2 = 0 → x.st = .free → (∀ o, (s.pairSt (pairOf iss)).spqOwner = some o → o = iss.gkey) → ∃ s1, GivesStatus i s s1 iss d 0 ∧
          (s1.pairSt (pairOf iss)).spqOwner = some iss.gkey ∧
          HandleBecomes (hashed s iss i) s1 iss (w % 8) g { x with bound := true, kind := 1, base := base, len := len, arr := w.testBit 3 }))) ∧
    (let h := teamSrc iss false l b
     let desc := teamReg iss true l d
     let len := desc % 2 ^ 32
     let off := if x.kind = 1 then 0 else desc / 2 ^ 32
     let src := teamReg iss true l a
     let i := Instr.cpsl fb sq d a b
     let before := if x.st = .free then [] else x.slices
     AtHandle s iss l h g x → anyTag iss l [a] = false → Issues s iss i → x.st = .free ∨ x.st = .filling → x.running = false →
      (∀ c ∈ x.slices, c.team ≠ iss.tid) → iss.frag.latch ≠ .done (cpslKey h) ∨ s.lowerCpsl iss.team h = false →
      flagRoom iss (selFlag iss fb) = true → iss.team.pathRoom [5] = true → s.acquiring iss.team = false →
      (x.bound = false → Traps i s iss 22 0 0) ∧
      (x.bound = true → x.len < off + len ∨ (x.kind = 1 ∧ len % 128 ≠ 0) → Traps i s iss 23 0 desc) ∧
      (x.bound = true → off + len ≤ x.len → x.kind = 0 → s.unsettled iss.team src len = false → s.unsettled iss.team (x.base + off) len = false →
        ∀ ss ds s1 s2, probeAll iss.team 24 [{ va := src, n := len, need := .read }] (hashed s iss i) = (.ok ss, s1) →
          probeAll iss.team 24 [{ va := x.base + off, n := len, need := .write }] s1 = (.ok ds, s2) →
          ∃ (s3 : State) (g' : Group) (c : Slice), Completes i s iss s3 ∧ s3.group? iss.team.launch iss.team.group = some g' ∧
            c.team = iss.tid ∧ c.off = off ∧ c.len = len ∧ c.src = ss ∧ c.dst = ds ∧ c.flag = selFlag iss fb ∧ c.sq = sq ∧
            ((∃ u ∈ s.teams, u.2.launch = iss.team.launch ∧ u.2.group = iss.team.group ∧ u.2.status ≠ .ended ∧ u.2.id ≠ iss.tid ∧ ∀ e ∈ before, e.team ≠ u.2.id) →
              g'.handle h = { x with st := .filling, aborted := x.aborted && x.st != .free, bytes := if x.st = .free then 0 else x.bytes, slices := before ++ [c] } ∧ s3.pairs = s.pairs) ∧
            ((∀ u ∈ s.teams, u.2.launch = iss.team.launch → u.2.group = iss.team.group → u.2.status ≠ .ended → u.2.id = iss.tid ∨ ∃ e ∈ before, e.team = u.2.id) →
              (g'.handle h).st = .filling ∧ (g'.handle h).running = true ∧ (g'.handle h).slices = sortKey (fun e => e.team) (before ++ [c]) ∧
              ∃ o, (s3.pairSt (corePair g.core)).ops = (s.pairSt (corePair g.core)).ops ++ [o] ∧ o.op = 0x98 ∧ o.group = iss.gkey ∧ o.d = BitVec.ofNat 64 h ∧ o.started = true))) ∧
    (let h := teamReg iss false l a
     AtHandle s iss l h g x →
      (Issues s iss (.hwait d a) → (∀ v, iss.frag.latch ≠ .done v) →
        (x.bound = false → Traps (.hwait d a) s iss 22 0 0) ∧
        (x.bound = true → x.st = .filling → Waits (.hwait d a) s iss (.waiting (16 + h)) (hashed s iss (.hwait d a))) ∧
        (x.bound = true → x.st = .free → GivesStatus (.hwait d a) s (hashed s iss (.hwait d a)) iss d (if x.aborted then 2 else 3)) ∧
        (x.bound = true → x.st = .draining → GivesStatus (.hwait d a) s (hashed s iss (.hwait d a)) iss d 4)) ∧
      (Issues s iss (.hwait d a) → ∀ v, iss.frag.latch = .done v ∨ (v = 0 ∧ x.bound = true ∧ x.st = .full ∧ iss.frag.latch = .none) →
        ∃ s1, Status (hashed s iss (.hwait d a)) iss d v s1 ∧
          Completes (.hwait d a) s iss (if v = 0 then s1.updTeam iss.tid (fun t => { t with acq := s.mem.seq }) else s1)) ∧
      (Issues s iss (.hrel d a) →
        (x.bound = false → Traps (.hrel d a) s iss 22 0 0) ∧
        (x.bound = true → x.st ≠ .full → GivesStatus (.hrel d a) s (hashed s iss (.hrel d a)) iss d 1) ∧
        (x.bound = true → x.st = .full → ∃ s1, GivesStatus (.hrel d a) s s1 iss d 0 ∧ s1.pairs = s.pairs ∧
          HandleBecomes (hashed s iss (.hrel d a)) s1 iss h g { x with st := .draining, release := iss.tid, mark := s.nextId })) ∧
      (Issues s iss (.hstat d a) →
        let st := match x.st with | .free => 0 | .filling => 1 | .full => 2 | .draining => 3
        GivesWide (.hstat d a) s (hashed s iss (.hstat d a)) iss d (st * 2 ^ 62 + x.bound.toNat * 2 ^ 61 + x.kind * 2 ^ 60 + x.arr.toNat * 2 ^ 59
          + x.aborted.toNat * 2 ^ 58 + x.running.toNat * 2 ^ 57 + x.slices.length % 16 * 2 ^ 53 + x.bytes % 2 ^ 48)))

/-- R235, R236, R237, R240, R241, R242, R243: PUT, GET, BULK, SEND, RECV and FXQRY. -/
def Obligations.FabricResults : Prop := ∀ (fb sq : Bool) (d a b : Reg) (c : Src),
  (NeedsLane (.put fb sq d a b) ∧ NeedsLane (.get fb sq d a b) ∧ NeedsLane (.bulk fb sq d) ∧ NeedsLane (.send fb sq d a) ∧ NeedsLane (.recv a) ∧ NeedsLane (.fxqry d c)) ∧
  ∀ s iss l, iss.low = some l → iss.team.id = iss.tid →
    let ctl := teamReg iss false l d
    let dst := teamReg iss true l a
    let src := teamReg iss true l b
    let n := ctl % 512
    let line : Prop := 1 ≤ n ∧ n ≤ 256 ∧ dst % 256 + n ≤ 256 ∧ src % 256 + n ≤ 256
    (anyTag iss l [a, b] = false → Issues s iss (.put fb sq d a b) → ChecksControl (.put fb sq d a b) s iss fb ctl line ∧
      (ctlBad ctl = false → line → OpensTransfer (.put fb sq d a b) s iss fb sq { kind := 0, ctl := ctl, src := src, dst := dst, len := n, data := [] })) ∧
    (anyTag iss l [a, b] = false → Issues s iss (.get fb sq d a b) → ChecksControl (.get fb sq d a b) s iss fb ctl (line ∧ refOn (ctlRctr ctl) = false) ∧
      (ctlBad ctl = false → line → refOn (ctlRctr ctl) = false →
        OpensTransfer (.get fb sq d a b) s iss fb sq { kind := 1, ctl := ctl, src := src, dst := dst, len := n, data := [] })) ∧
    (∀ r : Fin 24, let len := (iss.team.s (r.val + 2)).toNat
      let ctl' := (iss.team.s (r.val + 3)).toNat
      let i := Instr.bulk fb sq (.s r)
      NSet.has iss.team.stag r.val = false → NSet.has iss.team.stag (r.val + 1) = false → Issues s iss i →
        ChecksControl i s iss fb ctl' (1 ≤ len ∧ len < 2 ^ 32) ∧
        (ctlBad ctl' = false → 1 ≤ len → len < 2 ^ 32 → OpensTransfer i s iss fb sq
          { kind := 2, ctl := ctl', src := (iss.team.s r.val).toNat, dst := (iss.team.s (r.val + 1)).toNat, len := len, data := [] })) ∧
    (let i := Instr.send fb sq d a
     let q := (iss.team.port 12).q
     let ok : Prop := 8 ≤ n ∧ n ≤ 64 ∧ n % 8 = 0
     let inRange (r : Nat) : Prop := refOn r = true → ∃ c, s.ctx? iss.ctx = some c ∧ refIn c r = true
     anyTag iss l [a] = false → Issues s iss i → ChecksControl i s iss fb ctl ok ∧
      (flagRoom iss (selFlag iss fb) = true → ctlBad ctl = false → ok → inRange (ctlLctr ctl) → dst % 64 ≠ 0 → Traps i s iss 15 0 dst) ∧
      (ctlBad ctl = false → ok → inRange (ctlLctr ctl) → dst % 64 = 0 → q.length < n / 8 → Waits i s iss .none (hashed s iss i)) ∧
      (ctlBad ctl = false → ok → inRange (ctlLctr ctl) → inRange (ctlRctr ctl) → dst % 64 = 0 → n / 8 ≤ q.length →
        ∀ ds s1, (hashed s iss i).fabProbe iss.team putDst dst n .write false = (.ok ds, s1) →
        flagRoom iss (selFlag iss fb) = true → (∀ p, iss.team.pathRoom [p] = true) → s.acquiring iss.team = false →
        ∃ (s3 : State) (y : Transfer) (t' : Team), Completes i s iss s3 ∧ s3.fab.transfers = s.fab.transfers ++ [y] ∧ y.kind = 3 ∧ y.team = iss.tid ∧ y.dst = dst ∧ y.len = n ∧ y.dsts = ds ∧
          bytesOf y.data = (q.take (n / 8)).flatMap (fun x => leBytes 8 x.toNat) ∧ anyMarked y.data = false ∧ y.flag = selFlag iss fb ∧ y.sq = sq ∧
          y.lctr = ctlLctr ctl ∧ y.rctr = ctlRctr ctl ∧ s3.team? iss.tid = some t' ∧ (t'.port 12).q = q.drop (n / 8))) ∧
    (let i := Instr.recv a
     let q := (iss.team.port 4).q
     anyTag iss l [a] = false → Issues s iss i →
      (dst % 64 ≠ 0 → Traps i s iss 15 0 dst) ∧
      (dst % 64 = 0 → portDepth 4 < q.length + 8 → Waits i s iss .none (hashed s iss i)) ∧
      (dst % 64 = 0 → q.length + 8 ≤ portDepth 4 → ∀ pa s1,
        (hashed s iss i).fabProbe iss.team getDst dst 64 .read false = (.ok [{ loc := { space := 0, x := 0, y := 0, addr := pa }, len := 64 }], s1) → pa % 64 = 0 →
        (∀ r ∈ s.reqs, r.team ≠ iss.tid) → iss.team.lockOut = false → (∀ p, iss.team.pathRoom [p] = true) → s.mem.owned = [] → s.mem.locks = [] → s.mem.pend = [] → s.mem.parts = [] →
        s.mem.hbm.tagged pa 64 = false →
        ∃ s2 t', Completes i s iss s2 ∧ s2.team? iss.tid = some t' ∧
          (t'.port 4).q = q ++ (List.range 8).map (fun k => s.mem.hbm.dword (pa + 8 * k)) ∧ t'.acq = s.mem.seq ∧
          { t' with frags := [], ports := [], paths := [], acq := 0 } = { iss.team with frags := [], ports := [], paths := [], acq := 0 } ∧ s2.mem.hbm = s.mem.hbm)) ∧
    (let p := teamSrc iss false l c
     Issues s iss (.fxqry d c) → (7 < p → Traps (.fxqry d c) s iss 25 0 p) ∧
      (p ≤ 7 → GivesWide (.fxqry d c) s (hashed s iss (.fxqry d c)) iss d ((s.port p).up.toNat * 2 ^ 63 + (s.port p).degraded.toNat * 2 ^ 62
        + (s.port p).retrain.toNat * 2 ^ 61 + (s.port p).half.toNat * 2 ^ 60 + (s.port p).laneOk % 2 ^ 16 * 2 ^ 44
        + min 1023 (s.fab.transfers.filter (fun x => x.team == iss.tid)).length)))

/-- R245, R246, R248, R249, R251: CJPOST, CJCANCEL and CJQRY. What the result word names for a free slot is the model's choice
(log 33). -/
def Obligations.ConjunctionResults : Prop := ∀ (fb sq : Bool) (d a : Reg),
  (NeedsLane (.cjpost fb sq d) ∧ NeedsLane (.cjcancel d a) ∧ NeedsLane (.cjqry d a)) ∧
  ∀ s iss l c, iss.low = some l → iss.team.id = iss.tid → s.ctx? iss.ctx = some c →
    (let x := cjDesc iss d
     let d0 := (x.headD 0).toNat
     let trig := descBits x 63 48
     let die := trig / 4096 % 2
     let slot := descBits x 12 0
     let key := die * 8192 + slot
     let inRange (r : Nat) : Prop := refOn r = true → refIn c r = true
     let i := Instr.cjpost fb sq d
     scalarTag iss d [4, 5] = false → Issues s iss i →
      (flagRoom iss (selFlag iss fb) = false → Waits i s iss .none (hashed s iss i)) ∧ (flagRoom iss (selFlag iss fb) = true →
      (cjBad x = true → Traps i s iss 28 0 d0) ∧
      (cjBad x = false → refOn trig = false → Traps i s iss 29 0 trig) ∧
      (cjBad x = false → refOn trig = true → c.cjIn die slot = false → Traps i s iss 29 0 key) ∧
      (cjBad x = false → refOn trig = true → c.cjIn die slot = true → refIn c trig = false → Traps i s iss 27 0 trig) ∧
      (cjBad x = false → refOn trig = true → c.cjIn die slot = true → inRange trig → inRange (cjDone x) → inRange (cjRctr x) →
        (cjMisaligned x = true → Traps i s iss 15 0 (cjDst x)) ∧
        (cjMisaligned x = false → ∀ ss ds s1, (hashed s iss i).cjProbe iss.team x = ((.ok ss, .ok ds), s1) →
          (∀ q, s.launch? iss.team.launch = some q → q.md = none) → s.acquiring iss.team = false →
          -- the slot is free: it arms, and fires at once where its threshold is met
          (NMap.look s.conj.slots key = none → ∃ s2 y t', Completes i s iss s2 ∧ NMap.look s2.conj.slots key = some y ∧
            y.ctx = iss.ctx ∧ y.desc = x ∧ y.srcs = ss ∧ y.dsts = ds ∧ y.issued = 0 ∧ y.flight = 0 ∧ y.thresh = descBits x 127 64 ∧ y.ends = false ∧
            y.phase = s.phaseOf iss.team ∧ y.st = (if descBits x 127 64 ≤ s.counter (counterAddr die (trig % 4096)) then .firing else .armed) ∧
            NMap.getD s2.conj.queue die [] = NMap.getD s.conj.queue die [] ++ (if y.st = .firing then [key] else []) ∧
            (∀ k, k ≠ key → NMap.look s2.conj.slots k = NMap.look s.conj.slots k) ∧
            s2.team? iss.tid = some t' ∧ t'.irrev = min 65535 (iss.team.irrev + 1) ∧
            t'.port 2 = (if sq then iss.team.reply 2 (BitVec.ofNat 64 (0xA8 * 2 ^ 56 + die * 2 ^ 45 + slot * 2 ^ 32 + s.clk % 2 ^ 32)) 55 else iss.team).port 2) ∧
          -- it is in use: nothing is posted
          (NMap.look s.conj.slots key ≠ none → ∃ s2 t', Completes i s iss s2 ∧ s2.conj = s.conj ∧ s2.team? iss.tid = some t' ∧ t'.irrev = iss.team.irrev ∧
            t'.port 2 = (if sq then iss.team.reply 2 (BitVec.ofNat 64 (0xA8 * 2 ^ 56 + 1 * 2 ^ 52 + die * 2 ^ 45 + slot * 2 ^ 32 + s.clk % 2 ^ 32)) 55 else iss.team).port 2))))) ∧
    (let r := teamReg iss false l a
     (∀ i, i = .cjcancel d a ∨ i = .cjqry d a → Issues s iss i →
      (2 ^ 14 ≤ r → Traps i s iss 28 0 r) ∧ (r < 2 ^ 14 → c.cjIn (r / 8192) (r % 8192) = false → Traps i s iss 29 0 r)) ∧
     (r < 2 ^ 14 → c.cjIn (r / 8192) (r % 8192) = true →
      (Issues s iss (.cjcancel d a) →
        ((∀ x, NMap.look s.conj.slots r = some x → x.st = .closing ∨ x.st = .free) → GivesStatus (.cjcancel d a) s (hashed s iss (.cjcancel d a)) iss d 2) ∧
        (∀ x, NMap.look s.conj.slots r = some x → x.st = .armed ∨ x.st = .firing → ∃ s1 t', s1.team? iss.tid = some t' ∧ t'.irrev = min 65535 (iss.team.irrev + 1) ∧
          GivesStatus (.cjcancel d a) s s1 iss d (if x.st = .armed then 0 else 1) ∧
          NMap.look s1.conj.slots r = (if x.st = .armed ∧ x.flight = 0 then none else some { x with ends := true, st := if x.st = .armed then .closing else .firing }) ∧
          ∀ k, k ≠ r → NMap.look s1.conj.slots k = NMap.look s.conj.slots k)) ∧
      (Issues s iss (.cjqry d a) →
        (NMap.look s.conj.slots r = none → GivesWide (.cjqry d a) s (hashed s iss (.cjqry d a)) iss d 0) ∧
        ∀ x, NMap.look s.conj.slots r = some x → GivesWide (.cjqry d a) s (hashed s iss (.cjqry d a)) iss d
          ((match x.st with | .free => 0 | .armed => 1 | .firing => 2 | .closing => 3) * 2 ^ 62 + descBits x.desc 15 13 * 2 ^ 59 + x.issued % 65536 * 2 ^ 40
            + min 255 x.flight * 2 ^ 32 + x.thresh % 2 ^ 32))))

/-- R253, R255, R256, R257, R259, R260: TRAP, BKPT, CHKERR, SYSRD, SYSWR, TASKRD and ERET. -/
def Obligations.SystemResults : Prop := ∀ (d : Reg) (b : Src) (reg : Fin 12) (item : Fin 6),
  (NeedsLane (.trap b) ∧ NeedsLane (.bkpt b) ∧ NeedsLane (.chkerr d b) ∧ NeedsLane (.sysrd d reg) ∧ NeedsLane (.syswr reg b) ∧ NeedsLane (.taskrd d item)) ∧
  ∀ s iss l c, iss.low = some l → iss.team.id = iss.tid → s.ctx? iss.ctx = some c → c.num = iss.ctx →
    let calls (i : Instr) (kind : Nat) : Prop := Issues s iss i →
      (c.ringOn = false → Traps i s iss 30 0 0) ∧
      (c.ringOn = true → 3 < (iss.team.port 5).q.length ∨ (s.hostReach = true ∧ (c.ringRoom = false ∨ c.buffer ≠ [])) ∨ (s.hostReach = false ∧ 15 < c.buffer.length)
        ∨ s.fenceWaits iss.team .all .system = true → Waits i s iss .none (hashed s iss i)) ∧
      (c.ringRoom = true → c.buffer = [] → s.hostReach = true → (iss.team.port 5).q.length ≤ 3 → s.fenceWaits iss.team .all .system = false →
        (∀ q, s.launch? iss.team.launch = some q → q.md = none) →
        s.mem.pend = [] → (∀ k, NMap.getD s.mem.posted k [] = []) →
        ∃ s2 t' c', Completes i s iss s2 ∧ s2.team? iss.tid = some t' ∧ t'.status = (if kind = 0 then .parked else .halted) ∧ t'.record = some c.crTail ∧
          t'.irrev = min 65535 (iss.team.irrev + 1) ∧ t'.acq = s.mem.seq ∧
          { t' with status := iss.team.status, record := iss.team.record, frags := [], irrev := 0, acq := 0 } = { iss.team with frags := [], irrev := 0, acq := 0 } ∧
          s2.ctx? iss.ctx = some c' ∧ c'.crTail = c.crTail + 1 ∧
          s2.mem.host.read (dw c.crBase 59 12 * 4096 + 64 * (c.crTail % 2 ^ dw c.crBase 4 0)) 64 =
            leBytes 8 (iss.ctx * 2 ^ 48 + iss.team.core * 2 ^ 40 + iss.team.slot * 2 ^ 36 + kind * 2 ^ 32 + teamSrc iss false l b % 2 ^ 32)
              ++ leBytes 8 (taskWord iss.team (s.phaseOf iss.team)).toNat ++ (List.range 6).flatMap (fun k => leBytes 8 (iss.team.s k).toNat))
    calls (.trap b) 0 ∧
    (c.dbg.getLsbD 0 = false → Issues s iss (.bkpt b) → Completes (.bkpt b) s iss (hashed s iss (.bkpt b))) ∧
    (c.dbg.getLsbD 0 = true → calls (.bkpt b) 1) ∧
    (Issues s iss (.chkerr d b) → (∃ r ∈ s.reqs, r.team = iss.tid ∧ (r.op.isLoad = true ∨ r.op.isAtomic = true)) → Waits (.chkerr d b) s iss .none (hashed s iss (.chkerr d b))) ∧
    (Issues s iss (.chkerr d b) → (∀ r ∈ s.reqs, r.team ≠ iss.tid) → ∃ s1, Wide (hashed s iss (.chkerr d b)) iss d c.check.toNat s1 ∧
      Completes (.chkerr d b) s iss (if teamSrc iss false l b % 2 = 1 then s1.updCtx iss.ctx (fun c => { c with check := 0 }) else s1)) ∧
    (Issues s iss (.sysrd d reg) → GivesWide (.sysrd d reg) s (hashed s iss (.sysrd d reg)) iss d (match reg.val with
      | 0 => c.check.toNat
      | 1 => s.cores.foldl (fun m e => max m (NMap.getD e.2.watch iss.ctx 0)) 0
      | 2 => c.wdLimit
      | 3 => c.dbg.toNat
      | 4 => (NMap.getD c.cjRange 0 0).toNat
      | 5 => (NMap.getD c.cjRange 1 0).toNat
      | 6 => c.crTail
      | 7 => match s.launch? iss.team.launch with | some q => NMap.getD q.chan (coreDie iss.team.core) 0 | none => 0
      | n => (NMap.getD c.user (n - 8) 0).toNat)) ∧
    (Issues s iss (.syswr reg b) → (reg.val < 8 → Traps (.syswr reg b) s iss 31 0 0) ∧
      (8 ≤ reg.val → ∃ s2, Completes (.syswr reg b) s iss s2 ∧
        (∃ c', s2.ctx? iss.ctx = some c' ∧ { c' with user := [] } = { c with user := [] } ∧
          ∀ n, NMap.getD c'.user n 0 = if n = reg.val - 8 then BitVec.ofNat 64 (teamSrc iss false l b) else NMap.getD c.user n 0) ∧
        (∀ k, k ≠ iss.ctx → s2.ctx? k = s.ctx? k) ∧ { s2 with ctxs := [] } = { hashed s iss (.syswr reg b) with ctxs := [] })) ∧
    (Issues s iss (.taskrd d item) → GivesWide (.taskrd d item) s (hashed s iss (.taskrd d item)) iss d (match item.val with
      | 0 => (taskWord iss.team (s.phaseOf iss.team)).toNat
      | 1 => iss.team.irrev
      | 2 => iss.team.restarts
      | 3 => iss.team.rpc
      | 4 => iss.team.lastPhase
      | _ => iss.team.restartMode.toNat)) ∧
    (Issues s iss .eret → (iss.team.restartMode = false → Traps .eret s iss 32 0 0) ∧
      (iss.team.restartMode = true → exec .eret s = .next (moves ((hashed s iss .eret).updTeam iss.tid (fun t =>
        Team.goto { t with restartMode := false } iss.entry iss.team.rpc)) iss .eret)))

/-- R116, R117, R118, R122, R123, R134: decoding the words of a well-formed instruction gives it back, and what decodes is the encoding of what
it decodes to: no bit of a word is dropped. -/
def Obligations.EncodingRoundTrip : Prop :=
  (∀ i : Instr, i.wf = true → i.isEvent = false → decodeWords (encode i) = .ok i) ∧
  ∀ (w : Word) (lit : Option Word) (i : Instr), decodeWord w lit = .ok i →
    i.wf = true ∧ i.isEvent = false ∧ encode i = w :: (if w.getLsbD 23 then lit.toList else [])

/-- R116, R129: words written out from the encodings of the spec, and what they stand for. -/
def Obligations.SpecWords : Prop :=
  decodeWord 0x20014282 none = .ok (.add (.v 5) (.v 5) (.reg (.v 2))) ∧
  decodeWord 0x5AE07280 none = .ok (.ld32 .acq (.v 1) (.s 4) (.lit 0)) ∧
  decodeWord 0xA59A8000 (some 5) = .ok (.fxqry (.s 10) (.lit 5))

/-- R112: a clause header is illegal in exactly these cases; the wait is tested before any body word issues. -/
def Obligations.HeaderLegality : Prop :=
  (∀ w : Word, let f (hi lo : Nat) : Nat := w.toNat / 2 ^ lo % 2 ^ (hi - lo + 1)
    (decodeHeader w = none ↔ f 31 28 = 0 ∨ f 4 0 ≠ 0 ∨ (12 ≤ f 15 12 ∧ f 15 12 ≤ 14) ∨ (12 ≤ f 11 8 ∧ f 11 8 ≤ 14) ∨ (f 15 12 = f 11 8 ∧ f 15 12 < 12)) ∧
    ∀ h, decodeHeader w = some h → h.len = f 31 28 ∧ h.wait.toNat = f 27 16 ∧ h.setA = f 15 12 ∧ h.setB = f 11 8 ∧ h.msel.val = f 7 6 ∧ h.yield = (f 5 5 == 1)) ∧
  ∀ (s : State) tid e t f w s1, s.team? tid = some t → t.frag? e = some f → f.clause = none → t.evicted = false → t.status = .running → t.victim = false →
    f.st ≠ .parked → f.latch = .none → s.fetchWord t f.pc = .word w s1 →
    (decodeHeader w = none → attempt s tid e = .only (takeFault s1 t.id e 1 0 0 0)) ∧
    (∀ h n, decodeHeader w = some h → n < 12 → h.wait.getLsbD n = true → t.flag n ≠ 0 → attempt s tid e = .none)

/-- R129, R131: a word with a reserved major opcode is an illegal encoding, 0xFF among them. -/
def Obligations.ReservedOpcodes : Prop := ∀ (w : Word) (lit : Option Word),
  w.toNat / 2 ^ 24 ∈ [0x1C, 0x1D, 0x1E, 0x1F, 0x3D, 0x3E, 0x3F, 0x4F, 0x57, 0x63, 0x83, 0x84, 0x85, 0x86, 0x87, 0x94, 0x95, 0x96, 0x97, 0x9D, 0x9E, 0x9F,
    0xA6, 0xA7, 0xAB, 0xAC, 0xAD, 0xAE, 0xAF, 0xB7, 0xB8, 0xB9, 0xBA, 0xBB, 0xBC, 0xBD, 0xBE, 0xBF] ∨ 0xC0 ≤ w.toNat / 2 ^ 24 → decodeWord w lit = .error .opcode

/-- R60, R111, R113, R131: a step fetches the word at the program counter of the fragment it chooses, opening the clause there
first, and runs exec of the instruction that the word decodes to; the quarter goes on with that fragment while it is in its
clause. Which fragment that is, and when, is a free choice of the model's schedule (log 1). -/
def Obligations.StepRunsDecoded : Prop :=
  -- fetch: the bytes at the address, the lowest first
  (∀ (s : State) (t : Team) va h s1 pa, isWindow va = false → s.translate (some t.core) (s.ctxOf t.launch) va .exec = (.hit h, s1) →
    hitLoc h = { space := 0, x := 0, y := 0, addr := pa } → (∀ l, s1.launch? t.launch = some l → NMap.look l.icache pa = none) →
    s.fetchWord t va = .word (BitVec.ofNat 32 (leNat (s1.mem.hbm.read pa 4))) s1) ∧
  -- what the fragment would issue, in its clause and at a header
  (∀ (s : State) tid e t f, s.team? tid = some t → t.frag? e = some f → t.evicted = false → t.status = .running → f.st ≠ .parked →
    (f.latch = .none ∨ ∃ v, f.latch = .done v) →
    (∀ c w s1, f.clause = some c → s.fetchWord t f.pc = .word w s1 →
      (∀ i, wordsOf w = 1 → decodeWord w none = .ok i → attempt s tid e = .issue i { s1 with issuing := some (t.id, e) }) ∧
      (∀ i lit s2, wordsOf w = 2 → f.pc + 4 < c.hdr + 4 * (c.len + 1) → s1.fetchWord t (f.pc + 4) = .word lit s2 → decodeWord w (some lit) = .ok i →
        attempt s tid e = .issue i { s2 with issuing := some (t.id, e) }) ∧
      (∀ x, wordsOf w = 1 → decodeWord w none = .error x → attempt s tid e = .only (takeFault s1 t.id e 1 0 0 0))) ∧
    (∀ w h s1, f.clause = none → t.victim = false → s.fetchWord t f.pc = .word w s1 → decodeHeader w = some h →
      (∀ n, n < 12 → h.wait.getLsbD n = true → t.flag n = 0) →
      let c : Clause := { hdr := f.pc, len := h.len, setA := h.setA, setB := h.setB, mood := t.mood h.msel.val, yield := h.yield }
      let s2 := s1.updFrag t.id e (fun f => { f with pc := f.pc + 4, clause := some c })
      ∀ v i s3, s2.fetchWord t (f.pc + 4) = .word v s3 → wordsOf v = 1 → decodeWord v none = .ok i → attempt s tid e = .issue i { s3 with issuing := some (t.id, e) })) ∧
  -- the step
  ∀ (s : State) q qs c cs i s1, s.booting = false → s.agenda = [] → s.boot.failed = none → s.turn = .cores →
    let n := s.quarters.length
    let s0 := if 2 ≤ n then { s with free := s.free + 1 } else s
    let k := if 2 ≤ n then Config.choice s.free % n else 0
    s.quarters.drop k ++ s.quarters.take k = q :: qs →
    let holder := NMap.look (s0.coreSt (q / 4)).holder (q % 4)
    issueOrder holder (s0.quarterFrags q) = c :: cs → attempt s0 c.tid c.entry = .issue i s1 →
    let s2 := if holder = some (c.tid, c.entry) ∧ c.frag.clause.isSome then s1 else s1.clearYields q
    (∀ s3, exec i s2 = .next s3 → s3.onlyWaits c.tid c.entry c.frag.latch = false → step s = .next { s3.keepQuarter q c.tid c.entry with turn := .engines }) ∧
    ∀ f, exec i s2 = .fault f → step s = .fault f

/-- R46, R50, R128: no instruction and no event is refused, and only a doorbell or a table address that names no memory stops
the machine. That it stops there is the model's choice (log 24). -/
def Obligations.OnlyMissingMemoryStops : Prop := ∀ (i : Instr) (s : State),
  (∀ r, exec i s ≠ .refused r) ∧
  (∀ f, exec i s = .fault f → ∃ a, f = .noSuchAddress a ∧ (paExists a = false ∨ paExists (a + 7) = false ∨ paExists (a + 63) = false) ∧
    ((∃ d x, i = .notifyWrite d x ∧ a = d + 24) ∨ (∃ n x, i = .slotMap n x) ∨ ∃ c x, i = .ctxdescWrite c x)) ∧
  (i.isEvent = false → ∃ s', exec i s = .next s')

/-- R34, R118, R131, R336: what every instruction of a fragment checks as it issues: its registers, registers still to be written, and errors of
the datapath, of which a third one faults. -/
def Obligations.IssueChecks : Prop := ∀ (i : Instr) (s : State) (iss : Issue), i.isEvent = false → issueOf s = some iss →
  (i.spans.any (spanOdd iss.ty) = true → exec i s = .next (takeFault s iss.tid iss.entry 1 0 0 0)) ∧
  (i.spans.any (spanOdd iss.ty) = false → i.spans.any (spanOut iss.ty iss.team.k) = true → exec i s = .next (takeFault s iss.tid iss.entry 2 0 0 0)) ∧
  (dynFault iss i = none → regsPending s iss i = true → exec i s = .next (block s iss .pending)) ∧
  (dynFault iss i = none → regsPending s iss i = false → 3 ≤ s.upsets → ∃ s1, s1.teams = s.teams ∧ s1.mem = s.mem ∧ s1.upsets = 0 ∧
    exec i s = .next (takeFault s1 iss.tid iss.entry 9 0 0 0))

/-- R136, R325: an arithmetic instruction under a type it does not accept is a fatal fault, cause 6. -/
def Obligations.TypeFaults : Prop := ∀ (d a : Reg) (b : Src) (sm : ScanMode) (rm : RedxMode),
  (TypeFault (.add d a b) tyArith ∧ TypeFault (.sub d a b) tyArith ∧ TypeFault (.mul d a b) tyArith ∧ TypeFault (.fma d a b) tyArith ∧
   TypeFault (.fms d a b) tyArith ∧ TypeFault (.fnma d a b) tyArith ∧ TypeFault (.min d a b) tyArith ∧ TypeFault (.max d a b) tyArith ∧
   TypeFault (.clamp d a b) tyArith ∧ TypeFault (.abs d a) tyArith ∧ TypeFault (.neg d a) tyArith ∧ TypeFault (.mulhi d a b) Ty.isInt) ∧
  (TypeFault (.div d a b) tyArith ∧ TypeFault (.rem d a b) tyArith ∧ TypeFault (.sqrt d a) Ty.isFloat ∧ TypeFault (.rsq d a) Ty.isFloat ∧
   TypeFault (.rcp d a) Ty.isFloat ∧ TypeFault (.exp2 d a) Ty.isFloat ∧ TypeFault (.log2 d a) Ty.isFloat ∧ TypeFault (.sin d a) Ty.isFloat ∧
   TypeFault (.cos d a) Ty.isFloat ∧ TypeFault (.tanh d a) Ty.isFloat ∧ TypeFault (.frc d a) Ty.isFloat ∧ TypeFault (.rnd d a) Ty.isFloat) ∧
  ∀ s iss, iss.low.isSome → tyArith iss.ty = false → iss.act ≠ 0 →
    (Issues s iss (.scan sm d a) → Traps (.scan sm d a) s iss 6 0 0) ∧
    (Issues s iss (.redx rm d a) → Traps (.redx rm d a) s iss 6 0 0)

/-- R86, R88, R91: an integer result is narrowed modulo its width, or clamped where the mood saturates; Round returns a representable value
unchanged, gives the canonical NaN for a NaN and keeps the sign of a zero. -/
def Obligations.NarrowingAndRounding : Prop :=
  (∀ (iss : Issue) (x y z : Nat) (g : Word), iss.ty.isInt = true →
    let w := iss.ty.ew
    let v (e : Nat) : Int := if iss.ty.isS = true ∧ 2 ^ (w - 1) ≤ e % 2 ^ w then ((e % 2 ^ w : Nat) : Int) - 2 ^ w else ((e % 2 ^ w : Nat) : Int)
    let lo : Int := if iss.ty.isS then -2 ^ (w - 1) else 0
    let hi : Int := if iss.ty.isS then 2 ^ (w - 1) - 1 else 2 ^ w - 1
    let out (r : Int) : Nat := ((if iss.sat then max lo (min hi r) else r) % 2 ^ w).toNat
    Rounded (fun iss x y _ => x.add iss.mode y) iss x y z g = (out (v x + v y), g) ∧
    Rounded (fun iss x y _ => x.add iss.mode y.neg) iss x y z g = (out (v x - v y), g) ∧
    Rounded (fun _ x y _ => x.mul y) iss x y z g = (out (v x * v y), g) ∧
    Rounded (fun iss x y z => (x.mul y).add iss.mode z) iss x y z g = (out (v x * v y + v z), g) ∧
    Rounded (fun _ x y _ => x.min y) iss x y z g = (out (min (v x) (v y)), g)) ∧
  ∀ (t : Ty) (m : Mode) (sat : Bool) (g : Word), t.isFloat = true →
    (∀ code, code < 2 ^ t.ew → valueOf t false code ≠ .nan → (roundF t m sat false (valueOf t false code) g).1 = code) ∧
    (roundF t m sat false .nan g).1 = (match t with
      | .f64 => 0x7FF8000000000000 | .f32 => 0x7FC00000 | .bf16x2 => 0x7FC0 | .f16x2 => 0x7E00 | .e5m2x4 => 0x7E | _ => 0x7F) ∧
    ∀ neg d, (roundF t m sat false (.fin neg 0 d) g).1 = if neg then 2 ^ (t.ew - 1) else 0

/-- R6, R350: a byte of a memory reads as it was last written, every other byte as before; a write keeps the one canonical form, in which equal
contents are equal data; marked data marks the granules it touches, other data clears those that it covers whole. -/
def Obligations.MemoryReadAfterWrite : Prop :=
  (∀ (m : Memory) (a : Nat) (b : Byte) (c : Nat), Memory.read (Memory.write m a b) c = if c = a then b else Memory.read m c) ∧
  (∀ (m : Memory) (a : Nat) (b : Byte), Memory.wf m = true → Memory.wf (Memory.write m a b) = true) ∧
  (∀ m m' : Memory, Memory.wf m = true → Memory.wf m' = true → (∀ a, Memory.read m a = Memory.read m' a) → m = m') ∧
  ∀ (s : Store) (a : Nat) (data : List Byte) (tag : Bool),
    (s.wf = true → (s.write a data tag).wf = true) ∧
    (∀ k, k < data.length → (s.write a data tag).bytes.read (a + k) = data.getD k 0) ∧
    (∀ c, c < a ∨ a + data.length ≤ c → (s.write a data tag).bytes.read c = s.bytes.read c) ∧
    (s.write a data tag).read a data.length = data ∧
    (∀ g, 8 * g + 8 ≤ a ∨ a + data.length ≤ 8 * g → NSet.has (s.write a data tag).poison g = NSet.has s.poison g) ∧
    (∀ g, a < 8 * g + 8 → 8 * g < a + data.length → data ≠ [] → NSet.has (s.write a data tag).poison g =
      (tag || (NSet.has s.poison g && !(decide (a ≤ 8 * g) && decide (8 * g + 8 ≤ a + data.length))))) ∧
    ∀ x : DWord, (s.setDword a x).dword a = x

/-- The memories keep their canonical form: whatever a step does to local HBM, the chip scratchpad, the counters and the host memory, their
bytes stand listed by rising address, none of them zero. -/
def Obligations.StepKeepsMemoryCanonical : Prop := ∀ s s' : State, s.memWf = true → step s = .next s' → s'.memWf = true

/-- R50, R64, R77, R243, R246, R280, R285, R291, R299, R303: what device reset leaves, before the boot order; the first step
starts that. That HBM and the flash start empty is the model's choice (log 2). -/
def Obligations.ResetState : Prop :=
  State.reset.memWf = true ∧ State.reset.teams = [] ∧ State.reset.groups = [] ∧ State.reset.launches = [] ∧ State.reset.ctxs = [] ∧ State.reset.reqs = [] ∧
  (∀ n, (State.reset.slot n).st = .free ∧ (State.reset.slot n).owner = 0) ∧ (∀ p, (State.reset.port p).up = false) ∧
  State.reset.conj.slots = [] ∧ State.reset.reg .l2VerCfg = 4 ∧ (∀ c, State.reset.reg (.holdLim c) = 512) ∧ (∀ p, State.reset.reg (.fyLnk p) = 0x6400000200) ∧
  State.reset.reg .fyE2e = 0x80014 ∧ State.reset.reg .mdAckTo = 500 ∧ (∀ a, State.reset.mem.hbm.bytes.read a = 0) ∧
  State.reset.booting = true ∧ step State.reset = exec .deviceReset State.reset

/-- R28, R60, R111, R113: what happens around every instruction: its fragment goes on behind its words, at the end of its clause to the header
that follows; time passes; nothing else of the machine is touched. -/
def Obligations.AroundInstructions : Prop := ∀ (s' : State) (iss : Issue) (i : Instr),
  -- the quarter is held for one cycle a pass, four at f64: a pass for each mask word with a lane, one where all is scalar or team-wide
  let n := (if teamWide i then 1 else passes iss.frag.mask iss.team.n) * (if f64Work iss.ty i then 4 else 1)
  (∀ s'', s'' = goesOn s' iss i ∨ s'' = endsClause s' iss i ∨ s'' = moves s' iss i → SameOutside s' s'' ∧ s''.free = s'.free ∧ s''.clk = s'.clk ∧
    (∀ c, c ≠ iss.team.core → s''.coreSt c = s'.coreSt c) ∧
    (∃ x, s''.coreSt iss.team.core = { s'.coreSt iss.team.core with busy := NMap.put (s'.coreSt iss.team.core).busy iss.team.quarter x } ∧
      s'.clk + n ≤ x ∧ ((s'.coreSt iss.team.core).throttled = false → x = s'.clk + n)) ∧
    (∀ u, s'.team? u = none → s''.team? u = none) ∧
    ∀ u t, s'.team? u = some t → ∃ t', s''.team? u = some t' ∧ t'.quiet = t.quiet ∧
      (u ≠ iss.tid ∨ s'' = moves s' iss i → t' = t)) ∧
  -- while a quarter may not issue yet, time does not pass beyond the cycle in which it may
  (∀ s : State, s.clk < (idle s).clk ∧ ∀ q ∈ s.runningQuarters, s.clk < s.busyUntil q → (idle s).clk ≤ s.busyUntil q) ∧
  ∀ t f, s'.team? iss.tid = some t → t.frag? iss.entry = some f →
    (iss.frag.pc + 4 * i.words < nextClause iss → ∃ t', (goesOn s' iss i).team? iss.tid = some t' ∧ t'.joins = t.joins ∧ t'.serial = t.serial ∧
      t' = t.setFrag iss.entry { f with pc := iss.frag.pc + 4 * i.words, st := t.readySt iss.entry, latch := .none, starve := 0 }) ∧
    (topSerial t iss.entry = none → NMap.look t.joins f.join = none → f.mask ≠ 0 → ∀ s'', s'' = endsClause s' iss i ∨ (s'' = goesOn s' iss i ∧ nextClause iss ≤ iss.frag.pc + 4 * i.words) →
      s''.team? iss.tid = some (t.setFrag iss.entry { f with
        pc := nextClause iss, clause := none, st := .ready, latch := .none, starve := 0, yielded := f.yielded || iss.cl.yield }))

/-- R32, R35: a fragment whose PC reaches its join parks there; the last to arrive fuses the parked ones, which go on in the lowest entry with
all their lanes at the join's address; one that has no join and no serial record only moves. -/
def Obligations.JoinResults : Prop := ∀ (t : Team) (e : Nat) (f : Fragment) (pc : Nat), t.frag? e = some f → f.mask ≠ 0 → topSerial t e = none →
  let there : Fragment := { f with pc := pc, sig := 0, clause := none, st := .ready, latch := .none, starve := 0, yielded := f.yielded || f.yields }
  (∀ r, NMap.look t.joins f.join = some r → r.addr ≠ pc → t.goto e pc = t.setFrag e there) ∧
  (NMap.look t.joins f.join = none → t.goto e pc = t.setFrag e there) ∧
  (∀ r, NMap.look t.joins f.join = some r → r.addr = pc → r.arrived + 1 ≠ r.expected →
    t.goto e pc = { t.setFrag e { there with st := .parked } with joins := NMap.put t.joins f.join { r with arrived := r.arrived + 1 } }) ∧
  ∀ r k g, NMap.look t.joins f.join = some r → r.addr = pc → r.arrived + 1 = r.expected → r.outer = 15 → NMap.look t.joins 15 = none → f.join ≠ 15 →
    t.frag? k = some g → k ≠ e → g.join = f.join → g.st = .parked → (∀ x ∈ t.frags, x.1 ≠ e → x.1 ≠ k → ¬(x.2.join = f.join ∧ x.2.st = .parked)) →
    (t.frags.map Prod.fst).Nodup → NMap.above 0 t.frags = true → topSerial t k = none →
    (t.goto e pc).frag? (min e k) = some { (if e < k then there else g) with
      st := .ready, pc := pc, join := 15, sig := 0, clause := none, latch := .none, mask := f.mask ||| g.mask, age := max f.age g.age } ∧
    (t.goto e pc).frag? (max e k) = none ∧ NMap.look (t.goto e pc).joins f.join = none ∧
    (∀ x, x ≠ e → x ≠ k → (t.goto e pc).frag? x = t.frag? x) ∧ (t.goto e pc).quiet = t.quiet

/-- R327, R328, R329, R330, R331, R335: taking a fatal fault: the team stops where it stands and keeps its registers, its requests and its
pending version of the phase go, and a record tells the host what happened. -/
def Obligations.TakingFault : Prop := ∀ (s : State) (tid e cause lane d0 d1 : Nat) (t : Team) (f : Fragment) (c : Ctx),
  s.team? tid = some t → t.id = tid → t.frag? e = some f →
  (t.status = .stopped → takeFault s tid e cause lane d0 d1 = s) ∧
  (t.status ≠ .stopped → s.ctx? (s.ctxOf t.launch) = some c → c.num = s.ctxOf t.launch → (∀ k ∈ s.mem.locks, k.holder ≠ tid) →
    let s' := takeFault s tid e cause lane d0 d1
    let phase := s.phaseOf t + (if t.phaseDone = true ∧ t.lastPhase = s.phaseOf t then 1 else 0)
    let rec' := leBytes 8 (c.num * 2 ^ 48 + t.core * 2 ^ 40 + t.slot * 2 ^ 36 + 2 * 2 ^ 32 + t.irrev * 2 ^ 16 + t.retries % 4 * 2 ^ 14 + e * 2 ^ 11
        + t.early.toNat * 2 ^ 10 + cause)
      ++ leBytes 8 (taskWord t phase).toNat ++ leBytes 8 (f.pc % 2 ^ 57) ++ leBytes 8 d0 ++ leBytes 8 d1 ++ leBytes 8 (lane * 2 ^ 54) ++ leBytes 8 0 ++ leBytes 8 0
    let direct : Prop := s.hostReach = true ∧ c.ringRoom = true ∧ c.buffer = []
    (∃ t', s'.team? tid = some t' ∧ t'.status = .stopped ∧ t'.lockOut = false ∧ (direct → t'.record = some c.crTail) ∧ (¬direct → t'.record = none) ∧
      t'.vec = t.vec ∧ t'.scal = t.scal ∧ t'.pred = t.pred ∧ t'.moods = t.moods ∧ t'.gen = t.gen ∧ t'.priv = t.priv ∧ t'.irrev = t.irrev ∧ t'.rpc = t.rpc ∧
      t'.core = t.core ∧ t'.slot = t.slot ∧ t'.evicted = t.evicted) ∧
    (∀ u x, u ≠ tid → s.team? u = some x → ∃ x', s'.team? u = some x' ∧ x'.status = x.status ∧ x'.vec = x.vec ∧ x'.scal = x.scal ∧ x'.pred = x.pred ∧ x'.moods = x.moods) ∧
    (∀ r ∈ s'.reqs, r ∈ s.reqs ∧ (r.team = tid → (∀ k, r.place ≠ .paren k) ∧ r.place ≠ .lockWait ∧ r.place ≠ .atIssue)) ∧
    (t.phaseDone = false → ∀ p ∈ s'.mem.pend, p.team ≠ tid) ∧ (t.phaseDone = true → s'.mem.pend = s.mem.pend) ∧
    s'.mem.hbm = s.mem.hbm ∧ s'.mem.ctr = s.mem.ctr ∧
    (direct → s'.mem.host.read (dw c.crBase 59 12 * 4096 + 64 * (c.crTail % 2 ^ dw c.crBase 4 0)) 64 = rec' ∧
      ∃ c', s'.ctx? c.num = some c' ∧ c'.crTail = c.crTail + 1) ∧
    (¬direct → s'.mem.host = s.mem.host ∧ ∃ c', s'.ctx? c.num = some c' ∧ c'.crTail = c.crTail ∧
      (c.buffer.length < 16 → c'.buffer = c.buffer ++ [(tid, rec')] ∧ c'.dropped = c.dropped) ∧ (16 ≤ c.buffer.length → c'.buffer = c.buffer ∧ c'.dropped = c.dropped + 1)))

/-- R46, R47, R49, R50, R52, R53, R54, R64: doorbells, slots mapped and unmapped, records fetched, checked and released, slot
owners. The stop at an address that names no memory is the model's choice (log 24). -/
def Obligations.QueueEvents : Prop := ∀ (s : State) (n : Fin 64),
  let x := s.slot n.val
  let others (s' : State) : Prop := ∀ k, k ≠ n.val → s'.slot k = s.slot k
  (∀ desc v, let a := desc + 24
    (paExists a = false ∨ paExists (a + 7) = false → exec (.notifyWrite desc v) s = .fault (.noSuchAddress a)) ∧
    (paExists a = true → paExists (a + 7) = true → (s.lockAt a).isSome ∨ (s.ownerAt a).isSome → (desc, v) ∉ s.front.notifies →
      Gives (.notifyWrite desc v) s (fun s' => s'.front.notifies = s.front.notifies ++ [(desc, v)] ∧ s'.mem = s.mem)) ∧
    (paExists a = true → paExists (a + 7) = true → s.lockAt a = none → s.ownerAt a = none → NothingPending s →
      Gives (.notifyWrite desc v) s (fun s' => (s'.mem.hbm.dword a).toNat = max v.toNat (s.mem.hbm.dword a).toNat ∧
        ∀ c, c < a ∨ a + 8 ≤ c → s'.mem.hbm.bytes.read c = s.mem.hbm.bytes.read c))) ∧
  (∀ addr, let a := dw addr 56 6 * 64
    let d := s.mem.hbm.read a 64
    a ≠ 0 → x.st = .free ∨ x.st = .stopped →
      (paExists a = false → exec (.slotMap n addr) s = .fault (.noSuchAddress a)) ∧
      (paExists a = true → paExists (a + 63) = true → recBits d 75 71 ≠ x.owner → exec (.slotMap n addr) s = .next s) ∧
      (paExists a = true → paExists (a + 63) = true → recBits d 75 71 = x.owner → Gives (.slotMap n addr) s (fun s' => (s'.slot n.val).st = .idle ∧
        (s'.slot n.val).map = a ∧ (s'.slot n.val).desc = d ∧ (s'.slot n.val).readix = recBits d 191 128 ∧ (s'.slot n.val).owner = x.owner ∧
        others s' ∧ s'.mem = s.mem))) ∧
  (x.st = .idle ∨ x.st = .fetch ∨ x.st = .held ∨ x.st = .stopped → Gives (.slotUnmap n) s (fun s' => s'.slot n.val = { Slot.reset with owner := x.owner } ∧
    (s'.mem.hbm.dword (x.map + 16)).toNat = x.readix % 2 ^ 64 ∧ others s')) ∧
  (x.st = .dispatch → Gives (.slotUnmap n) s (fun s' => s'.slot n.val = { x with st := .unmapping } ∧ others s' ∧ s'.mem = s.mem)) ∧
  (x.st = .idle → s.frontOn = true → x.readix < (s.mem.hbm.dword (x.map + 24)).toNat → Gives (.recordFetch n) s (fun s' =>
    s'.slot n.val = { x with st := .fetch } ∧ others s')) ∧
  (x.st = .idle → (s.mem.hbm.dword (x.map + 24)).toNat ≤ x.readix → exec (.recordFetch n) s = .next s) ∧
  (x.st = .fetch → s.frontOn = true →
    (∀ r s1, s.checkRecord x = (.good r, s1) → Gives (.recordCheck n) s (fun s' =>
      s'.slot n.val = { x with st := .held, readix := x.readix + 1, record := r, hold := s1.depsMet r } ∧ (s'.mem.hbm.dword (x.map + 16)).toNat = (x.readix + 1) % 2 ^ 64)) ∧
    (∀ c s1, s.checkRecord x = (.stop c, s1) → Gives (.recordCheck n) s (fun s' => s'.slot n.val = { x with st := .stopped } ∧
      s'.mem.hbm.bytes.read (x.map + 32) = BitVec.ofNat 8 c)) ∧
    (∀ va s1, s.checkRecord x = (.miss va, s1) → exec (.recordCheck n) s = .next (s1.pageMiss (recBits x.desc 95 80) va 0))) ∧
  (x.st = .held → x.hold = true → s.frontOn = true → s.ctxHeld x.ctxNum = false →
    ((Launch.ofRecord x.record).ordered = true → s.launch? x.prev = none) → s.mdOn n.val = false → Gives (.recordRelease n) s (fun s' => ∃ l,
      s'.launch? s.nextId = some l ∧ s'.nextId = s.nextId + 1 ∧ l.id = s.nextId ∧ l.record = x.record ∧ l.slot = n.val ∧ l.ctx = x.ctxNum ∧ l.func = x.func ∧
      l.level = x.prio ∧ s'.levelOf l = max x.prio (NMap.getD s.front.floor x.func 0) ∧ l.next = 0 ∧ l.ended = 0 ∧ l.phase = 0 ∧ l.md = none ∧
      s'.slot n.val = { x with st := .dispatch, launch := s.nextId, prev := s.nextId, mdMsg := x.mdMsg - 1 } ∧ others s')) ∧
  ∀ v, let f := dw v 4 0
    (16 < f → exec (.slotOwnerWrite n v) s = .next s) ∧
    (f ≤ 16 → Gives (.slotOwnerWrite n v) s (fun s' => s'.slot n.val = { x with owner := f } ∧ others s' ∧ s'.mem = s.mem ∧ s'.teams = s.teams))

/-- R22, R37, R38, R42, R53, R56, R57, R58, R61, R62, R63, R65, R340: groups and gangs placed, teams evicted, restored and
retired, launches completed, the watchdog and the clock. How ties are broken is the model's choice (log 14). -/
def Obligations.PlacementEvents : Prop := ∀ (s : State) (die : Fin 2) (n : Fin 64) (team ctx : Nat) (core : Fin 256),
  -- a dispatcher's first slot: a group
  (∀ l k ks core qs args image s1 s2, s.inService 5 die.val = true → s.dispatchOrder die.val = k :: ks → s.launch? (s.slot k).launch = some l → l.id = (s.slot k).launch →
    l.next < l.groups → s.returnsFirst die.val (s.levelOf l) = false → l.gang = 1 → s.offerCore l l.next [] = some core → coreDie core = die.val →
    s.frontRead l.ctx l.argSrc l.argLen = (.data args, s1) → s1.frontRead l.ctx l.phSrc 64 = (.data image, s2) →
    fitQuarters (footprint l.n l.k) (l.teamsOf l.next) (s2.quarterLoads core []) = some qs → Gives (.groupPlace die) s (fun s' =>
      (∃ g ∈ s'.groups, g.launch = l.id ∧ g.num = l.next ∧ g.core = core ∧ g.len = l.scratch ∧ g.handles = [] ∧ ∀ j, j < args.length → g.scratch.bytes.read j = args.getD j 0) ∧
      ∀ j, j < qs.length → ∃ id t f, s'.team? id = some t ∧ t.launch = l.id ∧ t.group = l.next ∧ t.num = j ∧ t.core = core ∧ t.quarter = qs.getD j 0 ∧ t.n = l.n ∧
        t.status = .running ∧ t.frags = [(0, f)] ∧ f.pc = l.entry ∧ f.st = .ready ∧ f.join = 15 ∧ t.rpc = l.entry ∧
        (let real := min l.n (l.extent - (l.next * l.tg + j) * l.n)
         ∀ b, b < 1024 → f.mask.getLsbD b = decide (b < min l.n ((real + 3) / 4 * 4)) ∧ t.real.getLsbD b = decide (b < real)) ∧
        t.vec = [] ∧ t.scal = [] ∧ t.pred = [] ∧ t.moods = [] ∧ t.flags = [] ∧ t.gen = [] ∧ t.ports = [])) ∧
  -- a gang with every member's core free
  (∀ l k ks b s1, s.inService 5 die.val = true → s.dispatchOrder die.val = k :: ks → s.launch? (s.slot k).launch = some l → l.id = (s.slot k).launch → l.next < l.groups →
    s.returnsFirst die.val (s.levelOf l) = false → l.gang ≠ 1 → l.compat = false → s.offerBlock l [] = some b → pairDie b = die.val →
    State.placeMembers l b l.members s = (true, s1) → Gives (.gangPlace die) s (fun s' => s'.teams = s1.teams ∧ s'.groups = s1.groups ∧
      (∀ c, 2 * b ≤ c → c < 2 * (b + l.stops) → (s'.coreSt c).gang = none) ∧ ∀ l1, s1.launch? l.id = some l1 → l1.next = l.next → ∃ l', s'.launch? l.id = some l' ∧ l.next + l.gangSize l.next ≤ l'.next)) ∧
  (∀ l, s.launch? (s.slot n.val).launch = some l → l.id = (s.slot n.val).launch → l.next < l.groups →
    (l.waitSince + 1024 < s.clk → s.clk ≤ l.waitSince + 4096 → l.waited = 0 → Gives (.affinityWiden n) s (fun s' => s'.launch? l.id = some { l with waited := 1 } ∧ s'.teams = s.teams)) ∧
    (l.waitSince + 4096 < s.clk → l.waited < 2 → Gives (.affinityWiden n) s (fun s' => s'.launch? l.id = some { l with waited := 2 } ∧ s'.teams = s.teams)) ∧
    (s.clk ≤ l.waitSince + 1024 → exec (.affinityWiden n) s = .next s)) ∧
  -- pre-emption only tells a team to stop
  (Gives (.preempt n) s (fun s' => { s' with teams := [] } = { s with teams := [] } ∧ ∀ u t, s.team? u = some t → ∃ t', s'.team? u = some t' ∧
    (t' = t ∨ (t' = { t with victim := true } ∧ ((∀ e ∈ s.teams, s.team? e.2.id = some e.2) → t.evicted = false))))) ∧
  -- eviction and restoring keep a team's registers
  (∀ t, s.team? team = some t → t.id = team → t.victim = true → s.evictReady t = true → s.switchRuns (s.ctxOf t.launch) = false → Gives (.teamEvict team) s (fun s' =>
    (∃ t', s'.team? team = some t' ∧ { t' with ovflow := [] } = { t with evicted := true, victim := false, ovflow := [] }) ∧ (∀ u, u ≠ team → s'.team? u = s.team? u) ∧
    ∀ r ∈ s'.reqs, r.team = team → (∀ q, r.place ≠ .queue q) ∧ r.place ≠ .miss ∧ r.place ≠ .net ∧ r.place ≠ .atIssue)) ∧
  (∀ t l g q qs, s.team? team = some t → t.id = team → t.savedReply = none → s.launch? t.launch = some l → s.group? t.launch t.group = some g → g.saved = false → s.returns t = [g.core] → s.goesFirst (s.levelOf l) = false →
    fitQuarters (footprint t.n t.k) 1 (s.quarterLoads g.core []) = some (q :: qs) → Gives (.teamRestore team) s (fun s' => ∃ t', s'.team? team = some t' ∧
      t'.evicted = false ∧ t'.victim = false ∧ t'.core = g.core ∧ t'.quarter = q ∧ t'.status = t.status ∧ SameRegisters t t' ∧ ∀ r ∈ s'.reqs, r.team = team → r.place ≠ .paren 5)) ∧
  (∀ t, (s.retire team).team? team = some t → t.id = team →
    ((s.retire team).mayRetire t = true → Gives (.teamRetire team) s (fun s' => s'.team? team = none ∧ ∀ u, u ≠ team → s'.team? u = s.team? u)) ∧
    ((s.retire team).mayRetire t = false → exec (.teamRetire team) s = .next (if t.status = .ended then s.letGo team else s))) ∧
  (∀ k l, s.launch? k = some l → l.id = k →
    (s.finished l = false → exec (.launchComplete k) s = .next s) ∧
    (s.finished l = true → l.dead = false → refOn l.donect = true → s.mem.ctr.tagged (refAddr l.donect) 8 = false → Gives (.launchComplete k) s (fun s' =>
      s'.launch? k = none ∧ (∀ m, m ≠ k → s'.launch? m = s.launch? m) ∧ s'.counter (refAddr l.donect) = (s.counter (refAddr l.donect) + 1) % 2 ^ 64))) ∧
  (∀ c, s.ctx? ctx = some c → c.halted = false → c.wdLimit ≠ 0 → c.wdLimit * 65536 < s.watchdog ctx → Gives (.watchdogExpire ctx) s (fun s' =>
    (∃ c', s'.ctx? ctx = some c' ∧ c'.halted = true) ∧
    ∀ u t, s.team? u = some t → ∃ t', s'.team? u = some t' ∧ t' = if s.ctxOf t.launch = ctx ∧ t.evicted = false ∧ t.status ≠ .ended then { t with victim := true } else t)) ∧
  (∀ c, s.ctx? ctx = some c → c.wdLimit = 0 ∨ s.watchdog ctx ≤ c.wdLimit * 65536 → exec (.watchdogExpire ctx) s = .next s) ∧
  Gives (.clockThrottle core) s (fun s' => s'.coreSt core.val = { s.coreSt core.val with throttled := true } ∧ { s' with cores := [] } = { s with cores := [] }) ∧
  Gives (.throttleEnd core) s (fun s' => s'.coreSt core.val = { s.coreSt core.val with throttled := false } ∧ { s' with cores := [] } = { s with cores := [] })

/-- R74, R80, R346, R347, R349, R368: contexts registered, translations invalidated, walks, page requests and their answers.
What a re-written descriptor leaves is the model's reading (log 53). -/
def Obligations.ContextAndPageEvents : Prop := ∀ (s : State),
  (∀ addr ctx, ctx < 65536 → let a := dw addr 56 6 * 64
    (paExists a = false ∨ paExists (a + 63) = false → exec (.ctxdescWrite addr ctx) s = .fault (.noSuchAddress a)) ∧
    let named := s.slots.find? (fun e => e.2.st != .free && e.2.ctxNum == ctx)
    (paExists a = true → paExists (a + 63) = true →
      (s.ctx? ctx = none → Gives (.ctxdescWrite addr ctx) s (fun s' =>
        s'.ctx? ctx = some { Ctx.fresh ctx a (s.mem.hbm.read a 64) with func := (named.map (fun e => e.2.func)).getD 0 } ∧ ∀ k, k ≠ ctx → s'.ctx? k = s.ctx? k)) ∧
      (∀ c, s.ctx? ctx = some c → Gives (.ctxdescWrite addr ctx) s (fun s' => s'.ctx? ctx = some { c with addr := a } ∧ ∀ k, k ≠ ctx → s'.ctx? k = s.ctx? k)))) ∧
  (∀ keep ctx,
    let starts (i : Instr) (x : Xlinv) : Prop :=
      (s.mgmt.xlinv ≠ none → exec i s = .next s) ∧
      (s.mgmt.xlinv = none → Gives i s (fun s' => s'.mgmt.xlinv = some x ∧ s'.teams = s.teams ∧ s'.mem = s.mem ∧ s'.cores = s.cores ∧
        (∀ k y, NMap.look s'.conj.slots k = some y → y.st = .armed →
          x.range y.ctx (cjSrc y.desc) (cjSrcLen y.desc) = false ∧ x.range y.ctx (cjDst y.desc) (cjDstLen y.desc) = false) ∧
        ∀ k c, s.ctx? k = some c → ∃ c', s'.ctx? k = some c' ∧ c' = if x.scope = 2 then { c with desc := s.mem.hbm.read c.addr 64 } else c))
    starts (.xlinvPage keep ctx) (s.pageXlinv keep ctx (dw (s.reg .xlinvAddr) 56 12)) ∧
    starts (.xlinvContext keep ctx) { scope := 1, ctx := ctx, keepG := keep, page := 0, first := 0, last := 0 } ∧
    starts (.xlinvAll keep) { scope := 2, ctx := 0, keepG := keep, page := 0, first := 0, last := 0 }) ∧
  (∀ x, s.mgmt.xlinv = some x → s.xlinvWaits x = false → Gives .xlinvDone s (fun s' => s'.mgmt.xlinv = none ∧
    { s' with cores := [], xlats := [], mgmt := s.mgmt } = { s with cores := [], xlats := [] } ∧
    (∀ c e, (e ∈ (s'.coreSt c).tlb → x.covers e = false) ∧ (e ∈ (s.coreSt c).tlb → x.covers e = false → e ∈ (s'.coreSt c).tlb)) ∧
    ∀ d e, (e ∈ NMap.getD s'.xlats d [] → x.covers e = false) ∧ (e ∈ NMap.getD s.xlats d [] → x.covers e = false → e ∈ NMap.getD s'.xlats d []))) ∧
  (∀ x, s.mgmt.xlinv = some x → s.xlinvWaits x = true → exec .xlinvDone s = .next s) ∧
  (∀ req r t p ps, s.req? req = some r → s.team? r.team = some t → r.parts = p :: ps →
    (r.place = .queue 0 → r.pa = none → s.heads r = true → (s.walkWaits t r = true → s.walking t r = true) →
      (∀ l h s1, s.reqAim t r = (.at' l h, s1) → (s1.l1Serves t r && !s1.behind r) = false → Gives (.translationWalk req) s (fun s' =>
        s'.req? req = some { r with pa := some l.key, place := .queue (s1.firstQueue t.core l), since := s.clk, arrived := s.clk } ∧
        s'.teams = s1.teams ∧ s'.mem = s1.mem)) ∧
      (∀ s1, s.reqAim t r = (.miss, s1) → Gives (.translationWalk req) s (fun s' => s'.reqs = s.reqs ∧ s'.teams = s.teams ∧
        ∃ q ∈ s'.front.pages, q.ctx = s.ctxOf t.launch ∧ q.page = p.va / 4096 ∧ Nat.land q.bits r.op.need.bits = r.op.need.bits))) ∧
    (r.place = .queue 0 → s.heads r = false ∨ (s.walkWaits t r = true ∧ s.walking t r = false) → exec (.translationWalk req) s = .next s) ∧
    (r.place = .paren 9 → (s.walkWaits t r = true → s.walking t r = true) →
      (∀ l h s1, s.reqAim t r = (.at' l h, s1) → Gives (.translationWalk req) s (fun s' => s'.req? req = some { r with place := .paren 8 })) ∧
      (∀ s1, s.reqAim t r = (.miss, s1) → Gives (.translationWalk req) s (fun s' => s'.req? req = some { r with place := .paren 0 } ∧
        ∃ q ∈ s'.front.pages, q.ctx = s.ctxOf t.launch ∧ q.page = p.va / 4096)))) ∧
  (∀ q, s.front.pages.find? (fun q => q.seqs.isEmpty || q.bits != q.written) = some q →
    (s.front.pgrRoom = false ∨ s.hostReach = false → exec .pageRequestWrite s = .next s) ∧
    (s.front.pgrRoom = true → s.hostReach = true → Gives .pageRequestWrite s (fun s' =>
      let b := s.front.pgrBase
      let n := s.front.pgrTail
      s'.mem.host.read (dw b 59 12 * 4096 + 32 * (n % 2 ^ dw b 4 0)) 32
        = leBytes 8 (q.ctx * 2 ^ 48 + q.bits * 2 ^ 45) ++ leBytes 8 (q.page * 4096) ++ leBytes 8 n ++ leBytes 8 q.since ∧
      s'.front.pgrTail = n + 1 ∧ { q with written := q.bits, seqs := q.seqs ++ [n] } ∈ s'.front.pages ∧
      s'.mgmt.vectors = s.mgmt.vectors ++ [(0, dw b 11 5)] ∧ s'.teams = s.teams ∧ s'.reqs = s.reqs))) ∧
  (∀ seq,
    let unknown (i : Instr) : Prop := s.pageOf seq = none →
      (NMap.getD s.mgmt.errors 6 0 = 0 → NSet.has s.front.answered seq = false → Gives i s (fun s' => NMap.getD s'.mgmt.errors 6 0 = 1 ∧
        { s' with mgmt := s.mgmt } = s)) ∧
      (NSet.has s.front.answered seq = true → exec i s = .next s)
    let failed (i : Instr) (cause : Nat) : Prop := ∀ q, s.pageOf seq = some q →
      (∀ u t e f va lane, s.team? u = some t → t.id = u → t.frag? e = some f → f.latch = .page va lane → va / 4096 = q.page → s.ctxOf t.launch = q.ctx →
        Gives i s (fun s' => ∃ t', s'.team? u = some t' ∧ t'.status = .stopped)) ∧
      ∀ u t e f va lane, s.teamList.filter (fun t => s.ctxOf t.launch == q.ctx) = [t] → s.team? u = some t → t.id = u → t.frags = [(e, f)] →
        f.latch = .page va lane → va / 4096 = q.page → (∀ r ∈ s.reqs, r.team ≠ u) → (∀ n, n < 64 → s.slotOnPage q.ctx q.page n = false) →
        exec i s = .next ((takeFault s u e cause lane va 0).pageAnswered q seq)
    unknown (.pgrdoneFilled seq) ∧ unknown (.pgrdoneTranslationFault seq) ∧ unknown (.pgrdoneProtectionFault seq) ∧
    failed (.pgrdoneTranslationFault seq) 12 ∧ failed (.pgrdoneProtectionFault seq) 13 ∧
    ∀ q, s.pageOf seq = some q → Gives (.pgrdoneFilled seq) s (fun s' =>
      (∀ x ∈ s'.front.pages, x ∈ s.front.pages ∧ ¬(x.ctx = q.ctx ∧ x.page = q.page)) ∧ (∀ n ∈ q.seqs, n ≠ seq → NSet.has s'.front.answered n = true) ∧
      s'.reqs = s.reqs ∧ s'.mem = s.mem ∧
      ∀ u t e f, s.team? u = some t → t.frag? e = some f → ∃ t', s'.team? u = some t' ∧
        t'.frag? e = some (if s.ctxOf t.launch = q.ctx ∧ f.onPage q.page = true then { f with latch := .none } else f)))

/-- R82, R179, R181, R183, R185, R261, R263, R278, R279, R284, R285, R286, R375, R378: what becomes of a request that was not served at once. -/
def Obligations.RequestEvents : Prop := ∀ (s : State),
  -- at its home
  (∀ (r : Req) (t : Team) (p : LanePart) (l : Loc) (h : Hit) (s1 : State), AtHome s r t p l h s1 →
    let ty := (Ty.ofCode r.ty).getD .s32
    let n := ty.width / 8
    let o := leNat (s1.mem.hbm.read l.addr n)
    let ot := s1.mem.hbm.tagged l.addr n
    let x := leNat (p.data.take n)
    (∀ cls size d, r.op = .load cls size d → (cls = .inv → ∀ q, s.launch? t.launch = some q → q.icache = []) → Gives (.homeLoad r.id) s (fun s' =>
      Answered s s' r [(s1.mem.hbm.read l.addr p.len, (List.range p.len).any (fun i => s1.mem.hbm.tagged (l.addr + i) 1))] ∧ s'.mem.hbm = s1.mem.hbm)) ∧
    (∀ cls size c, r.op = .store cls size → cls = .plain ∨ cls = .strm → s1.ctx? (s.ctxOf t.launch) = some c → NSet.has c.exhausted t.launch = false →
      s1.versionRoom (s.ctxOf t.launch) (lineOf l.addr) ≠ 2 → t.status ≠ .stopped ∨ t.phaseDone = true → Gives (.writeNotice r.id) s (fun s' => Answered s s' r [([], false)] ∧ s'.mem.hbm = s1.mem.hbm ∧
        NoCopies s' l.addr p.data.length ∧ ∃ q, s'.mem.pend = [q] ∧ q.team = t.id ∧ q.launch = t.launch ∧ q.group = t.group ∧
          ∀ i, i < p.data.length → ∃ b, NMap.look q.bytes (l.addr + i) = some b ∧ b.val = p.data.getD i 0 ∧ b.tag = p.tag ∧ b.inL1 = (h.c && cls == .plain && s1.l1Room t.core l.addr))) ∧
    (∀ cls size, r.op = .store cls size → cls = .rlx ∨ cls = .rel → h.sync = false → Gives (.homeSyncStore r.id) s (fun s' =>
      Answered s s' r [([], false)] ∧ s'.mem.hbm = s1.mem.hbm.write l.addr p.data p.tag ∧ NoCopies s' l.addr p.data.length)) ∧
    (∀ op tc d, r.op = .atomic op tc d → h.sync = false → Gives (.homeAtomic r.id) s (fun s' => Answered s s' r [(leBytes n o, ot)] ∧
      s'.mem.hbm = s1.mem.hbm.write l.addr (leBytes n (atomNew ty op.val o x (leNat ((p.data.drop n).take n)))) (p.tag || (ot && op.val != 6)))) ∧
    ∀ op tc, r.op = .reduce op tc → Gives (.homeReduction r.id) s (fun s' => Answered s s' r [([], false)] ∧ s'.mem.hbm = s1.mem.hbm ∧
      ∃ q ∈ s'.mem.parts, q.core = t.core ∧ q.sector = sectorOf l.addr ∧ q.op = op ∧ q.ty = r.ty ∧ NMap.look q.vals l.addr = some (BitVec.ofNat 64 (x % 2 ^ ty.width)))) ∧
  -- a fill
  (∀ slice line, (s.channelWaits line = true → exec (.missFill slice line) s = .next s) ∧
    ∀ (r : Req) (t : Team) (p : LanePart) (l : Loc) (h : Hit) (s1 : State) cls size d, s.channelWaits line = false →
      NSet.has s.mgmt.badChan (hbmChannel (lineOf line)) = false → s.homeOf line = slice → s.reqs.filter (fun r => r.place == .miss && r.pa == some line) = [r] →
      r.op = .load cls size d → s.team? r.team = some t → r.parts = [p] → s.aim t p.lane p.va .read false r.op.isLd64 = (.at' l h, s1) → l.space = 0 →
      s.behind r = false → r.twins = [] → (cls = .inv → ∀ q, s.launch? t.launch = some q → q.icache = []) →
      NothingPending s → s.mem.locks = [] → s.mem.owned = [] → s.mem.updates = [] → s.fab.mcast = [] →
      Gives (.missFill slice line) s (fun s' =>
        Answered s s' r [(s1.mem.hbm.read l.addr p.len, (List.range p.len).any (fun i => s1.mem.hbm.tagged (l.addr + i) 1))] ∧ s'.mem.hbm = s1.mem.hbm)) ∧
  ∀ req r t p ps, s.req? req = some r → s.team? r.team = some t → t.id = r.team → r.parts = p :: ps →
    -- an answer
    (∀ data st, (∀ x ∈ s.reqs, x.place ≠ .atIssue) → ((r.place = .answered ∧ s.net.carries (.answer req) = false) ∨ (r.place = .remote ∧ r.answer = [] ∧ st = 0 ∧ ∃ l h s1, s.reqAim t r = (.at' l h, s1) ∧ l.space = 7)) →
      ∀ cls d bs, r.op = .load cls 4 (.v d) → ps = [] → p.off = 0 → p.len = 4 → bs.length = 4 → NSet.has t.vtag (vkey d.val p.lane) = false →
      (r.place = .answered → r.answer = [(bs, false)]) → (r.place = .remote → data = markAll false bs) →
      Gives (.memoryResponse req data st) s (fun s' => s'.mem = s.mem ∧ s'.reqs = s.reqs.filter (fun x => x.id != req) ∧
        ∃ t', s'.team? r.team = some t' ∧ t'.v d.val p.lane = BitVec.ofNat 32 (leNat bs) ∧ NSet.has t'.vtag (vkey d.val p.lane) = false ∧
          ∀ q, q ≠ vkey d.val p.lane → NMap.look t'.vec q = NMap.look t.vec q)) ∧
    (r.place = .remote → r.answer = [] → ∀ data,
      exec (.memoryResponse req data 1) s = .next ((s.reqScored t r).reqFault r 13 2) ∧
      exec (.memoryResponse req data 4) s = .next ((s.reqScored t r).reqFault r 14 2) ∧
      exec (.memoryResponse req data 2) s = .next ((s.reqScored t r).reqFault r 26 1)) ∧
    (r.place = .answered → s.net.carries (.answer req) = true → ∀ data st, exec (.memoryResponse req data st) s = .next s) ∧
    (t.status ≠ .stopped → s.helperOnly r = false → ∀ c v, ∃ t', (s.reqFault r c v).team? r.team = some t' ∧ t'.status = .stopped) ∧
    -- a load of helper lanes alone takes zeros instead (R38)
    (s.helperOnly r = true → ∀ c v, s.reqFault r c v = s.deliver r (r.parts.map (fun p => (List.replicate p.len 0, false)))) ∧
    -- the host links
    (∀ code l h s1, r.place = .remote → s.reqAim t r = (.at' l h, s1) → l.space = 5 → 1 ≤ code → code ≤ 4 →
      (r.op.isLoad = false → exec (.hostCompletionError req code) s = .next (s.reqFault r 33 code)) ∧
      (r.op.isLoad = true → code < 4 → exec (.hostCompletionError req code) s = .next (s.reqFault r 13 code)) ∧
      (r.op.isLoad = true → code = 4 → Gives (.hostCompletionError req code) s (fun s' => s'.req? req = some { r with since := s.clk } ∧ s'.teams = s.teams))) ∧
    -- hold limits and the Parenthesis
    (∀ c, r.place = .queue c →
      (s.heads r = false ∨ s.clk < r.since + dw (s.reg (.holdLim c)) 12 0 → exec (.holdLimitBounce req) s = .next s) ∧
      (s.heads r = true → r.since + dw (s.reg (.holdLim c)) 12 0 ≤ s.clk → (∀ x ∈ s.reqs, x.id = req → x = r) → Gives (.holdLimitBounce req) s (fun s' =>
        s'.req? req = some { r with place := .paren (s.bounceCause t r c), pa := none, since := s.clk } ∧ s'.mem = s.mem ∧
        ∀ x ∈ s.reqs, x.place = r.place → x.team = r.team → r.sameLine x = true → ∀ y ∈ s'.reqs, y.id = x.id → y.place = .paren (s.bounceCause t r c)))) ∧
    (∀ c, r.place = .paren c → let wait := if 16 ≤ c then Fin.ofNat 6 (c - 16) else if c = 0 ∨ c = 9 then 0 else (3 : Fin 6)
      (c = 5 ∨ c = 8 → exec (.backoffExpire req) s = .next s) ∧
      (c ≠ 5 → c ≠ 8 → s.clk < r.since + 2 * dw (s.reg (.holdLim wait)) 12 0 → exec (.backoffExpire req) s = .next s) ∧
      (c ≠ 5 → c ≠ 8 → r.since + 2 * dw (s.reg (.holdLim wait)) 12 0 ≤ s.clk → Gives (.backoffExpire req) s (fun s' =>
        s'.req? req = some { r with place := .paren 8 } ∧ s'.teams = s.teams ∧ s'.mem = s.mem))) ∧
    (s.eligible t r = false → exec (.parenthesisReissue req) s = .next s) ∧
    (s.eligible t r = true → (∃ x ∈ s.reqs, x.team = r.team ∧ x.id < r.id ∧ s.eligible t x = true) → exec (.parenthesisReissue req) s = .next s) ∧
    (s.eligible t r = true → (∀ x ∈ s.reqs, x.team = r.team → x.id < r.id → s.eligible t x = false) → r.op.isLoad = true → t.ovflow = [] → s.delays = [] →
      exec (.parenthesisReissue req) s = .next ((s.updTeam t.id (fun t => { t with ovflow := [] })).serve { r with pa := none, again := true }) ∧
      ∀ as s1, (s.updTeam t.id (fun t => { t with ovflow := [] })).perform { t with ovflow := [] } { r with pa := none, again := true } = (.answer as, s1) → s1.fab.mcast = [] →
        Gives (.parenthesisReissue req) s (fun s' => ∀ x ∈ s'.reqs, x.id ≠ req))

/-- R187, R188, R278, R282, R287, R288, R364: sectors flushed and recalled, write-updates of sync pages, packets on the networks, and the timers and
probes of locks. How deep a channel's buffer is and which of two free channels a packet takes is the model's choice (log 61). -/
def Obligations.CacheAndLockEvents : Prop := ∀ (s : State) (core : Fin 256) (sector : Nat),
  let flushed (keeps : Bool) (s' : State) : Prop := s'.mem.hbm = s.mem.hbm ∧ s'.teams = s.teams ∧ s'.reqs = s.reqs ∧ s'.mem.pend.length = s.mem.pend.length ∧
    ∀ (i : Nat) (p : Pend), s.mem.pend[i]? = some p → ∃ p', s'.mem.pend[i]? = some p' ∧ { p' with bytes := [] } = { p with bytes := [] } ∧
      ∀ a, NMap.look p'.bytes a = (NMap.look p.bytes a).map (fun b => if p.core = core.val ∧ sectorOf a = sector then { b with inL1 := false, kept := keeps && (b.kept || b.inL1) } else b)
  Gives (.sectorFlush core sector) s (fun s' => flushed true s' ∧ s'.cores = s.cores) ∧
  Gives (.recall core sector) s (fun s' => flushed false s' ∧ NSet.has (s'.coreSt core.val).clean sector = false ∧ NSet.has (s'.coreSt core.val).ro sector = false ∧
    (∀ x, x ≠ sector → NSet.has (s'.coreSt core.val).clean x = NSet.has (s.coreSt core.val).clean x ∧ NSet.has (s'.coreSt core.val).ro x = NSet.has (s.coreSt core.val).ro x) ∧
    ∀ c, c ≠ core.val → s'.coreSt c = s.coreSt c) ∧
  (∀ upd c, (s.net.carries (.update upd c) || s.net.carries (.updated upd c)) = true → exec (.writeUpdate upd c) s = .next s) ∧
  (∀ upd c, (s.net.carries (.update upd c) || s.net.carries (.updated upd c)) = false → Gives (.writeUpdate upd c) s (fun s' => s'.mem.hbm = s.mem.hbm ∧ s'.teams = s.teams ∧
    ∀ u ∈ s.mem.updates, (if u.id = upd then { u with waiting := u.waiting.filter (· != c) } else u) ∈ s'.mem.updates)) ∧
  (∀ upd u, s.mem.updates.find? (fun u => u.id == upd) = some u → u.waiting ≠ [] → exec (.updateSwitch upd) s = .next s) ∧
  (∀ (u : Update) (r : Req) (t : Team) (p : LanePart) (l : Loc) (h : Hit) (s1 : State) cls size, s.mem.updates = [u] → u.waiting = [] → u.inb = none → s.req? u.req = some r →
    r.place = .update → r.twins = [] → s.team? r.team = some t → r.parts = [p] → r.op = .store cls size → cls = .rlx ∨ cls = .rel →
    (s.updMem (fun m => { m with updates := [] })).aim t p.lane p.va .write false false = (.at' l h, s1) → l.space = 0 →
    NothingPending s → s.mem.locks = [] → s.mem.owned = [] → s.fab.mcast = [] → Gives (.updateSwitch u.id) s (fun s' => s'.mem.updates = [] ∧
      Answered s s' r [([], false)] ∧ s'.mem.hbm = s1.mem.hbm.write l.addr p.data p.tag ∧
      (h.sync = true → ∀ c, NSet.has (s1.coreSt c).ro (sectorOf l.addr) = true → NSet.has (s'.coreSt c).ro (sectorOf l.addr) = true))) ∧
  -- a packet's way: along its row, along its column, over the bridge; the shorter way, at a distance of 4 the ascending one
  (∀ stop dst, stop < 128 → dst < 128 →
    let far := stop / 64 ≠ dst / 64
    let x := stop % 8
    let y := stop / 8 % 8
    let tx := if far then (if stop / 64 = 0 then 7 else 0) else dst % 8
    let ty := dst / 8 % 8
    (x ≠ tx → netOut stop dst = if (tx + 8 - x) % 8 ≤ 4 then 1 else 2) ∧ (x = tx → y ≠ ty → netOut stop dst = if (ty + 8 - y) % 8 ≤ 4 then 3 else 4) ∧
    (x = tx → y = ty → far → netOut stop dst = 5 ∧ netNext stop 5 = 64 * (dst / 64) + 8 * y + (if stop / 64 = 0 then 0 else 7)) ∧
    (fun k => netNext k (netOut k dst))^[13] stop = dst) ∧
  -- a cycle loses no packet, and moves one by a stop of its way or leaves it
  (∀ k ∈ s.net.pkts, (∀ x ∈ s.net.pkts, x.id = k.id → x = k) → ∃ k' ∈ (s.net.cycle s.clk).pkts, k'.id = k.id ∧ k'.load = k.load ∧ k'.dst = k.dst ∧
    (k' = k ∨ (k.ready ≤ s.clk ∧ k.stop ≠ k.dst ∧ k'.stop = netNext k.stop (netOut k.stop k.dst) ∧
      k'.ready = s.clk + (if netOut k.stop k.dst = 5 then 8 else 2)))) ∧
  -- an output moves the packet that has waited 64 cycles and longest, else one of the highest class
  (∀ out k, s.net.winner s.clk out = some k → k ∈ s.net.movers s.clk out ∧ ∀ x ∈ s.net.movers s.clk out,
    (x.ready + 64 ≤ s.clk → k.ready ≤ x.ready) ∧ ((∀ y ∈ s.net.movers s.clk out, s.clk < y.ready + 64) → k.load.cls.rank ≤ x.load.cls.rank)) ∧
  -- locks
  (∀ team t, s.team? team = some t →
    let isLock (r : Req) : Prop := r.team = team ∧ ∃ d w has try', r.op = .lock d w has try'
    let due : Prop := ∃ r ∈ s.reqs, r.team = team ∧ ∃ d w try', r.op = .lock d w true try' ∧ w < s.clk
    (t.evicted = true ∨ t.status = .stopped ∨ ¬due → exec (.lockTimeout team) s = .next s) ∧
    (t.evicted = false → t.status ≠ .stopped → due → Gives (.lockTimeout team) s (fun s' =>
      (∃ t', s'.team? team = some t' ∧ { t' with frags := [], paths := [], lockOut := t.lockOut } = { t with frags := [], paths := [] } ∧ t'.lockOut = false ∧
        ∀ e, t'.frag? e = (t.frag? e).map (fun f => if f.latch = .waiting 1 then { f with latch := .done 1 } else f)) ∧
      (∀ u, u ≠ team → s'.team? u = s.team? u) ∧ (∀ k ∈ s'.mem.locks, ∀ q ∈ k.queue, q.1 ≠ team) ∧ (∀ r ∈ s'.reqs, ¬isLock r) ∧
      team ∉ (s'.coreSt t.core).waiters ∧ s'.mem.hbm = s.mem.hbm)) ∧
    (∀ line since, s.awaits team = some (line, since) →
      (s.clk < since + 65536 ∨ t.status = .stopped → exec (.deadlockProbe team) s = .next s) ∧
      (s.mem.locks.find? (fun k => k.line == line) = none → exec (.deadlockProbe team) s = .next s) ∧
      ∀ k h l2 c2 k2, s.mem.locks.find? (fun k => k.line == line) = some k → k.holder ≠ team → s.team? k.holder = some h →
        (h.status = .stopped ∨ s.awaits k.holder = none → exec (.deadlockProbe team) s = .next s) ∧
        (t.id = team → since + 65536 ≤ s.clk → t.status ≠ .stopped → h.status ≠ .stopped → s.awaits k.holder = some (l2, c2) →
          s.mem.locks.find? (fun k => k.line == l2) = some k2 → k2.holder = team → (∃ r ∈ s.reqs, isLock r) →
          Gives (.deadlockProbe team) s (fun s' => (∃ t', s'.team? team = some t' ∧ t'.status = .stopped) ∧ ∃ r, r ∈ s.reqs ∧ isLock r ∧
            s' = (takeFaultAt s team r.entry r.pc 18 0 0 line).record (s.ctxOf t.launch) (leBytes 8 (s.ctxOf t.launch * 2 ^ 48 + 3 * 2 ^ 32) ++ leBytes 8 0
              ++ leBytes 8 line ++ leBytes 8 (t.core * 256 + t.slot) ++ leBytes 8 l2 ++ leBytes 8 (h.core * 256 + h.slot) ++ List.replicate 16 0))))) ∧
  ∀ line k, s.mem.locks.find? (fun k => k.line == line) = some k →
    (k.absent = false ∨ s.clk < k.timer → exec (.absenceTimerExpire line) s = .next s) ∧
    (k.absent = true → k.timer ≤ s.clk → k.queue = [] → Gives (.absenceTimerExpire line) s (fun s' => s'.teams = s.teams ∧ s'.mem.hbm = s.mem.hbm ∧
      s'.mem.locks.find? (fun k => k.line == line) = some { k with timer := s.clk + 4096 })) ∧
    ∀ head since rest, k.absent = true → k.timer ≤ s.clk → k.queue = (head, since) :: rest → Gives (.absenceTimerExpire line) s (fun s' =>
      (∃ k', s'.mem.locks.find? (fun k => k.line == line) = some k' ∧ k'.holder = head ∧ k'.queue = rest ++ [(k.holder, s.clk)] ∧ k'.check = k.check ∧ k'.copy = k.check ∧
        k'.handoffs = min (2 ^ 32 - 1) (k.handoffs + 1) ∧ k'.timer = s.clk + 4096) ∧
      ∀ h, s.team? head = some h → h.evicted = false → ∃ h', s'.team? head = some h' ∧ h'.lockOut = false ∧
        ∀ e f, h.frag? e = some f → f.latch = .waiting 1 → ∃ f', h'.frag? e = some f' ∧ f'.latch = .done 0)

/-- R191, R192, R263, R281, R297, R299, R328, R344: arrivals counted, phases raised and committed, and the messages of peers. -/
def Obligations.PhaseEvents : Prop := ∀ (s : State) (core : Fin 256) (slot : Fin 64) (phase k : Nat),
  -- arrivals
  (∀ l h, s.launchOn slot.val core.val = some l → s.launch? l.id = some l → NMap.look l.heads core.val = some h →
    let p := h.hdr.phase
    let header (s' : State) (x : PhaseHdr) : Prop := ∃ l', s'.launch? l.id = some l' ∧ NMap.look l'.heads core.val = some { h with hdr := x } ∧
      ∀ c, c ≠ core.val → NMap.look l'.heads c = NMap.look l.heads c
    (phase % 65536 = p → Gives (.arrival core slot phase) s (fun s' =>
      header s' { h.hdr with expect := h.hdr.expect - 1, overrun := h.hdr.overrun || decide (h.hdr.expect ≤ 0) })) ∧
    (phase % 65536 ≠ p → phase % 65536 = (p + 1) % 65536 → Gives (.arrival core slot phase) s (fun s' => header s' { h.hdr with nextexp := h.hdr.nextexp - 1 })) ∧
    (phase % 65536 ≠ p → phase % 65536 ≠ (p + 1) % 65536 → Gives (.arrival core slot phase) s (fun s' => header s' { h.hdr with late := true }))) ∧
  (s.launchOn slot.val core.val = none →
    (∀ c, s.slotCtx slot.val = some c → exec (.arrival core slot phase) s = .next (s.event c.num 7 core.val 0 4 (core.val * 256 + slot.val) (phase % 65536))) ∧
    (s.slotCtx slot.val = none → Gives (.arrival core slot phase) s (fun s' => NMap.getD s'.mgmt.errors 3 0 = NMap.getD s.mgmt.errors 3 0 + 1 ∧
      { s' with mgmt := s.mgmt } = s))) ∧
  ∀ l, s.launch? k = some l → l.id = k →
    let new := (l.phase + 1) % 65536
    -- raising
    (∀ c h, NMap.look l.heads c = some h →
      (h.st = .flushing → h.hdr.expect ≤ 0 → s.storesOut k c = false → s.loadsOut k c = false → Gives (.phaseRaise k c) s (fun s' =>
        { s' with launches := [], net := s.net } = { s with launches := [] } ∧ s'.net.carries (.join k c) = true ∧ ∃ l', s'.launch? k = some l' ∧ NMap.look l'.heads c = some { h with st := .raised } ∧ { l' with heads := [] } = { l with heads := [] } ∧
          ∀ d, d ≠ c → NMap.look l'.heads d = NMap.look l.heads d)) ∧
      (h.st ≠ .flushing ∨ 0 < h.hdr.expect ∨ s.storesOut k c = true ∨ s.loadsOut k c = true → exec (.phaseRaise k c) s = .next s)) ∧
    -- the commit
    (s.treeUp l = false ∨ s.unreleased k = true → exec (.phaseCommit k) s = .next s) ∧
    (s.treeUp l = true → s.unreleased k = false → l.md = none → Gives (.phaseCommit k) s (fun s' =>
      (∃ l', s'.launch? k = some l' ∧ l'.phase = new ∧ l'.peers = [] ∧ l'.peerWait = l.peerDevs.filter (· != s.fab.self) ∧
        ∀ c h, NMap.look l.heads c = some h → ∃ h', NMap.look l'.heads c = some h' ∧ h'.st ≠ .raised ∧
          h'.hdr = { h.hdr with phase := new, expect := h.hdr.nextexp, nextexp := 0 }) ∧
      (∀ u t, s.team? u = some t → t.launch = k → ∃ t', s'.team? u = some t' ∧ SameRegisters t t' ∧
        (t.passed l.phase = true → t'.irrev = 0) ∧ (s'.unreleased k = false → t.passed l.phase = true → t'.phaseDone = false) ∧
        (s'.unreleased k = false → ∀ e f, t.frag? e = some f → ∃ f', t'.frag? e = some f' ∧ f' = { f with latch := released new f.latch })) ∧
      ∀ (q : Pend) d, s.mem.pend = [q] → s.mem.peerPend = [] → q.launch = k → q.phase ≠ new → d < 2 → (∀ e ∈ q.bytes, s.homeOf e.1 / 64 = d) → q.bytes ≠ [] →
        s'.mem.pend = [] ∧ (∀ pa b, NMap.look q.bytes pa = some b → s'.mem.hbm.bytes.read pa = b.val) ∧
        ∀ pa, NMap.look q.bytes pa = none → s'.mem.hbm.bytes.read pa = s.mem.hbm.bytes.read pa)) ∧
    (∀ m, s.treeUp l = true → s.unreleased k = false → l.md = some m → l.dead = false → m.initiator = false → m.sentRaised = false →
      Gives (.phaseCommit k) s (fun s' => s'.launch? k = some { l with md := some { m with sentRaised := true, raised := NSet.add m.raised s.fab.self } } ∧
        s'.mem = s.mem ∧ s'.teams = s.teams)) ∧
    (∀ die : Fin 2,
      (die.val ∉ l.dies ∨ s.net.carries (.commit k die.val) = true → exec (.commitBroadcast k die) s = .next s) ∧
      (die.val ∈ l.dies → s.net.carries (.commit k die.val) = false → Gives (.commitBroadcast k die) s (fun s' =>
        (∃ l', s'.launch? k = some l' ∧ l'.dies = l.dies.filter (· != die.val) ∧ l'.phase = l.phase) ∧
        ∀ p ∈ s'.mem.pend, p.launch = k → p.phase ≠ l.phase → ∀ e ∈ p.bytes, s.homeOf e.1 / 64 ≠ die.val))) ∧
    (∀ dev,
      (dev ∉ l.peerWait → exec (.peerCommitAck k dev) s = .next s) ∧
      (dev ∈ l.peerWait → Gives (.peerCommitAck k dev) s (fun s' => s'.mem.hbm = s.mem.hbm ∧
        ∃ l', s'.launch? k = some l' ∧ l'.peerWait = l.peerWait.filter (· != dev) ∧ l'.phase = l.phase))) ∧
    -- what a peer's launch has here
    ∀ src task,
      let named (p : PeerPend) : Prop := p.dev = src ∧ p.launch = k ∧ p.phase = phase % 65536
      Gives (.peerCommitMessage src { launch := k, phase := phase }) s (fun s' => (∀ p ∈ s'.mem.peerPend, ¬named p) ∧
        (∀ p ∈ s.mem.peerPend, ¬named p → p.bytes ≠ [] → keepLines p.spilled p.bytes = p.spilled → p ∈ s'.mem.peerPend) ∧
        ((∀ p ∈ s.mem.pend, p.bytes ≠ [] ∧ keepLines p.spilled p.bytes = p.spilled) → s'.mem.pend = s.mem.pend) ∧ s'.teams = s.teams ∧
        ∀ q, s.mem.peerPend = [q] → named q →
          (∀ pa b, NMap.look q.bytes pa = some b → s'.mem.hbm.bytes.read pa = b.val) ∧
          ∀ pa, NMap.look q.bytes pa = none → s'.mem.hbm.bytes.read pa = s.mem.hbm.bytes.read pa) ∧
      Gives (.peerDiscardMessage src task) s (fun s' => { s' with mem := s.mem } = s ∧ { s'.mem with peerPend := [] } = { s.mem with peerPend := [] } ∧
        ∀ p, p ∈ s'.mem.peerPend ↔ p ∈ s.mem.peerPend ∧ ¬(p.dev = src ∧ p.task = task))

/-- R212, R213, R214, R221, R222, R223, R230, R338, R339, R393: engine operations started, landed and completed, copies, and resets of a pair's engine. -/
def Obligations.EngineEvents : Prop := ∀ (s : State) (op group : Nat) (pair : Fin 128) (h : Fin 8) (entry : List Byte),
  (∀ (o : EngineOp), s.engineOp? op = some o → (s.pairSt o.pair).ops.find? (fun x => x.id == op) = some o →
    let p := s.pairSt o.pair
    let ended (s' : State) : Prop := (∀ x ∈ (s'.pairSt o.pair).ops, x.id ≠ op) ∧ ∀ u, s.team? o.team = some u → u.id = o.team →
      ∃ u', s'.team? o.team = some u' ∧ ∀ f, u'.flag f = u.flag f - if f = o.flag ∧ f < 12 then 1 else 0
    -- start
    (∀ before after, p.ops = before ++ o :: after → o.started = false → o.op ≠ 0x98 → p.resetAt = none → (∀ x ∈ before, x.id ≠ op) →
      ((∀ x ∈ p.ops, x.started = true → x.laneNo ≠ o.laneNo) → (∀ x ∈ before, x.laneNo ≠ o.laneNo ∧ x.conflicts o = false) →
        Gives (.engineOpStart op) s (fun s' => (s'.pairSt o.pair).ops.find? (fun x => x.id == op) = some { o with started := true, since := s.clk } ∧ s'.mem = s.mem ∧ s'.teams = s.teams)) ∧
      ((∃ x ∈ p.ops, x.started = true ∧ x.laneNo = o.laneNo) ∨ (∃ x ∈ before, x.conflicts o = true) → exec (.engineOpStart op) s = .next s)) ∧
    -- completion
    (o.started = false ∨ o.op = 0x98 → exec (.engineOpComplete op) s = .next s) ∧
    (o.started = true → o.toMemory = true → (o.loaded = false ∨ o.outs ≠ [] → exec (.engineOpComplete op) s = .next s) ∧
      (o.loaded = true → o.outs = [] → o.held = none → Gives (.engineOpComplete op) s ended)) ∧
    (o.held ≠ none → exec (.engineOpComplete op) s = .next s ∧ exec (.copyLineLand op) s = .next s) ∧
    (o.started = true → o.toMemory = false → o.op ≠ 0x98 → o.held = none →
      (s.matrixEffect o = none → exec (.engineOpComplete op) s = .next s) ∧
      (∀ m s1, s.matrixEffect o = some (m, s1) → Gives (.engineOpComplete op) s (fun s' => ∀ x ∈ (s'.pairSt o.pair).ops, x.id ≠ op)) ∧
      (o.op = 0x8B → o.srcs = [] → Gives (.engineOpComplete op) s (fun s' => let p' := s'.pairSt o.pair
        ended s' ∧ p'.bufs = p.bufs ∧ ∀ i j, i < 256 → j < 256 → ∀ t, t < 2 →
          (t = selTile o.d.toNat → NMap.getD p'.tile (accKey t i j) 0 = 0 ∧ NSet.has p'.tileTag (accKey t i j) = false ∧ p'.rowG t i = genInit i) ∧
          (t ≠ selTile o.d.toNat → NMap.getD p'.tile (accKey t i j) 0 = NMap.getD p.tile (accKey t i j) 0 ∧ p'.rowG t i = p.rowG t i))) ∧
      (∀ bs s1, o.op = 0x8C → accBytes ((Ty.ofCode o.ty).getD .f32) = 4 → s.sourcesBusy o = false → s.engineRead (pairDie o.pair) (s.team? o.team) o.srcs = (bs, s1) →
        Gives (.engineOpComplete op) s (fun s' => let p' := s'.pairSt o.pair
          ∀ i j, i < 256 → j < 256 → NMap.getD p'.tile (accKey (selTile o.d.toNat) i j) 0 = BitVec.ofNat 32 (leNat (((bytesOf bs).drop (4 * (256 * i + j))).take 4))))) ∧
    -- landing
    (o.started = false ∨ (o.toMemory = false ∧ o.op ≠ 0x98) → exec (.copyLineLand op) s = .next s) ∧
    (o.loaded = false → s.sourcesBusy o = true → exec (.copyLineLand op) s = .next s) ∧
    (∀ w rest, o.started = true → o.toMemory = true ∨ o.op = 0x98 → o.loaded = true → o.held = none → o.outs = w :: rest → w.loc.space = 0 →
      ((s.lockAt w.loc.addr).isSome → exec (.copyLineLand op) s = .next s) ∧
      (s.lockAt w.loc.addr = none → NMap.look s.mem.owned w.loc.key = some [op] → NMap.above 0 w.bytes = true → Gives (.copyLineLand op) s (fun s' =>
        (∀ a b m, NMap.look w.bytes a = some (b, m) → s'.mem.hbm.bytes.read a = b) ∧
        (∀ a, NMap.look w.bytes a = none → s'.mem.hbm.bytes.read a = s.mem.hbm.bytes.read a) ∧
        (s'.pairSt o.pair).ops.find? (fun x => x.id == op) = some { o with outs := rest, since := s.clk } ∧ NMap.look s'.mem.owned w.loc.key = none ∧ s'.teams = s.teams)))) ∧
  -- copies
  (∀ g, s.groupOf group = some g →
    let x := g.handle h.val
    (∀ o, (s.pairSt (corePair g.core)).ops.find? (fun o => o.op == 0x98 && o.group == group && o.d.toNat == h.val) = some o →
      o.pair = corePair g.core → (o.loaded = false ∨ o.outs ≠ [] → exec (.copyFull group h) s = .next s) ∧
      (o.loaded = true → o.outs = [] → Gives (.copyFull group h) s (fun s' =>
        (∃ g', s'.groupOf group = some g' ∧ (g'.handle h.val).st = .full ∧ (g'.handle h.val).running = false ∧ (g'.handle h.val).bytes = x.bytes ∧
          ∀ k, k ≠ h.val → g'.handle k = g.handle k) ∧
        (∀ y ∈ (s'.pairSt (corePair g.core)).ops, y.id ≠ o.id) ∧ s'.mem.hbm = s.mem.hbm ∧
        (∀ u t e f, s.team? u = some t → t.launch = g.launch → t.group = g.num → t.frag? e = some f → ∃ t', s'.team? u = some t' ∧
          t'.frag? e = some (if f.latch = .waiting (16 + h.val) then { f with latch := .done 0 } else f)) ∧
        ∀ (c : Slice) t, x.slices = [c] → s.team? c.team = some t → ∃ t', s'.team? c.team = some t' ∧ SameRegisters t t' ∧
          -- its count of path 5 falls in its turn
          (s.groups = [g] → g.handles = [(h.val, x)] → c.inst ≠ 0 → t.path 5 = [c.inst] → s.instOut c.inst 5 = false → (∀ y ∈ s.fab.transfers, y.inst ≠ c.inst) → t'.path 5 = []) ∧
          ∀ f, t'.flag f = t.flag f - if f = c.flag ∧ f < 12 then 1 else 0))) ∧
    let loads : Prop := ∃ r ∈ s.reqs, r.team = x.release ∧ r.op.isLoad = true ∧ r.inst < x.mark ∧ ∃ p ∈ r.parts, p.va < x.base + x.len ∧ x.base < p.va + p.len
    (x.st ≠ .draining ∨ loads → exec (.handleDrainDone group h) s = .next s) ∧
    (x.st = .draining → ¬loads → Gives (.handleDrainDone group h) s (fun s' => { s' with groups := [], teams := [] } = { s with groups := [], teams := [] } ∧
      (∃ g', s'.groupOf group = some g' ∧ g'.handle h.val = { x with st := .free, slices := [] } ∧ ∀ k, k ≠ h.val → g'.handle k = g.handle k) ∧
      -- the CPSLs that wait for the handle look again
      ∀ u t e f, s.team? u = some t → t.frag? e = some f → ∃ t', s'.team? u = some t' ∧
        t'.frag? e = some (if t.launch = g.launch ∧ t.group = g.num ∧ f.latch = .waiting (32 + h.val) then { f with latch := .done (32 + h.val) } else f)))) ∧
  -- the sparsity queue
  (let p := s.pairSt pair.val;
    (entry.length ≠ 128 ∨ 32 ≤ p.spq.length → exec (.sparsityEntryArrive pair entry) s = .next s) ∧
    (entry.length = 128 → p.spq.length < 32 →
      ((∀ o ∈ p.ops, ¬(o.started = true ∧ o.op = 0x8A ∧ o.rd.contains 11 = true)) → Gives (.sparsityEntryArrive pair entry) s (fun s' =>
        s'.pairSt pair.val = { p with spq := p.spq ++ [entry] })) ∧
      ∀ o x, p.ops.find? (fun o => o.started && o.op == 0x8A && o.rd.contains 11) = some o → Inflection.of o.recd = some x → p.spq = [] → o.spm.length < x.k' / 4 →
        Gives (.sparsityEntryArrive pair entry) s (fun s' => (s'.pairSt pair.val).spq = [] ∧
          (s'.pairSt pair.val).ops = p.ops.map (fun y => if y.id = o.id then { y with spm := y.spm ++ [entry] } else y)))) ∧
  -- resets of the engine
  (let p := s.pairSt pair.val
    let starts (i : Instr) (by' : Bool) : Prop := p.resetAt = none → Gives i s (fun s' => let p' := s'.pairSt pair.val
      p'.resetAt = some (s.clk + 2048) ∧ p'.resetBy = by' ∧ (∀ r, p'.owner r = none) ∧ (∀ x, x ∈ p'.ops ↔ x ∈ p.ops ∧ (∀ y ∈ p.ops, y.op ≠ 0x98 → y.id ≠ x.id)) ∧
      (∀ o ∈ p.ops, o.op ≠ 0x98 → ∀ u, s.team? o.team = some u → u.id = o.team → ∃ u', s'.team? o.team = some u' ∧ u'.status = .stopped) ∧
      ∀ g ∈ s.groups, (∃ r, r < 12 ∧ p.owner r = some (groupKey g.launch g.num)) → corePair g.core = pair.val →
        ∃ g' ∈ s'.groups, g'.launch = g.launch ∧ g'.num = g.num ∧ g'.lost = true)
    starts (.matrixResetError pair) false ∧ (p.resetAt ≠ none → exec (.matrixResetError pair) s = .next s) ∧
    starts (.mxresetWrite (BitVec.ofNat 64 (2 ^ 63 + pair.val))) true ∧
    (∀ w : DWord, w.getLsbD 63 = false → exec (.mxresetWrite w) s = .next { s with mgmt := { s.mgmt with mxPair := dw w 6 0 } }) ∧
    (p.resetAt = none → exec (.matrixResetDone pair) s = .next s) ∧
    ∀ due, p.resetAt = some due → (s.clk < due → exec (.matrixResetDone pair) s = .next s) ∧
      (due ≤ s.clk → Gives (.matrixResetDone pair) s (fun s' => s'.pairSt pair.val = { PairSt.reset with ops := p.ops.filter (fun o => o.op == 0x98) } ∧
        ∀ u t, s.team? u = some t → t.id = u → ∃ t', s'.team? u = some t' ∧ SameRegisters t t' ∧
          (t.evicted = false → t.status ≠ .ended → corePair t.core = pair.val → (t'.port 0).q = [] ∧ (t'.port 8).q = []))))

/-- R215, R230, R232, R244, R251: the commands that a team pushes to its engines. -/
def Obligations.QueueCommandEvents : Prop := ∀ (s : State) (n : Nat) (t : Team), s.team? n = some t → ∀ (x : DWord) (rest : List DWord),
  let code := x.toNat / 2 ^ 60 % 16
  let bad (i : Instr) (q : Nat) : Prop := (t.port (8 + q)).q = x :: rest → (t.port q).ovf = false → Replies i s n q t rest (0xFF * 2 ^ 56 + if q = 2 then s.clk % 2 ^ 32 else s.clk % 2 ^ 48)
  (∀ i q, (i, q) ∈ [(Instr.matrixQueryCommand n, 0), (.matrixBadCommand n, 0), (.copyCancel n, 1), (.copyProgress n, 1), (.copyBadCommand n, 1),
    (.conjunctionQueryCommand n, 2), (.conjunctionBadCommand n, 2), (.fabricQueryCommand n, 3), (.fabricBadCommand n, 3)] →
    (t.port (8 + q)).q = [] → exec i s = .next s) ∧
  -- q0
  ((t.port 8).q = x :: rest →
    (code = 1 → Replies (.matrixQueryCommand n) s n 0 t rest ((s.pairSt (corePair t.core)).word (groupKey t.launch t.group)) ∧ exec (.matrixBadCommand n) s = .next s) ∧
    (code ≠ 1 → exec (.matrixQueryCommand n) s = .next s ∧ bad (.matrixBadCommand n) 0)) ∧
  -- q3
  ((t.port 11).q = x :: rest →
    (code = 1 → Replies (.fabricQueryCommand n) s n 3 t rest (s.portWord n (x.toNat % 8)) ∧ exec (.fabricBadCommand n) s = .next s) ∧
    (code ≠ 1 → exec (.fabricQueryCommand n) s = .next s ∧ bad (.fabricBadCommand n) 3)) ∧
  -- q2
  (∀ c, s.ctx? (s.ctxOf t.launch) = some c → (t.port 10).q = x :: rest →
    let ok : Prop := code = 1 ∧ c.cjIn (x.toNat / 8192 % 2) (x.toNat % 8192) = true
    (ok → Replies (.conjunctionQueryCommand n) s n 2 t rest (s.cjWord (x.toNat % 16384)) ∧ exec (.conjunctionBadCommand n) s = .next s) ∧
    (¬ok → exec (.conjunctionQueryCommand n) s = .next s ∧ bad (.conjunctionBadCommand n) 2)) ∧
  -- q1
  (∀ g, s.group? t.launch t.group = some g → (t.port 9).q = x :: rest →
    let h := x.toNat % 8
    let y := g.handle h
    let word (st : Nat) : Nat := st * 2 ^ 60 + h * 2 ^ 48 + y.bytes % 2 ^ 48
    let record (i : Instr) (st : Nat) : Prop :=
      ((t.port 1).q.length < 8 → Replies i s n 1 t rest (word st)) ∧
      (8 ≤ (t.port 1).q.length → Gives i s (fun s' => (∃ t', s'.team? n = some t' ∧ SameRegisters t t' ∧ (t'.port 9).q = rest ∧ t'.port 1 = t.port 1) ∧
        ∃ g', s'.group? t.launch t.group = some g' ∧ g'.handle h = { y with pending := y.pending ++ [(n, BitVec.ofNat 64 (word st))] } ∧
          ∀ k, k ≠ h → g'.handle k = g.handle k))
    (code ≠ 1 → exec (.copyCancel n) s = .next s) ∧ (code ≠ 2 → exec (.copyProgress n) s = .next s) ∧
    (code = 1 ∨ code = 2 → exec (.copyBadCommand n) s = .next s) ∧ (code ≠ 1 → code ≠ 2 → record (.copyBadCommand n) 15) ∧
    (code = 2 → record (.copyProgress n) 0) ∧
    (code = 1 → y.st ≠ .filling ∨ y.running = true → record (.copyCancel n) 1) ∧
    (code = 1 → y.st = .filling → y.running = false → Gives (.copyCancel n) s (fun s' => (∃ t', s'.team? n = some t' ∧ (t'.port 9).q = rest) ∧
      (∃ g', s'.group? t.launch t.group = some g' ∧ (g'.handle h).st = .free ∧ (g'.handle h).aborted = true ∧ (g'.handle h).slices = []) ∧
      ∀ u v e f, u ≠ n → s.team? u = some v → v.launch = t.launch → v.group = t.group → v.frag? e = some f → f.latch = .waiting (16 + h) →
        ∃ v', s'.team? u = some v' ∧ v'.frag? e = some { f with latch := .done 2 })))

/-- R236, R238, R239, R241, R247, R249, R250, R294, R295, R298, R374, R375, R388: packets formed, acknowledged and timed out,
requests of peers, multicast, and the rounds of the Conjunction Engine. What a peer answers is a free value (log 12). -/
def Obligations.FabricPacketEvents : Prop := ∀ (s : State) (n num status : Nat) (data : Marked),
  let gone (s' : State) : Prop := ∀ y ∈ s'.fab.transfers, y.id ≠ n
  let written (s' : State) (a : Nat) (bs : Marked) : Prop := ∀ i, i < bs.length → s'.mem.hbm.bytes.read (a + i) = (bs.getD i (0, false)).1
  let counts (s' : State) (ref k : Nat) : Prop := refOn ref = true → s.mem.ctr.tagged (refAddr ref) 8 = false → s'.counter (refAddr ref) = (s.counter (refAddr ref) + k) % 2 ^ 64
  let falls (s' : State) (x : Transfer) : Prop := ∀ u, s.team? x.team = some u → ∃ u', s'.team? x.team = some u' ∧ SameRegisters u u' ∧
    ∀ f, u'.flag f = u.flag f - if f = x.flag ∧ f < 12 then 1 else 0
  (∀ x, s.fab.transfers.find? (fun x => x.id == n) = some x →
    let off := x.formed
    let m := min (256 - (x.dst + x.formed) % 256) (x.len - x.formed)
    -- forming a packet
    (x.kind ≠ 1 → x.failing = true ∨ x.len ≤ x.formed → exec (.packetForm n) s = .next s) ∧
    (∀ (l : Loc) (bs : Marked) (s1 : State), x.kind ≠ 1 → x.kind ≠ 3 → x.failing = false → x.formed < x.len → x.dstLoc off = some l → l.space = 0 →
      ¬(x.len ≤ off + m ∧ x.pd.getLsbD 30 = true ∧ ∃ k ∈ x.packets, k.port ≠ 8) →
      s.segsBusy (segSlice x.srcs off m) = false → State.engineRead s (coreDie x.core) (s.team? x.team) (segSlice x.srcs off m) = (bs, s1) →
      (NMap.look s1.mem.owned l.key = none → s1.lockAt l.addr = none → Gives (.packetForm n) s (fun s' => written s' l.addr bs ∧ (refOn x.lctr = false → counts s' x.rctr m) ∧
        (off + m < x.len → ∃ y, s'.fab.transfers.find? (fun x => x.id == n) = some y ∧ y.formed = off + m ∧ y.packets = x.packets.filter (fun k => k.num != off + 1) ∧ y.status = x.status) ∧
        (x.len ≤ off + m → x.packets = [] → gone s' ∧ falls s' x ∧ (refOn x.rctr = false → counts s' x.lctr x.len)))) ∧
      ((NMap.look s1.mem.owned l.key).isSome ∨ (s1.lockAt l.addr).isSome → exec (.packetForm n) s = .next s)) ∧
    (∀ (l : Loc) (bs : Marked) (s1 s2 : State) p, x.kind = 0 ∨ x.kind = 2 → x.failing = false → x.formed < x.len → x.dstLoc off = some l → isFar l = true →
      s.devOf l ≠ s.fab.self → x.pin = none → s.packetData x off m = some (bs, s1) → s1.choosePort (coreDie x.core) (s.devOf l) (fun _ => false) = (.port p, s2) →
      s2.portTakes p = true → Gives (.packetForm n) s (fun s' =>
        -- its flits enter the send window as far as it has room, the rest stands at the port
        let k := max 1 ((m + 63) / 64)
        let room := s2.window p - (s2.port p).unacked.length
        (∃ y, s'.fab.transfers.find? (fun x => x.id == n) = some y ∧ y.formed = off + m ∧ y.status = x.status ∧ y.packets = x.packets ++
          [{ num := off + 1, off := off, len := m, port := p, path := s2.choosePath p (s.devOf l), since := s.clk, resends := 0 }]) ∧
        (s'.port p).unacked = (s2.port p).unacked ++ (List.range (min k room)).map (fun i => ((s2.port p).nextSeq + i) % 4096) ∧
        (s'.port p).out = if k ≤ room then [] else [k - room])) ∧
    -- an acknowledgement
    (∀ k, x.packets.find? (fun k => k.num == num && k.port != 8) = some k →
      (status ≠ 0 → status ≠ 1 → status ≠ 3 → exec (.packetAck n num status data) s = .next s) ∧
      (x.kind ≠ 1 → status = 0 → x.status = 0 →
        let rest := x.packets.filter (fun k => k.num != num)
        (rest ≠ [] ∨ x.formed < x.len → Gives (.packetAck n num status data) s (fun s' => ∃ y, s'.fab.transfers.find? (fun x => x.id == n) = some y ∧ y.packets = rest ∧ y.status = 0)) ∧
        (rest = [] → x.len ≤ x.formed → Gives (.packetAck n num status data) s (fun s' => gone s' ∧ falls s' x ∧ counts s' x.lctr (if x.kind = 3 then 1 else x.len)))) ∧
      (x.status = 0 → status = 1 → x.packets.filter (fun k => k.num != num) = [] → Gives (.packetAck n num status data) s (fun s' => gone s' ∧ falls s' x ∧ s'.mem.ctr = s.mem.ctr)) ∧
      (∀ l, x.kind = 1 → status = 0 → x.data = [] → data.length = k.len → x.dstLoc k.off = some l → l.space = 0 → NMap.look s.mem.owned l.key = none → s.lockAt l.addr = none →
        Gives (.packetAck n num status data) s (fun s' => written s' l.addr data)) ∧
      -- its timeout
      (num ≠ 0 → (s.port k.port).retrain = true ∨ s.clk < k.since + s.e2eCycles → exec (.endToEndTimeout n num) s = .next s) ∧
      (num ≠ 0 → x.kind ≠ 1 → (s.port k.port).retrain = false → k.since + s.e2eCycles ≤ s.clk → (s.port k.port).up = true →
        (s.e2eResends ≤ k.resends → x.status = 0 → x.packets = [k] → Gives (.endToEndTimeout n num) s (fun s' => gone s' ∧ falls s' x ∧ s'.mem.ctr = s.mem.ctr)) ∧
        ∀ dev q i s1, k.resends < s.e2eResends → (x.farLoc k.off).map s.devOf = some dev → (s.markPath k.port dev k.path).nextWay x.pin.isSome (coreDie x.core) k dev = (some (q, i), s1) →
          Gives (.endToEndTimeout n num) s (fun s' => NMap.look s'.fab.marks (pathKey k.port dev k.path) = some (s.clk + 3000000) ∧
            ∃ y, s'.fab.transfers.find? (fun x => x.id == n) = some y ∧ y.packets = x.packets.map (fun y => if y.num = num
              then { y with port := q, path := i, since := s.clk, resends := y.resends + 1 } else y))))) ∧
  (∀ port dev path, (NMap.look s.fab.marks (pathKey port.val dev path) = none → exec (.failedPathMarkExpire port dev path) s = .next s) ∧
    ∀ t, NMap.look s.fab.marks (pathKey port.val dev path) = some t → (s.clk < t → exec (.failedPathMarkExpire port dev path) s = .next s) ∧
      (t ≤ s.clk → Gives (.failedPathMarkExpire port dev path) s (fun s' => NMap.look s'.fab.marks (pathKey port.val dev path) = none ∧ s'.fab.transfers = s.fab.transfers))) ∧
  -- requests of peers
  (∀ r : InboundReq, r.addr.getLsbD 63 = false →
    let a := r.addr.toNat
    let len := inLen r
    (s.fab.performed.contains (r.src, r.seq) = true → Gives (.fyoloInbound r) s (fun s' => s'.mem = s.mem ∧ s'.teams = s.teams)) ∧
    (s.fab.performed.contains (r.src, r.seq) = false → r.kind ≠ .trigger → (∀ q, r.kind ≠ .spdm q) →
      (s.granted (inRight r.kind) a len = false → Gives (.fyoloInbound r) s (fun s' => s'.mem = s.mem ∧ s'.teams = s.teams ∧ s'.fab.performed = s.fab.performed)) ∧
      (s.granted (inRight r.kind) a len = true → s.inboundWaits r a len = true → r ∉ s.fab.waiting → Gives (.fyoloInbound r) s (fun s' =>
        { s'.mem with updates := [] } = { s.mem with updates := [] } ∧ s'.fab.waiting = s.fab.waiting ++ [r])) ∧
      (s.granted (inRight r.kind) a len = true → s.inboundWaits r a len = false → r.kind = .put ∨ r.kind = .bulk ∨ r.kind = .send ∨ (r.kind = .store ∧ 2 ≤ r.etype) →
        Gives (.fyoloInbound r) s (fun s' => written s' a r.data ∧ (r.src, r.seq) ∈ s'.fab.performed)) ∧
      (s.granted 1 a len = true → s.inboundWaits r a len = false → r.kind = .store → r.etype < 2 → s.mem.parts = [] →
        s.versionRoom (dw r.rctr 63 48) (lineOf a) ≠ 2 → Gives (.fyoloInbound r) s (fun s' => s'.mem.hbm = s.mem.hbm ∧
        ∃ p ∈ s'.mem.peerPend, ownPend r p = true ∧ ∀ i, i < r.data.length → ∃ b, NMap.look p.bytes (a + i) = some b ∧ b.val = (r.data.getD i (0, false)).1 ∧
          ((r.data.getD i (0, false)).2 = true → b.tag = true) ∧ (s.mem.peerPend = [] → (∀ m ∈ r.data, m.2 = false) → b.tag = false))))) ∧
  (∀ m, s.fab.mcast.find? (fun m => m.id == n) = some m →
    (m.left = [] → Gives (.multicastForward n) s (fun s' => (∀ y ∈ s'.fab.mcast, y.id ≠ n) ∧ s'.mem = s.mem)) ∧
    ∀ dev rest, m.left = dev :: rest →
      let held : Prop := ∃ x ∈ s.fab.mcast, x.id < n ∧ x.req.addr.toNat / 256 = m.req.addr.toNat / 256 ∧ dev ∈ x.left
      (held → exec (.multicastForward n) s = .next s) ∧
      (¬held → rest ≠ [] → Gives (.multicastForward n) s (fun s' => ∃ y, s'.fab.mcast.find? (fun m => m.id == n) = some y ∧ y.left = rest ∧ y.req = m.req)) ∧
      (¬held → rest = [] → Gives (.multicastForward n) s (fun s' => ∀ y ∈ s'.fab.mcast, y.id ≠ n))) ∧
  -- the Conjunction Engine
  (∀ die : Fin 2, (NMap.getD s.conj.queue die.val [] = [] ∨ s.inService 5 die.val = false → exec (.conjunctionRoundIssue die) s = .next s) ∧
    ∀ key rest x, NMap.getD s.conj.queue die.val [] = key :: rest → s.inService 5 die.val = true → NMap.look s.conj.slots key = some x →
      cjOp x.desc ≠ 1 → cjOp x.desc ≠ 5 → Gives (.conjunctionRoundIssue die) s (fun s' =>
        let r : CjRound := { id := s.nextId, key := key, num := x.issued, ctx := x.ctx, desc := x.desc, srcs := x.srcs, dsts := x.dsts
                             tag := if descBits x.desc 191 191 == 1 then (x.phase + x.issued) % 65536 else x.phase, ready := false, data := []
                             off := 0, old := none, status := 0, counted := false, far := false, aside := false, since := s.clk, packets := [] }
        s.roundOk r = true → (∃ y, NMap.look s'.conj.slots key = some y ∧ y.issued = x.issued + 1 ∧ y.flight = x.flight + 1 ∧ y.desc = x.desc ∧
            (y.st = .closing ↔ x.ends = true ∨ x.rounds ≤ x.issued + 1) ∧ (y.st ≠ .closing → y.thresh = (x.thresh + x.stride) % 2 ^ 64)) ∧
          ∃ r' ∈ s'.conj.rounds, r'.id = s.nextId ∧ r'.key = key ∧ r'.num = x.issued ∧ r'.desc = x.desc ∧ r'.tag = r.tag)) ∧
  ∀ r, s.conj.rounds.find? (fun r => r.id == n) = some r →
    let ended (s' : State) : Prop := ∀ y ∈ s'.conj.rounds, y.id ≠ n
    (r.aside = true → exec (.conjunctionRoundComplete n status data) s = .next s) ∧
    (r.aside = false → exec (.replayStoreReissue n) s = .next s) ∧
    (r.aside = true → Gives (.replayStoreReissue n) s (fun s' => s'.conj.rounds.find? (fun r => r.id == n) = some { r with aside := false, since := s.clk } ∧ s'.mem = s.mem)) ∧
    -- to another device: packet after packet, each by a port and path chosen for it, then the answer
    (∀ (p : Nat) (s1 : State), r.aside = false → r.ready = true → r.far = true → r.off < r.farLen →
      s.choosePort (r.key / 8192) (s.roundPeer r r.off) (fun _ => false) = (.port p, s1) → s1.portTakes p = true →
      let m := min (256 - (cjDst r.desc + r.off) % 256) (r.farLen - r.off)
      Gives (.conjunctionRoundComplete n status data) s (fun s' => s'.mem = s.mem ∧ s'.conj.rounds.find? (fun r => r.id == n) = some { r with
        off := r.off + m, since := s.clk, packets := r.packets ++
          [{ num := r.off, off := r.off, len := m, port := p, path := s1.choosePath p (s.roundPeer r r.off), since := s.clk, resends := 0 }] })) ∧
    (r.aside = false → r.ready = true → r.far = true → r.farLen ≤ r.off → cjOp r.desc ≠ 1 → cjOp r.desc ≠ 3 →
      (3 < status → exec (.conjunctionRoundComplete n status data) s = .next s) ∧
      (status = 0 → Gives (.conjunctionRoundComplete n status data) s (fun s' => ended s' ∧ counts s' (cjDone r.desc) 1)) ∧
      (∀ x, status = 1 ∨ status = 2 → NMap.look s.conj.slots r.key = some x → Gives (.conjunctionRoundComplete n status data) s (fun s' => ended s' ∧ s'.mem.ctr = s.mem.ctr ∧
        (x.flight ≤ 1 → NMap.look s'.conj.slots r.key = none) ∧
        (1 < x.flight → NMap.look s'.conj.slots r.key = some { x with flight := x.flight - 1, st := .closing, ends := true })))) ∧
    (∀ l, r.aside = false → r.ready = true → r.far = false → cjOp r.desc = 0 → r.off < cjLen r.desc → segAt r.dsts r.off = some l → l.space = 0 →
      let m := min (256 - (cjDst r.desc + r.off) % 256) (cjLen r.desc - r.off)
      (NMap.look s.mem.owned l.key ≠ none ∨ (s.lockAt l.addr).isSome → exec (.conjunctionRoundComplete n status data) s = .next s) ∧
      (NMap.look s.mem.owned l.key = none → s.lockAt l.addr = none → Gives (.conjunctionRoundComplete n status data) s (fun s' =>
        written s' l.addr ((r.data.drop r.off).take m) ∧
        (r.off + m < cjLen r.desc → r.status = 0 ∨ r.status = 3 → ∃ y, s'.conj.rounds.find? (fun r => r.id == n) = some y ∧ y.off = r.off + m))))

/-- R290, R291, R300, R303, R371, R372, R373, R379, R387, R388: the link layer of a port, the device number, the route cache and the host links. -/
def Obligations.FabricLinkEvents : Prop := ∀ (s : State) (port : Fin 8) (die : Fin 2) (seq lane : Nat) (ok : Bool) (v : DWord),
  let x := s.port port.val
  let becomes (s' : State) (y : PortSt) : Prop := s'.port port.val = y ∧ (∀ p, p ≠ port.val → s'.port p = s.port p) ∧ s'.mem = s.mem ∧ s'.teams = s.teams ∧ s'.reqs = s.reqs
  -- flits that waited at the port leave while its send window admits them
  let pumped (y : PortSt) : PortSt :=
    let k := if y.up = true then min (y.out.foldl (· + ·) 0) (s.window port.val - y.unacked.length) else 0
    if k = 0 then y else { y with unacked := y.unacked ++ (List.range k).map (fun i => (y.nextSeq + i) % 4096), nextSeq := (y.nextSeq + k) % 4096, out := dropFlits k y.out }
  let down (y : PortSt) : PortSt := { y with up := false, retrain := halfOk y.laneOk 0 || halfOk y.laneOk 1, replays := 0, since := s.clk }
  -- flits
  Gives (.flitReceive port seq ok) s (fun s' => becomes s' (if ok = false then { x with nakOut := true }
    else if seq = x.recvSeq then { x with recvSeq := (x.recvSeq + 1) % 4096, nakOut := false } else x)) ∧
  (seq ∉ x.unacked → Gives (.linkAck port seq) s (fun s' => becomes s' x) ∧ exec (.linkNak port seq) s = .next s) ∧
  (x.up = false → exec (.linkNak port seq) s = .next s) ∧
  (∀ before after, x.unacked = before ++ seq :: after → seq ∉ before →
    Gives (.linkAck port seq) s (fun s' => becomes s' (pumped { x with unacked := after, replays := 0, since := s.clk })) ∧
    (x.up = true → let k := (if before = [] then x.replays else 0) + 1
      (k < 8 → Gives (.linkNak port seq) s (fun s' => becomes s' { x with unacked := seq :: after, replays := k, since := s.clk })) ∧
      (8 ≤ k → Gives (.linkNak port seq) s (fun s' => becomes s' (down { x with unacked := seq :: after }) ∧ s'.mgmt.vectors = s.mgmt.vectors ++ [(0, 0)])))) ∧
  (let due := x.since + dw (s.reg (.fyLnk port)) 47 32 * 30;
    (x.up = false ∨ x.unacked = [] ∨ s.clk < due → exec (.acktoExpire port) s = .next s) ∧
    (x.up = true → x.unacked ≠ [] → due ≤ s.clk →
      (x.replays < 7 → Gives (.acktoExpire port) s (fun s' => becomes s' { x with replays := x.replays + 1, since := s.clk })) ∧
      (7 ≤ x.replays → Gives (.acktoExpire port) s (fun s' => becomes s' (down x) ∧ s'.mgmt.vectors = s.mgmt.vectors ++ [(0, 0)])))) ∧
  -- lanes and training
  (16 ≤ lane → exec (.laneLoss port lane) s = .next s) ∧
  (lane < 16 → s.fab.opened = true → Gives (.laneLoss port lane) s (fun s' => let y := s'.port port.val
    (∀ i, y.laneOk.testBit i = (x.laneOk.testBit i && decide (i ≠ lane))) ∧ y = down { x with laneOk := y.laneOk } ∧ ∀ p, p ≠ port.val → s'.port p = s.port p)) ∧
  (lane < 16 → s.fab.opened = false → Gives (.laneLoss port lane) s (fun s' => let y := s'.port port.val
    (∀ i, y.laneOk.testBit i = (x.laneOk.testBit i && decide (i ≠ lane))) ∧ y.degraded = (halfOk y.laneOk 0 != halfOk y.laneOk 1) ∧
      y.half = (!halfOk y.laneOk 0 && halfOk y.laneOk 1) ∧ y.up = x.up)) ∧
  (x.retrain = false ∨ s.clk < x.since + 6000 → exec (.retrainDone port) s = .next s) ∧
  (x.retrain = true → x.since + 6000 ≤ s.clk → Gives (.retrainDone port) s (fun s' =>
    let held (k : Packet) : Packet := if k.port = port.val then { k with since := k.since + (s.clk - x.since) } else k
    s'.port port.val = pumped { x with up := true, degraded := true, retrain := false, half := !halfOk x.laneOk 0, since := s.clk } ∧
    (∀ p, p ≠ port.val → s'.port p = s.port p) ∧ s'.mem = s.mem ∧ s'.teams = s.teams ∧ s'.mgmt.vectors = s.mgmt.vectors ++ [(0, 0)] ∧
    -- the timers of its packets have stood still
    s'.fab.transfers = s.fab.transfers.map (fun t => { t with packets := t.packets.map held }) ∧ s'.reqs = s.reqs.map (fun r => { r with via := r.via.map held }) ∧
    s'.conj.rounds = s.conj.rounds.map (fun r => { r with packets := r.packets.map held }))) ∧
  -- the device number and the route cache
  (9215 < dw v 13 0 → exec (.fyselfWrite v) s = .next s) ∧
  (dw v 13 0 ≤ 9215 → Gives (.fyselfWrite v) s (fun s' => s'.fab.self = dw v 13 0 ∧ s'.fab.opened = true ∧ s'.mem = s.mem ∧
    ∀ p, p < 8 → s'.port p = if s.fab.opened = false ∧ (halfOk (s.port p).laneOk 0 || halfOk (s.port p).laneOk 1) = true ∧ s.inService 3 p = true
      then { s.port p with up := true } else s.port p)) ∧
  (v.getLsbD 0 = true → Gives (.fyrtinvWrite v) s (fun s' => s' = { s with fab := { s.fab with routes := [] } })) ∧
  (v.getLsbD 0 = false → exec (.fyrtinvWrite v) s = .next s) ∧
  -- the host links
  (let d := die.val
   let o := 1 - die.val
   let posted (s : State) (k : Nat) : List (Nat × Nat × List Byte) := NMap.getD s.mem.posted k [];
    (s.linkUp d = false → exec (.hostLinkDown die) s = .next s) ∧
    (s.linkUp d = true → Gives (.hostLinkDown die) s (fun s' => s'.linkUp d = false ∧ s'.linkUp o = s.linkUp o ∧ s'.mem.hbm = s.mem.hbm ∧ s'.teams = s.teams ∧
      ∃ k, k ≤ (posted s d).length ∧ (s.linkUp o = true → posted s' d = [] ∧ posted s' o = posted s o ++ (posted s d).drop k) ∧
        (s.linkUp o = false → posted s' d = (posted s d).drop k ∧ posted s' o = posted s o))) ∧
    (s.linkUp d = true → exec (.hostLinkUp die) s = .next s) ∧
    (s.linkUp d = false → Gives (.hostLinkUp die) s (fun s' => s'.linkUp d = true ∧ s'.linkUp o = s.linkUp o ∧ s'.teams = s.teams ∧ s'.mem.host = s.mem.host ∧
      (s.linkUp o = true → s'.mem = s.mem) ∧ (s.linkUp o = false → posted s' o = [] ∧ posted s' d = posted s d ++ posted s o))))

/-- R65, R254, R331, R332, R333, R341: what the host answers, buffered records, restarts, contexts resumed and destroyed. Where
a resumed context takes up again is the model's reading (log 17). -/
def Obligations.HostCallEvents : Prop := ∀ (s : State) (ctx team : Nat) (v : DWord),
  -- replies
  (s.ctx? ctx = none → Gives (.callReplyWrite ctx v) s (fun s' => Counted s s' 5)) ∧
  (∀ c, s.ctx? ctx = some c →
    let asked (t : Team) : Bool := s.ctxOf t.launch == ctx && t.record == some c.crTag && t.status != .ended
    (s.teamList.find? asked = none → Gives (.callReplyWrite ctx v) s (fun s' => Counted s s' 5)) ∧
    ∀ t, s.teamList.find? asked = some t → s.team? t.id = some t →
      (t.status = .running → Gives (.callReplyWrite ctx v) s (fun s' => Counted s s' 5)) ∧
      (t.status = .parked → Gives (.callReplyWrite ctx v) s (fun s' => (∃ t', s'.team? t.id = some t' ∧ t'.status = .running ∧ t'.record = none ∧ SameRegisters t t' ∧
        t'.frags = t.frags ∧ (t'.port 5).q = (t.port 5).q ++ [v] ∧ ∀ p, p ≠ 5 → t'.port p = t.port p) ∧ { s' with teams := [] } = { s with teams := [] })) ∧
      (t.status = .halted → Gives (.callReplyWrite ctx v) s (fun s' => s'.team? t.id = some { t with status := .running, record := none } ∧
        { s' with teams := [] } = { s with teams := [] })) ∧
      (t.status = .stopped → t.evicted = true → Gives (.callReplyWrite ctx v) s (fun s' => s'.team? t.id = some { t with savedReply := some v.toNat })) ∧
      (t.status = .stopped → t.evicted = false → ∀ l, s.launch? t.launch = some l →
        (v = 0 ∨ (v = 1 ∧ l.restart = 0) → Gives (.callReplyWrite ctx v) s (fun s' => ∃ t', s'.team? t.id = some t' ∧ t'.status = .ended ∧ t'.frags = [])) ∧
        (v = 1 → l.restart ≠ 0 → s.settledTeam t = true → Gives (.callReplyWrite ctx v) s (fun s' => ∃ t', s'.team? t.id = some t' ∧ Restarted l t t')) ∧
        (v = 1 → l.restart ≠ 0 → s.settledTeam t = false → Gives (.callReplyWrite ctx v) s (fun s' => s'.team? t.id = some { t with restartPending := true })) ∧
        (v ≠ 0 → v ≠ 1 → exec (.callReplyWrite ctx v) s = .next s))) ∧
  (∀ t l, s.team? team = some t → s.launch? t.launch = some l →
    (t.restartPending = true → t.evicted = false → s.settledTeam t = true → Gives (.teamRestart team) s (fun s' => s'.mem = s.mem ∧
      ∃ t', s'.team? team = some t' ∧ Restarted l t t')) ∧
    (t.restartPending = false ∨ t.evicted = true ∨ s.settledTeam t = false → exec (.teamRestart team) s = .next s)) ∧
  (∀ c, s.ctx? ctx = some c → c.num = ctx →
    -- buffered records
    (c.buffer = [] ∨ c.ringRoom = false ∨ s.hostReach = false → exec (.faultRecordDrain ctx) s = .next s) ∧
    (∀ who r rest, c.buffer = (who, r) :: rest → c.ringRoom = true → s.hostReach = true → r.length = 64 → Gives (.faultRecordDrain ctx) s (fun s' =>
      s'.mem.host.read (dw c.crBase 59 12 * 4096 + 64 * (c.crTail % 2 ^ dw c.crBase 4 0)) 64 = r ∧ s'.mem.hbm = s.mem.hbm ∧
      s'.ctx? ctx = some { c with buffer := rest, crTail := c.crTail + 1 } ∧ s'.mgmt.vectors = s.mgmt.vectors ++ [(c.func, dw c.crBase 11 5)] ∧
      ∀ u t, s.team? u = some t → s'.team? u = some (if u = who ∧ t.record = none ∧ (t.status = .parked ∨ t.status = .halted ∨ t.status = .stopped)
        then { t with record := some c.crTail } else t))) ∧
    -- resumed
    (c.halted = false → c.switching = false → exec (.ctxResume ctx) s = .next s) ∧
    (s.switchRuns ctx = true → exec (.ctxResume ctx) s = .next s) ∧
    (c.halted = true ∨ c.switching = true → s.switchRuns ctx = false → Gives (.ctxResume ctx) s (fun s' =>
      s'.ctx? ctx = some { c with halted := false, switching := false } ∧ s'.watchdog ctx = 0 ∧ s'.mem = s.mem ∧
      s'.mgmt.ctxCtl = BitVec.ofNat 64 (2 ^ 61 + ctx % 65536) ∧
      ∀ u t, s.team? u = some t → s'.team? u = some (if s.preempted c.func = false ∧ s.ctxOf t.launch = ctx then { t with victim := false } else t))) ∧
    -- destroyed
    Gives (.ctxDestroy ctx) s (fun s' => s'.ctx? ctx = none ∧ s'.mgmt.ctxCtl = BitVec.ofNat 64 (2 * 2 ^ 61 + ctx % 65536) ∧
      (∀ k d, k ≠ ctx → s.ctx? k = some d → ∃ d', s'.ctx? k = some d' ∧ d'.desc = d.desc) ∧
      (∀ u t l, s.team? u = some t → t.id = u → s.launch? t.launch = some l → l.id = t.launch → l.ctx = ctx → ∃ t', s'.team? u = some t' ∧ t'.status = .ended) ∧
      (∀ k y, NMap.look s'.conj.slots k = some y → y.ctx = ctx → y.st ≠ .armed) ∧
      (∀ n, n < 64 → (s'.slot n).st = .free ∨ (s'.slot n).ctxNum ≠ ctx) ∧
      ∀ g ∈ s.groups, s.ctxOf g.launch = ctx → ∀ r, r < 12 → (s'.pairSt (corePair g.core)).owner r ≠ some (groupKey g.launch g.num))) ∧
  (s.ctx? ctx = none → exec (.faultRecordDrain ctx) s = .next s ∧ exec (.ctxResume ctx) s = .next s ∧ exec (.ctxDestroy ctx) s = .next s)

/-- R9, R280, R285, R342, R360, R361, R362, R372, R383: contexts and functions switched off the device, checkpoints, and registers written. -/
def Obligations.FunctionEvents : Prop := ∀ (s : State) (f ctx : Nat) (v : DWord),
  let x (c : Ctx) : FuncSt := s.funcSt c.func
  -- the switch of a guest
  (∀ c, s.ctx? (dw v 15 0) = some c →
    (v.getLsbD 63 = false → exec (.vfswitchWrite v) s = .next s) ∧
    (v.getLsbD 63 = true → (x c).preempted = true → Gives (.vfswitchWrite v) s (fun s' => Counted s s' 7)) ∧
    (v.getLsbD 63 = true → (x c).preempted = false → (x c).switching = true → exec (.vfswitchWrite v) s = .next s) ∧
    (v.getLsbD 63 = true → (x c).preempted = false → (x c).switching = false → Gives (.vfswitchWrite v) s (fun s' =>
      s'.ctx? (dw v 15 0) = some { c with switching := true } ∧
      (s.switchUnit (dw v 15 0) = none → s'.funcSt c.func = { x c with switching := false, ctx := dw v 15 0, units := 0 }) ∧
      ∀ t, s.switchUnit (dw v 15 0) = some t → s.team? t.id = some t → s'.funcSt c.func = { x c with switching := true, ctx := dw v 15 0, units := 0 } ∧
        s'.team? t.id = some { t with victim := true }))) ∧
  (∀ c, s.ctx? ctx = some c →
    (s.switchRuns ctx = false → exec (.switchUnitCommit ctx) s = .next s) ∧
    ∀ t, s.switchRuns ctx = true → s.switchUnit ctx = some t → s.team? t.id = some t → t.victim = true →
      (s.evictReady t = false → exec (.switchUnitCommit ctx) s = .next s) ∧
      (s.evictReady t = true → Gives (.switchUnitCommit ctx) s (fun s' => (s'.funcSt c.func).units = (x c).units + 1 ∧
        (s'.funcSt c.func).ctx = ctx ∧ ((x c).preempted = true → (s'.funcSt c.func).switching = true ∧ (s'.funcSt c.func).active = true) ∧
        ∃ t', s'.team? t.id = some t' ∧ t'.evicted = true ∧ SameRegisters t t'))) ∧
  -- functions
  (let y := s.funcSt f;
    (f = 0 ∨ 16 < f ∨ y.preempted = true → exec (.funcPreempt f) s = .next s) ∧
    (f ≠ 0 → f ≤ 16 → y.preempted = false → Gives (.funcPreempt f) s (fun s' => s'.funcSt f = { y with preempted := true } ∧
      (y.switching = true → s'.teams = s.teams) ∧
      (y.switching = false → ∀ u t c, s.team? u = some t → s.ctx? (s.ctxOf t.launch) = some c →
        s'.team? u = some (if c.func = f ∧ t.evicted = false ∧ t.status ≠ .ended then { t with victim := true } else t)))) ∧
    (y.preempted = false ∨ s.preempting f = true → exec (.funcRestore f) s = .next s) ∧
    (y.preempted = true → s.preempting f = false → Gives (.funcRestore f) s (fun s' => s'.teams = s.teams ∧
      s'.funcSt f = { y with switching := false, preempted := false, active := false, units := y.units + y.left, left := 0 })) ∧
    Gives (.functionLevelReset f) s (fun s' => (∀ k c, s.ctx? k = some c → c.func = f → s'.ctx? k = none) ∧
      (∀ n, n < 64 → (s'.slot n).st = .free ∨ (s'.slot n).func ≠ f) ∧
      ∀ e ∈ s'.front.notifies, e ∈ s.front.notifies ∧ ∀ n, n < 64 → (s.slot n).st ≠ .free → (s.slot n).func = f → e.1 ≠ (s.slot n).map)) ∧
  -- checkpoints; CKCTL shows the last command, its result and its context
  let ctl (op result : Nat) : MgmtSt := { s.mgmt with ckCtl := BitVec.ofNat 64 (op * 2 ^ 61 + result * 2 ^ 59 + ctx % 65536) }
  (∀ c, s.ctx? ctx = some c →
    Gives (.ckOpen ctx) s (fun s' => s'.ctx? ctx = some { c with ck := { c.ck with isOpen := true, overflowed := false, full := [], log := [] } } ∧ s'.mgmt = ctl 1 0 ∧ s'.mem = s.mem) ∧
    (c.ck.isOpen = false → Gives (.ckClose ctx) s (fun s' => s' = { s with mgmt := ctl 3 3 })) ∧
    (c.ck.isOpen = true → Gives (.ckClose ctx) s (fun s' => s'.ctx? ctx = some { c with ck := { c.ck with isOpen := false, overflowed := false, full := [], log := [] } } ∧
      s'.mgmt = ctl 3 0 ∧ s'.mem = s.mem)) ∧
    (c.halted = false → Gives (.ckRollback ctx) s (fun s' => s' = { s with mgmt := ctl 2 1 })) ∧
    (c.halted = true → c.ck.isOpen = false → Gives (.ckRollback ctx) s (fun s' => s' = { s with mgmt := ctl 2 3 })) ∧
    (c.halted = true → c.ck.isOpen = true → c.ck.overflowed = true → Gives (.ckRollback ctx) s (fun s' => s' = { s with mgmt := ctl 2 2 })) ∧
    (c.halted = true → c.ck.isOpen = true → c.ck.overflowed = false → (c.ck.log.map Prod.fst).Nodup → (∀ e ∈ c.ck.log, e.1 % 256 = 0 ∧ e.2.1.length = 256) →
      Gives (.ckRollback ctx) s (fun s' => s'.mgmt.ckCtl = (ctl 2 0).ckCtl ∧ (∃ c', s'.ctx? ctx = some c' ∧ c'.ck.isOpen = true ∧ c'.ck.log = []) ∧
        (∀ p, p ∈ s'.mem.pend ↔ p ∈ s.mem.pend ∧ s.ctxOf p.launch ≠ ctx) ∧
        (∀ e ∈ c.ck.log, ∀ i, i < 256 → s'.mem.hbm.bytes.read (e.1 + i) = e.2.1.getD i 0) ∧
        ∀ a, (∀ e ∈ c.ck.log, e.1 ≠ a / 256 * 256) → s'.mem.hbm.bytes.read a = s.mem.hbm.bytes.read a))) ∧
  -- registers
  let kept (r : MReg) (y : DWord) : Prop := Gives (.registerWrite r v) s (fun s' => s'.reg r = y ∧ { s' with mgmt := { s'.mgmt with regs := s.mgmt.regs } } = s)
  (∀ r i, i < 64 → (unreserved r v).getLsbD i = (v.getLsbD i && (regFields r).any (fun e => decide (e.2 ≤ i) && decide (i ≤ e.1)))) ∧
  (∀ (n16 : Fin 16) (n64 : Fin 64) (n4 : Fin 4) (die : Fin 2), ∀ r ∈ [MReg.xlinvAddr, .fyWin n16, .fyCtr die, .fyE2e, .fyRtBase, .mctBase, .mdJoin n64, .mdList n64,
    .mdAckTo, .scrubCfg n4, .errLog n4], kept r (unreserved r v)) ∧
  (2 ≤ (unreserved .l2VerCfg v).toNat → (unreserved .l2VerCfg v).toNat ≤ 8 → s.ctxs = [] → kept .l2VerCfg (unreserved .l2VerCfg v)) ∧
  ((unreserved .l2VerCfg v).toNat < 2 ∨ 8 < (unreserved .l2VerCfg v).toNat ∨ s.ctxs ≠ [] → exec (.registerWrite .l2VerCfg v) s = .next s) ∧
  (∀ c : Fin 6, Gives (.registerWrite (.holdLim c) v) s (fun s' => s'.holdLimit c = max 64 (min 4096 (dw v 12 0)) ∧ s'.mem = s.mem ∧ s'.teams = s.teams)) ∧
  (∀ p : Fin 8, kept (.fyLnk p) (BitVec.ofNat 64 (dw v 47 32 * 2 ^ 32 + max 64 (min 1024 (dw v 10 0))))) ∧
  (∀ (c : Ctx) (die : Fin 2), s.ctx? ctx = some c →
    let gives (r : MReg) (c' : Ctx) : Prop := Gives (.registerWrite r v) s (fun s' => s'.ctx? ctx = some c' ∧ s'.mem = s.mem ∧ s'.teams = s.teams)
    gives (.crBase ctx) { c with crBase := unreserved (.crBase ctx) v } ∧ gives (.crHead ctx) { c with crHead := v.toNat } ∧ gives (.crTag ctx) { c with crTag := v.toNat } ∧
    gives (.dbgCtl ctx) { c with dbg := unreserved (.dbgCtl ctx) v } ∧
    gives (.cjRange ctx die) { c with cjRange := NMap.set 0 c.cjRange die.val (unreserved (.cjRange ctx die) v) } ∧
    (dw v 63 48 = ctx → gives .ckLog { c with ck := { c.ck with offset := dw v 47 32, size := dw v 31 16, en := v.getLsbD 0 } })) ∧
  (Gives (.registerWrite .pgrBase v) s (fun s' => s' = { s with front := { s.front with pgrBase := unreserved .pgrBase v } })) ∧
  (Gives (.registerWrite .pgrHead v) s (fun s' => s' = { s with front := { s.front with pgrHead := v.toNat } })) ∧
  ∀ g : Fin 17, Gives (.registerWrite (.levelFloor g) v) s (fun s' => NMap.getD s'.front.floor g.val 0 = dw v 1 0 ∧ { s' with front := s.front } = s)

/-- R304, R313, R314, R354, R355, R356, R357, R358, R385, R386: service units, the scrubber, and RESYNC. What RESYNC's entries hold
and which image an update loads is the model's choice (logs 21, 22). -/
def Obligations.ServiceEvents : Prop := ∀ (s : State) (cls unit addr : Nat) (v : DWord),
  let st := s.unitSt cls unit
  -- what a command leaves in SVCCTL and SVCSTAT
  let told (action result : Nat) (m : MgmtSt) : MgmtSt := { m with
    svcCtl := BitVec.ofNat 64 (action * 2 ^ 60 + cls % 16 * 2 ^ 56 + unit % 65536), svcLast := cls * 65536 + unit, svcResult := result }
  let said (action result : Nat) (s' : State) : Prop := s' = { s with mgmt := told action result s.mgmt }
  let now (s' : State) (x : UnitSt) : Prop := s'.unitSt cls unit = x ∧ ∀ c u, c * 65536 + u ≠ cls * 65536 + unit → s'.unitSt c u = s.unitSt c u
  let measured (s' : State) (i : Nat) (bs : List Byte) : Prop :=
    s'.measured i = Config.shake512 (leBytes 64 (s.measured i).toNat ++ leBytes 64 (Config.shake512 bs).toNat)
  let action (n : Nat) : List Byte := leBytes 8 (n * 2 ^ 60 + cls * 2 ^ 56 + unit)
  let drain : Nat × Instr := (0, .svcDrain cls unit)
  let back : Nat × Instr := (1, .svcReturn cls unit)
  let repair : Nat × Instr := (2, .svcRepair cls unit)
  let update : Nat × Instr := (3, .svcUpdate cls { unit := unit, addr := addr })
  -- commands that are refused, that find the unit busy, that find nothing to do
  (unitCount cls ≤ unit → ∀ i ∈ [drain, back, repair, update], Gives i.2 s (said i.1 1)) ∧
  (exec (.registerWrite .svcCtl v) s = .next (if v.getLsbD 63 = true ∧ 4 ≤ dw v 62 60 then s.svcDone (dw v 62 60) (dw v 59 56) (dw v 15 0) 1 else s)) ∧
  (unit < unitCount cls →
    (st = .inService → exec (.svcReturn cls unit) s = .next s ∧ ∀ i ∈ [repair, update], Gives i.2 s (said i.1 1)) ∧
    (st = .draining → ∀ i ∈ [drain, repair, update], Gives i.2 s (said i.1 2)) ∧
    (st = .returning → ∀ i ∈ [drain, back, repair, update], Gives i.2 s (said i.1 2)) ∧
    (st = .out → exec (.svcDrain cls unit) s = .next s) ∧
    -- commands that are done
    (st = .inService → Gives (.svcDrain cls unit) s (fun s' => now s' .draining ∧ s'.mgmt = told 0 0 s.mgmt ∧ s'.mem = s.mem ∧
      (cls ≠ 0 → s'.teams = s.teams) ∧
      (cls = 0 → ∀ u t l, s.team? u = some t → s.launch? t.launch = some l → s'.team? u =
        some (if corePair t.core = unit ∧ l.gang = 1 ∧ t.evicted = false ∧ t.status ≠ .ended then { t with victim := true } else t)))) ∧
    (st = .draining → Gives (.svcReturn cls unit) s (fun s' => now s' .returning ∧ s'.mgmt = told 1 0 s.mgmt ∧ s'.mem = s.mem ∧
      (cls ≠ 0 → s'.teams = s.teams) ∧
      (cls = 0 → ∀ u t, s.team? u = some t → s'.team? u =
        some (if corePair t.core = unit ∧ s.ctxHeld (s.ctxOf t.launch) = false then { t with victim := false } else t)))) ∧
    (st = .out → Gives (.svcReturn cls unit) s (fun s' => s'.mem = s.mem ∧ s'.teams = s.teams ∧
      (now s' .returning ∧ s'.mgmt = told 1 0 s.mgmt ∨ now s' .out ∧ s'.mgmt = told 1 3 s.mgmt))) ∧
    (st = .out → Gives (.svcRepair cls unit) s (fun s' => now s' .out ∧ s'.mem = s.mem ∧
      (s'.mgmt.svcResult = 0 ∧ measured s' 7 (action 2) ∨ s'.mgmt.svcResult = 3 ∧ s'.measured 7 = s.measured 7) ∧
      (cls = 2 → NSet.has s'.mgmt.badChan unit = decide (s'.mgmt.svcResult = 3)))) ∧
    (st = .out → (updateImage cls unit = none → Gives (.svcUpdate cls { unit := unit, addr := addr }) s (said 3 3)) ∧
      ∀ kind reg, updateImage cls unit = some (kind, reg) →
        (s.flashImage kind addr = none → Gives (.svcUpdate cls { unit := unit, addr := addr }) s (said 3 3)) ∧
        ∀ image, s.flashImage kind addr = some image → Gives (.svcUpdate cls { unit := unit, addr := addr }) s (fun s' =>
          measured s' reg image ∧ measured s' 7 (action 3) ∧ now s' .out ∧ s'.mgmt = told 3 0 s.mgmt ∧ s'.mem = s.mem))) ∧
  -- a draining unit that is empty, and one that is back
  (let full : Bool := match cls with
      | 0 => s.teamList.any (fun t => corePair t.core == unit && !t.evicted) ||
        s.groups.any (fun g => corePair g.core == unit && (match s.launch? g.launch with | some l => l.gang != 1 | none => false))
      | 1 => false
      | 2 => false
      | 3 => !((s.port unit).unacked.isEmpty && (s.port unit).out.isEmpty)
      | 4 => !(s.linkUp unit || (NMap.getD s.mem.posted unit []).isEmpty)
      | 5 => s.conj.rounds.any (fun r => r.key / 8192 == unit)
      | _ => true
    (st ≠ .draining ∨ full = true → exec (.unitEmpty cls unit) s = .next s) ∧
    (st = .draining → full = false → Gives (.unitEmpty cls unit) s (fun s' => now s' .out ∧ s'.teams = s.teams ∧
      measured s' 7 (action 0) ∧
      (cls = 1 → (∀ p ∈ s'.mem.pend, ∀ e ∈ p.bytes, homeSlice (lineOf e.1) = unit → NSet.has p.spilled (lineOf e.1) = true) ∧
        ∀ e ∈ s'.mem.tags, ∀ l ∈ e.2, homeSlice l ≠ unit) ∧
      (cls = 3 → (s'.port unit).up = false) ∧ (cls = 4 → NMap.getD s'.mem.posted unit [] = [])))) ∧
  (st ≠ .returning → exec (.unitReady cls unit) s = .next s) ∧
  (st = .returning → Gives (.unitReady cls unit) s (fun s' => now s' .inService ∧ s'.teams = s.teams ∧ measured s' 7 (action 1) ∧
    (cls = 2 → NSet.has s'.mgmt.badChan unit = false))) ∧
  -- the scrubber: what is counted and logged
  (∀ target, let place := s.scrubPlace target
    let level := place.1
    let old := NMap.getD s.mgmt.errCnt level.val 0
    let log := s.reg (.errLog level)
    let tail := NMap.getD s.mgmt.errTail level.val 0
    let a := dw log 56 12 * 4096 + 32 * (tail % 2 ^ (dw log 7 4 + 6))
    let on : Prop := (s.reg (.scrubCfg level)).getLsbD 31 = true
    let corrected (outcome : ScrubOutcome) (kind : Nat) : Prop := Gives (.scrubLine target outcome) s (fun s' =>
      NMap.getD s'.mgmt.errCnt level.val 0 = old / 2 ^ 32 * 2 ^ 32 + min (2 ^ 32 - 1) (old % 2 ^ 32 + 1) ∧
      (dw log 7 4 = 0 → { s' with mgmt := { s'.mgmt with errCnt := s.mgmt.errCnt } } = s) ∧
      (dw log 7 4 ≠ 0 → paExists a = true → NMap.getD s'.mgmt.errTail level.val 0 = tail + 1 ∧
        s'.mem.hbm.read a 8 = leBytes 8 (level.val * 2 ^ 60 + kind * 2 ^ 56 + place.2.1 * 2 ^ 40 + place.2.2.2) ∧
        s'.mem.hbm.read (a + 8) 8 = leBytes 8 place.2.2.1 ∧ s'.mem.hbm.read (a + 24) 8 = leBytes 8 s.clk))
    let uncorrected (outcome : ScrubOutcome) : Prop := Gives (.scrubLine target outcome) s (fun s' =>
      NMap.getD s'.mgmt.errCnt level.val 0 = min (2 ^ 32 - 1) (old / 2 ^ 32 + 1) * 2 ^ 32 + old % 2 ^ 32)
    -- a level that is not scrubbed is read by accesses alone
    exec (.scrubLine target .clean) s = .next s ∧ (on → corrected .corrected 2 ∧ uncorrected .uncorrectable) ∧
    (¬on → exec (.scrubLine target .corrected) s = .next s ∧ exec (.scrubLine target .uncorrectable) s = .next s) ∧
    corrected .metCorrected 0 ∧ uncorrected .metUncorrectable) ∧
  -- what an uncorrectable error leaves, with the log off
  let leaves (target : ScrubTarget) (P : State → Prop) : Prop :=
    dw (s.reg (.errLog (s.scrubPlace target).1)) 7 4 = 0 → Gives (.scrubLine target .metUncorrectable) s P ∧
      ((s.reg (.scrubCfg (s.scrubPlace target).1)).getLsbD 31 = true → Gives (.scrubLine target .uncorrectable) s P)
  (∀ (g n l r x team sector line : Nat) (die : Fin 2) (pair : Fin 128) (core : Fin 256),
    leaves (.hbm g) (fun s' => ∀ k, NSet.has s'.mem.hbm.poison k = (decide (k / 8 = g / 8) || NSet.has s.mem.hbm.poison k)) ∧
    leaves (.chip g) (fun s' => ∀ k, NSet.has s'.mem.chip.poison k = (decide (k = g) || NSet.has s.mem.chip.poison k)) ∧
    leaves (.counter die n) (fun s' => ∀ k, NSet.has s'.mem.ctr.poison k = (decide (k = die.val * 4096 + n) || NSet.has s.mem.ctr.poison k)) ∧
    leaves (.predicate team r) (fun s' => { s' with mgmt := s.mgmt } = s) ∧
    (∀ t, s.team? team = some t →
      leaves (.vector team r l) (fun s' => s'.team? team = some { t with vtag := NSet.add t.vtag (vkey r l) }) ∧
      leaves (.scalar team r) (fun s' => s'.team? team = some { t with stag := NSet.add t.stag r }) ∧
      leaves (.priv team x) (fun s' => s'.team? team = some { t with priv := { t.priv with poison := NSet.add t.priv.poison x } })) ∧
    (∀ q, s.group? l g = some q →
      leaves (.scratch l g x) (fun s' => s'.group? l g = some { q with scratch := { q.scratch with poison := NSet.add q.scratch.poison x } }) ∧
      leaves (.share l g x) (fun s' => s'.group? l g = some { q with share := { q.share with poison := NSet.add q.share.poison x } })) ∧
    leaves (.accumulator pair x) (fun s' => NSet.has (s'.pairSt pair.val).tileTag x = true) ∧
    leaves (.l1 core sector) (fun s' => NSet.has (s'.coreSt core.val).clean sector = false ∧
      ∀ p ∈ s'.mem.pend, p.core = core.val → ∀ e ∈ p.bytes, e.2.inL1 = true → sectorOf e.1 = sector → NMap.look p.bytes e.1 = some e.2 → e.2.tag = true) ∧
    leaves (.version team g) (fun s' => ∀ p ∈ s'.mem.pend, p.team = team → ∀ e ∈ p.bytes, e.1 / 8 = g → e.2.tag = true) ∧
    leaves (.checkpoint g) (fun s' => ∀ k ∈ s'.mem.locks, k.line = lineOf (8 * g) → NSet.has k.check.poison g = true) ∧
    leaves (.matrixTags pair) (fun s' => (s'.pairSt pair.val).resetAt.isSome) ∧
    leaves (.conjunction die n) (fun s' => NMap.look s'.conj.slots (die.val * 8192 + n) = none) ∧
    leaves (.directory line) (fun s' => ∀ c i, i < 4 → NSet.has (s'.coreSt c).clean (lineOf line / 64 + i) = false) ∧
    ∀ t e f rest, s.team? team = some t → t.id = team → t.frags = (e, f) :: rest → t.status = .running →
      leaves (.teamControl team) (fun s' => ∃ t', s'.team? team = some t' ∧ t'.status = .stopped)) ∧
  -- RESYNC
  (v.getLsbD 63 = false ∨ dw v 62 60 ≠ 1 ∨ s.hostReach = false → exec (.resync v) s = .next s) ∧
  (v.getLsbD 63 = true → dw v 62 60 = 1 → s.hostReach = true →
    let a := dw v 59 12 * 4096
    Gives (.resync v) s (fun s' => { s' with mem := { s'.mem with host := s.mem.host }, launches := s.launches, mgmt := { s'.mgmt with mbCmd := s.mgmt.mbCmd } } = s ∧
      s'.mgmt.mbCmd = BitVec.ofNat 64 (v.toNat % 2 ^ 63 / 256 * 256) ∧
      ∃ n, 24 ≤ n ∧ n ≤ 2 ^ (dw v 11 8 + 12) ∧ s'.mem.host.read a 8 = leBytes 8 n ∧ s'.mem.host.read (a + 16) 8 = leBytes 8 s.clk ∧
        s'.mem.host.bytes.read (a + 15) = 1 ∧ ∀ b, b < a ∨ a + n ≤ b → s'.mem.host.bytes.read b = s.mem.host.bytes.read b))

/-- R303, R304, R306, R307, R308, R309, R384: bring-up, and the answers of the DOE mailbox. What device reset keeps (HBM, the host, the flash) is the
model's choice (log 2), the codes of requests and errors its presumption (log 19). -/
def Obligations.BootAndMailboxEvents : Prop := ∀ (s : State) (nonce : List Byte) (request : Byte),
  let hash (x : BitVec 512) (i : Image) : BitVec 512 := Config.shake512 (leBytes 64 x.toNat ++ leBytes 64 (Config.shake512 i).toNat)
  let images : List (Nat × Nat) := (1, 0) :: (2, 0) :: (List.range 12).map (fun i => (3, i)) ++ [(5, 0), (5, 1)] ++ (List.range 8).map (fun i => (4, i))
  -- the boot order
  (Gives .deviceReset s (fun s' => s'.mem = { MemSt.reset with hbm := s.mem.hbm, host := s.mem.host } ∧ s'.teams = [] ∧ s'.groups = [] ∧ s'.launches = [] ∧
    s'.ctxs = [] ∧ s'.slots = [] ∧ s'.pairs = [] ∧ s'.reqs = [] ∧ s'.conj = ConjSt.reset ∧ s'.front = FrontSt.reset ∧
    s'.boot.imagesA = s.boot.imagesA ∧ s'.boot.imagesB = s.boot.imagesB ∧ s'.boot.records = s.boot.records ∧ s'.boot.flash = s.boot.flash ∧
    s'.boot.identity = s.boot.identity ∧ s'.boot.spdm = none ∧ s'.boot.spdmPeer = [] ∧
    (s.wiped.goodImage 1 0 = none → s'.boot.failed = some 1 ∧ s'.boot.stage = 0 ∧ ∀ i, s'.measured i = 0) ∧
    (∀ i, s.wiped.goodImage 1 0 = some i → s'.measured 0 = hash 0 i ∧ s'.boot.idReadable = false ∧
      s'.boot.aliasSeed = some (Config.shake512 (s.boot.identity ++ leBytes 64 (hash 0 i).toNat))) ∧
    (acceptedRecords s.boot.records = [] →
      (∀ k, images.find? (fun k => (s.wiped.goodImage k.1 k.2).isNone) = some k → s'.boot.failed = some k.1 ∧ s'.boot.stage < 8) ∧
      (images.find? (fun k => (s.wiped.goodImage k.1 k.2).isNone) = none → s'.boot.failed = none ∧ s'.boot.stage = 8 ∧ s'.measured 2 = 0 ∧
        ∀ c e0 e1, s.wiped.goodImage 2 0 = some c → s.wiped.goodImage 5 0 = some e0 → s.wiped.goodImage 5 1 = some e1 →
          s'.measured 1 = hash 0 c ∧ s'.measured 5 = hash 0 e0 ∧ s'.measured 6 = hash 0 e1)))) ∧
  -- an image: of the two copies the first that passes, measured
  (∀ kind unit reg, s.loadImage kind unit reg = (s.goodImage kind unit).map (fun i => s.extend reg i)) ∧
  (∀ kind unit a, NMap.look s.boot.imagesA (kind * 64 + unit) = some a → s.imageOk kind a = true → s.goodImage kind unit = some a) ∧
  (∀ kind unit b, NMap.look s.boot.imagesB (kind * 64 + unit) = some b → s.imageOk kind b = true →
    (∀ a, NMap.look s.boot.imagesA (kind * 64 + unit) = some a → s.imageOk kind a = false) → s.goodImage kind unit = some b) ∧
  (∀ reg i, (s.extend reg i).measured reg = hash (s.measured reg) i ∧ ∀ r, r ≠ reg → (s.extend reg i).measured r = s.measured r) ∧
  -- records are applied in ascending order of their numbers, those with one number not at all
  (∀ rs, let seq (r : Image) : Nat := recBits r 255 192
    (acceptedRecords rs).Pairwise (fun a b => seq a ≤ seq b) ∧
    ∀ r, r ∈ acceptedRecords rs ↔ r ∈ rs ∧ recordOk r = true ∧ ((rs.filter recordOk).filter (fun x => seq x == seq r)).length = 1) ∧
  -- the mailbox
  let isOpen : Prop := 8 ≤ s.boot.stage ∨ s.boot.failed.isSome
  let left (i : Instr) (r : List Byte) : Prop := Gives i s (fun s' => s' = { s with boot := { s.boot with spdm := some r } })
  let answers (i : Instr) (q : SpdmReq) (always : Bool) (r : List Byte) : Prop :=
    (¬isOpen → exec i s = .next s) ∧
    (isOpen → s.boot.failed = none ∨ always = true → left i r) ∧
    (∀ k, s.boot.failed = some k → always = false → left i ([0x13, 0x7F, 5, 0] ++ leBytes 4 k)) ∧
    -- a peer that asks the same in a management message
    ∀ m : InboundReq, m.kind = .spdm q → (¬isOpen ∨ s.fab.opened = false ∨ s.boot.failed.isSome → exec (.fyoloInbound m) s = .next s) ∧
      (isOpen → s.fab.opened = true → s.boot.failed = none →
        Gives (.fyoloInbound m) s (fun s' => s' = { s with boot := { s.boot with spdmPeer := NMap.put s.boot.spdmPeer m.src r } }))
  let registers : List Byte := (List.range 8).flatMap (fun i => leBytes 8 (i + 1) ++ leBytes 64 (s.measured i).toNat) ++ leBytes 8 s.fab.self
  let key : BitVec 512 := s.boot.aliasSeed.getD 0
  let signed (body : List Byte) : List Byte := body ++ Config.aliasSign key body
  let chain : List Byte := Config.aliasChain s.boot.identity key
  answers .spdmGetVersion .version true (Config.spdmResponse 0x84 []) ∧
  answers .spdmGetCapabilities .capabilities true (Config.spdmResponse 0xE1 []) ∧
  answers .spdmNegotiateAlgorithms .algorithms false (Config.spdmResponse 0xE3 []) ∧
  answers .spdmGetDigests .digests false (Config.spdmResponse 0x81 (leBytes 64 (Config.shake512 chain).toNat)) ∧
  answers .spdmGetCertificate .certificate false (Config.spdmResponse 0x82 chain) ∧
  answers (.spdmChallenge nonce) (.challenge nonce) false (signed (Config.spdmResponse 0x83 (nonce ++ registers))) ∧
  answers (.spdmGetMeasurements nonce) (.measurements nonce) false (signed (Config.spdmResponse 0xE0 nonce ++ registers)) ∧
  answers (.spdmUnsupported request) (.unsupported request) false [0x13, 0x7F, 7, request]

/-- R299, R380, R381, R382: launches across devices. An abort's record names the first member that did not acknowledge; on a member that does not know it
the number is a free value (log 12). -/
def Obligations.MultiDeviceEvents : Prop := ∀ (s : State) (slot : Fin 64) (dev : Nat),
  let n := slot.val
  let join := s.reg (.mdJoin slot)
  let cycles := max 1 (dw (s.reg .mdAckTo) 31 0) * 300
  -- only what the launch knows of its members changes
  let only (s' : State) (l : Launch) (m' : MdState) : Prop :=
    s'.launch? l.id = some { l with md := some m' } ∧ { s' with launches := [] } = { s with launches := [] }
  -- the phase commits as well
  let commits (s' : State) (l : Launch) (m' : MdState) : Prop := ∃ l', s'.launch? l.id = some l' ∧ l'.phase = (l.phase + 1) % 65536 ∧ l'.md = some m'
  -- a commit applied everywhere is released
  let releases (s' : State) (l : Launch) (m' : MdState) : Prop := (∃ l', s'.launch? l.id = some l' ∧ l'.phase = l.phase ∧ l'.md = some m') ∧
    (l.dies = [] → l.peerWait = [] → ∀ u t, s.team? u = some t → t.launch = l.id → ∃ t', s'.team? u = some t' ∧ SameRegisters t t' ∧ t'.phaseDone = t.passed l.phase ∧
      t'.frags = t.frags.map (fun e => (e.1, { e.2 with latch := released l.phase e.2.latch })))
  -- the launch is aborted here
  let aborts (i : Instr) (l : Launch) (m : MdState) : Prop := ∃ (s1 : State) (d : Nat), exec i s = .next (s1.event l.ctx 14 0 0 n l.landed d) ∧
    (∀ x, m.members.find? (fun d => !NSet.has m.acked d) = some x → d = x) ∧
    (∃ l', s1.launch? l.id = some l' ∧ l'.dead = true ∧ l'.next = l.groups ∧ l'.heads = []) ∧
    (∀ u t, s.team? u = some t → t.id = u → t.launch = l.id → ∃ t', s1.team? u = some t' ∧ t'.status = .ended) ∧
    (∀ p ∈ s1.mem.pend, p.launch ≠ l.id) ∧ (∀ p ∈ s1.mem.peerPend, ¬(p.dev = s.fab.self ∧ p.launch = l.id)) ∧ ∀ x ∈ s1.fab.transfers, x.launch ≠ l.id
  -- the launch message releases the held record of a member
  (join.getLsbD 63 = true → join.getLsbD 62 = false → dw join 47 34 = dev → Gives (.mdLaunchMessage slot dev) s (fun s' =>
    s'.slot n = { s.slot n with mdMsg := (s.slot n).mdMsg + 1 } ∧ (∀ k, k ≠ n → s'.slot k = s.slot k) ∧ { s' with slots := [] } = { s with slots := [] })) ∧
  (join.getLsbD 63 = false ∨ join.getLsbD 62 = true ∨ dw join 47 34 ≠ dev → exec (.mdLaunchMessage slot dev) s = .next s) ∧
  -- no launch that the message is for
  (s.mdOf n (fun m => m.initiator && !m.confirmed) = none → exec (.mdAck slot dev) s = .next s ∧ exec (.mdAckTimeout slot) s = .next s) ∧
  (s.mdOf n (fun m => !m.initiator && !m.confirmed) = none → exec (.mdConfirm slot) s = .next s ∧ exec (.mdSelfAbortTimeout slot) s = .next s) ∧
  (s.mdOf n (fun m => m.initiator && !m.held && !NSet.has m.raised dev) = none → exec (.mdRaised slot dev) s = .next s) ∧
  (s.mdOf n (fun m => !m.initiator && m.sentRaised) = none → exec (.mdCommit slot) s = .next s) ∧
  (s.mdOf n (fun m => m.initiator && m.held) = none → exec (.mdApplied slot dev) s = .next s) ∧
  (s.mdOf n (fun m => !m.initiator && m.held) = none → exec (.mdRelease slot) s = .next s) ∧
  (∀ l m, s.launch? l.id = some l → l.md = some m →
    -- the initiator's launch, tentative
    (s.mdOf n (fun m => m.initiator && !m.confirmed) = some (l, m) →
      Gives (.mdAck slot dev) s (fun s' => only s' l { m with acked := NSet.add m.acked dev, confirmed := m.members.all (fun d => NSet.has (NSet.add m.acked dev) d) }) ∧
      (s.clk ≤ m.since + cycles → exec (.mdAckTimeout slot) s = .next s) ∧ (m.since + cycles < s.clk → aborts (.mdAckTimeout slot) l m)) ∧
    -- a member's launch, tentative
    (s.mdOf n (fun m => !m.initiator && !m.confirmed) = some (l, m) → Gives (.mdConfirm slot) s (fun s' => only s' l { m with confirmed := true }) ∧
      (s.clk ≤ m.since + 2 * cycles → exec (.mdSelfAbortTimeout slot) s = .next s) ∧ (m.since + 2 * cycles < s.clk → aborts (.mdSelfAbortTimeout slot) l m) ∧
      aborts (.mdAbort slot) l m) ∧
    -- a phase: raised, committed, applied, released
    (s.mdOf n (fun m => m.initiator && !m.held && !NSet.has m.raised dev) = some (l, m) →
      let up := NSet.add m.raised dev
      (m.sentRaised = false ∨ m.members.all (fun d => NSet.has up d) = false → Gives (.mdRaised slot dev) s (fun s' => only s' l { m with raised := up })) ∧
      (m.sentRaised = true → m.members.all (fun d => NSet.has up d) = true →
        Gives (.mdRaised slot dev) s (fun s' => commits s' l { m with sentRaised := false, raised := [], applied := [s.fab.self], held := true }))) ∧
    (s.mdOf n (fun m => !m.initiator && m.sentRaised) = some (l, m) →
      Gives (.mdCommit slot) s (fun s' => commits s' l { m with sentRaised := false, raised := [], held := true })) ∧
    (s.mdOf n (fun m => m.initiator && m.held) = some (l, m) →
      let applied := NSet.add m.applied dev
      (m.members.all (fun d => NSet.has applied d) = false → Gives (.mdApplied slot dev) s (fun s' => only s' l { m with applied := applied })) ∧
      (m.members.all (fun d => NSet.has applied d) = true → Gives (.mdApplied slot dev) s (fun s' => releases s' l { m with applied := [], held := false }))) ∧
    (s.mdOf n (fun m => !m.initiator && m.held) = some (l, m) → Gives (.mdRelease slot) s (fun s' => releases s' l { m with held := false }))) ∧
  -- an abort where the record is still held, or where nothing is tentative
  (s.mdOf n (fun m => !m.initiator && !m.confirmed) = none →
    ((s.slot n).st = .held → join.getLsbD 63 = true → join.getLsbD 62 = false → ∃ (s1 : State) (d : Nat),
      exec (.mdAbort slot) s = .next (s1.event (s.slot n).ctxNum 14 0 0 n 0 d) ∧
      s1.slot n = { s.slot n with st := .idle, record := [], hold := false, mdMsg := (s.slot n).mdMsg - 1 } ∧ { s1 with slots := [], free := 0 } = { s with slots := [], free := 0 }) ∧
    ((s.slot n).st ≠ .held ∨ join.getLsbD 63 = false ∨ join.getLsbD 62 = true → exec (.mdAbort slot) s = .next s))
end

