-- ==== Sys2Proof/Laws/Dispatch.lean ====
section
/-! SUPPORT. Which meaning each instruction has: one lemma per arm of exec. -/

namespace Sys2Proof.Machine

variable (s : State)

@[simp] theorem exec_nop : exec .nop s = execNop s := rfl
@[simp] theorem exec_bra (b : Src) : exec (.bra b) s = execBra b s := rfl
@[simp] theorem exec_brc (neg : Bool) (pa : Fin 8) (b : Src) : exec (.brc neg pa b) s = execBrc neg pa b s := rfl
@[simp] theorem exec_brany (neg : Bool) (pa : Fin 8) (b : Src) : exec (.brany neg pa b) s = execBrany neg pa b s := rfl
@[simp] theorem exec_brall (neg : Bool) (pa : Fin 8) (b : Src) : exec (.brall neg pa b) s = execBrall neg pa b s := rfl
@[simp] theorem exec_jmp (b : Src) : exec (.jmp b) s = execJmp b s := rfl
@[simp] theorem exec_call (d : Reg) (b : Src) : exec (.call d b) s = execCall d b s := rfl
@[simp] theorem exec_ret (b : Reg) : exec (.ret b) s = execRet b s := rfl
@[simp] theorem exec_loop (d : Reg) (b : Src) : exec (.loop d b) s = execLoop d b s := rfl
@[simp] theorem exec_fuse : exec .fuse s = execFuse s := rfl
@[simp] theorem exec_yield : exec .yield s = execYield s := rfl
@[simp] theorem exec_exit : exec .exit s = execExit s := rfl
@[simp] theorem exec_stop : exec .stop s = execStop s := rfl
@[simp] theorem exec_sigchk (b : Src) : exec (.sigchk b) s = execSigchk b s := rfl
@[simp] theorem exec_sigrd (d : Reg) : exec (.sigrd d) s = execSigrd d s := rfl
@[simp] theorem exec_elect (p : Fin 8) : exec (.elect p) s = execElect p s := rfl
@[simp] theorem exec_mood (md : Fin 4) (b : Src) : exec (.mood md b) s = execMood md b s := rfl
@[simp] theorem exec_moodrd (d : Reg) (ma : Fin 4) : exec (.moodrd d ma) s = execMoodrd d ma s := rfl
@[simp] theorem exec_cmp (p : Fin 8) (c : Cond) (a : Reg) (b : Src) : exec (.cmp p c a b) s = execCmp p c a b s := rfl
@[simp] theorem exec_pand (p : Fin 8) (pa : Fin 8) (pb : Fin 8) : exec (.pand p pa pb) s = execPand p pa pb s := rfl
@[simp] theorem exec_por (p : Fin 8) (pa : Fin 8) (pb : Fin 8) : exec (.por p pa pb) s = execPor p pa pb s := rfl
@[simp] theorem exec_pxor (p : Fin 8) (pa : Fin 8) (pb : Fin 8) : exec (.pxor p pa pb) s = execPxor p pa pb s := rfl
@[simp] theorem exec_pnot (p : Fin 8) (pa : Fin 8) : exec (.pnot p pa) s = execPnot p pa s := rfl
@[simp] theorem exec_pmov (p : Fin 8) (a : Reg) (b : Src) : exec (.pmov p a b) s = execPmov p a b s := rfl
@[simp] theorem exec_vote (p : Fin 8) (k : VoteKind) (pa : Fin 8) : exec (.vote p k pa) s = execVote p k pa s := rfl
@[simp] theorem exec_ballot (d : Reg) (pa : Fin 8) (b : Src) : exec (.ballot d pa b) s = execBallot d pa b s := rfl
@[simp] theorem exec_selp (d : Reg) (a : Reg) (pb : Fin 8) : exec (.selp d a pb) s = execSelp d a pb s := rfl
@[simp] theorem exec_srd (d : Reg) (sp : Special) : exec (.srd d sp) s = execSrd d sp s := rfl
@[simp] theorem exec_swrGen (b : Src) : exec (.swrGen b) s = execSwrGen b s := rfl
@[simp] theorem exec_swrSig (b : Src) : exec (.swrSig b) s = execSwrSig b s := rfl
@[simp] theorem exec_mov (d : Reg) (a : Reg) : exec (.mov d a) s = execMov d a s := rfl
@[simp] theorem exec_movi (d : Reg) (b : Src) : exec (.movi d b) s = execMovi d b s := rfl
@[simp] theorem exec_add (d : Reg) (a : Reg) (b : Src) : exec (.add d a b) s = execAdd d a b s := rfl
@[simp] theorem exec_sub (d : Reg) (a : Reg) (b : Src) : exec (.sub d a b) s = execSub d a b s := rfl
@[simp] theorem exec_mul (d : Reg) (a : Reg) (b : Src) : exec (.mul d a b) s = execMul d a b s := rfl
@[simp] theorem exec_mulhi (d : Reg) (a : Reg) (b : Src) : exec (.mulhi d a b) s = execMulhi d a b s := rfl
@[simp] theorem exec_fma (d : Reg) (a : Reg) (b : Src) : exec (.fma d a b) s = execFma d a b s := rfl
@[simp] theorem exec_fms (d : Reg) (a : Reg) (b : Src) : exec (.fms d a b) s = execFms d a b s := rfl
@[simp] theorem exec_fnma (d : Reg) (a : Reg) (b : Src) : exec (.fnma d a b) s = execFnma d a b s := rfl
@[simp] theorem exec_min (d : Reg) (a : Reg) (b : Src) : exec (.min d a b) s = execMin d a b s := rfl
@[simp] theorem exec_max (d : Reg) (a : Reg) (b : Src) : exec (.max d a b) s = execMax d a b s := rfl
@[simp] theorem exec_abs (d : Reg) (a : Reg) : exec (.abs d a) s = execAbs d a s := rfl
@[simp] theorem exec_neg (d : Reg) (a : Reg) : exec (.neg d a) s = execNeg d a s := rfl
@[simp] theorem exec_clamp (d : Reg) (a : Reg) (b : Src) : exec (.clamp d a b) s = execClamp d a b s := rfl
@[simp] theorem exec_div (d : Reg) (a : Reg) (b : Src) : exec (.div d a b) s = execDiv d a b s := rfl
@[simp] theorem exec_rem (d : Reg) (a : Reg) (b : Src) : exec (.rem d a b) s = execRem d a b s := rfl
@[simp] theorem exec_sqrt (d : Reg) (a : Reg) : exec (.sqrt d a) s = execSqrt d a s := rfl
@[simp] theorem exec_rsq (d : Reg) (a : Reg) : exec (.rsq d a) s = execRsq d a s := rfl
@[simp] theorem exec_rcp (d : Reg) (a : Reg) : exec (.rcp d a) s = execRcp d a s := rfl
@[simp] theorem exec_exp2 (d : Reg) (a : Reg) : exec (.exp2 d a) s = execExp2 d a s := rfl
@[simp] theorem exec_log2 (d : Reg) (a : Reg) : exec (.log2 d a) s = execLog2 d a s := rfl
@[simp] theorem exec_sin (d : Reg) (a : Reg) : exec (.sin d a) s = execSin d a s := rfl
@[simp] theorem exec_cos (d : Reg) (a : Reg) : exec (.cos d a) s = execCos d a s := rfl
@[simp] theorem exec_tanh (d : Reg) (a : Reg) : exec (.tanh d a) s = execTanh d a s := rfl
@[simp] theorem exec_cvt (e : Fin 4) (d : Reg) (a : Reg) (st : Fin 15) : exec (.cvt e d a st) s = execCvt e d a st s := rfl
@[simp] theorem exec_pack (src : PackSrc) (d : Reg) (a : Reg) (b : Src) : exec (.pack src d a b) s = execPack src d a b s := rfl
@[simp] theorem exec_unpack (d : Reg) (a : Reg) (b : Src) : exec (.unpack d a b) s = execUnpack d a b s := rfl
@[simp] theorem exec_dot4 (d : Reg) (a : Reg) (b : Src) : exec (.dot4 d a b) s = execDot4 d a b s := rfl
@[simp] theorem exec_dot2 (d : Reg) (a : Reg) (b : Src) : exec (.dot2 d a b) s = execDot2 d a b s := rfl
@[simp] theorem exec_frc (d : Reg) (a : Reg) : exec (.frc d a) s = execFrc d a s := rfl
@[simp] theorem exec_rnd (d : Reg) (a : Reg) : exec (.rnd d a) s = execRnd d a s := rfl
@[simp] theorem exec_and (d : Reg) (a : Reg) (b : Src) : exec (.and d a b) s = execAnd d a b s := rfl
@[simp] theorem exec_or (d : Reg) (a : Reg) (b : Src) : exec (.or d a b) s = execOr d a b s := rfl
@[simp] theorem exec_xor (d : Reg) (a : Reg) (b : Src) : exec (.xor d a b) s = execXor d a b s := rfl
@[simp] theorem exec_not (d : Reg) (a : Reg) : exec (.not d a) s = execNot d a s := rfl
@[simp] theorem exec_shl (d : Reg) (a : Reg) (b : Src) : exec (.shl d a b) s = execShl d a b s := rfl
@[simp] theorem exec_shr (d : Reg) (a : Reg) (b : Src) : exec (.shr d a b) s = execShr d a b s := rfl
@[simp] theorem exec_sar (d : Reg) (a : Reg) (b : Src) : exec (.sar d a b) s = execSar d a b s := rfl
@[simp] theorem exec_rot (d : Reg) (a : Reg) (b : Src) : exec (.rot d a b) s = execRot d a b s := rfl
@[simp] theorem exec_popc (d : Reg) (a : Reg) : exec (.popc d a) s = execPopc d a s := rfl
@[simp] theorem exec_clz (d : Reg) (a : Reg) : exec (.clz d a) s = execClz d a s := rfl
@[simp] theorem exec_brev (d : Reg) (a : Reg) : exec (.brev d a) s = execBrev d a s := rfl
@[simp] theorem exec_bfe (d : Reg) (a : Reg) (b : Src) : exec (.bfe d a b) s = execBfe d a b s := rfl
@[simp] theorem exec_bfi (d : Reg) (a : Reg) (b : Src) : exec (.bfi d a b) s = execBfi d a b s := rfl
@[simp] theorem exec_addc (d : Reg) (a : Reg) (b : Src) : exec (.addc d a b) s = execAddc d a b s := rfl
@[simp] theorem exec_lea (d : Reg) (a : Reg) (b : Src) : exec (.lea d a b) s = execLea d a b s := rfl
@[simp] theorem exec_qswap (x : QuadX) (d : Reg) (a : Reg) : exec (.qswap x d a) s = execQswap x d a s := rfl
@[simp] theorem exec_qbcast (l : Fin 4) (d : Reg) (a : Reg) : exec (.qbcast l d a) s = execQbcast l d a s := rfl
@[simp] theorem exec_shfl (m : ShflMode) (d : Reg) (a : Reg) (b : Src) : exec (.shfl m d a b) s = execShfl m d a b s := rfl
@[simp] theorem exec_scan (m : ScanMode) (d : Reg) (a : Reg) : exec (.scan m d a) s = execScan m d a s := rfl
@[simp] theorem exec_redx (m : RedxMode) (d : Reg) (a : Reg) : exec (.redx m d a) s = execRedx m d a s := rfl
@[simp] theorem exec_matchRow (d : Reg) (a : Reg) : exec (.matchRow d a) s = execMatchRow d a s := rfl
@[simp] theorem exec_matchAll (p : Fin 8) (a : Reg) : exec (.matchAll p a) s = execMatchAll p a s := rfl
@[simp] theorem exec_tshfl (m : TshflMode) (d : Reg) (a : Reg) (b : Src) : exec (.tshfl m d a b) s = execTshfl m d a b s := rfl
@[simp] theorem exec_ld8 (cls : LdClass) (d : Reg) (a : Reg) (b : Src) : exec (.ld8 cls d a b) s = execLd8 cls d a b s := rfl
@[simp] theorem exec_ld16 (cls : LdClass) (d : Reg) (a : Reg) (b : Src) : exec (.ld16 cls d a b) s = execLd16 cls d a b s := rfl
@[simp] theorem exec_ld32 (cls : LdClass) (d : Reg) (a : Reg) (b : Src) : exec (.ld32 cls d a b) s = execLd32 cls d a b s := rfl
@[simp] theorem exec_ld64 (cls : LdClass) (d : Reg) (a : Reg) (b : Src) : exec (.ld64 cls d a b) s = execLd64 cls d a b s := rfl
@[simp] theorem exec_ld128 (cls : LdClass) (d : Reg) (a : Reg) (b : Src) : exec (.ld128 cls d a b) s = execLd128 cls d a b s := rfl
@[simp] theorem exec_st8 (cls : StClass) (d : Reg) (a : Reg) (b : Src) : exec (.st8 cls d a b) s = execSt8 cls d a b s := rfl
@[simp] theorem exec_st16 (cls : StClass) (d : Reg) (a : Reg) (b : Src) : exec (.st16 cls d a b) s = execSt16 cls d a b s := rfl
@[simp] theorem exec_st32 (cls : StClass) (d : Reg) (a : Reg) (b : Src) : exec (.st32 cls d a b) s = execSt32 cls d a b s := rfl
@[simp] theorem exec_st64 (cls : StClass) (d : Reg) (a : Reg) (b : Src) : exec (.st64 cls d a b) s = execSt64 cls d a b s := rfl
@[simp] theorem exec_st128 (cls : StClass) (d : Reg) (a : Reg) (b : Src) : exec (.st128 cls d a b) s = execSt128 cls d a b s := rfl
@[simp] theorem exec_pf (k : PfKind) (a : Reg) (b : Src) : exec (.pf k a b) s = execPf k a b s := rfl
@[simp] theorem exec_atadd (ord : AtOrder) (d : Reg) (a : Reg) (b : Src) : exec (.atadd ord d a b) s = execAtadd ord d a b s := rfl
@[simp] theorem exec_atmin (ord : AtOrder) (d : Reg) (a : Reg) (b : Src) : exec (.atmin ord d a b) s = execAtmin ord d a b s := rfl
@[simp] theorem exec_atmax (ord : AtOrder) (d : Reg) (a : Reg) (b : Src) : exec (.atmax ord d a b) s = execAtmax ord d a b s := rfl
@[simp] theorem exec_atand (ord : AtOrder) (d : Reg) (a : Reg) (b : Src) : exec (.atand ord d a b) s = execAtand ord d a b s := rfl
@[simp] theorem exec_ator (ord : AtOrder) (d : Reg) (a : Reg) (b : Src) : exec (.ator ord d a b) s = execAtor ord d a b s := rfl
@[simp] theorem exec_atxor (ord : AtOrder) (d : Reg) (a : Reg) (b : Src) : exec (.atxor ord d a b) s = execAtxor ord d a b s := rfl
@[simp] theorem exec_atxch (ord : AtOrder) (d : Reg) (a : Reg) (b : Src) : exec (.atxch ord d a b) s = execAtxch ord d a b s := rfl
@[simp] theorem exec_atcas (ord : AtOrder) (d : Reg) (a : Reg) (b : Src) : exec (.atcas ord d a b) s = execAtcas ord d a b s := rfl
@[simp] theorem exec_atinc (ord : AtOrder) (d : Reg) (a : Reg) (b : Src) : exec (.atinc ord d a b) s = execAtinc ord d a b s := rfl
@[simp] theorem exec_rdadd (rel : Bool) (d : Reg) (a : Reg) (b : Src) : exec (.rdadd rel d a b) s = execRdadd rel d a b s := rfl
@[simp] theorem exec_rdmin (rel : Bool) (d : Reg) (a : Reg) (b : Src) : exec (.rdmin rel d a b) s = execRdmin rel d a b s := rfl
@[simp] theorem exec_rdmax (rel : Bool) (d : Reg) (a : Reg) (b : Src) : exec (.rdmax rel d a b) s = execRdmax rel d a b s := rfl
@[simp] theorem exec_rdand (rel : Bool) (d : Reg) (a : Reg) (b : Src) : exec (.rdand rel d a b) s = execRdand rel d a b s := rfl
@[simp] theorem exec_rdor (rel : Bool) (d : Reg) (a : Reg) (b : Src) : exec (.rdor rel d a b) s = execRdor rel d a b s := rfl
@[simp] theorem exec_rdxor (rel : Bool) (d : Reg) (a : Reg) (b : Src) : exec (.rdxor rel d a b) s = execRdxor rel d a b s := rfl
@[simp] theorem exec_lock (d : Reg) (a : Reg) (b : Src) : exec (.lock d a b) s = execLock d a b s := rfl
@[simp] theorem exec_trylk (d : Reg) (a : Reg) : exec (.trylk d a) s = execTrylk d a s := rfl
@[simp] theorem exec_unlock (d : Reg) (a : Reg) : exec (.unlock d a) s = execUnlock d a s := rfl
@[simp] theorem exec_lkqry (d : Reg) (a : Reg) : exec (.lkqry d a) s = execLkqry d a s := rfl
@[simp] theorem exec_phhdr (cur : Bool) (b : Src) : exec (.phhdr cur b) s = execPhhdr cur b s := rfl
@[simp] theorem exec_phend : exec .phend s = execPhend s := rfl
@[simp] theorem exec_phwait (d : Reg) (a : Reg) (pb : Fin 8) : exec (.phwait d a pb) s = execPhwait d a pb s := rfl
@[simp] theorem exec_phrd (fld : PhField) (d : Reg) : exec (.phrd fld d) s = execPhrd fld d s := rfl
@[simp] theorem exec_fence (k : FenceKind) (sc : Scope) : exec (.fence k sc) s = execFence k sc s := rfl
@[simp] theorem exec_bar : exec .bar s = execBar s := rfl
@[simp] theorem exec_gbar : exec .gbar s = execGbar s := rfl
@[simp] theorem exec_waitp (path : Fin 7) (b : Src) : exec (.waitp path b) s = execWaitp path b s := rfl
@[simp] theorem exec_waitct (a : Reg) (b : Src) : exec (.waitct a b) s = execWaitct a b s := rfl
@[simp] theorem exec_ctset (rel : Bool) (a : Reg) (b : Src) : exec (.ctset rel a b) s = execCtset rel a b s := rfl
@[simp] theorem exec_ctadd (rel : Bool) (d : Reg) (a : Reg) (b : Src) : exec (.ctadd rel d a b) s = execCtadd rel d a b s := rfl
@[simp] theorem exec_ctrd (d : Reg) (a : Reg) : exec (.ctrd d a) s = execCtrd d a s := rfl
@[simp] theorem exec_bld (fb : Bool) (sq : Bool) (d : Reg) (a : Reg) (b : Reg) : exec (.bld fb sq d a b) s = execBld fb sq d a b s := rfl
@[simp] theorem exec_mma (fb : Bool) (sq : Bool) (d : Reg) (a : Reg) (b : Reg) : exec (.mma fb sq d a b) s = execMma fb sq d a b s := rfl
@[simp] theorem exec_mmas (fb : Bool) (sq : Bool) (d : Reg) (a : Reg) (b : Reg) : exec (.mmas fb sq d a b) s = execMmas fb sq d a b s := rfl
@[simp] theorem exec_accz (fb : Bool) (sq : Bool) (d : Reg) : exec (.accz fb sq d) s = execAccz fb sq d s := rfl
@[simp] theorem exec_accld (fb : Bool) (sq : Bool) (d : Reg) (a : Reg) (b : Src) : exec (.accld fb sq d a b) s = execAccld fb sq d a b s := rfl
@[simp] theorem exec_accst (fb : Bool) (sq : Bool) (d : Reg) (a : Reg) (b : Src) : exec (.accst fb sq d a b) s = execAccst fb sq d a b s := rfl
@[simp] theorem exec_accrd (d : Reg) (a : Reg) : exec (.accrd d a) s = execAccrd d a s := rfl
@[simp] theorem exec_accwr (d : Reg) (a : Reg) : exec (.accwr d a) s = execAccwr d a s := rfl
@[simp] theorem exec_spmld (fb : Bool) (sq : Bool) (d : Reg) (a : Reg) (b : Src) : exec (.spmld fb sq d a b) s = execSpmld fb sq d a b s := rfl
@[simp] theorem exec_qnt (fb : Bool) (sq : Bool) (d : Reg) (a : Reg) (b : Src) : exec (.qnt fb sq d a b) s = execQnt fb sq d a b s := rfl
@[simp] theorem exec_dqnt (fb : Bool) (sq : Bool) (d : Reg) (a : Reg) (b : Src) : exec (.dqnt fb sq d a b) s = execDqnt fb sq d a b s := rfl
@[simp] theorem exec_mxqry (d : Reg) : exec (.mxqry d) s = execMxqry d s := rfl
@[simp] theorem exec_cpsl (fb : Bool) (sq : Bool) (d : Reg) (a : Reg) (b : Src) : exec (.cpsl fb sq d a b) s = execCpsl fb sq d a b s := rfl
@[simp] theorem exec_hbind (d : Reg) (a : Reg) (b : Src) : exec (.hbind d a b) s = execHbind d a b s := rfl
@[simp] theorem exec_hwait (d : Reg) (a : Reg) : exec (.hwait d a) s = execHwait d a s := rfl
@[simp] theorem exec_hrel (d : Reg) (a : Reg) : exec (.hrel d a) s = execHrel d a s := rfl
@[simp] theorem exec_hstat (d : Reg) (a : Reg) : exec (.hstat d a) s = execHstat d a s := rfl
@[simp] theorem exec_put (fb : Bool) (sq : Bool) (d : Reg) (a : Reg) (b : Reg) : exec (.put fb sq d a b) s = execPut fb sq d a b s := rfl
@[simp] theorem exec_get (fb : Bool) (sq : Bool) (d : Reg) (a : Reg) (b : Reg) : exec (.get fb sq d a b) s = execGet fb sq d a b s := rfl
@[simp] theorem exec_bulk (fb : Bool) (sq : Bool) (d : Reg) : exec (.bulk fb sq d) s = execBulk fb sq d s := rfl
@[simp] theorem exec_send (fb : Bool) (sq : Bool) (d : Reg) (a : Reg) : exec (.send fb sq d a) s = execSend fb sq d a s := rfl
@[simp] theorem exec_recv (a : Reg) : exec (.recv a) s = execRecv a s := rfl
@[simp] theorem exec_fxqry (d : Reg) (b : Src) : exec (.fxqry d b) s = execFxqry d b s := rfl
@[simp] theorem exec_cjpost (fb : Bool) (sq : Bool) (d : Reg) : exec (.cjpost fb sq d) s = execCjpost fb sq d s := rfl
@[simp] theorem exec_cjcancel (d : Reg) (a : Reg) : exec (.cjcancel d a) s = execCjcancel d a s := rfl
@[simp] theorem exec_cjqry (d : Reg) (a : Reg) : exec (.cjqry d a) s = execCjqry d a s := rfl
@[simp] theorem exec_trap (b : Src) : exec (.trap b) s = execTrap b s := rfl
@[simp] theorem exec_chkerr (d : Reg) (b : Src) : exec (.chkerr d b) s = execChkerr d b s := rfl
@[simp] theorem exec_bkpt (b : Src) : exec (.bkpt b) s = execBkpt b s := rfl
@[simp] theorem exec_eret : exec .eret s = execEret s := rfl
@[simp] theorem exec_sysrd (d : Reg) (reg : Fin 12) : exec (.sysrd d reg) s = execSysrd d reg s := rfl
@[simp] theorem exec_syswr (reg : Fin 12) (b : Src) : exec (.syswr reg b) s = execSyswr reg b s := rfl
@[simp] theorem exec_taskrd (d : Reg) (item : Fin 6) : exec (.taskrd d item) s = execTaskrd d item s := rfl
@[simp] theorem exec_deviceReset : exec .deviceReset s = execDeviceReset s := rfl
@[simp] theorem exec_notifyWrite (desc : Nat) (x : DWord) : exec (.notifyWrite desc x) s = execNotifyWrite desc x s := rfl
@[simp] theorem exec_slotMap (n : Fin 64) (addr : DWord) : exec (.slotMap n addr) s = execSlotMap n addr s := rfl
@[simp] theorem exec_slotUnmap (n : Fin 64) : exec (.slotUnmap n) s = execSlotUnmap n s := rfl
@[simp] theorem exec_recordFetch (n : Fin 64) : exec (.recordFetch n) s = execRecordFetch n s := rfl
@[simp] theorem exec_recordCheck (n : Fin 64) : exec (.recordCheck n) s = execRecordCheck n s := rfl
@[simp] theorem exec_recordRelease (n : Fin 64) : exec (.recordRelease n) s = execRecordRelease n s := rfl
@[simp] theorem exec_groupPlace (die : Fin 2) : exec (.groupPlace die) s = execGroupPlace die s := rfl
@[simp] theorem exec_gangPlace (die : Fin 2) : exec (.gangPlace die) s = execGangPlace die s := rfl
@[simp] theorem exec_affinityWiden (n : Fin 64) : exec (.affinityWiden n) s = execAffinityWiden n s := rfl
@[simp] theorem exec_preempt (n : Fin 64) : exec (.preempt n) s = execPreempt n s := rfl
@[simp] theorem exec_teamEvict (team : Nat) : exec (.teamEvict team) s = execTeamEvict team s := rfl
@[simp] theorem exec_teamRestore (team : Nat) : exec (.teamRestore team) s = execTeamRestore team s := rfl
@[simp] theorem exec_teamRetire (team : Nat) : exec (.teamRetire team) s = execTeamRetire team s := rfl
@[simp] theorem exec_launchComplete (launch : Nat) : exec (.launchComplete launch) s = execLaunchComplete launch s := rfl
@[simp] theorem exec_watchdogExpire (ctx : Nat) : exec (.watchdogExpire ctx) s = execWatchdogExpire ctx s := rfl
@[simp] theorem exec_clockThrottle (core : Fin 256) : exec (.clockThrottle core) s = execClockThrottle core s := rfl
@[simp] theorem exec_slotOwnerWrite (n : Fin 64) (v : DWord) : exec (.slotOwnerWrite n v) s = execSlotOwnerWrite n v s := rfl
@[simp] theorem exec_ctxdescWrite (addr : DWord) (ctx : Nat) : exec (.ctxdescWrite addr ctx) s = execCtxdescWrite addr ctx s := rfl
@[simp] theorem exec_xlinvPage (keepG : Bool) (ctx : Nat) : exec (.xlinvPage keepG ctx) s = execXlinvPage keepG ctx s := rfl
@[simp] theorem exec_xlinvContext (keepG : Bool) (ctx : Nat) : exec (.xlinvContext keepG ctx) s = execXlinvContext keepG ctx s := rfl
@[simp] theorem exec_xlinvAll (keepG : Bool) : exec (.xlinvAll keepG) s = execXlinvAll keepG s := rfl
@[simp] theorem exec_xlinvDone : exec .xlinvDone s = execXlinvDone s := rfl
@[simp] theorem exec_translationWalk (req : Nat) : exec (.translationWalk req) s = execTranslationWalk req s := rfl
@[simp] theorem exec_pageRequestWrite : exec .pageRequestWrite s = execPageRequestWrite s := rfl
@[simp] theorem exec_pgrdoneFilled (seq : Nat) : exec (.pgrdoneFilled seq) s = execPgrdoneFilled seq s := rfl
@[simp] theorem exec_pgrdoneTranslationFault (seq : Nat) : exec (.pgrdoneTranslationFault seq) s = execPgrdoneTranslationFault seq s := rfl
@[simp] theorem exec_pgrdoneProtectionFault (seq : Nat) : exec (.pgrdoneProtectionFault seq) s = execPgrdoneProtectionFault seq s := rfl
@[simp] theorem exec_memoryResponse (req : Nat) (data : Marked) (status : Nat) : exec (.memoryResponse req data status) s = execMemoryResponse req data status s := rfl
@[simp] theorem exec_holdLimitBounce (req : Nat) : exec (.holdLimitBounce req) s = execHoldLimitBounce req s := rfl
@[simp] theorem exec_parenthesisReissue (req : Nat) : exec (.parenthesisReissue req) s = execParenthesisReissue req s := rfl
@[simp] theorem exec_backoffExpire (req : Nat) : exec (.backoffExpire req) s = execBackoffExpire req s := rfl
@[simp] theorem exec_homeLoad (req : Nat) : exec (.homeLoad req) s = execHomeLoad req s := rfl
@[simp] theorem exec_writeNotice (req : Nat) : exec (.writeNotice req) s = execWriteNotice req s := rfl
@[simp] theorem exec_sectorFlush (core : Fin 256) (sector : Nat) : exec (.sectorFlush core sector) s = execSectorFlush core sector s := rfl
@[simp] theorem exec_homeSyncStore (req : Nat) : exec (.homeSyncStore req) s = execHomeSyncStore req s := rfl
@[simp] theorem exec_homeAtomic (req : Nat) : exec (.homeAtomic req) s = execHomeAtomic req s := rfl
@[simp] theorem exec_homeReduction (req : Nat) : exec (.homeReduction req) s = execHomeReduction req s := rfl
@[simp] theorem exec_recall (core : Fin 256) (sector : Nat) : exec (.recall core sector) s = execRecall core sector s := rfl
@[simp] theorem exec_writeUpdate (upd core : Nat) : exec (.writeUpdate upd core) s = execWriteUpdate upd core s := rfl
@[simp] theorem exec_updateSwitch (upd : Nat) : exec (.updateSwitch upd) s = execUpdateSwitch upd s := rfl
@[simp] theorem exec_missFill (slice line : Nat) : exec (.missFill slice line) s = execMissFill slice line s := rfl
@[simp] theorem exec_arrival (core : Fin 256) (slot : Fin 64) (phase : Nat) : exec (.arrival core slot phase) s = execArrival core slot phase s := rfl
@[simp] theorem exec_phaseRaise (launch core : Nat) : exec (.phaseRaise launch core) s = execPhaseRaise launch core s := rfl
@[simp] theorem exec_phaseCommit (launch : Nat) : exec (.phaseCommit launch) s = execPhaseCommit launch s := rfl
@[simp] theorem exec_commitBroadcast (launch : Nat) (die : Fin 2) : exec (.commitBroadcast launch die) s = execCommitBroadcast launch die s := rfl
@[simp] theorem exec_peerCommitMessage (src : Nat) (what : PeerPhase) : exec (.peerCommitMessage src what) s = execPeerCommitMessage src what s := rfl
@[simp] theorem exec_peerDiscardMessage (src task : Nat) : exec (.peerDiscardMessage src task) s = execPeerDiscardMessage src task s := rfl
@[simp] theorem exec_lockTimeout (team : Nat) : exec (.lockTimeout team) s = execLockTimeout team s := rfl
@[simp] theorem exec_absenceTimerExpire (line : Nat) : exec (.absenceTimerExpire line) s = execAbsenceTimerExpire line s := rfl
@[simp] theorem exec_deadlockProbe (team : Nat) : exec (.deadlockProbe team) s = execDeadlockProbe team s := rfl
@[simp] theorem exec_engineOpStart (op : Nat) : exec (.engineOpStart op) s = execEngineOpStart op s := rfl
@[simp] theorem exec_engineOpComplete (op : Nat) : exec (.engineOpComplete op) s = execEngineOpComplete op s := rfl
@[simp] theorem exec_sparsityEntryArrive (pair : Fin 128) (entry : List Byte) : exec (.sparsityEntryArrive pair entry) s = execSparsityEntryArrive pair entry s := rfl
@[simp] theorem exec_matrixQueryCommand (team : Nat) : exec (.matrixQueryCommand team) s = execMatrixQueryCommand team s := rfl
@[simp] theorem exec_matrixBadCommand (team : Nat) : exec (.matrixBadCommand team) s = execMatrixBadCommand team s := rfl
@[simp] theorem exec_copyLineLand (op : Nat) : exec (.copyLineLand op) s = execCopyLineLand op s := rfl
@[simp] theorem exec_copyFull (group : Nat) (handle : Fin 8) : exec (.copyFull group handle) s = execCopyFull group handle s := rfl
@[simp] theorem exec_handleDrainDone (group : Nat) (handle : Fin 8) : exec (.handleDrainDone group handle) s = execHandleDrainDone group handle s := rfl
@[simp] theorem exec_copyCancel (team : Nat) : exec (.copyCancel team) s = execCopyCancel team s := rfl
@[simp] theorem exec_copyProgress (team : Nat) : exec (.copyProgress team) s = execCopyProgress team s := rfl
@[simp] theorem exec_copyBadCommand (team : Nat) : exec (.copyBadCommand team) s = execCopyBadCommand team s := rfl
@[simp] theorem exec_conjunctionQueryCommand (team : Nat) : exec (.conjunctionQueryCommand team) s = execConjunctionQueryCommand team s := rfl
@[simp] theorem exec_conjunctionBadCommand (team : Nat) : exec (.conjunctionBadCommand team) s = execConjunctionBadCommand team s := rfl
@[simp] theorem exec_fabricQueryCommand (team : Nat) : exec (.fabricQueryCommand team) s = execFabricQueryCommand team s := rfl
@[simp] theorem exec_fabricBadCommand (team : Nat) : exec (.fabricBadCommand team) s = execFabricBadCommand team s := rfl
@[simp] theorem exec_packetForm (transfer : Nat) : exec (.packetForm transfer) s = execPacketForm transfer s := rfl
@[simp] theorem exec_fyoloInbound (r : InboundReq) : exec (.fyoloInbound r) s = execFyoloInbound r s := rfl
@[simp] theorem exec_packetAck (transfer packet status : Nat) (data : Marked) : exec (.packetAck transfer packet status data) s = execPacketAck transfer packet status data s := rfl
@[simp] theorem exec_multicastForward (mc : Nat) : exec (.multicastForward mc) s = execMulticastForward mc s := rfl
@[simp] theorem exec_flitReceive (port : Fin 8) (seq : Nat) (ok : Bool) : exec (.flitReceive port seq ok) s = execFlitReceive port seq ok s := rfl
@[simp] theorem exec_linkAck (port : Fin 8) (seq : Nat) : exec (.linkAck port seq) s = execLinkAck port seq s := rfl
@[simp] theorem exec_linkNak (port : Fin 8) (seq : Nat) : exec (.linkNak port seq) s = execLinkNak port seq s := rfl
@[simp] theorem exec_acktoExpire (port : Fin 8) : exec (.acktoExpire port) s = execAcktoExpire port s := rfl
@[simp] theorem exec_laneLoss (port : Fin 8) (lane : Nat) : exec (.laneLoss port lane) s = execLaneLoss port lane s := rfl
@[simp] theorem exec_retrainDone (port : Fin 8) : exec (.retrainDone port) s = execRetrainDone port s := rfl
@[simp] theorem exec_endToEndTimeout (transfer packet : Nat) : exec (.endToEndTimeout transfer packet) s = execEndToEndTimeout transfer packet s := rfl
@[simp] theorem exec_fyselfWrite (v : DWord) : exec (.fyselfWrite v) s = execFyselfWrite v s := rfl
@[simp] theorem exec_fyrtinvWrite (v : DWord) : exec (.fyrtinvWrite v) s = execFyrtinvWrite v s := rfl
@[simp] theorem exec_conjunctionRoundIssue (die : Fin 2) : exec (.conjunctionRoundIssue die) s = execConjunctionRoundIssue die s := rfl
@[simp] theorem exec_conjunctionRoundComplete (round status : Nat) (data : Marked) : exec (.conjunctionRoundComplete round status data) s = execConjunctionRoundComplete round status data s := rfl
@[simp] theorem exec_callReplyWrite (ctx : Nat) (value : DWord) : exec (.callReplyWrite ctx value) s = execCallReplyWrite ctx value s := rfl
@[simp] theorem exec_faultRecordDrain (ctx : Nat) : exec (.faultRecordDrain ctx) s = execFaultRecordDrain ctx s := rfl
@[simp] theorem exec_teamRestart (team : Nat) : exec (.teamRestart team) s = execTeamRestart team s := rfl
@[simp] theorem exec_mxresetWrite (v : DWord) : exec (.mxresetWrite v) s = execMxresetWrite v s := rfl
@[simp] theorem exec_matrixResetError (pair : Fin 128) : exec (.matrixResetError pair) s = execMatrixResetError pair s := rfl
@[simp] theorem exec_matrixResetDone (pair : Fin 128) : exec (.matrixResetDone pair) s = execMatrixResetDone pair s := rfl
@[simp] theorem exec_ctxResume (ctx : Nat) : exec (.ctxResume ctx) s = execCtxResume ctx s := rfl
@[simp] theorem exec_ctxDestroy (ctx : Nat) : exec (.ctxDestroy ctx) s = execCtxDestroy ctx s := rfl
@[simp] theorem exec_vfswitchWrite (v : DWord) : exec (.vfswitchWrite v) s = execVfswitchWrite v s := rfl
@[simp] theorem exec_switchUnitCommit (ctx : Nat) : exec (.switchUnitCommit ctx) s = execSwitchUnitCommit ctx s := rfl
@[simp] theorem exec_funcPreempt (f : Nat) : exec (.funcPreempt f) s = execFuncPreempt f s := rfl
@[simp] theorem exec_funcRestore (f : Nat) : exec (.funcRestore f) s = execFuncRestore f s := rfl
@[simp] theorem exec_ckOpen (ctx : Nat) : exec (.ckOpen ctx) s = execCkOpen ctx s := rfl
@[simp] theorem exec_ckRollback (ctx : Nat) : exec (.ckRollback ctx) s = execCkRollback ctx s := rfl
@[simp] theorem exec_ckClose (ctx : Nat) : exec (.ckClose ctx) s = execCkClose ctx s := rfl
@[simp] theorem exec_svcDrain (cls unit : Nat) : exec (.svcDrain cls unit) s = execSvcDrain cls unit s := rfl
@[simp] theorem exec_svcReturn (cls unit : Nat) : exec (.svcReturn cls unit) s = execSvcReturn cls unit s := rfl
@[simp] theorem exec_svcRepair (cls unit : Nat) : exec (.svcRepair cls unit) s = execSvcRepair cls unit s := rfl
@[simp] theorem exec_svcUpdate (cls : Nat) (what : UnitImage) : exec (.svcUpdate cls what) s = execSvcUpdate cls what s := rfl
@[simp] theorem exec_unitEmpty (cls unit : Nat) : exec (.unitEmpty cls unit) s = execUnitEmpty cls unit s := rfl
@[simp] theorem exec_unitReady (cls unit : Nat) : exec (.unitReady cls unit) s = execUnitReady cls unit s := rfl
@[simp] theorem exec_scrubLine (target : ScrubTarget) (outcome : ScrubOutcome) : exec (.scrubLine target outcome) s = execScrubLine target outcome s := rfl
@[simp] theorem exec_resync (v : DWord) : exec (.resync v) s = execResync v s := rfl
@[simp] theorem exec_spdmGetVersion : exec .spdmGetVersion s = execSpdmGetVersion s := rfl
@[simp] theorem exec_spdmGetCapabilities : exec .spdmGetCapabilities s = execSpdmGetCapabilities s := rfl
@[simp] theorem exec_spdmNegotiateAlgorithms : exec .spdmNegotiateAlgorithms s = execSpdmNegotiateAlgorithms s := rfl
@[simp] theorem exec_spdmGetDigests : exec .spdmGetDigests s = execSpdmGetDigests s := rfl
@[simp] theorem exec_spdmGetCertificate : exec .spdmGetCertificate s = execSpdmGetCertificate s := rfl
@[simp] theorem exec_spdmChallenge (nonce : List Byte) : exec (.spdmChallenge nonce) s = execSpdmChallenge nonce s := rfl
@[simp] theorem exec_spdmGetMeasurements (nonce : List Byte) : exec (.spdmGetMeasurements nonce) s = execSpdmGetMeasurements nonce s := rfl
@[simp] theorem exec_spdmUnsupported (request : Byte) : exec (.spdmUnsupported request) s = execSpdmUnsupported request s := rfl
@[simp] theorem exec_functionLevelReset (f : Nat) : exec (.functionLevelReset f) s = execFunctionLevelReset f s := rfl
@[simp] theorem exec_hostCompletionError (req code : Nat) : exec (.hostCompletionError req code) s = execHostCompletionError req code s := rfl
@[simp] theorem exec_hostLinkDown (die : Fin 2) : exec (.hostLinkDown die) s = execHostLinkDown die s := rfl
@[simp] theorem exec_mdLaunchMessage (slot : Fin 64) (dev : Nat) : exec (.mdLaunchMessage slot dev) s = execMdLaunchMessage slot dev s := rfl
@[simp] theorem exec_mdAck (slot : Fin 64) (dev : Nat) : exec (.mdAck slot dev) s = execMdAck slot dev s := rfl
@[simp] theorem exec_mdConfirm (slot : Fin 64) : exec (.mdConfirm slot) s = execMdConfirm slot s := rfl
@[simp] theorem exec_mdAckTimeout (slot : Fin 64) : exec (.mdAckTimeout slot) s = execMdAckTimeout slot s := rfl
@[simp] theorem exec_mdSelfAbortTimeout (slot : Fin 64) : exec (.mdSelfAbortTimeout slot) s = execMdSelfAbortTimeout slot s := rfl
@[simp] theorem exec_mdAbort (slot : Fin 64) : exec (.mdAbort slot) s = execMdAbort slot s := rfl
@[simp] theorem exec_mdRaised (slot : Fin 64) (dev : Nat) : exec (.mdRaised slot dev) s = execMdRaised slot dev s := rfl
@[simp] theorem exec_mdCommit (slot : Fin 64) : exec (.mdCommit slot) s = execMdCommit slot s := rfl
@[simp] theorem exec_mdApplied (slot : Fin 64) (dev : Nat) : exec (.mdApplied slot dev) s = execMdApplied slot dev s := rfl
@[simp] theorem exec_mdRelease (slot : Fin 64) : exec (.mdRelease slot) s = execMdRelease slot s := rfl
@[simp] theorem exec_registerWrite (r : MReg) (v : DWord) : exec (.registerWrite r v) s = execRegisterWrite r v s := rfl
@[simp] theorem exec_replayStoreReissue (round : Nat) : exec (.replayStoreReissue round) s = execReplayStoreReissue round s := rfl
@[simp] theorem exec_failedPathMarkExpire (port : Fin 8) (dev path : Nat) : exec (.failedPathMarkExpire port dev path) s = execFailedPathMarkExpire port dev path s := rfl
@[simp] theorem exec_peerCommitAck (launch dev : Nat) : exec (.peerCommitAck launch dev) s = execPeerCommitAck launch dev s := rfl
@[simp] theorem exec_throttleEnd (core : Fin 256) : exec (.throttleEnd core) s = execThrottleEnd core s := rfl
@[simp] theorem exec_hostLinkUp (die : Fin 2) : exec (.hostLinkUp die) s = execHostLinkUp die s := rfl

end Sys2Proof.Machine
end

