-- ==== Sys2Proof/Laws/Maps.lean ====
section
/-! SUPPORT. Laws of maps, memories and storages: reads after writes, and that every operation keeps the canonical form. -/

namespace Sys2Proof.Machine

variable {α : Type}

/-! ### Lookups -/

@[simp] theorem NMap.look_put_same (m : NMap α) (x : Nat) (w : α) : NMap.look (NMap.put m x w) x = some w := by
  induction m with
  | nil => simp [NMap.put, NMap.look]
  | cons e m ih =>
    obtain ⟨k, v⟩ := e
    by_cases h1 : k = x
    · simp [NMap.put, NMap.look, h1]
    · by_cases h2 : x < k <;> simp [NMap.put, NMap.look, h1, h2, ih]

theorem NMap.look_put_other (m : NMap α) {x y : Nat} (w : α) (h : y ≠ x) : NMap.look (NMap.put m x w) y = NMap.look m y := by
  induction m with
  | nil => simp [NMap.put, NMap.look, Ne.symm h]
  | cons e m ih =>
    obtain ⟨k, v⟩ := e
    by_cases h1 : k = x
    · subst h1; simp [NMap.put, NMap.look, Ne.symm h]
    · by_cases h2 : x < k
      · simp [NMap.put, NMap.look, h1, h2, Ne.symm h]
      · simp [NMap.put, NMap.look, h1, h2, ih]

theorem NMap.look_del_other (m : NMap α) {x y : Nat} (h : y ≠ x) : NMap.look (NMap.del m x) y = NMap.look m y := by
  induction m with
  | nil => rfl
  | cons e m ih =>
    obtain ⟨k, v⟩ := e
    by_cases h1 : k = x
    · subst h1; simp [NMap.del, NMap.look, Ne.symm h, ih]
    · simp [NMap.del, NMap.look, h1, ih]

@[simp] theorem NMap.look_del_same (m : NMap α) (x : Nat) : NMap.look (NMap.del m x) x = none := by
  induction m with
  | nil => rfl
  | cons e m ih =>
    obtain ⟨k, v⟩ := e
    by_cases h1 : k = x
    · simp [NMap.del, h1, ih]
    · simp [NMap.del, NMap.look, h1, ih]

/-- A write is read back. -/
@[simp] theorem NMap.getD_set_same [DecidableEq α] (d : α) (m : NMap α) (x : Nat) (w : α) : NMap.getD (NMap.set d m x w) x d = w := by
  by_cases hw : w = d
  · subst hw; simp [NMap.set, NMap.getD]
  · simp [NMap.set, hw, NMap.getD]

theorem NMap.getD_set_other [DecidableEq α] (d e : α) (m : NMap α) {x y : Nat} (w : α) (h : y ≠ x) :
    NMap.getD (NMap.set d m x w) y e = NMap.getD m y e := by
  by_cases hw : w = d
  · simp [NMap.set, hw, NMap.getD, NMap.look_del_other m h]
  · simp [NMap.set, hw, NMap.getD, NMap.look_put_other m w h]

/-! ### Sets -/

theorem NSet.mem_add (s : NSet) (x y : Nat) : y ∈ NSet.add s x ↔ y = x ∨ y ∈ s := by
  induction s with
  | nil => simp [NSet.add]
  | cons k s ih =>
    by_cases h1 : k = x
    · subst h1; simp [NSet.add]
    · by_cases h2 : x < k
      · simp [NSet.add, h1, h2]
      · simp only [NSet.add, h1, h2, if_false, List.mem_cons, ih]
        tauto

theorem NSet.mem_rem (s : NSet) (x y : Nat) : y ∈ NSet.rem s x ↔ y ≠ x ∧ y ∈ s := by
  induction s with
  | nil => simp [NSet.rem]
  | cons k s ih =>
    by_cases h1 : k = x
    · subst h1; simp only [NSet.rem, if_true, ih, List.mem_cons]; tauto
    · simp only [NSet.rem, h1, if_false, ih, List.mem_cons]
      by_cases h : y = k
      · subst h; simp [h1]
      · simp [h]

theorem NSet.has_iff (s : NSet) (x : Nat) : NSet.has s x = true ↔ x ∈ s := by simp [NSet.has]

theorem NSet.has_add (s : NSet) (x y : Nat) : NSet.has (NSet.add s x) y = (decide (y = x) || NSet.has s y) := by
  rw [Bool.eq_iff_iff]; simp [NSet.has_iff, NSet.mem_add]

theorem NSet.has_rem (s : NSet) (x y : Nat) : NSet.has (NSet.rem s x) y = (decide (y ≠ x) && NSet.has s y) := by
  rw [Bool.eq_iff_iff]; simp [NSet.has_iff, NSet.mem_rem]

/-! ### The canonical form -/

theorem NMap.above_mono (m : NMap α) {a b : Nat} (h : NMap.above b m = true) (hab : a ≤ b) : NMap.above a m = true := by
  cases m with
  | nil => rfl
  | cons e m =>
    simp only [NMap.above, Bool.and_eq_true, decide_eq_true_eq] at h ⊢
    exact ⟨by omega, h.2⟩

theorem NMap.above_put (m : NMap α) {b x : Nat} (w : α) (h : NMap.above b m = true) (hx : b ≤ x) : NMap.above b (NMap.put m x w) = true := by
  induction m generalizing b with
  | nil => simpa [NMap.put, NMap.above] using hx
  | cons e m ih =>
    obtain ⟨k, v⟩ := e
    simp only [NMap.above, Bool.and_eq_true, decide_eq_true_eq] at h
    by_cases h1 : k = x
    · subst h1; simp [NMap.put, NMap.above, h.1, h.2]
    · by_cases h2 : x < k
      · simp [NMap.put, NMap.above, h1, h2, hx, h.2]
      · simp [NMap.put, NMap.above, h1, h2, h.1, ih h.2 (by omega)]

theorem NMap.above_del (m : NMap α) {b : Nat} (x : Nat) (h : NMap.above b m = true) : NMap.above b (NMap.del m x) = true := by
  induction m generalizing b with
  | nil => rfl
  | cons e m ih =>
    obtain ⟨k, v⟩ := e
    simp only [NMap.above, Bool.and_eq_true, decide_eq_true_eq] at h
    by_cases h1 : k = x
    · simpa [NMap.del, h1] using NMap.above_mono _ (ih h.2) (by omega)
    · simp [NMap.del, h1, NMap.above, h.1, ih h.2]

theorem NMap.all_put (p : Nat × α → Bool) (m : NMap α) (x : Nat) (w : α) (h : m.all p = true) (hw : p (x, w) = true) :
    (NMap.put m x w).all p = true := by
  induction m with
  | nil => simp [NMap.put, hw]
  | cons e m ih =>
    obtain ⟨k, v⟩ := e
    simp only [List.all_cons, Bool.and_eq_true] at h
    by_cases h1 : k = x
    · simpa [NMap.put, h1, hw] using h.2
    · by_cases h2 : x < k
      · simpa [NMap.put, h1, h2, hw, h.1] using h.2
      · simp [NMap.put, h1, h2, h.1, ih h.2]

theorem NMap.all_del (p : Nat × α → Bool) (m : NMap α) (x : Nat) (h : m.all p = true) : (NMap.del m x).all p = true := by
  induction m with
  | nil => rfl
  | cons e m ih =>
    obtain ⟨k, v⟩ := e
    simp only [List.all_cons, Bool.and_eq_true] at h
    by_cases h1 : k = x
    · simpa [NMap.del, h1] using ih h.2
    · simp [NMap.del, h1, h.1, ih h.2]

/-- Setting a key keeps the canonical form. -/
theorem NMap.set_wf [DecidableEq α] (d : α) (m : NMap α) (x : Nat) (w : α) (h : NMap.wf d m = true) : NMap.wf d (NMap.set d m x w) = true := by
  simp only [NMap.wf, Bool.and_eq_true] at h ⊢
  by_cases hw : w = d
  · simpa [NMap.set, hw] using ⟨NMap.above_del m x h.1, by simpa using NMap.all_del _ m x h.2⟩
  · simp only [NMap.set, hw, if_false]
    exact ⟨NMap.above_put m w h.1 (Nat.zero_le x), NMap.all_put _ m x w h.2 (by simp [hw])⟩

/-! ### Memories -/

theorem Memory.write_wf (m : Memory) (a : Nat) (b : Byte) (h : Memory.wf m = true) : Memory.wf (Memory.write m a b) = true :=
  NMap.set_wf Memory.blank m a b h

theorem Memory.writeN_wf (m : Memory) (a : Nat) (bs : List Byte) (h : Memory.wf m = true) : Memory.wf (Memory.writeN m a bs) = true := by
  induction bs generalizing m a with
  | nil => exact h
  | cons b bs ih => exact ih _ _ (Memory.write_wf m a b h)

/-- A byte written is read back. -/
@[simp] theorem Memory.read_write_same (m : Memory) (a : Nat) (b : Byte) : Memory.read (Memory.write m a b) a = b :=
  NMap.getD_set_same Memory.blank m a b

/-- A write leaves every other byte. -/
theorem Memory.read_write_other (m : Memory) {a c : Nat} (b : Byte) (h : c ≠ a) : Memory.read (Memory.write m a b) c = Memory.read m c :=
  NMap.getD_set_other Memory.blank Memory.blank m b h

/-- A write of several bytes leaves every byte outside them. -/
theorem Memory.read_writeN_other (m : Memory) (a : Nat) (bs : List Byte) (c : Nat) (h : c < a ∨ a + bs.length ≤ c) :
    Memory.read (Memory.writeN m a bs) c = Memory.read m c := by
  induction bs generalizing m a with
  | nil => rfl
  | cons b bs ih =>
    simp only [List.length_cons] at h
    rw [Memory.writeN, ih _ _ (by omega), Memory.read_write_other _ _ (by omega)]

/-- Bytes written are read back. -/
theorem Memory.read_writeN_same (m : Memory) (a : Nat) (bs : List Byte) (i : Nat) (hi : i < bs.length) :
    Memory.read (Memory.writeN m a bs) (a + i) = bs[i] := by
  induction bs generalizing m a i with
  | nil => simp at hi
  | cons b bs ih =>
    cases i with
    | zero =>
      rw [Memory.writeN, Memory.read_writeN_other _ _ _ _ (by omega)]
      simp
    | succ i =>
      have := ih (Memory.write m a b) (a + 1) i (by simpa using hi)
      simpa [Memory.writeN, Nat.add_assoc, Nat.add_comm 1 i] using this

/-- Bytes written are read back as they were. -/
theorem Memory.readN_writeN (m : Memory) (a : Nat) (bs : List Byte) :
    Memory.readN (Memory.writeN m a bs) a bs.length = bs := by
  refine List.ext_getElem (by simp [Memory.readN]) (fun i h1 h2 => ?_)
  simpa [Memory.readN] using Memory.read_writeN_same m a bs i h2

/-! ### Little-endian numbers -/

@[simp] theorem leBytes_length (n x : Nat) : (leBytes n x).length = n := by
  induction n generalizing x with
  | zero => rfl
  | succ n ih => simp [leBytes, ih]

theorem leNat_leBytes (n x : Nat) : leNat (leBytes n x) = x % 256 ^ n := by
  induction n generalizing x with
  | zero => simp [leBytes, leNat, Nat.mod_one]
  | succ n ih =>
    simp only [leBytes, leNat, BitVec.toNat_ofNat, ih]
    rw [show (256 : Nat) ^ (n + 1) = 256 * 256 ^ n from Nat.pow_succ', Nat.mod_mul]

/-! ### Storages -/

/-- A storage in canonical form: its bytes are. -/
theorem Store.write_bytes_wf (s : Store) (a : Nat) (d : List Byte) (tag : Bool) (h : Memory.wf s.bytes = true) :
    Memory.wf (s.write a d tag).bytes = true := Memory.writeN_wf s.bytes a d h

theorem Store.setDword_bytes_wf (s : Store) (a : Nat) (x : DWord) (h : Memory.wf s.bytes = true) :
    Memory.wf (s.setDword a x).bytes = true := Store.write_bytes_wf s a _ false h

/-- What was written is read. -/
theorem Store.read_write (s : Store) (a : Nat) (d : List Byte) (tag : Bool) :
    (s.write a d tag).read a d.length = d := Memory.readN_writeN s.bytes a d

/-- Bytes outside a write read as before. -/
theorem Store.byte_write_other (s : Store) (a : Nat) (d : List Byte) (tag : Bool) (c : Nat) (h : c < a ∨ a + d.length ≤ c) :
    (s.write a d tag).bytes.read c = s.bytes.read c := Memory.read_writeN_other s.bytes a d c h

/-- A dword that was set is read. -/
theorem Store.dword_setDword (s : Store) (a : Nat) (x : DWord) : (s.setDword a x).dword a = x := by
  have h8 : (leBytes 8 x.toNat).length = 8 := leBytes_length 8 _
  have := Store.read_write s a (leBytes 8 x.toNat) false
  rw [h8] at this
  apply BitVec.eq_of_toNat_eq
  simp only [Store.dword, Store.setDword, this, leNat_leBytes, BitVec.toNat_ofNat]
  have hx := x.isLt
  norm_num at hx ⊢
  omega

end Sys2Proof.Machine
end

