-- ==== Sys2Proof/Laws/State.lean ====
section
/-! SUPPORT. The state record: what each update of a part leaves as it was, one lemma per field per update. -/

namespace Sys2Proof.Machine

/-! ### State.updMem -/

@[simp] theorem State.updMem_clk (s : State) (f : MemSt → MemSt) : (s.updMem f).clk = s.clk := rfl
@[simp] theorem State.updMem_free (s : State) (f : MemSt → MemSt) : (s.updMem f).free = s.free := rfl
@[simp] theorem State.updMem_turn (s : State) (f : MemSt → MemSt) : (s.updMem f).turn = s.turn := rfl
@[simp] theorem State.updMem_agenda (s : State) (f : MemSt → MemSt) : (s.updMem f).agenda = s.agenda := rfl
@[simp] theorem State.updMem_delays (s : State) (f : MemSt → MemSt) : (s.updMem f).delays = s.delays := rfl
@[simp] theorem State.updMem_upsets (s : State) (f : MemSt → MemSt) : (s.updMem f).upsets = s.upsets := rfl
@[simp] theorem State.updMem_nextId (s : State) (f : MemSt → MemSt) : (s.updMem f).nextId = s.nextId := rfl
@[simp] theorem State.updMem_issuing (s : State) (f : MemSt → MemSt) : (s.updMem f).issuing = s.issuing := rfl
@[simp] theorem State.updMem_teams (s : State) (f : MemSt → MemSt) : (s.updMem f).teams = s.teams := rfl
@[simp] theorem State.updMem_groups (s : State) (f : MemSt → MemSt) : (s.updMem f).groups = s.groups := rfl
@[simp] theorem State.updMem_launches (s : State) (f : MemSt → MemSt) : (s.updMem f).launches = s.launches := rfl
@[simp] theorem State.updMem_cores (s : State) (f : MemSt → MemSt) : (s.updMem f).cores = s.cores := rfl
@[simp] theorem State.updMem_pairs (s : State) (f : MemSt → MemSt) : (s.updMem f).pairs = s.pairs := rfl
@[simp] theorem State.updMem_slots (s : State) (f : MemSt → MemSt) : (s.updMem f).slots = s.slots := rfl
@[simp] theorem State.updMem_ctxs (s : State) (f : MemSt → MemSt) : (s.updMem f).ctxs = s.ctxs := rfl
@[simp] theorem State.updMem_reqs (s : State) (f : MemSt → MemSt) : (s.updMem f).reqs = s.reqs := rfl
@[simp] theorem State.updMem_conj (s : State) (f : MemSt → MemSt) : (s.updMem f).conj = s.conj := rfl
@[simp] theorem State.updMem_fab (s : State) (f : MemSt → MemSt) : (s.updMem f).fab = s.fab := rfl
@[simp] theorem State.updMem_front (s : State) (f : MemSt → MemSt) : (s.updMem f).front = s.front := rfl
@[simp] theorem State.updMem_mgmt (s : State) (f : MemSt → MemSt) : (s.updMem f).mgmt = s.mgmt := rfl
@[simp] theorem State.updMem_svc (s : State) (f : MemSt → MemSt) : (s.updMem f).svc = s.svc := rfl
@[simp] theorem State.updMem_boot (s : State) (f : MemSt → MemSt) : (s.updMem f).boot = s.boot := rfl
@[simp] theorem State.updMem_hostUp (s : State) (f : MemSt → MemSt) : (s.updMem f).hostUp = s.hostUp := rfl
@[simp] theorem State.updMem_net (s : State) (f : MemSt → MemSt) : (s.updMem f).net = s.net := rfl
@[simp] theorem State.updMem_xlats (s : State) (f : MemSt → MemSt) : (s.updMem f).xlats = s.xlats := rfl

/-! ### State.updFront -/

@[simp] theorem State.updFront_clk (s : State) (f : FrontSt → FrontSt) : (s.updFront f).clk = s.clk := rfl
@[simp] theorem State.updFront_free (s : State) (f : FrontSt → FrontSt) : (s.updFront f).free = s.free := rfl
@[simp] theorem State.updFront_turn (s : State) (f : FrontSt → FrontSt) : (s.updFront f).turn = s.turn := rfl
@[simp] theorem State.updFront_agenda (s : State) (f : FrontSt → FrontSt) : (s.updFront f).agenda = s.agenda := rfl
@[simp] theorem State.updFront_delays (s : State) (f : FrontSt → FrontSt) : (s.updFront f).delays = s.delays := rfl
@[simp] theorem State.updFront_upsets (s : State) (f : FrontSt → FrontSt) : (s.updFront f).upsets = s.upsets := rfl
@[simp] theorem State.updFront_nextId (s : State) (f : FrontSt → FrontSt) : (s.updFront f).nextId = s.nextId := rfl
@[simp] theorem State.updFront_issuing (s : State) (f : FrontSt → FrontSt) : (s.updFront f).issuing = s.issuing := rfl
@[simp] theorem State.updFront_teams (s : State) (f : FrontSt → FrontSt) : (s.updFront f).teams = s.teams := rfl
@[simp] theorem State.updFront_groups (s : State) (f : FrontSt → FrontSt) : (s.updFront f).groups = s.groups := rfl
@[simp] theorem State.updFront_launches (s : State) (f : FrontSt → FrontSt) : (s.updFront f).launches = s.launches := rfl
@[simp] theorem State.updFront_cores (s : State) (f : FrontSt → FrontSt) : (s.updFront f).cores = s.cores := rfl
@[simp] theorem State.updFront_pairs (s : State) (f : FrontSt → FrontSt) : (s.updFront f).pairs = s.pairs := rfl
@[simp] theorem State.updFront_slots (s : State) (f : FrontSt → FrontSt) : (s.updFront f).slots = s.slots := rfl
@[simp] theorem State.updFront_ctxs (s : State) (f : FrontSt → FrontSt) : (s.updFront f).ctxs = s.ctxs := rfl
@[simp] theorem State.updFront_mem (s : State) (f : FrontSt → FrontSt) : (s.updFront f).mem = s.mem := rfl
@[simp] theorem State.updFront_reqs (s : State) (f : FrontSt → FrontSt) : (s.updFront f).reqs = s.reqs := rfl
@[simp] theorem State.updFront_conj (s : State) (f : FrontSt → FrontSt) : (s.updFront f).conj = s.conj := rfl
@[simp] theorem State.updFront_fab (s : State) (f : FrontSt → FrontSt) : (s.updFront f).fab = s.fab := rfl
@[simp] theorem State.updFront_mgmt (s : State) (f : FrontSt → FrontSt) : (s.updFront f).mgmt = s.mgmt := rfl
@[simp] theorem State.updFront_svc (s : State) (f : FrontSt → FrontSt) : (s.updFront f).svc = s.svc := rfl
@[simp] theorem State.updFront_boot (s : State) (f : FrontSt → FrontSt) : (s.updFront f).boot = s.boot := rfl
@[simp] theorem State.updFront_hostUp (s : State) (f : FrontSt → FrontSt) : (s.updFront f).hostUp = s.hostUp := rfl
@[simp] theorem State.updFront_net (s : State) (f : FrontSt → FrontSt) : (s.updFront f).net = s.net := rfl
@[simp] theorem State.updFront_xlats (s : State) (f : FrontSt → FrontSt) : (s.updFront f).xlats = s.xlats := rfl

/-! ### State.updMgmt -/

@[simp] theorem State.updMgmt_clk (s : State) (f : MgmtSt → MgmtSt) : (s.updMgmt f).clk = s.clk := rfl
@[simp] theorem State.updMgmt_free (s : State) (f : MgmtSt → MgmtSt) : (s.updMgmt f).free = s.free := rfl
@[simp] theorem State.updMgmt_turn (s : State) (f : MgmtSt → MgmtSt) : (s.updMgmt f).turn = s.turn := rfl
@[simp] theorem State.updMgmt_agenda (s : State) (f : MgmtSt → MgmtSt) : (s.updMgmt f).agenda = s.agenda := rfl
@[simp] theorem State.updMgmt_delays (s : State) (f : MgmtSt → MgmtSt) : (s.updMgmt f).delays = s.delays := rfl
@[simp] theorem State.updMgmt_upsets (s : State) (f : MgmtSt → MgmtSt) : (s.updMgmt f).upsets = s.upsets := rfl
@[simp] theorem State.updMgmt_nextId (s : State) (f : MgmtSt → MgmtSt) : (s.updMgmt f).nextId = s.nextId := rfl
@[simp] theorem State.updMgmt_issuing (s : State) (f : MgmtSt → MgmtSt) : (s.updMgmt f).issuing = s.issuing := rfl
@[simp] theorem State.updMgmt_teams (s : State) (f : MgmtSt → MgmtSt) : (s.updMgmt f).teams = s.teams := rfl
@[simp] theorem State.updMgmt_groups (s : State) (f : MgmtSt → MgmtSt) : (s.updMgmt f).groups = s.groups := rfl
@[simp] theorem State.updMgmt_launches (s : State) (f : MgmtSt → MgmtSt) : (s.updMgmt f).launches = s.launches := rfl
@[simp] theorem State.updMgmt_cores (s : State) (f : MgmtSt → MgmtSt) : (s.updMgmt f).cores = s.cores := rfl
@[simp] theorem State.updMgmt_pairs (s : State) (f : MgmtSt → MgmtSt) : (s.updMgmt f).pairs = s.pairs := rfl
@[simp] theorem State.updMgmt_slots (s : State) (f : MgmtSt → MgmtSt) : (s.updMgmt f).slots = s.slots := rfl
@[simp] theorem State.updMgmt_ctxs (s : State) (f : MgmtSt → MgmtSt) : (s.updMgmt f).ctxs = s.ctxs := rfl
@[simp] theorem State.updMgmt_mem (s : State) (f : MgmtSt → MgmtSt) : (s.updMgmt f).mem = s.mem := rfl
@[simp] theorem State.updMgmt_reqs (s : State) (f : MgmtSt → MgmtSt) : (s.updMgmt f).reqs = s.reqs := rfl
@[simp] theorem State.updMgmt_conj (s : State) (f : MgmtSt → MgmtSt) : (s.updMgmt f).conj = s.conj := rfl
@[simp] theorem State.updMgmt_fab (s : State) (f : MgmtSt → MgmtSt) : (s.updMgmt f).fab = s.fab := rfl
@[simp] theorem State.updMgmt_front (s : State) (f : MgmtSt → MgmtSt) : (s.updMgmt f).front = s.front := rfl
@[simp] theorem State.updMgmt_svc (s : State) (f : MgmtSt → MgmtSt) : (s.updMgmt f).svc = s.svc := rfl
@[simp] theorem State.updMgmt_boot (s : State) (f : MgmtSt → MgmtSt) : (s.updMgmt f).boot = s.boot := rfl
@[simp] theorem State.updMgmt_hostUp (s : State) (f : MgmtSt → MgmtSt) : (s.updMgmt f).hostUp = s.hostUp := rfl
@[simp] theorem State.updMgmt_net (s : State) (f : MgmtSt → MgmtSt) : (s.updMgmt f).net = s.net := rfl
@[simp] theorem State.updMgmt_xlats (s : State) (f : MgmtSt → MgmtSt) : (s.updMgmt f).xlats = s.xlats := rfl

/-! ### State.updFab -/

@[simp] theorem State.updFab_clk (s : State) (f : FabSt → FabSt) : (s.updFab f).clk = s.clk := rfl
@[simp] theorem State.updFab_free (s : State) (f : FabSt → FabSt) : (s.updFab f).free = s.free := rfl
@[simp] theorem State.updFab_turn (s : State) (f : FabSt → FabSt) : (s.updFab f).turn = s.turn := rfl
@[simp] theorem State.updFab_agenda (s : State) (f : FabSt → FabSt) : (s.updFab f).agenda = s.agenda := rfl
@[simp] theorem State.updFab_delays (s : State) (f : FabSt → FabSt) : (s.updFab f).delays = s.delays := rfl
@[simp] theorem State.updFab_upsets (s : State) (f : FabSt → FabSt) : (s.updFab f).upsets = s.upsets := rfl
@[simp] theorem State.updFab_nextId (s : State) (f : FabSt → FabSt) : (s.updFab f).nextId = s.nextId := rfl
@[simp] theorem State.updFab_issuing (s : State) (f : FabSt → FabSt) : (s.updFab f).issuing = s.issuing := rfl
@[simp] theorem State.updFab_teams (s : State) (f : FabSt → FabSt) : (s.updFab f).teams = s.teams := rfl
@[simp] theorem State.updFab_groups (s : State) (f : FabSt → FabSt) : (s.updFab f).groups = s.groups := rfl
@[simp] theorem State.updFab_launches (s : State) (f : FabSt → FabSt) : (s.updFab f).launches = s.launches := rfl
@[simp] theorem State.updFab_cores (s : State) (f : FabSt → FabSt) : (s.updFab f).cores = s.cores := rfl
@[simp] theorem State.updFab_pairs (s : State) (f : FabSt → FabSt) : (s.updFab f).pairs = s.pairs := rfl
@[simp] theorem State.updFab_slots (s : State) (f : FabSt → FabSt) : (s.updFab f).slots = s.slots := rfl
@[simp] theorem State.updFab_ctxs (s : State) (f : FabSt → FabSt) : (s.updFab f).ctxs = s.ctxs := rfl
@[simp] theorem State.updFab_mem (s : State) (f : FabSt → FabSt) : (s.updFab f).mem = s.mem := rfl
@[simp] theorem State.updFab_reqs (s : State) (f : FabSt → FabSt) : (s.updFab f).reqs = s.reqs := rfl
@[simp] theorem State.updFab_conj (s : State) (f : FabSt → FabSt) : (s.updFab f).conj = s.conj := rfl
@[simp] theorem State.updFab_front (s : State) (f : FabSt → FabSt) : (s.updFab f).front = s.front := rfl
@[simp] theorem State.updFab_mgmt (s : State) (f : FabSt → FabSt) : (s.updFab f).mgmt = s.mgmt := rfl
@[simp] theorem State.updFab_svc (s : State) (f : FabSt → FabSt) : (s.updFab f).svc = s.svc := rfl
@[simp] theorem State.updFab_boot (s : State) (f : FabSt → FabSt) : (s.updFab f).boot = s.boot := rfl
@[simp] theorem State.updFab_hostUp (s : State) (f : FabSt → FabSt) : (s.updFab f).hostUp = s.hostUp := rfl
@[simp] theorem State.updFab_net (s : State) (f : FabSt → FabSt) : (s.updFab f).net = s.net := rfl
@[simp] theorem State.updFab_xlats (s : State) (f : FabSt → FabSt) : (s.updFab f).xlats = s.xlats := rfl

/-! ### State.updConj -/

@[simp] theorem State.updConj_clk (s : State) (f : ConjSt → ConjSt) : (s.updConj f).clk = s.clk := rfl
@[simp] theorem State.updConj_free (s : State) (f : ConjSt → ConjSt) : (s.updConj f).free = s.free := rfl
@[simp] theorem State.updConj_turn (s : State) (f : ConjSt → ConjSt) : (s.updConj f).turn = s.turn := rfl
@[simp] theorem State.updConj_agenda (s : State) (f : ConjSt → ConjSt) : (s.updConj f).agenda = s.agenda := rfl
@[simp] theorem State.updConj_delays (s : State) (f : ConjSt → ConjSt) : (s.updConj f).delays = s.delays := rfl
@[simp] theorem State.updConj_upsets (s : State) (f : ConjSt → ConjSt) : (s.updConj f).upsets = s.upsets := rfl
@[simp] theorem State.updConj_nextId (s : State) (f : ConjSt → ConjSt) : (s.updConj f).nextId = s.nextId := rfl
@[simp] theorem State.updConj_issuing (s : State) (f : ConjSt → ConjSt) : (s.updConj f).issuing = s.issuing := rfl
@[simp] theorem State.updConj_teams (s : State) (f : ConjSt → ConjSt) : (s.updConj f).teams = s.teams := rfl
@[simp] theorem State.updConj_groups (s : State) (f : ConjSt → ConjSt) : (s.updConj f).groups = s.groups := rfl
@[simp] theorem State.updConj_launches (s : State) (f : ConjSt → ConjSt) : (s.updConj f).launches = s.launches := rfl
@[simp] theorem State.updConj_cores (s : State) (f : ConjSt → ConjSt) : (s.updConj f).cores = s.cores := rfl
@[simp] theorem State.updConj_pairs (s : State) (f : ConjSt → ConjSt) : (s.updConj f).pairs = s.pairs := rfl
@[simp] theorem State.updConj_slots (s : State) (f : ConjSt → ConjSt) : (s.updConj f).slots = s.slots := rfl
@[simp] theorem State.updConj_ctxs (s : State) (f : ConjSt → ConjSt) : (s.updConj f).ctxs = s.ctxs := rfl
@[simp] theorem State.updConj_mem (s : State) (f : ConjSt → ConjSt) : (s.updConj f).mem = s.mem := rfl
@[simp] theorem State.updConj_reqs (s : State) (f : ConjSt → ConjSt) : (s.updConj f).reqs = s.reqs := rfl
@[simp] theorem State.updConj_fab (s : State) (f : ConjSt → ConjSt) : (s.updConj f).fab = s.fab := rfl
@[simp] theorem State.updConj_front (s : State) (f : ConjSt → ConjSt) : (s.updConj f).front = s.front := rfl
@[simp] theorem State.updConj_mgmt (s : State) (f : ConjSt → ConjSt) : (s.updConj f).mgmt = s.mgmt := rfl
@[simp] theorem State.updConj_svc (s : State) (f : ConjSt → ConjSt) : (s.updConj f).svc = s.svc := rfl
@[simp] theorem State.updConj_boot (s : State) (f : ConjSt → ConjSt) : (s.updConj f).boot = s.boot := rfl
@[simp] theorem State.updConj_hostUp (s : State) (f : ConjSt → ConjSt) : (s.updConj f).hostUp = s.hostUp := rfl
@[simp] theorem State.updConj_net (s : State) (f : ConjSt → ConjSt) : (s.updConj f).net = s.net := rfl
@[simp] theorem State.updConj_xlats (s : State) (f : ConjSt → ConjSt) : (s.updConj f).xlats = s.xlats := rfl

/-! ### State.updBoot -/

@[simp] theorem State.updBoot_clk (s : State) (f : BootSt → BootSt) : (s.updBoot f).clk = s.clk := rfl
@[simp] theorem State.updBoot_free (s : State) (f : BootSt → BootSt) : (s.updBoot f).free = s.free := rfl
@[simp] theorem State.updBoot_turn (s : State) (f : BootSt → BootSt) : (s.updBoot f).turn = s.turn := rfl
@[simp] theorem State.updBoot_agenda (s : State) (f : BootSt → BootSt) : (s.updBoot f).agenda = s.agenda := rfl
@[simp] theorem State.updBoot_delays (s : State) (f : BootSt → BootSt) : (s.updBoot f).delays = s.delays := rfl
@[simp] theorem State.updBoot_upsets (s : State) (f : BootSt → BootSt) : (s.updBoot f).upsets = s.upsets := rfl
@[simp] theorem State.updBoot_nextId (s : State) (f : BootSt → BootSt) : (s.updBoot f).nextId = s.nextId := rfl
@[simp] theorem State.updBoot_issuing (s : State) (f : BootSt → BootSt) : (s.updBoot f).issuing = s.issuing := rfl
@[simp] theorem State.updBoot_teams (s : State) (f : BootSt → BootSt) : (s.updBoot f).teams = s.teams := rfl
@[simp] theorem State.updBoot_groups (s : State) (f : BootSt → BootSt) : (s.updBoot f).groups = s.groups := rfl
@[simp] theorem State.updBoot_launches (s : State) (f : BootSt → BootSt) : (s.updBoot f).launches = s.launches := rfl
@[simp] theorem State.updBoot_cores (s : State) (f : BootSt → BootSt) : (s.updBoot f).cores = s.cores := rfl
@[simp] theorem State.updBoot_pairs (s : State) (f : BootSt → BootSt) : (s.updBoot f).pairs = s.pairs := rfl
@[simp] theorem State.updBoot_slots (s : State) (f : BootSt → BootSt) : (s.updBoot f).slots = s.slots := rfl
@[simp] theorem State.updBoot_ctxs (s : State) (f : BootSt → BootSt) : (s.updBoot f).ctxs = s.ctxs := rfl
@[simp] theorem State.updBoot_mem (s : State) (f : BootSt → BootSt) : (s.updBoot f).mem = s.mem := rfl
@[simp] theorem State.updBoot_reqs (s : State) (f : BootSt → BootSt) : (s.updBoot f).reqs = s.reqs := rfl
@[simp] theorem State.updBoot_conj (s : State) (f : BootSt → BootSt) : (s.updBoot f).conj = s.conj := rfl
@[simp] theorem State.updBoot_fab (s : State) (f : BootSt → BootSt) : (s.updBoot f).fab = s.fab := rfl
@[simp] theorem State.updBoot_front (s : State) (f : BootSt → BootSt) : (s.updBoot f).front = s.front := rfl
@[simp] theorem State.updBoot_mgmt (s : State) (f : BootSt → BootSt) : (s.updBoot f).mgmt = s.mgmt := rfl
@[simp] theorem State.updBoot_svc (s : State) (f : BootSt → BootSt) : (s.updBoot f).svc = s.svc := rfl
@[simp] theorem State.updBoot_hostUp (s : State) (f : BootSt → BootSt) : (s.updBoot f).hostUp = s.hostUp := rfl
@[simp] theorem State.updBoot_net (s : State) (f : BootSt → BootSt) : (s.updBoot f).net = s.net := rfl
@[simp] theorem State.updBoot_xlats (s : State) (f : BootSt → BootSt) : (s.updBoot f).xlats = s.xlats := rfl

/-! ### State.updCore -/

@[simp] theorem State.updCore_clk (s : State) (c : Nat) (f : CoreSt → CoreSt) : (s.updCore c f).clk = s.clk := rfl
@[simp] theorem State.updCore_free (s : State) (c : Nat) (f : CoreSt → CoreSt) : (s.updCore c f).free = s.free := rfl
@[simp] theorem State.updCore_turn (s : State) (c : Nat) (f : CoreSt → CoreSt) : (s.updCore c f).turn = s.turn := rfl
@[simp] theorem State.updCore_agenda (s : State) (c : Nat) (f : CoreSt → CoreSt) : (s.updCore c f).agenda = s.agenda := rfl
@[simp] theorem State.updCore_delays (s : State) (c : Nat) (f : CoreSt → CoreSt) : (s.updCore c f).delays = s.delays := rfl
@[simp] theorem State.updCore_upsets (s : State) (c : Nat) (f : CoreSt → CoreSt) : (s.updCore c f).upsets = s.upsets := rfl
@[simp] theorem State.updCore_nextId (s : State) (c : Nat) (f : CoreSt → CoreSt) : (s.updCore c f).nextId = s.nextId := rfl
@[simp] theorem State.updCore_issuing (s : State) (c : Nat) (f : CoreSt → CoreSt) : (s.updCore c f).issuing = s.issuing := rfl
@[simp] theorem State.updCore_teams (s : State) (c : Nat) (f : CoreSt → CoreSt) : (s.updCore c f).teams = s.teams := rfl
@[simp] theorem State.updCore_groups (s : State) (c : Nat) (f : CoreSt → CoreSt) : (s.updCore c f).groups = s.groups := rfl
@[simp] theorem State.updCore_launches (s : State) (c : Nat) (f : CoreSt → CoreSt) : (s.updCore c f).launches = s.launches := rfl
@[simp] theorem State.updCore_pairs (s : State) (c : Nat) (f : CoreSt → CoreSt) : (s.updCore c f).pairs = s.pairs := rfl
@[simp] theorem State.updCore_slots (s : State) (c : Nat) (f : CoreSt → CoreSt) : (s.updCore c f).slots = s.slots := rfl
@[simp] theorem State.updCore_ctxs (s : State) (c : Nat) (f : CoreSt → CoreSt) : (s.updCore c f).ctxs = s.ctxs := rfl
@[simp] theorem State.updCore_mem (s : State) (c : Nat) (f : CoreSt → CoreSt) : (s.updCore c f).mem = s.mem := rfl
@[simp] theorem State.updCore_reqs (s : State) (c : Nat) (f : CoreSt → CoreSt) : (s.updCore c f).reqs = s.reqs := rfl
@[simp] theorem State.updCore_conj (s : State) (c : Nat) (f : CoreSt → CoreSt) : (s.updCore c f).conj = s.conj := rfl
@[simp] theorem State.updCore_fab (s : State) (c : Nat) (f : CoreSt → CoreSt) : (s.updCore c f).fab = s.fab := rfl
@[simp] theorem State.updCore_front (s : State) (c : Nat) (f : CoreSt → CoreSt) : (s.updCore c f).front = s.front := rfl
@[simp] theorem State.updCore_mgmt (s : State) (c : Nat) (f : CoreSt → CoreSt) : (s.updCore c f).mgmt = s.mgmt := rfl
@[simp] theorem State.updCore_svc (s : State) (c : Nat) (f : CoreSt → CoreSt) : (s.updCore c f).svc = s.svc := rfl
@[simp] theorem State.updCore_boot (s : State) (c : Nat) (f : CoreSt → CoreSt) : (s.updCore c f).boot = s.boot := rfl
@[simp] theorem State.updCore_hostUp (s : State) (c : Nat) (f : CoreSt → CoreSt) : (s.updCore c f).hostUp = s.hostUp := rfl
@[simp] theorem State.updCore_net (s : State) (c : Nat) (f : CoreSt → CoreSt) : (s.updCore c f).net = s.net := rfl
@[simp] theorem State.updCore_xlats (s : State) (c : Nat) (f : CoreSt → CoreSt) : (s.updCore c f).xlats = s.xlats := rfl

/-! ### State.updPair -/

@[simp] theorem State.updPair_clk (s : State) (p : Nat) (f : PairSt → PairSt) : (s.updPair p f).clk = s.clk := rfl
@[simp] theorem State.updPair_free (s : State) (p : Nat) (f : PairSt → PairSt) : (s.updPair p f).free = s.free := rfl
@[simp] theorem State.updPair_turn (s : State) (p : Nat) (f : PairSt → PairSt) : (s.updPair p f).turn = s.turn := rfl
@[simp] theorem State.updPair_agenda (s : State) (p : Nat) (f : PairSt → PairSt) : (s.updPair p f).agenda = s.agenda := rfl
@[simp] theorem State.updPair_delays (s : State) (p : Nat) (f : PairSt → PairSt) : (s.updPair p f).delays = s.delays := rfl
@[simp] theorem State.updPair_upsets (s : State) (p : Nat) (f : PairSt → PairSt) : (s.updPair p f).upsets = s.upsets := rfl
@[simp] theorem State.updPair_nextId (s : State) (p : Nat) (f : PairSt → PairSt) : (s.updPair p f).nextId = s.nextId := rfl
@[simp] theorem State.updPair_issuing (s : State) (p : Nat) (f : PairSt → PairSt) : (s.updPair p f).issuing = s.issuing := rfl
@[simp] theorem State.updPair_teams (s : State) (p : Nat) (f : PairSt → PairSt) : (s.updPair p f).teams = s.teams := rfl
@[simp] theorem State.updPair_groups (s : State) (p : Nat) (f : PairSt → PairSt) : (s.updPair p f).groups = s.groups := rfl
@[simp] theorem State.updPair_launches (s : State) (p : Nat) (f : PairSt → PairSt) : (s.updPair p f).launches = s.launches := rfl
@[simp] theorem State.updPair_cores (s : State) (p : Nat) (f : PairSt → PairSt) : (s.updPair p f).cores = s.cores := rfl
@[simp] theorem State.updPair_slots (s : State) (p : Nat) (f : PairSt → PairSt) : (s.updPair p f).slots = s.slots := rfl
@[simp] theorem State.updPair_ctxs (s : State) (p : Nat) (f : PairSt → PairSt) : (s.updPair p f).ctxs = s.ctxs := rfl
@[simp] theorem State.updPair_mem (s : State) (p : Nat) (f : PairSt → PairSt) : (s.updPair p f).mem = s.mem := rfl
@[simp] theorem State.updPair_reqs (s : State) (p : Nat) (f : PairSt → PairSt) : (s.updPair p f).reqs = s.reqs := rfl
@[simp] theorem State.updPair_conj (s : State) (p : Nat) (f : PairSt → PairSt) : (s.updPair p f).conj = s.conj := rfl
@[simp] theorem State.updPair_fab (s : State) (p : Nat) (f : PairSt → PairSt) : (s.updPair p f).fab = s.fab := rfl
@[simp] theorem State.updPair_front (s : State) (p : Nat) (f : PairSt → PairSt) : (s.updPair p f).front = s.front := rfl
@[simp] theorem State.updPair_mgmt (s : State) (p : Nat) (f : PairSt → PairSt) : (s.updPair p f).mgmt = s.mgmt := rfl
@[simp] theorem State.updPair_svc (s : State) (p : Nat) (f : PairSt → PairSt) : (s.updPair p f).svc = s.svc := rfl
@[simp] theorem State.updPair_boot (s : State) (p : Nat) (f : PairSt → PairSt) : (s.updPair p f).boot = s.boot := rfl
@[simp] theorem State.updPair_hostUp (s : State) (p : Nat) (f : PairSt → PairSt) : (s.updPair p f).hostUp = s.hostUp := rfl
@[simp] theorem State.updPair_net (s : State) (p : Nat) (f : PairSt → PairSt) : (s.updPair p f).net = s.net := rfl
@[simp] theorem State.updPair_xlats (s : State) (p : Nat) (f : PairSt → PairSt) : (s.updPair p f).xlats = s.xlats := rfl

/-! ### State.updSlot -/

@[simp] theorem State.updSlot_clk (s : State) (n : Nat) (f : Slot → Slot) : (s.updSlot n f).clk = s.clk := rfl
@[simp] theorem State.updSlot_free (s : State) (n : Nat) (f : Slot → Slot) : (s.updSlot n f).free = s.free := rfl
@[simp] theorem State.updSlot_turn (s : State) (n : Nat) (f : Slot → Slot) : (s.updSlot n f).turn = s.turn := rfl
@[simp] theorem State.updSlot_agenda (s : State) (n : Nat) (f : Slot → Slot) : (s.updSlot n f).agenda = s.agenda := rfl
@[simp] theorem State.updSlot_delays (s : State) (n : Nat) (f : Slot → Slot) : (s.updSlot n f).delays = s.delays := rfl
@[simp] theorem State.updSlot_upsets (s : State) (n : Nat) (f : Slot → Slot) : (s.updSlot n f).upsets = s.upsets := rfl
@[simp] theorem State.updSlot_nextId (s : State) (n : Nat) (f : Slot → Slot) : (s.updSlot n f).nextId = s.nextId := rfl
@[simp] theorem State.updSlot_issuing (s : State) (n : Nat) (f : Slot → Slot) : (s.updSlot n f).issuing = s.issuing := rfl
@[simp] theorem State.updSlot_teams (s : State) (n : Nat) (f : Slot → Slot) : (s.updSlot n f).teams = s.teams := rfl
@[simp] theorem State.updSlot_groups (s : State) (n : Nat) (f : Slot → Slot) : (s.updSlot n f).groups = s.groups := rfl
@[simp] theorem State.updSlot_launches (s : State) (n : Nat) (f : Slot → Slot) : (s.updSlot n f).launches = s.launches := rfl
@[simp] theorem State.updSlot_cores (s : State) (n : Nat) (f : Slot → Slot) : (s.updSlot n f).cores = s.cores := rfl
@[simp] theorem State.updSlot_pairs (s : State) (n : Nat) (f : Slot → Slot) : (s.updSlot n f).pairs = s.pairs := rfl
@[simp] theorem State.updSlot_ctxs (s : State) (n : Nat) (f : Slot → Slot) : (s.updSlot n f).ctxs = s.ctxs := rfl
@[simp] theorem State.updSlot_mem (s : State) (n : Nat) (f : Slot → Slot) : (s.updSlot n f).mem = s.mem := rfl
@[simp] theorem State.updSlot_reqs (s : State) (n : Nat) (f : Slot → Slot) : (s.updSlot n f).reqs = s.reqs := rfl
@[simp] theorem State.updSlot_conj (s : State) (n : Nat) (f : Slot → Slot) : (s.updSlot n f).conj = s.conj := rfl
@[simp] theorem State.updSlot_fab (s : State) (n : Nat) (f : Slot → Slot) : (s.updSlot n f).fab = s.fab := rfl
@[simp] theorem State.updSlot_front (s : State) (n : Nat) (f : Slot → Slot) : (s.updSlot n f).front = s.front := rfl
@[simp] theorem State.updSlot_mgmt (s : State) (n : Nat) (f : Slot → Slot) : (s.updSlot n f).mgmt = s.mgmt := rfl
@[simp] theorem State.updSlot_svc (s : State) (n : Nat) (f : Slot → Slot) : (s.updSlot n f).svc = s.svc := rfl
@[simp] theorem State.updSlot_boot (s : State) (n : Nat) (f : Slot → Slot) : (s.updSlot n f).boot = s.boot := rfl
@[simp] theorem State.updSlot_hostUp (s : State) (n : Nat) (f : Slot → Slot) : (s.updSlot n f).hostUp = s.hostUp := rfl
@[simp] theorem State.updSlot_net (s : State) (n : Nat) (f : Slot → Slot) : (s.updSlot n f).net = s.net := rfl
@[simp] theorem State.updSlot_xlats (s : State) (n : Nat) (f : Slot → Slot) : (s.updSlot n f).xlats = s.xlats := rfl

/-! ### State.updGroup -/

@[simp] theorem State.updGroup_clk (s : State) (l g : Nat) (f : Group → Group) : (s.updGroup l g f).clk = s.clk := rfl
@[simp] theorem State.updGroup_free (s : State) (l g : Nat) (f : Group → Group) : (s.updGroup l g f).free = s.free := rfl
@[simp] theorem State.updGroup_turn (s : State) (l g : Nat) (f : Group → Group) : (s.updGroup l g f).turn = s.turn := rfl
@[simp] theorem State.updGroup_agenda (s : State) (l g : Nat) (f : Group → Group) : (s.updGroup l g f).agenda = s.agenda := rfl
@[simp] theorem State.updGroup_delays (s : State) (l g : Nat) (f : Group → Group) : (s.updGroup l g f).delays = s.delays := rfl
@[simp] theorem State.updGroup_upsets (s : State) (l g : Nat) (f : Group → Group) : (s.updGroup l g f).upsets = s.upsets := rfl
@[simp] theorem State.updGroup_nextId (s : State) (l g : Nat) (f : Group → Group) : (s.updGroup l g f).nextId = s.nextId := rfl
@[simp] theorem State.updGroup_issuing (s : State) (l g : Nat) (f : Group → Group) : (s.updGroup l g f).issuing = s.issuing := rfl
@[simp] theorem State.updGroup_teams (s : State) (l g : Nat) (f : Group → Group) : (s.updGroup l g f).teams = s.teams := rfl
@[simp] theorem State.updGroup_launches (s : State) (l g : Nat) (f : Group → Group) : (s.updGroup l g f).launches = s.launches := rfl
@[simp] theorem State.updGroup_cores (s : State) (l g : Nat) (f : Group → Group) : (s.updGroup l g f).cores = s.cores := rfl
@[simp] theorem State.updGroup_pairs (s : State) (l g : Nat) (f : Group → Group) : (s.updGroup l g f).pairs = s.pairs := rfl
@[simp] theorem State.updGroup_slots (s : State) (l g : Nat) (f : Group → Group) : (s.updGroup l g f).slots = s.slots := rfl
@[simp] theorem State.updGroup_ctxs (s : State) (l g : Nat) (f : Group → Group) : (s.updGroup l g f).ctxs = s.ctxs := rfl
@[simp] theorem State.updGroup_mem (s : State) (l g : Nat) (f : Group → Group) : (s.updGroup l g f).mem = s.mem := rfl
@[simp] theorem State.updGroup_reqs (s : State) (l g : Nat) (f : Group → Group) : (s.updGroup l g f).reqs = s.reqs := rfl
@[simp] theorem State.updGroup_conj (s : State) (l g : Nat) (f : Group → Group) : (s.updGroup l g f).conj = s.conj := rfl
@[simp] theorem State.updGroup_fab (s : State) (l g : Nat) (f : Group → Group) : (s.updGroup l g f).fab = s.fab := rfl
@[simp] theorem State.updGroup_front (s : State) (l g : Nat) (f : Group → Group) : (s.updGroup l g f).front = s.front := rfl
@[simp] theorem State.updGroup_mgmt (s : State) (l g : Nat) (f : Group → Group) : (s.updGroup l g f).mgmt = s.mgmt := rfl
@[simp] theorem State.updGroup_svc (s : State) (l g : Nat) (f : Group → Group) : (s.updGroup l g f).svc = s.svc := rfl
@[simp] theorem State.updGroup_boot (s : State) (l g : Nat) (f : Group → Group) : (s.updGroup l g f).boot = s.boot := rfl
@[simp] theorem State.updGroup_hostUp (s : State) (l g : Nat) (f : Group → Group) : (s.updGroup l g f).hostUp = s.hostUp := rfl
@[simp] theorem State.updGroup_net (s : State) (l g : Nat) (f : Group → Group) : (s.updGroup l g f).net = s.net := rfl
@[simp] theorem State.updGroup_xlats (s : State) (l g : Nat) (f : Group → Group) : (s.updGroup l g f).xlats = s.xlats := rfl

/-! ### State.updPort -/

@[simp] theorem State.updPort_clk (s : State) (p : Nat) (f : PortSt → PortSt) : (s.updPort p f).clk = s.clk := rfl
@[simp] theorem State.updPort_free (s : State) (p : Nat) (f : PortSt → PortSt) : (s.updPort p f).free = s.free := rfl
@[simp] theorem State.updPort_turn (s : State) (p : Nat) (f : PortSt → PortSt) : (s.updPort p f).turn = s.turn := rfl
@[simp] theorem State.updPort_agenda (s : State) (p : Nat) (f : PortSt → PortSt) : (s.updPort p f).agenda = s.agenda := rfl
@[simp] theorem State.updPort_delays (s : State) (p : Nat) (f : PortSt → PortSt) : (s.updPort p f).delays = s.delays := rfl
@[simp] theorem State.updPort_upsets (s : State) (p : Nat) (f : PortSt → PortSt) : (s.updPort p f).upsets = s.upsets := rfl
@[simp] theorem State.updPort_nextId (s : State) (p : Nat) (f : PortSt → PortSt) : (s.updPort p f).nextId = s.nextId := rfl
@[simp] theorem State.updPort_issuing (s : State) (p : Nat) (f : PortSt → PortSt) : (s.updPort p f).issuing = s.issuing := rfl
@[simp] theorem State.updPort_teams (s : State) (p : Nat) (f : PortSt → PortSt) : (s.updPort p f).teams = s.teams := rfl
@[simp] theorem State.updPort_groups (s : State) (p : Nat) (f : PortSt → PortSt) : (s.updPort p f).groups = s.groups := rfl
@[simp] theorem State.updPort_launches (s : State) (p : Nat) (f : PortSt → PortSt) : (s.updPort p f).launches = s.launches := rfl
@[simp] theorem State.updPort_cores (s : State) (p : Nat) (f : PortSt → PortSt) : (s.updPort p f).cores = s.cores := rfl
@[simp] theorem State.updPort_pairs (s : State) (p : Nat) (f : PortSt → PortSt) : (s.updPort p f).pairs = s.pairs := rfl
@[simp] theorem State.updPort_slots (s : State) (p : Nat) (f : PortSt → PortSt) : (s.updPort p f).slots = s.slots := rfl
@[simp] theorem State.updPort_ctxs (s : State) (p : Nat) (f : PortSt → PortSt) : (s.updPort p f).ctxs = s.ctxs := rfl
@[simp] theorem State.updPort_mem (s : State) (p : Nat) (f : PortSt → PortSt) : (s.updPort p f).mem = s.mem := rfl
@[simp] theorem State.updPort_reqs (s : State) (p : Nat) (f : PortSt → PortSt) : (s.updPort p f).reqs = s.reqs := rfl
@[simp] theorem State.updPort_conj (s : State) (p : Nat) (f : PortSt → PortSt) : (s.updPort p f).conj = s.conj := rfl
@[simp] theorem State.updPort_front (s : State) (p : Nat) (f : PortSt → PortSt) : (s.updPort p f).front = s.front := rfl
@[simp] theorem State.updPort_mgmt (s : State) (p : Nat) (f : PortSt → PortSt) : (s.updPort p f).mgmt = s.mgmt := rfl
@[simp] theorem State.updPort_svc (s : State) (p : Nat) (f : PortSt → PortSt) : (s.updPort p f).svc = s.svc := rfl
@[simp] theorem State.updPort_boot (s : State) (p : Nat) (f : PortSt → PortSt) : (s.updPort p f).boot = s.boot := rfl
@[simp] theorem State.updPort_hostUp (s : State) (p : Nat) (f : PortSt → PortSt) : (s.updPort p f).hostUp = s.hostUp := rfl
@[simp] theorem State.updPort_net (s : State) (p : Nat) (f : PortSt → PortSt) : (s.updPort p f).net = s.net := rfl
@[simp] theorem State.updPort_xlats (s : State) (p : Nat) (f : PortSt → PortSt) : (s.updPort p f).xlats = s.xlats := rfl

/-! ### State.setTeam -/

@[simp] theorem State.setTeam_clk (s : State) (t : Team) : (s.setTeam t).clk = s.clk := rfl
@[simp] theorem State.setTeam_free (s : State) (t : Team) : (s.setTeam t).free = s.free := rfl
@[simp] theorem State.setTeam_turn (s : State) (t : Team) : (s.setTeam t).turn = s.turn := rfl
@[simp] theorem State.setTeam_agenda (s : State) (t : Team) : (s.setTeam t).agenda = s.agenda := rfl
@[simp] theorem State.setTeam_delays (s : State) (t : Team) : (s.setTeam t).delays = s.delays := rfl
@[simp] theorem State.setTeam_upsets (s : State) (t : Team) : (s.setTeam t).upsets = s.upsets := rfl
@[simp] theorem State.setTeam_nextId (s : State) (t : Team) : (s.setTeam t).nextId = s.nextId := rfl
@[simp] theorem State.setTeam_issuing (s : State) (t : Team) : (s.setTeam t).issuing = s.issuing := rfl
@[simp] theorem State.setTeam_groups (s : State) (t : Team) : (s.setTeam t).groups = s.groups := rfl
@[simp] theorem State.setTeam_launches (s : State) (t : Team) : (s.setTeam t).launches = s.launches := rfl
@[simp] theorem State.setTeam_cores (s : State) (t : Team) : (s.setTeam t).cores = s.cores := rfl
@[simp] theorem State.setTeam_pairs (s : State) (t : Team) : (s.setTeam t).pairs = s.pairs := rfl
@[simp] theorem State.setTeam_slots (s : State) (t : Team) : (s.setTeam t).slots = s.slots := rfl
@[simp] theorem State.setTeam_ctxs (s : State) (t : Team) : (s.setTeam t).ctxs = s.ctxs := rfl
@[simp] theorem State.setTeam_mem (s : State) (t : Team) : (s.setTeam t).mem = s.mem := rfl
@[simp] theorem State.setTeam_reqs (s : State) (t : Team) : (s.setTeam t).reqs = s.reqs := rfl
@[simp] theorem State.setTeam_conj (s : State) (t : Team) : (s.setTeam t).conj = s.conj := rfl
@[simp] theorem State.setTeam_fab (s : State) (t : Team) : (s.setTeam t).fab = s.fab := rfl
@[simp] theorem State.setTeam_front (s : State) (t : Team) : (s.setTeam t).front = s.front := rfl
@[simp] theorem State.setTeam_mgmt (s : State) (t : Team) : (s.setTeam t).mgmt = s.mgmt := rfl
@[simp] theorem State.setTeam_svc (s : State) (t : Team) : (s.setTeam t).svc = s.svc := rfl
@[simp] theorem State.setTeam_boot (s : State) (t : Team) : (s.setTeam t).boot = s.boot := rfl
@[simp] theorem State.setTeam_hostUp (s : State) (t : Team) : (s.setTeam t).hostUp = s.hostUp := rfl
@[simp] theorem State.setTeam_net (s : State) (t : Team) : (s.setTeam t).net = s.net := rfl
@[simp] theorem State.setTeam_xlats (s : State) (t : Team) : (s.setTeam t).xlats = s.xlats := rfl

/-! ### State.updTeam -/

@[simp] theorem State.updTeam_clk (s : State) (t : Nat) (f : Team → Team) : (s.updTeam t f).clk = s.clk := by unfold State.updTeam; split <;> rfl
@[simp] theorem State.updTeam_free (s : State) (t : Nat) (f : Team → Team) : (s.updTeam t f).free = s.free := by unfold State.updTeam; split <;> rfl
@[simp] theorem State.updTeam_turn (s : State) (t : Nat) (f : Team → Team) : (s.updTeam t f).turn = s.turn := by unfold State.updTeam; split <;> rfl
@[simp] theorem State.updTeam_agenda (s : State) (t : Nat) (f : Team → Team) : (s.updTeam t f).agenda = s.agenda := by unfold State.updTeam; split <;> rfl
@[simp] theorem State.updTeam_delays (s : State) (t : Nat) (f : Team → Team) : (s.updTeam t f).delays = s.delays := by unfold State.updTeam; split <;> rfl
@[simp] theorem State.updTeam_upsets (s : State) (t : Nat) (f : Team → Team) : (s.updTeam t f).upsets = s.upsets := by unfold State.updTeam; split <;> rfl
@[simp] theorem State.updTeam_nextId (s : State) (t : Nat) (f : Team → Team) : (s.updTeam t f).nextId = s.nextId := by unfold State.updTeam; split <;> rfl
@[simp] theorem State.updTeam_issuing (s : State) (t : Nat) (f : Team → Team) : (s.updTeam t f).issuing = s.issuing := by unfold State.updTeam; split <;> rfl
@[simp] theorem State.updTeam_groups (s : State) (t : Nat) (f : Team → Team) : (s.updTeam t f).groups = s.groups := by unfold State.updTeam; split <;> rfl
@[simp] theorem State.updTeam_launches (s : State) (t : Nat) (f : Team → Team) : (s.updTeam t f).launches = s.launches := by unfold State.updTeam; split <;> rfl
@[simp] theorem State.updTeam_cores (s : State) (t : Nat) (f : Team → Team) : (s.updTeam t f).cores = s.cores := by unfold State.updTeam; split <;> rfl
@[simp] theorem State.updTeam_pairs (s : State) (t : Nat) (f : Team → Team) : (s.updTeam t f).pairs = s.pairs := by unfold State.updTeam; split <;> rfl
@[simp] theorem State.updTeam_slots (s : State) (t : Nat) (f : Team → Team) : (s.updTeam t f).slots = s.slots := by unfold State.updTeam; split <;> rfl
@[simp] theorem State.updTeam_ctxs (s : State) (t : Nat) (f : Team → Team) : (s.updTeam t f).ctxs = s.ctxs := by unfold State.updTeam; split <;> rfl
@[simp] theorem State.updTeam_mem (s : State) (t : Nat) (f : Team → Team) : (s.updTeam t f).mem = s.mem := by unfold State.updTeam; split <;> rfl
@[simp] theorem State.updTeam_reqs (s : State) (t : Nat) (f : Team → Team) : (s.updTeam t f).reqs = s.reqs := by unfold State.updTeam; split <;> rfl
@[simp] theorem State.updTeam_conj (s : State) (t : Nat) (f : Team → Team) : (s.updTeam t f).conj = s.conj := by unfold State.updTeam; split <;> rfl
@[simp] theorem State.updTeam_fab (s : State) (t : Nat) (f : Team → Team) : (s.updTeam t f).fab = s.fab := by unfold State.updTeam; split <;> rfl
@[simp] theorem State.updTeam_front (s : State) (t : Nat) (f : Team → Team) : (s.updTeam t f).front = s.front := by unfold State.updTeam; split <;> rfl
@[simp] theorem State.updTeam_mgmt (s : State) (t : Nat) (f : Team → Team) : (s.updTeam t f).mgmt = s.mgmt := by unfold State.updTeam; split <;> rfl
@[simp] theorem State.updTeam_svc (s : State) (t : Nat) (f : Team → Team) : (s.updTeam t f).svc = s.svc := by unfold State.updTeam; split <;> rfl
@[simp] theorem State.updTeam_boot (s : State) (t : Nat) (f : Team → Team) : (s.updTeam t f).boot = s.boot := by unfold State.updTeam; split <;> rfl
@[simp] theorem State.updTeam_hostUp (s : State) (t : Nat) (f : Team → Team) : (s.updTeam t f).hostUp = s.hostUp := by unfold State.updTeam; split <;> rfl
@[simp] theorem State.updTeam_net (s : State) (t : Nat) (f : Team → Team) : (s.updTeam t f).net = s.net := by unfold State.updTeam; split <;> rfl
@[simp] theorem State.updTeam_xlats (s : State) (t : Nat) (f : Team → Team) : (s.updTeam t f).xlats = s.xlats := by unfold State.updTeam; split <;> rfl

/-! ### State.updLaunch -/

@[simp] theorem State.updLaunch_clk (s : State) (l : Nat) (f : Launch → Launch) : (s.updLaunch l f).clk = s.clk := by unfold State.updLaunch; split <;> rfl
@[simp] theorem State.updLaunch_free (s : State) (l : Nat) (f : Launch → Launch) : (s.updLaunch l f).free = s.free := by unfold State.updLaunch; split <;> rfl
@[simp] theorem State.updLaunch_turn (s : State) (l : Nat) (f : Launch → Launch) : (s.updLaunch l f).turn = s.turn := by unfold State.updLaunch; split <;> rfl
@[simp] theorem State.updLaunch_agenda (s : State) (l : Nat) (f : Launch → Launch) : (s.updLaunch l f).agenda = s.agenda := by unfold State.updLaunch; split <;> rfl
@[simp] theorem State.updLaunch_delays (s : State) (l : Nat) (f : Launch → Launch) : (s.updLaunch l f).delays = s.delays := by unfold State.updLaunch; split <;> rfl
@[simp] theorem State.updLaunch_upsets (s : State) (l : Nat) (f : Launch → Launch) : (s.updLaunch l f).upsets = s.upsets := by unfold State.updLaunch; split <;> rfl
@[simp] theorem State.updLaunch_nextId (s : State) (l : Nat) (f : Launch → Launch) : (s.updLaunch l f).nextId = s.nextId := by unfold State.updLaunch; split <;> rfl
@[simp] theorem State.updLaunch_issuing (s : State) (l : Nat) (f : Launch → Launch) : (s.updLaunch l f).issuing = s.issuing := by unfold State.updLaunch; split <;> rfl
@[simp] theorem State.updLaunch_teams (s : State) (l : Nat) (f : Launch → Launch) : (s.updLaunch l f).teams = s.teams := by unfold State.updLaunch; split <;> rfl
@[simp] theorem State.updLaunch_groups (s : State) (l : Nat) (f : Launch → Launch) : (s.updLaunch l f).groups = s.groups := by unfold State.updLaunch; split <;> rfl
@[simp] theorem State.updLaunch_cores (s : State) (l : Nat) (f : Launch → Launch) : (s.updLaunch l f).cores = s.cores := by unfold State.updLaunch; split <;> rfl
@[simp] theorem State.updLaunch_pairs (s : State) (l : Nat) (f : Launch → Launch) : (s.updLaunch l f).pairs = s.pairs := by unfold State.updLaunch; split <;> rfl
@[simp] theorem State.updLaunch_slots (s : State) (l : Nat) (f : Launch → Launch) : (s.updLaunch l f).slots = s.slots := by unfold State.updLaunch; split <;> rfl
@[simp] theorem State.updLaunch_ctxs (s : State) (l : Nat) (f : Launch → Launch) : (s.updLaunch l f).ctxs = s.ctxs := by unfold State.updLaunch; split <;> rfl
@[simp] theorem State.updLaunch_mem (s : State) (l : Nat) (f : Launch → Launch) : (s.updLaunch l f).mem = s.mem := by unfold State.updLaunch; split <;> rfl
@[simp] theorem State.updLaunch_reqs (s : State) (l : Nat) (f : Launch → Launch) : (s.updLaunch l f).reqs = s.reqs := by unfold State.updLaunch; split <;> rfl
@[simp] theorem State.updLaunch_conj (s : State) (l : Nat) (f : Launch → Launch) : (s.updLaunch l f).conj = s.conj := by unfold State.updLaunch; split <;> rfl
@[simp] theorem State.updLaunch_fab (s : State) (l : Nat) (f : Launch → Launch) : (s.updLaunch l f).fab = s.fab := by unfold State.updLaunch; split <;> rfl
@[simp] theorem State.updLaunch_front (s : State) (l : Nat) (f : Launch → Launch) : (s.updLaunch l f).front = s.front := by unfold State.updLaunch; split <;> rfl
@[simp] theorem State.updLaunch_mgmt (s : State) (l : Nat) (f : Launch → Launch) : (s.updLaunch l f).mgmt = s.mgmt := by unfold State.updLaunch; split <;> rfl
@[simp] theorem State.updLaunch_svc (s : State) (l : Nat) (f : Launch → Launch) : (s.updLaunch l f).svc = s.svc := by unfold State.updLaunch; split <;> rfl
@[simp] theorem State.updLaunch_boot (s : State) (l : Nat) (f : Launch → Launch) : (s.updLaunch l f).boot = s.boot := by unfold State.updLaunch; split <;> rfl
@[simp] theorem State.updLaunch_hostUp (s : State) (l : Nat) (f : Launch → Launch) : (s.updLaunch l f).hostUp = s.hostUp := by unfold State.updLaunch; split <;> rfl
@[simp] theorem State.updLaunch_net (s : State) (l : Nat) (f : Launch → Launch) : (s.updLaunch l f).net = s.net := by unfold State.updLaunch; split <;> rfl
@[simp] theorem State.updLaunch_xlats (s : State) (l : Nat) (f : Launch → Launch) : (s.updLaunch l f).xlats = s.xlats := by unfold State.updLaunch; split <;> rfl

/-! ### State.updCtx -/

@[simp] theorem State.updCtx_clk (s : State) (c : Nat) (f : Ctx → Ctx) : (s.updCtx c f).clk = s.clk := by unfold State.updCtx; split <;> rfl
@[simp] theorem State.updCtx_free (s : State) (c : Nat) (f : Ctx → Ctx) : (s.updCtx c f).free = s.free := by unfold State.updCtx; split <;> rfl
@[simp] theorem State.updCtx_turn (s : State) (c : Nat) (f : Ctx → Ctx) : (s.updCtx c f).turn = s.turn := by unfold State.updCtx; split <;> rfl
@[simp] theorem State.updCtx_agenda (s : State) (c : Nat) (f : Ctx → Ctx) : (s.updCtx c f).agenda = s.agenda := by unfold State.updCtx; split <;> rfl
@[simp] theorem State.updCtx_delays (s : State) (c : Nat) (f : Ctx → Ctx) : (s.updCtx c f).delays = s.delays := by unfold State.updCtx; split <;> rfl
@[simp] theorem State.updCtx_upsets (s : State) (c : Nat) (f : Ctx → Ctx) : (s.updCtx c f).upsets = s.upsets := by unfold State.updCtx; split <;> rfl
@[simp] theorem State.updCtx_nextId (s : State) (c : Nat) (f : Ctx → Ctx) : (s.updCtx c f).nextId = s.nextId := by unfold State.updCtx; split <;> rfl
@[simp] theorem State.updCtx_issuing (s : State) (c : Nat) (f : Ctx → Ctx) : (s.updCtx c f).issuing = s.issuing := by unfold State.updCtx; split <;> rfl
@[simp] theorem State.updCtx_teams (s : State) (c : Nat) (f : Ctx → Ctx) : (s.updCtx c f).teams = s.teams := by unfold State.updCtx; split <;> rfl
@[simp] theorem State.updCtx_groups (s : State) (c : Nat) (f : Ctx → Ctx) : (s.updCtx c f).groups = s.groups := by unfold State.updCtx; split <;> rfl
@[simp] theorem State.updCtx_launches (s : State) (c : Nat) (f : Ctx → Ctx) : (s.updCtx c f).launches = s.launches := by unfold State.updCtx; split <;> rfl
@[simp] theorem State.updCtx_cores (s : State) (c : Nat) (f : Ctx → Ctx) : (s.updCtx c f).cores = s.cores := by unfold State.updCtx; split <;> rfl
@[simp] theorem State.updCtx_pairs (s : State) (c : Nat) (f : Ctx → Ctx) : (s.updCtx c f).pairs = s.pairs := by unfold State.updCtx; split <;> rfl
@[simp] theorem State.updCtx_slots (s : State) (c : Nat) (f : Ctx → Ctx) : (s.updCtx c f).slots = s.slots := by unfold State.updCtx; split <;> rfl
@[simp] theorem State.updCtx_mem (s : State) (c : Nat) (f : Ctx → Ctx) : (s.updCtx c f).mem = s.mem := by unfold State.updCtx; split <;> rfl
@[simp] theorem State.updCtx_reqs (s : State) (c : Nat) (f : Ctx → Ctx) : (s.updCtx c f).reqs = s.reqs := by unfold State.updCtx; split <;> rfl
@[simp] theorem State.updCtx_conj (s : State) (c : Nat) (f : Ctx → Ctx) : (s.updCtx c f).conj = s.conj := by unfold State.updCtx; split <;> rfl
@[simp] theorem State.updCtx_fab (s : State) (c : Nat) (f : Ctx → Ctx) : (s.updCtx c f).fab = s.fab := by unfold State.updCtx; split <;> rfl
@[simp] theorem State.updCtx_front (s : State) (c : Nat) (f : Ctx → Ctx) : (s.updCtx c f).front = s.front := by unfold State.updCtx; split <;> rfl
@[simp] theorem State.updCtx_mgmt (s : State) (c : Nat) (f : Ctx → Ctx) : (s.updCtx c f).mgmt = s.mgmt := by unfold State.updCtx; split <;> rfl
@[simp] theorem State.updCtx_svc (s : State) (c : Nat) (f : Ctx → Ctx) : (s.updCtx c f).svc = s.svc := by unfold State.updCtx; split <;> rfl
@[simp] theorem State.updCtx_boot (s : State) (c : Nat) (f : Ctx → Ctx) : (s.updCtx c f).boot = s.boot := by unfold State.updCtx; split <;> rfl
@[simp] theorem State.updCtx_hostUp (s : State) (c : Nat) (f : Ctx → Ctx) : (s.updCtx c f).hostUp = s.hostUp := by unfold State.updCtx; split <;> rfl
@[simp] theorem State.updCtx_net (s : State) (c : Nat) (f : Ctx → Ctx) : (s.updCtx c f).net = s.net := by unfold State.updCtx; split <;> rfl
@[simp] theorem State.updCtx_xlats (s : State) (c : Nat) (f : Ctx → Ctx) : (s.updCtx c f).xlats = s.xlats := by unfold State.updCtx; split <;> rfl

@[simp] theorem State.updMem_mem (s : State) (f : MemSt → MemSt) : (s.updMem f).mem = f s.mem := rfl
@[simp] theorem State.updFront_front (s : State) (f : FrontSt → FrontSt) : (s.updFront f).front = f s.front := rfl
@[simp] theorem State.updMgmt_mgmt (s : State) (f : MgmtSt → MgmtSt) : (s.updMgmt f).mgmt = f s.mgmt := rfl
@[simp] theorem State.updFab_fab (s : State) (f : FabSt → FabSt) : (s.updFab f).fab = f s.fab := rfl
@[simp] theorem State.updConj_conj (s : State) (f : ConjSt → ConjSt) : (s.updConj f).conj = f s.conj := rfl
@[simp] theorem State.updBoot_boot (s : State) (f : BootSt → BootSt) : (s.updBoot f).boot = f s.boot := rfl

/-! ### Team.setV -/

@[simp] theorem Team.setV_id (t : Team) (r l : Nat) (x : Word) (tag : Bool) : (t.setV r l x tag).id = t.id := rfl
@[simp] theorem Team.setV_launch (t : Team) (r l : Nat) (x : Word) (tag : Bool) : (t.setV r l x tag).launch = t.launch := rfl
@[simp] theorem Team.setV_group (t : Team) (r l : Nat) (x : Word) (tag : Bool) : (t.setV r l x tag).group = t.group := rfl
@[simp] theorem Team.setV_num (t : Team) (r l : Nat) (x : Word) (tag : Bool) : (t.setV r l x tag).num = t.num := rfl
@[simp] theorem Team.setV_core (t : Team) (r l : Nat) (x : Word) (tag : Bool) : (t.setV r l x tag).core = t.core := rfl
@[simp] theorem Team.setV_quarter (t : Team) (r l : Nat) (x : Word) (tag : Bool) : (t.setV r l x tag).quarter = t.quarter := rfl
@[simp] theorem Team.setV_slot (t : Team) (r l : Nat) (x : Word) (tag : Bool) : (t.setV r l x tag).slot = t.slot := rfl
@[simp] theorem Team.setV_n (t : Team) (r l : Nat) (x : Word) (tag : Bool) : (t.setV r l x tag).n = t.n := rfl
@[simp] theorem Team.setV_k (t : Team) (r l : Nat) (x : Word) (tag : Bool) : (t.setV r l x tag).k = t.k := rfl
@[simp] theorem Team.setV_tg (t : Team) (r l : Nat) (x : Word) (tag : Bool) : (t.setV r l x tag).tg = t.tg := rfl
@[simp] theorem Team.setV_evicted (t : Team) (r l : Nat) (x : Word) (tag : Bool) : (t.setV r l x tag).evicted = t.evicted := rfl
@[simp] theorem Team.setV_status (t : Team) (r l : Nat) (x : Word) (tag : Bool) : (t.setV r l x tag).status = t.status := rfl
@[simp] theorem Team.setV_frags (t : Team) (r l : Nat) (x : Word) (tag : Bool) : (t.setV r l x tag).frags = t.frags := rfl
@[simp] theorem Team.setV_joins (t : Team) (r l : Nat) (x : Word) (tag : Bool) : (t.setV r l x tag).joins = t.joins := rfl
@[simp] theorem Team.setV_serial (t : Team) (r l : Nat) (x : Word) (tag : Bool) : (t.setV r l x tag).serial = t.serial := rfl
@[simp] theorem Team.setV_scal (t : Team) (r l : Nat) (x : Word) (tag : Bool) : (t.setV r l x tag).scal = t.scal := rfl
@[simp] theorem Team.setV_pred (t : Team) (r l : Nat) (x : Word) (tag : Bool) : (t.setV r l x tag).pred = t.pred := rfl
@[simp] theorem Team.setV_moods (t : Team) (r l : Nat) (x : Word) (tag : Bool) : (t.setV r l x tag).moods = t.moods := rfl
@[simp] theorem Team.setV_flags (t : Team) (r l : Nat) (x : Word) (tag : Bool) : (t.setV r l x tag).flags = t.flags := rfl
@[simp] theorem Team.setV_gen (t : Team) (r l : Nat) (x : Word) (tag : Bool) : (t.setV r l x tag).gen = t.gen := rfl
@[simp] theorem Team.setV_stag (t : Team) (r l : Nat) (x : Word) (tag : Bool) : (t.setV r l x tag).stag = t.stag := rfl
@[simp] theorem Team.setV_ports (t : Team) (r l : Nat) (x : Word) (tag : Bool) : (t.setV r l x tag).ports = t.ports := rfl
@[simp] theorem Team.setV_paths (t : Team) (r l : Nat) (x : Word) (tag : Bool) : (t.setV r l x tag).paths = t.paths := rfl
@[simp] theorem Team.setV_ovflow (t : Team) (r l : Nat) (x : Word) (tag : Bool) : (t.setV r l x tag).ovflow = t.ovflow := rfl
@[simp] theorem Team.setV_priv (t : Team) (r l : Nat) (x : Word) (tag : Bool) : (t.setV r l x tag).priv = t.priv := rfl
@[simp] theorem Team.setV_initMask (t : Team) (r l : Nat) (x : Word) (tag : Bool) : (t.setV r l x tag).initMask = t.initMask := rfl
@[simp] theorem Team.setV_real (t : Team) (r l : Nat) (x : Word) (tag : Bool) : (t.setV r l x tag).real = t.real := rfl
@[simp] theorem Team.setV_record (t : Team) (r l : Nat) (x : Word) (tag : Bool) : (t.setV r l x tag).record = t.record := rfl
@[simp] theorem Team.setV_lockOut (t : Team) (r l : Nat) (x : Word) (tag : Bool) : (t.setV r l x tag).lockOut = t.lockOut := rfl
@[simp] theorem Team.setV_irrev (t : Team) (r l : Nat) (x : Word) (tag : Bool) : (t.setV r l x tag).irrev = t.irrev := rfl
@[simp] theorem Team.setV_restarts (t : Team) (r l : Nat) (x : Word) (tag : Bool) : (t.setV r l x tag).restarts = t.restarts := rfl
@[simp] theorem Team.setV_retries (t : Team) (r l : Nat) (x : Word) (tag : Bool) : (t.setV r l x tag).retries = t.retries := rfl
@[simp] theorem Team.setV_rpc (t : Team) (r l : Nat) (x : Word) (tag : Bool) : (t.setV r l x tag).rpc = t.rpc := rfl
@[simp] theorem Team.setV_restartMode (t : Team) (r l : Nat) (x : Word) (tag : Bool) : (t.setV r l x tag).restartMode = t.restartMode := rfl
@[simp] theorem Team.setV_restartPending (t : Team) (r l : Nat) (x : Word) (tag : Bool) : (t.setV r l x tag).restartPending = t.restartPending := rfl
@[simp] theorem Team.setV_restartMask (t : Team) (r l : Nat) (x : Word) (tag : Bool) : (t.setV r l x tag).restartMask = t.restartMask := rfl
@[simp] theorem Team.setV_lastPhase (t : Team) (r l : Nat) (x : Word) (tag : Bool) : (t.setV r l x tag).lastPhase = t.lastPhase := rfl
@[simp] theorem Team.setV_phMark (t : Team) (r l : Nat) (x : Word) (tag : Bool) : (t.setV r l x tag).phMark = t.phMark := rfl
@[simp] theorem Team.setV_phaseDone (t : Team) (r l : Nat) (x : Word) (tag : Bool) : (t.setV r l x tag).phaseDone = t.phaseDone := rfl
@[simp] theorem Team.setV_early (t : Team) (r l : Nat) (x : Word) (tag : Bool) : (t.setV r l x tag).early = t.early := rfl
@[simp] theorem Team.setV_acq (t : Team) (r l : Nat) (x : Word) (tag : Bool) : (t.setV r l x tag).acq = t.acq := rfl
@[simp] theorem Team.setV_savedReply (t : Team) (r l : Nat) (x : Word) (tag : Bool) : (t.setV r l x tag).savedReply = t.savedReply := rfl
@[simp] theorem Team.setV_victim (t : Team) (r l : Nat) (x : Word) (tag : Bool) : (t.setV r l x tag).victim = t.victim := rfl

/-! ### Team.setS -/

@[simp] theorem Team.setS_id (t : Team) (r : Nat) (x : DWord) (tag : Bool) : (t.setS r x tag).id = t.id := rfl
@[simp] theorem Team.setS_launch (t : Team) (r : Nat) (x : DWord) (tag : Bool) : (t.setS r x tag).launch = t.launch := rfl
@[simp] theorem Team.setS_group (t : Team) (r : Nat) (x : DWord) (tag : Bool) : (t.setS r x tag).group = t.group := rfl
@[simp] theorem Team.setS_num (t : Team) (r : Nat) (x : DWord) (tag : Bool) : (t.setS r x tag).num = t.num := rfl
@[simp] theorem Team.setS_core (t : Team) (r : Nat) (x : DWord) (tag : Bool) : (t.setS r x tag).core = t.core := rfl
@[simp] theorem Team.setS_quarter (t : Team) (r : Nat) (x : DWord) (tag : Bool) : (t.setS r x tag).quarter = t.quarter := rfl
@[simp] theorem Team.setS_slot (t : Team) (r : Nat) (x : DWord) (tag : Bool) : (t.setS r x tag).slot = t.slot := rfl
@[simp] theorem Team.setS_n (t : Team) (r : Nat) (x : DWord) (tag : Bool) : (t.setS r x tag).n = t.n := rfl
@[simp] theorem Team.setS_k (t : Team) (r : Nat) (x : DWord) (tag : Bool) : (t.setS r x tag).k = t.k := rfl
@[simp] theorem Team.setS_tg (t : Team) (r : Nat) (x : DWord) (tag : Bool) : (t.setS r x tag).tg = t.tg := rfl
@[simp] theorem Team.setS_evicted (t : Team) (r : Nat) (x : DWord) (tag : Bool) : (t.setS r x tag).evicted = t.evicted := rfl
@[simp] theorem Team.setS_status (t : Team) (r : Nat) (x : DWord) (tag : Bool) : (t.setS r x tag).status = t.status := rfl
@[simp] theorem Team.setS_frags (t : Team) (r : Nat) (x : DWord) (tag : Bool) : (t.setS r x tag).frags = t.frags := rfl
@[simp] theorem Team.setS_joins (t : Team) (r : Nat) (x : DWord) (tag : Bool) : (t.setS r x tag).joins = t.joins := rfl
@[simp] theorem Team.setS_serial (t : Team) (r : Nat) (x : DWord) (tag : Bool) : (t.setS r x tag).serial = t.serial := rfl
@[simp] theorem Team.setS_vec (t : Team) (r : Nat) (x : DWord) (tag : Bool) : (t.setS r x tag).vec = t.vec := rfl
@[simp] theorem Team.setS_pred (t : Team) (r : Nat) (x : DWord) (tag : Bool) : (t.setS r x tag).pred = t.pred := rfl
@[simp] theorem Team.setS_moods (t : Team) (r : Nat) (x : DWord) (tag : Bool) : (t.setS r x tag).moods = t.moods := rfl
@[simp] theorem Team.setS_flags (t : Team) (r : Nat) (x : DWord) (tag : Bool) : (t.setS r x tag).flags = t.flags := rfl
@[simp] theorem Team.setS_gen (t : Team) (r : Nat) (x : DWord) (tag : Bool) : (t.setS r x tag).gen = t.gen := rfl
@[simp] theorem Team.setS_vtag (t : Team) (r : Nat) (x : DWord) (tag : Bool) : (t.setS r x tag).vtag = t.vtag := rfl
@[simp] theorem Team.setS_ports (t : Team) (r : Nat) (x : DWord) (tag : Bool) : (t.setS r x tag).ports = t.ports := rfl
@[simp] theorem Team.setS_paths (t : Team) (r : Nat) (x : DWord) (tag : Bool) : (t.setS r x tag).paths = t.paths := rfl
@[simp] theorem Team.setS_ovflow (t : Team) (r : Nat) (x : DWord) (tag : Bool) : (t.setS r x tag).ovflow = t.ovflow := rfl
@[simp] theorem Team.setS_priv (t : Team) (r : Nat) (x : DWord) (tag : Bool) : (t.setS r x tag).priv = t.priv := rfl
@[simp] theorem Team.setS_initMask (t : Team) (r : Nat) (x : DWord) (tag : Bool) : (t.setS r x tag).initMask = t.initMask := rfl
@[simp] theorem Team.setS_real (t : Team) (r : Nat) (x : DWord) (tag : Bool) : (t.setS r x tag).real = t.real := rfl
@[simp] theorem Team.setS_record (t : Team) (r : Nat) (x : DWord) (tag : Bool) : (t.setS r x tag).record = t.record := rfl
@[simp] theorem Team.setS_lockOut (t : Team) (r : Nat) (x : DWord) (tag : Bool) : (t.setS r x tag).lockOut = t.lockOut := rfl
@[simp] theorem Team.setS_irrev (t : Team) (r : Nat) (x : DWord) (tag : Bool) : (t.setS r x tag).irrev = t.irrev := rfl
@[simp] theorem Team.setS_restarts (t : Team) (r : Nat) (x : DWord) (tag : Bool) : (t.setS r x tag).restarts = t.restarts := rfl
@[simp] theorem Team.setS_retries (t : Team) (r : Nat) (x : DWord) (tag : Bool) : (t.setS r x tag).retries = t.retries := rfl
@[simp] theorem Team.setS_rpc (t : Team) (r : Nat) (x : DWord) (tag : Bool) : (t.setS r x tag).rpc = t.rpc := rfl
@[simp] theorem Team.setS_restartMode (t : Team) (r : Nat) (x : DWord) (tag : Bool) : (t.setS r x tag).restartMode = t.restartMode := rfl
@[simp] theorem Team.setS_restartPending (t : Team) (r : Nat) (x : DWord) (tag : Bool) : (t.setS r x tag).restartPending = t.restartPending := rfl
@[simp] theorem Team.setS_restartMask (t : Team) (r : Nat) (x : DWord) (tag : Bool) : (t.setS r x tag).restartMask = t.restartMask := rfl
@[simp] theorem Team.setS_lastPhase (t : Team) (r : Nat) (x : DWord) (tag : Bool) : (t.setS r x tag).lastPhase = t.lastPhase := rfl
@[simp] theorem Team.setS_phMark (t : Team) (r : Nat) (x : DWord) (tag : Bool) : (t.setS r x tag).phMark = t.phMark := rfl
@[simp] theorem Team.setS_phaseDone (t : Team) (r : Nat) (x : DWord) (tag : Bool) : (t.setS r x tag).phaseDone = t.phaseDone := rfl
@[simp] theorem Team.setS_early (t : Team) (r : Nat) (x : DWord) (tag : Bool) : (t.setS r x tag).early = t.early := rfl
@[simp] theorem Team.setS_acq (t : Team) (r : Nat) (x : DWord) (tag : Bool) : (t.setS r x tag).acq = t.acq := rfl
@[simp] theorem Team.setS_savedReply (t : Team) (r : Nat) (x : DWord) (tag : Bool) : (t.setS r x tag).savedReply = t.savedReply := rfl
@[simp] theorem Team.setS_victim (t : Team) (r : Nat) (x : DWord) (tag : Bool) : (t.setS r x tag).victim = t.victim := rfl

/-! ### Team.setP -/

@[simp] theorem Team.setP_id (t : Team) (r : Nat) (m : LaneMask) : (t.setP r m).id = t.id := rfl
@[simp] theorem Team.setP_launch (t : Team) (r : Nat) (m : LaneMask) : (t.setP r m).launch = t.launch := rfl
@[simp] theorem Team.setP_group (t : Team) (r : Nat) (m : LaneMask) : (t.setP r m).group = t.group := rfl
@[simp] theorem Team.setP_num (t : Team) (r : Nat) (m : LaneMask) : (t.setP r m).num = t.num := rfl
@[simp] theorem Team.setP_core (t : Team) (r : Nat) (m : LaneMask) : (t.setP r m).core = t.core := rfl
@[simp] theorem Team.setP_quarter (t : Team) (r : Nat) (m : LaneMask) : (t.setP r m).quarter = t.quarter := rfl
@[simp] theorem Team.setP_slot (t : Team) (r : Nat) (m : LaneMask) : (t.setP r m).slot = t.slot := rfl
@[simp] theorem Team.setP_n (t : Team) (r : Nat) (m : LaneMask) : (t.setP r m).n = t.n := rfl
@[simp] theorem Team.setP_k (t : Team) (r : Nat) (m : LaneMask) : (t.setP r m).k = t.k := rfl
@[simp] theorem Team.setP_tg (t : Team) (r : Nat) (m : LaneMask) : (t.setP r m).tg = t.tg := rfl
@[simp] theorem Team.setP_evicted (t : Team) (r : Nat) (m : LaneMask) : (t.setP r m).evicted = t.evicted := rfl
@[simp] theorem Team.setP_status (t : Team) (r : Nat) (m : LaneMask) : (t.setP r m).status = t.status := rfl
@[simp] theorem Team.setP_frags (t : Team) (r : Nat) (m : LaneMask) : (t.setP r m).frags = t.frags := rfl
@[simp] theorem Team.setP_joins (t : Team) (r : Nat) (m : LaneMask) : (t.setP r m).joins = t.joins := rfl
@[simp] theorem Team.setP_serial (t : Team) (r : Nat) (m : LaneMask) : (t.setP r m).serial = t.serial := rfl
@[simp] theorem Team.setP_vec (t : Team) (r : Nat) (m : LaneMask) : (t.setP r m).vec = t.vec := rfl
@[simp] theorem Team.setP_scal (t : Team) (r : Nat) (m : LaneMask) : (t.setP r m).scal = t.scal := rfl
@[simp] theorem Team.setP_moods (t : Team) (r : Nat) (m : LaneMask) : (t.setP r m).moods = t.moods := rfl
@[simp] theorem Team.setP_flags (t : Team) (r : Nat) (m : LaneMask) : (t.setP r m).flags = t.flags := rfl
@[simp] theorem Team.setP_gen (t : Team) (r : Nat) (m : LaneMask) : (t.setP r m).gen = t.gen := rfl
@[simp] theorem Team.setP_vtag (t : Team) (r : Nat) (m : LaneMask) : (t.setP r m).vtag = t.vtag := rfl
@[simp] theorem Team.setP_stag (t : Team) (r : Nat) (m : LaneMask) : (t.setP r m).stag = t.stag := rfl
@[simp] theorem Team.setP_ports (t : Team) (r : Nat) (m : LaneMask) : (t.setP r m).ports = t.ports := rfl
@[simp] theorem Team.setP_paths (t : Team) (r : Nat) (m : LaneMask) : (t.setP r m).paths = t.paths := rfl
@[simp] theorem Team.setP_ovflow (t : Team) (r : Nat) (m : LaneMask) : (t.setP r m).ovflow = t.ovflow := rfl
@[simp] theorem Team.setP_priv (t : Team) (r : Nat) (m : LaneMask) : (t.setP r m).priv = t.priv := rfl
@[simp] theorem Team.setP_initMask (t : Team) (r : Nat) (m : LaneMask) : (t.setP r m).initMask = t.initMask := rfl
@[simp] theorem Team.setP_real (t : Team) (r : Nat) (m : LaneMask) : (t.setP r m).real = t.real := rfl
@[simp] theorem Team.setP_record (t : Team) (r : Nat) (m : LaneMask) : (t.setP r m).record = t.record := rfl
@[simp] theorem Team.setP_lockOut (t : Team) (r : Nat) (m : LaneMask) : (t.setP r m).lockOut = t.lockOut := rfl
@[simp] theorem Team.setP_irrev (t : Team) (r : Nat) (m : LaneMask) : (t.setP r m).irrev = t.irrev := rfl
@[simp] theorem Team.setP_restarts (t : Team) (r : Nat) (m : LaneMask) : (t.setP r m).restarts = t.restarts := rfl
@[simp] theorem Team.setP_retries (t : Team) (r : Nat) (m : LaneMask) : (t.setP r m).retries = t.retries := rfl
@[simp] theorem Team.setP_rpc (t : Team) (r : Nat) (m : LaneMask) : (t.setP r m).rpc = t.rpc := rfl
@[simp] theorem Team.setP_restartMode (t : Team) (r : Nat) (m : LaneMask) : (t.setP r m).restartMode = t.restartMode := rfl
@[simp] theorem Team.setP_restartPending (t : Team) (r : Nat) (m : LaneMask) : (t.setP r m).restartPending = t.restartPending := rfl
@[simp] theorem Team.setP_restartMask (t : Team) (r : Nat) (m : LaneMask) : (t.setP r m).restartMask = t.restartMask := rfl
@[simp] theorem Team.setP_lastPhase (t : Team) (r : Nat) (m : LaneMask) : (t.setP r m).lastPhase = t.lastPhase := rfl
@[simp] theorem Team.setP_phMark (t : Team) (r : Nat) (m : LaneMask) : (t.setP r m).phMark = t.phMark := rfl
@[simp] theorem Team.setP_phaseDone (t : Team) (r : Nat) (m : LaneMask) : (t.setP r m).phaseDone = t.phaseDone := rfl
@[simp] theorem Team.setP_early (t : Team) (r : Nat) (m : LaneMask) : (t.setP r m).early = t.early := rfl
@[simp] theorem Team.setP_acq (t : Team) (r : Nat) (m : LaneMask) : (t.setP r m).acq = t.acq := rfl
@[simp] theorem Team.setP_savedReply (t : Team) (r : Nat) (m : LaneMask) : (t.setP r m).savedReply = t.savedReply := rfl
@[simp] theorem Team.setP_victim (t : Team) (r : Nat) (m : LaneMask) : (t.setP r m).victim = t.victim := rfl

/-! ### Team.setFlag -/

@[simp] theorem Team.setFlag_id (t : Team) (f n : Nat) : (t.setFlag f n).id = t.id := rfl
@[simp] theorem Team.setFlag_launch (t : Team) (f n : Nat) : (t.setFlag f n).launch = t.launch := rfl
@[simp] theorem Team.setFlag_group (t : Team) (f n : Nat) : (t.setFlag f n).group = t.group := rfl
@[simp] theorem Team.setFlag_num (t : Team) (f n : Nat) : (t.setFlag f n).num = t.num := rfl
@[simp] theorem Team.setFlag_core (t : Team) (f n : Nat) : (t.setFlag f n).core = t.core := rfl
@[simp] theorem Team.setFlag_quarter (t : Team) (f n : Nat) : (t.setFlag f n).quarter = t.quarter := rfl
@[simp] theorem Team.setFlag_slot (t : Team) (f n : Nat) : (t.setFlag f n).slot = t.slot := rfl
@[simp] theorem Team.setFlag_n (t : Team) (f n : Nat) : (t.setFlag f n).n = t.n := rfl
@[simp] theorem Team.setFlag_k (t : Team) (f n : Nat) : (t.setFlag f n).k = t.k := rfl
@[simp] theorem Team.setFlag_tg (t : Team) (f n : Nat) : (t.setFlag f n).tg = t.tg := rfl
@[simp] theorem Team.setFlag_evicted (t : Team) (f n : Nat) : (t.setFlag f n).evicted = t.evicted := rfl
@[simp] theorem Team.setFlag_status (t : Team) (f n : Nat) : (t.setFlag f n).status = t.status := rfl
@[simp] theorem Team.setFlag_frags (t : Team) (f n : Nat) : (t.setFlag f n).frags = t.frags := rfl
@[simp] theorem Team.setFlag_joins (t : Team) (f n : Nat) : (t.setFlag f n).joins = t.joins := rfl
@[simp] theorem Team.setFlag_serial (t : Team) (f n : Nat) : (t.setFlag f n).serial = t.serial := rfl
@[simp] theorem Team.setFlag_vec (t : Team) (f n : Nat) : (t.setFlag f n).vec = t.vec := rfl
@[simp] theorem Team.setFlag_scal (t : Team) (f n : Nat) : (t.setFlag f n).scal = t.scal := rfl
@[simp] theorem Team.setFlag_pred (t : Team) (f n : Nat) : (t.setFlag f n).pred = t.pred := rfl
@[simp] theorem Team.setFlag_moods (t : Team) (f n : Nat) : (t.setFlag f n).moods = t.moods := rfl
@[simp] theorem Team.setFlag_gen (t : Team) (f n : Nat) : (t.setFlag f n).gen = t.gen := rfl
@[simp] theorem Team.setFlag_vtag (t : Team) (f n : Nat) : (t.setFlag f n).vtag = t.vtag := rfl
@[simp] theorem Team.setFlag_stag (t : Team) (f n : Nat) : (t.setFlag f n).stag = t.stag := rfl
@[simp] theorem Team.setFlag_ports (t : Team) (f n : Nat) : (t.setFlag f n).ports = t.ports := rfl
@[simp] theorem Team.setFlag_paths (t : Team) (f n : Nat) : (t.setFlag f n).paths = t.paths := rfl
@[simp] theorem Team.setFlag_ovflow (t : Team) (f n : Nat) : (t.setFlag f n).ovflow = t.ovflow := rfl
@[simp] theorem Team.setFlag_priv (t : Team) (f n : Nat) : (t.setFlag f n).priv = t.priv := rfl
@[simp] theorem Team.setFlag_initMask (t : Team) (f n : Nat) : (t.setFlag f n).initMask = t.initMask := rfl
@[simp] theorem Team.setFlag_real (t : Team) (f n : Nat) : (t.setFlag f n).real = t.real := rfl
@[simp] theorem Team.setFlag_record (t : Team) (f n : Nat) : (t.setFlag f n).record = t.record := rfl
@[simp] theorem Team.setFlag_lockOut (t : Team) (f n : Nat) : (t.setFlag f n).lockOut = t.lockOut := rfl
@[simp] theorem Team.setFlag_irrev (t : Team) (f n : Nat) : (t.setFlag f n).irrev = t.irrev := rfl
@[simp] theorem Team.setFlag_restarts (t : Team) (f n : Nat) : (t.setFlag f n).restarts = t.restarts := rfl
@[simp] theorem Team.setFlag_retries (t : Team) (f n : Nat) : (t.setFlag f n).retries = t.retries := rfl
@[simp] theorem Team.setFlag_rpc (t : Team) (f n : Nat) : (t.setFlag f n).rpc = t.rpc := rfl
@[simp] theorem Team.setFlag_restartMode (t : Team) (f n : Nat) : (t.setFlag f n).restartMode = t.restartMode := rfl
@[simp] theorem Team.setFlag_restartPending (t : Team) (f n : Nat) : (t.setFlag f n).restartPending = t.restartPending := rfl
@[simp] theorem Team.setFlag_restartMask (t : Team) (f n : Nat) : (t.setFlag f n).restartMask = t.restartMask := rfl
@[simp] theorem Team.setFlag_lastPhase (t : Team) (f n : Nat) : (t.setFlag f n).lastPhase = t.lastPhase := rfl
@[simp] theorem Team.setFlag_phMark (t : Team) (f n : Nat) : (t.setFlag f n).phMark = t.phMark := rfl
@[simp] theorem Team.setFlag_phaseDone (t : Team) (f n : Nat) : (t.setFlag f n).phaseDone = t.phaseDone := rfl
@[simp] theorem Team.setFlag_early (t : Team) (f n : Nat) : (t.setFlag f n).early = t.early := rfl
@[simp] theorem Team.setFlag_acq (t : Team) (f n : Nat) : (t.setFlag f n).acq = t.acq := rfl
@[simp] theorem Team.setFlag_savedReply (t : Team) (f n : Nat) : (t.setFlag f n).savedReply = t.savedReply := rfl
@[simp] theorem Team.setFlag_victim (t : Team) (f n : Nat) : (t.setFlag f n).victim = t.victim := rfl

/-! ### Team.setPath -/

@[simp] theorem Team.setPath_id (t : Team) (p : Nat) (l : List Nat) : (t.setPath p l).id = t.id := rfl
@[simp] theorem Team.setPath_launch (t : Team) (p : Nat) (l : List Nat) : (t.setPath p l).launch = t.launch := rfl
@[simp] theorem Team.setPath_group (t : Team) (p : Nat) (l : List Nat) : (t.setPath p l).group = t.group := rfl
@[simp] theorem Team.setPath_num (t : Team) (p : Nat) (l : List Nat) : (t.setPath p l).num = t.num := rfl
@[simp] theorem Team.setPath_core (t : Team) (p : Nat) (l : List Nat) : (t.setPath p l).core = t.core := rfl
@[simp] theorem Team.setPath_quarter (t : Team) (p : Nat) (l : List Nat) : (t.setPath p l).quarter = t.quarter := rfl
@[simp] theorem Team.setPath_slot (t : Team) (p : Nat) (l : List Nat) : (t.setPath p l).slot = t.slot := rfl
@[simp] theorem Team.setPath_n (t : Team) (p : Nat) (l : List Nat) : (t.setPath p l).n = t.n := rfl
@[simp] theorem Team.setPath_k (t : Team) (p : Nat) (l : List Nat) : (t.setPath p l).k = t.k := rfl
@[simp] theorem Team.setPath_tg (t : Team) (p : Nat) (l : List Nat) : (t.setPath p l).tg = t.tg := rfl
@[simp] theorem Team.setPath_evicted (t : Team) (p : Nat) (l : List Nat) : (t.setPath p l).evicted = t.evicted := rfl
@[simp] theorem Team.setPath_status (t : Team) (p : Nat) (l : List Nat) : (t.setPath p l).status = t.status := rfl
@[simp] theorem Team.setPath_frags (t : Team) (p : Nat) (l : List Nat) : (t.setPath p l).frags = t.frags := rfl
@[simp] theorem Team.setPath_joins (t : Team) (p : Nat) (l : List Nat) : (t.setPath p l).joins = t.joins := rfl
@[simp] theorem Team.setPath_serial (t : Team) (p : Nat) (l : List Nat) : (t.setPath p l).serial = t.serial := rfl
@[simp] theorem Team.setPath_vec (t : Team) (p : Nat) (l : List Nat) : (t.setPath p l).vec = t.vec := rfl
@[simp] theorem Team.setPath_scal (t : Team) (p : Nat) (l : List Nat) : (t.setPath p l).scal = t.scal := rfl
@[simp] theorem Team.setPath_pred (t : Team) (p : Nat) (l : List Nat) : (t.setPath p l).pred = t.pred := rfl
@[simp] theorem Team.setPath_moods (t : Team) (p : Nat) (l : List Nat) : (t.setPath p l).moods = t.moods := rfl
@[simp] theorem Team.setPath_flags (t : Team) (p : Nat) (l : List Nat) : (t.setPath p l).flags = t.flags := rfl
@[simp] theorem Team.setPath_gen (t : Team) (p : Nat) (l : List Nat) : (t.setPath p l).gen = t.gen := rfl
@[simp] theorem Team.setPath_vtag (t : Team) (p : Nat) (l : List Nat) : (t.setPath p l).vtag = t.vtag := rfl
@[simp] theorem Team.setPath_stag (t : Team) (p : Nat) (l : List Nat) : (t.setPath p l).stag = t.stag := rfl
@[simp] theorem Team.setPath_ports (t : Team) (p : Nat) (l : List Nat) : (t.setPath p l).ports = t.ports := rfl
@[simp] theorem Team.setPath_ovflow (t : Team) (p : Nat) (l : List Nat) : (t.setPath p l).ovflow = t.ovflow := rfl
@[simp] theorem Team.setPath_priv (t : Team) (p : Nat) (l : List Nat) : (t.setPath p l).priv = t.priv := rfl
@[simp] theorem Team.setPath_initMask (t : Team) (p : Nat) (l : List Nat) : (t.setPath p l).initMask = t.initMask := rfl
@[simp] theorem Team.setPath_real (t : Team) (p : Nat) (l : List Nat) : (t.setPath p l).real = t.real := rfl
@[simp] theorem Team.setPath_record (t : Team) (p : Nat) (l : List Nat) : (t.setPath p l).record = t.record := rfl
@[simp] theorem Team.setPath_lockOut (t : Team) (p : Nat) (l : List Nat) : (t.setPath p l).lockOut = t.lockOut := rfl
@[simp] theorem Team.setPath_irrev (t : Team) (p : Nat) (l : List Nat) : (t.setPath p l).irrev = t.irrev := rfl
@[simp] theorem Team.setPath_restarts (t : Team) (p : Nat) (l : List Nat) : (t.setPath p l).restarts = t.restarts := rfl
@[simp] theorem Team.setPath_retries (t : Team) (p : Nat) (l : List Nat) : (t.setPath p l).retries = t.retries := rfl
@[simp] theorem Team.setPath_rpc (t : Team) (p : Nat) (l : List Nat) : (t.setPath p l).rpc = t.rpc := rfl
@[simp] theorem Team.setPath_restartMode (t : Team) (p : Nat) (l : List Nat) : (t.setPath p l).restartMode = t.restartMode := rfl
@[simp] theorem Team.setPath_restartPending (t : Team) (p : Nat) (l : List Nat) : (t.setPath p l).restartPending = t.restartPending := rfl
@[simp] theorem Team.setPath_restartMask (t : Team) (p : Nat) (l : List Nat) : (t.setPath p l).restartMask = t.restartMask := rfl
@[simp] theorem Team.setPath_lastPhase (t : Team) (p : Nat) (l : List Nat) : (t.setPath p l).lastPhase = t.lastPhase := rfl
@[simp] theorem Team.setPath_phMark (t : Team) (p : Nat) (l : List Nat) : (t.setPath p l).phMark = t.phMark := rfl
@[simp] theorem Team.setPath_phaseDone (t : Team) (p : Nat) (l : List Nat) : (t.setPath p l).phaseDone = t.phaseDone := rfl
@[simp] theorem Team.setPath_early (t : Team) (p : Nat) (l : List Nat) : (t.setPath p l).early = t.early := rfl
@[simp] theorem Team.setPath_acq (t : Team) (p : Nat) (l : List Nat) : (t.setPath p l).acq = t.acq := rfl
@[simp] theorem Team.setPath_savedReply (t : Team) (p : Nat) (l : List Nat) : (t.setPath p l).savedReply = t.savedReply := rfl
@[simp] theorem Team.setPath_victim (t : Team) (p : Nat) (l : List Nat) : (t.setPath p l).victim = t.victim := rfl

/-! ### Team.setPort -/

@[simp] theorem Team.setPort_id (t : Team) (p : Nat) (x : Port) : (t.setPort p x).id = t.id := rfl
@[simp] theorem Team.setPort_launch (t : Team) (p : Nat) (x : Port) : (t.setPort p x).launch = t.launch := rfl
@[simp] theorem Team.setPort_group (t : Team) (p : Nat) (x : Port) : (t.setPort p x).group = t.group := rfl
@[simp] theorem Team.setPort_num (t : Team) (p : Nat) (x : Port) : (t.setPort p x).num = t.num := rfl
@[simp] theorem Team.setPort_core (t : Team) (p : Nat) (x : Port) : (t.setPort p x).core = t.core := rfl
@[simp] theorem Team.setPort_quarter (t : Team) (p : Nat) (x : Port) : (t.setPort p x).quarter = t.quarter := rfl
@[simp] theorem Team.setPort_slot (t : Team) (p : Nat) (x : Port) : (t.setPort p x).slot = t.slot := rfl
@[simp] theorem Team.setPort_n (t : Team) (p : Nat) (x : Port) : (t.setPort p x).n = t.n := rfl
@[simp] theorem Team.setPort_k (t : Team) (p : Nat) (x : Port) : (t.setPort p x).k = t.k := rfl
@[simp] theorem Team.setPort_tg (t : Team) (p : Nat) (x : Port) : (t.setPort p x).tg = t.tg := rfl
@[simp] theorem Team.setPort_evicted (t : Team) (p : Nat) (x : Port) : (t.setPort p x).evicted = t.evicted := rfl
@[simp] theorem Team.setPort_status (t : Team) (p : Nat) (x : Port) : (t.setPort p x).status = t.status := rfl
@[simp] theorem Team.setPort_frags (t : Team) (p : Nat) (x : Port) : (t.setPort p x).frags = t.frags := rfl
@[simp] theorem Team.setPort_joins (t : Team) (p : Nat) (x : Port) : (t.setPort p x).joins = t.joins := rfl
@[simp] theorem Team.setPort_serial (t : Team) (p : Nat) (x : Port) : (t.setPort p x).serial = t.serial := rfl
@[simp] theorem Team.setPort_vec (t : Team) (p : Nat) (x : Port) : (t.setPort p x).vec = t.vec := rfl
@[simp] theorem Team.setPort_scal (t : Team) (p : Nat) (x : Port) : (t.setPort p x).scal = t.scal := rfl
@[simp] theorem Team.setPort_pred (t : Team) (p : Nat) (x : Port) : (t.setPort p x).pred = t.pred := rfl
@[simp] theorem Team.setPort_moods (t : Team) (p : Nat) (x : Port) : (t.setPort p x).moods = t.moods := rfl
@[simp] theorem Team.setPort_flags (t : Team) (p : Nat) (x : Port) : (t.setPort p x).flags = t.flags := rfl
@[simp] theorem Team.setPort_gen (t : Team) (p : Nat) (x : Port) : (t.setPort p x).gen = t.gen := rfl
@[simp] theorem Team.setPort_vtag (t : Team) (p : Nat) (x : Port) : (t.setPort p x).vtag = t.vtag := rfl
@[simp] theorem Team.setPort_stag (t : Team) (p : Nat) (x : Port) : (t.setPort p x).stag = t.stag := rfl
@[simp] theorem Team.setPort_paths (t : Team) (p : Nat) (x : Port) : (t.setPort p x).paths = t.paths := rfl
@[simp] theorem Team.setPort_ovflow (t : Team) (p : Nat) (x : Port) : (t.setPort p x).ovflow = t.ovflow := rfl
@[simp] theorem Team.setPort_priv (t : Team) (p : Nat) (x : Port) : (t.setPort p x).priv = t.priv := rfl
@[simp] theorem Team.setPort_initMask (t : Team) (p : Nat) (x : Port) : (t.setPort p x).initMask = t.initMask := rfl
@[simp] theorem Team.setPort_real (t : Team) (p : Nat) (x : Port) : (t.setPort p x).real = t.real := rfl
@[simp] theorem Team.setPort_record (t : Team) (p : Nat) (x : Port) : (t.setPort p x).record = t.record := rfl
@[simp] theorem Team.setPort_lockOut (t : Team) (p : Nat) (x : Port) : (t.setPort p x).lockOut = t.lockOut := rfl
@[simp] theorem Team.setPort_irrev (t : Team) (p : Nat) (x : Port) : (t.setPort p x).irrev = t.irrev := rfl
@[simp] theorem Team.setPort_restarts (t : Team) (p : Nat) (x : Port) : (t.setPort p x).restarts = t.restarts := rfl
@[simp] theorem Team.setPort_retries (t : Team) (p : Nat) (x : Port) : (t.setPort p x).retries = t.retries := rfl
@[simp] theorem Team.setPort_rpc (t : Team) (p : Nat) (x : Port) : (t.setPort p x).rpc = t.rpc := rfl
@[simp] theorem Team.setPort_restartMode (t : Team) (p : Nat) (x : Port) : (t.setPort p x).restartMode = t.restartMode := rfl
@[simp] theorem Team.setPort_restartPending (t : Team) (p : Nat) (x : Port) : (t.setPort p x).restartPending = t.restartPending := rfl
@[simp] theorem Team.setPort_restartMask (t : Team) (p : Nat) (x : Port) : (t.setPort p x).restartMask = t.restartMask := rfl
@[simp] theorem Team.setPort_lastPhase (t : Team) (p : Nat) (x : Port) : (t.setPort p x).lastPhase = t.lastPhase := rfl
@[simp] theorem Team.setPort_phMark (t : Team) (p : Nat) (x : Port) : (t.setPort p x).phMark = t.phMark := rfl
@[simp] theorem Team.setPort_phaseDone (t : Team) (p : Nat) (x : Port) : (t.setPort p x).phaseDone = t.phaseDone := rfl
@[simp] theorem Team.setPort_early (t : Team) (p : Nat) (x : Port) : (t.setPort p x).early = t.early := rfl
@[simp] theorem Team.setPort_acq (t : Team) (p : Nat) (x : Port) : (t.setPort p x).acq = t.acq := rfl
@[simp] theorem Team.setPort_savedReply (t : Team) (p : Nat) (x : Port) : (t.setPort p x).savedReply = t.savedReply := rfl
@[simp] theorem Team.setPort_victim (t : Team) (p : Nat) (x : Port) : (t.setPort p x).victim = t.victim := rfl

/-! ### Team.setG -/

@[simp] theorem Team.setG_id (t : Team) (l : Nat) (x : Word) : (t.setG l x).id = t.id := rfl
@[simp] theorem Team.setG_launch (t : Team) (l : Nat) (x : Word) : (t.setG l x).launch = t.launch := rfl
@[simp] theorem Team.setG_group (t : Team) (l : Nat) (x : Word) : (t.setG l x).group = t.group := rfl
@[simp] theorem Team.setG_num (t : Team) (l : Nat) (x : Word) : (t.setG l x).num = t.num := rfl
@[simp] theorem Team.setG_core (t : Team) (l : Nat) (x : Word) : (t.setG l x).core = t.core := rfl
@[simp] theorem Team.setG_quarter (t : Team) (l : Nat) (x : Word) : (t.setG l x).quarter = t.quarter := rfl
@[simp] theorem Team.setG_slot (t : Team) (l : Nat) (x : Word) : (t.setG l x).slot = t.slot := rfl
@[simp] theorem Team.setG_n (t : Team) (l : Nat) (x : Word) : (t.setG l x).n = t.n := rfl
@[simp] theorem Team.setG_k (t : Team) (l : Nat) (x : Word) : (t.setG l x).k = t.k := rfl
@[simp] theorem Team.setG_tg (t : Team) (l : Nat) (x : Word) : (t.setG l x).tg = t.tg := rfl
@[simp] theorem Team.setG_evicted (t : Team) (l : Nat) (x : Word) : (t.setG l x).evicted = t.evicted := rfl
@[simp] theorem Team.setG_status (t : Team) (l : Nat) (x : Word) : (t.setG l x).status = t.status := rfl
@[simp] theorem Team.setG_frags (t : Team) (l : Nat) (x : Word) : (t.setG l x).frags = t.frags := rfl
@[simp] theorem Team.setG_joins (t : Team) (l : Nat) (x : Word) : (t.setG l x).joins = t.joins := rfl
@[simp] theorem Team.setG_serial (t : Team) (l : Nat) (x : Word) : (t.setG l x).serial = t.serial := rfl
@[simp] theorem Team.setG_vec (t : Team) (l : Nat) (x : Word) : (t.setG l x).vec = t.vec := rfl
@[simp] theorem Team.setG_scal (t : Team) (l : Nat) (x : Word) : (t.setG l x).scal = t.scal := rfl
@[simp] theorem Team.setG_pred (t : Team) (l : Nat) (x : Word) : (t.setG l x).pred = t.pred := rfl
@[simp] theorem Team.setG_moods (t : Team) (l : Nat) (x : Word) : (t.setG l x).moods = t.moods := rfl
@[simp] theorem Team.setG_flags (t : Team) (l : Nat) (x : Word) : (t.setG l x).flags = t.flags := rfl
@[simp] theorem Team.setG_vtag (t : Team) (l : Nat) (x : Word) : (t.setG l x).vtag = t.vtag := rfl
@[simp] theorem Team.setG_stag (t : Team) (l : Nat) (x : Word) : (t.setG l x).stag = t.stag := rfl
@[simp] theorem Team.setG_ports (t : Team) (l : Nat) (x : Word) : (t.setG l x).ports = t.ports := rfl
@[simp] theorem Team.setG_paths (t : Team) (l : Nat) (x : Word) : (t.setG l x).paths = t.paths := rfl
@[simp] theorem Team.setG_ovflow (t : Team) (l : Nat) (x : Word) : (t.setG l x).ovflow = t.ovflow := rfl
@[simp] theorem Team.setG_priv (t : Team) (l : Nat) (x : Word) : (t.setG l x).priv = t.priv := rfl
@[simp] theorem Team.setG_initMask (t : Team) (l : Nat) (x : Word) : (t.setG l x).initMask = t.initMask := rfl
@[simp] theorem Team.setG_real (t : Team) (l : Nat) (x : Word) : (t.setG l x).real = t.real := rfl
@[simp] theorem Team.setG_record (t : Team) (l : Nat) (x : Word) : (t.setG l x).record = t.record := rfl
@[simp] theorem Team.setG_lockOut (t : Team) (l : Nat) (x : Word) : (t.setG l x).lockOut = t.lockOut := rfl
@[simp] theorem Team.setG_irrev (t : Team) (l : Nat) (x : Word) : (t.setG l x).irrev = t.irrev := rfl
@[simp] theorem Team.setG_restarts (t : Team) (l : Nat) (x : Word) : (t.setG l x).restarts = t.restarts := rfl
@[simp] theorem Team.setG_retries (t : Team) (l : Nat) (x : Word) : (t.setG l x).retries = t.retries := rfl
@[simp] theorem Team.setG_rpc (t : Team) (l : Nat) (x : Word) : (t.setG l x).rpc = t.rpc := rfl
@[simp] theorem Team.setG_restartMode (t : Team) (l : Nat) (x : Word) : (t.setG l x).restartMode = t.restartMode := rfl
@[simp] theorem Team.setG_restartPending (t : Team) (l : Nat) (x : Word) : (t.setG l x).restartPending = t.restartPending := rfl
@[simp] theorem Team.setG_restartMask (t : Team) (l : Nat) (x : Word) : (t.setG l x).restartMask = t.restartMask := rfl
@[simp] theorem Team.setG_lastPhase (t : Team) (l : Nat) (x : Word) : (t.setG l x).lastPhase = t.lastPhase := rfl
@[simp] theorem Team.setG_phMark (t : Team) (l : Nat) (x : Word) : (t.setG l x).phMark = t.phMark := rfl
@[simp] theorem Team.setG_phaseDone (t : Team) (l : Nat) (x : Word) : (t.setG l x).phaseDone = t.phaseDone := rfl
@[simp] theorem Team.setG_early (t : Team) (l : Nat) (x : Word) : (t.setG l x).early = t.early := rfl
@[simp] theorem Team.setG_acq (t : Team) (l : Nat) (x : Word) : (t.setG l x).acq = t.acq := rfl
@[simp] theorem Team.setG_savedReply (t : Team) (l : Nat) (x : Word) : (t.setG l x).savedReply = t.savedReply := rfl
@[simp] theorem Team.setG_victim (t : Team) (l : Nat) (x : Word) : (t.setG l x).victim = t.victim := rfl

/-! ### Team.setFrag -/

@[simp] theorem Team.setFrag_id (t : Team) (e : Nat) (f : Fragment) : (t.setFrag e f).id = t.id := rfl
@[simp] theorem Team.setFrag_launch (t : Team) (e : Nat) (f : Fragment) : (t.setFrag e f).launch = t.launch := rfl
@[simp] theorem Team.setFrag_group (t : Team) (e : Nat) (f : Fragment) : (t.setFrag e f).group = t.group := rfl
@[simp] theorem Team.setFrag_num (t : Team) (e : Nat) (f : Fragment) : (t.setFrag e f).num = t.num := rfl
@[simp] theorem Team.setFrag_core (t : Team) (e : Nat) (f : Fragment) : (t.setFrag e f).core = t.core := rfl
@[simp] theorem Team.setFrag_quarter (t : Team) (e : Nat) (f : Fragment) : (t.setFrag e f).quarter = t.quarter := rfl
@[simp] theorem Team.setFrag_slot (t : Team) (e : Nat) (f : Fragment) : (t.setFrag e f).slot = t.slot := rfl
@[simp] theorem Team.setFrag_n (t : Team) (e : Nat) (f : Fragment) : (t.setFrag e f).n = t.n := rfl
@[simp] theorem Team.setFrag_k (t : Team) (e : Nat) (f : Fragment) : (t.setFrag e f).k = t.k := rfl
@[simp] theorem Team.setFrag_tg (t : Team) (e : Nat) (f : Fragment) : (t.setFrag e f).tg = t.tg := rfl
@[simp] theorem Team.setFrag_evicted (t : Team) (e : Nat) (f : Fragment) : (t.setFrag e f).evicted = t.evicted := rfl
@[simp] theorem Team.setFrag_status (t : Team) (e : Nat) (f : Fragment) : (t.setFrag e f).status = t.status := rfl
@[simp] theorem Team.setFrag_joins (t : Team) (e : Nat) (f : Fragment) : (t.setFrag e f).joins = t.joins := rfl
@[simp] theorem Team.setFrag_serial (t : Team) (e : Nat) (f : Fragment) : (t.setFrag e f).serial = t.serial := rfl
@[simp] theorem Team.setFrag_vec (t : Team) (e : Nat) (f : Fragment) : (t.setFrag e f).vec = t.vec := rfl
@[simp] theorem Team.setFrag_scal (t : Team) (e : Nat) (f : Fragment) : (t.setFrag e f).scal = t.scal := rfl
@[simp] theorem Team.setFrag_pred (t : Team) (e : Nat) (f : Fragment) : (t.setFrag e f).pred = t.pred := rfl
@[simp] theorem Team.setFrag_moods (t : Team) (e : Nat) (f : Fragment) : (t.setFrag e f).moods = t.moods := rfl
@[simp] theorem Team.setFrag_flags (t : Team) (e : Nat) (f : Fragment) : (t.setFrag e f).flags = t.flags := rfl
@[simp] theorem Team.setFrag_gen (t : Team) (e : Nat) (f : Fragment) : (t.setFrag e f).gen = t.gen := rfl
@[simp] theorem Team.setFrag_vtag (t : Team) (e : Nat) (f : Fragment) : (t.setFrag e f).vtag = t.vtag := rfl
@[simp] theorem Team.setFrag_stag (t : Team) (e : Nat) (f : Fragment) : (t.setFrag e f).stag = t.stag := rfl
@[simp] theorem Team.setFrag_ports (t : Team) (e : Nat) (f : Fragment) : (t.setFrag e f).ports = t.ports := rfl
@[simp] theorem Team.setFrag_paths (t : Team) (e : Nat) (f : Fragment) : (t.setFrag e f).paths = t.paths := rfl
@[simp] theorem Team.setFrag_ovflow (t : Team) (e : Nat) (f : Fragment) : (t.setFrag e f).ovflow = t.ovflow := rfl
@[simp] theorem Team.setFrag_priv (t : Team) (e : Nat) (f : Fragment) : (t.setFrag e f).priv = t.priv := rfl
@[simp] theorem Team.setFrag_initMask (t : Team) (e : Nat) (f : Fragment) : (t.setFrag e f).initMask = t.initMask := rfl
@[simp] theorem Team.setFrag_real (t : Team) (e : Nat) (f : Fragment) : (t.setFrag e f).real = t.real := rfl
@[simp] theorem Team.setFrag_record (t : Team) (e : Nat) (f : Fragment) : (t.setFrag e f).record = t.record := rfl
@[simp] theorem Team.setFrag_lockOut (t : Team) (e : Nat) (f : Fragment) : (t.setFrag e f).lockOut = t.lockOut := rfl
@[simp] theorem Team.setFrag_irrev (t : Team) (e : Nat) (f : Fragment) : (t.setFrag e f).irrev = t.irrev := rfl
@[simp] theorem Team.setFrag_restarts (t : Team) (e : Nat) (f : Fragment) : (t.setFrag e f).restarts = t.restarts := rfl
@[simp] theorem Team.setFrag_retries (t : Team) (e : Nat) (f : Fragment) : (t.setFrag e f).retries = t.retries := rfl
@[simp] theorem Team.setFrag_rpc (t : Team) (e : Nat) (f : Fragment) : (t.setFrag e f).rpc = t.rpc := rfl
@[simp] theorem Team.setFrag_restartMode (t : Team) (e : Nat) (f : Fragment) : (t.setFrag e f).restartMode = t.restartMode := rfl
@[simp] theorem Team.setFrag_restartPending (t : Team) (e : Nat) (f : Fragment) : (t.setFrag e f).restartPending = t.restartPending := rfl
@[simp] theorem Team.setFrag_restartMask (t : Team) (e : Nat) (f : Fragment) : (t.setFrag e f).restartMask = t.restartMask := rfl
@[simp] theorem Team.setFrag_lastPhase (t : Team) (e : Nat) (f : Fragment) : (t.setFrag e f).lastPhase = t.lastPhase := rfl
@[simp] theorem Team.setFrag_phMark (t : Team) (e : Nat) (f : Fragment) : (t.setFrag e f).phMark = t.phMark := rfl
@[simp] theorem Team.setFrag_phaseDone (t : Team) (e : Nat) (f : Fragment) : (t.setFrag e f).phaseDone = t.phaseDone := rfl
@[simp] theorem Team.setFrag_early (t : Team) (e : Nat) (f : Fragment) : (t.setFrag e f).early = t.early := rfl
@[simp] theorem Team.setFrag_acq (t : Team) (e : Nat) (f : Fragment) : (t.setFrag e f).acq = t.acq := rfl
@[simp] theorem Team.setFrag_savedReply (t : Team) (e : Nat) (f : Fragment) : (t.setFrag e f).savedReply = t.savedReply := rfl
@[simp] theorem Team.setFrag_victim (t : Team) (e : Nat) (f : Fragment) : (t.setFrag e f).victim = t.victim := rfl

/-! ### Parts read after an update -/

@[simp] theorem State.updTeam_team?_same (s : State) (t : Nat) (f : Team → Team) : (s.updTeam t f).team? t = (s.team? t).map f := by
  unfold State.updTeam
  cases h : s.team? t with
  | none => simpa using h
  | some x => simp [State.team?]

theorem State.updTeam_team?_other (s : State) {t u : Nat} (f : Team → Team) (h : u ≠ t) : (s.updTeam t f).team? u = s.team? u := by
  unfold State.updTeam
  cases s.team? t with
  | none => rfl
  | some x => exact NMap.look_put_other _ _ h

@[simp] theorem State.updLaunch_launch?_same (s : State) (l : Nat) (f : Launch → Launch) : (s.updLaunch l f).launch? l = (s.launch? l).map f := by
  unfold State.updLaunch
  cases h : s.launch? l with
  | none => simpa using h
  | some x => simp [State.launch?]

theorem State.updLaunch_launch?_other (s : State) {l m : Nat} (f : Launch → Launch) (h : m ≠ l) : (s.updLaunch l f).launch? m = s.launch? m := by
  unfold State.updLaunch
  cases s.launch? l with
  | none => rfl
  | some x => exact NMap.look_put_other _ _ h

@[simp] theorem State.updCtx_ctx?_same (s : State) (c : Nat) (f : Ctx → Ctx) : (s.updCtx c f).ctx? c = (s.ctx? c).map f := by
  unfold State.updCtx
  cases h : s.ctx? c with
  | none => simpa using h
  | some x => simp [State.ctx?]

theorem State.updCtx_ctx?_other (s : State) {c d : Nat} (f : Ctx → Ctx) (h : d ≠ c) : (s.updCtx c f).ctx? d = s.ctx? d := by
  unfold State.updCtx
  cases s.ctx? c with
  | none => rfl
  | some x => exact NMap.look_put_other _ _ h

theorem State.updCore_coreSt_other (s : State) {c d : Nat} (f : CoreSt → CoreSt) (h : d ≠ c) : (s.updCore c f).coreSt d = s.coreSt d :=
  NMap.getD_set_other CoreSt.reset CoreSt.reset s.cores _ h

theorem State.updPair_pairSt_other (s : State) {p q : Nat} (f : PairSt → PairSt) (h : q ≠ p) : (s.updPair p f).pairSt q = s.pairSt q :=
  NMap.getD_set_other PairSt.reset PairSt.reset s.pairs _ h

theorem State.updSlot_slot_other (s : State) {n m : Nat} (f : Slot → Slot) (h : m ≠ n) : (s.updSlot n f).slot m = s.slot m :=
  NMap.getD_set_other Slot.reset Slot.reset s.slots _ h

@[simp] theorem State.updSlot_slot_same (s : State) (n : Nat) (f : Slot → Slot) : (s.updSlot n f).slot n = f (s.slot n) :=
  NMap.getD_set_same Slot.reset s.slots n _

@[simp] theorem State.updCore_coreSt_same (s : State) (c : Nat) (f : CoreSt → CoreSt) : (s.updCore c f).coreSt c = f (s.coreSt c) :=
  NMap.getD_set_same CoreSt.reset s.cores c _

@[simp] theorem State.updPair_pairSt_same (s : State) (p : Nat) (f : PairSt → PairSt) : (s.updPair p f).pairSt p = f (s.pairSt p) :=
  NMap.getD_set_same PairSt.reset s.pairs p _

@[simp] theorem Team.setS_s_same (t : Team) (r : Nat) (x : DWord) (tag : Bool) : (t.setS r x tag).s r = x :=
  NMap.getD_set_same 0 t.scal r x

theorem Team.setS_s_other (t : Team) {r q : Nat} (x : DWord) (tag : Bool) (h : q ≠ r) : (t.setS r x tag).s q = t.s q :=
  NMap.getD_set_other 0 0 t.scal x h

theorem Team.setP_p_other (t : Team) {r q : Nat} (m : LaneMask) (l : Nat) (h : q ≠ r) : (t.setP r m).p q l = t.p q l :=
  congrArg (fun x : LaneMask => x.getLsbD l) (NMap.getD_set_other 0 0 t.pred m h)

theorem Team.setFlag_flag_other (t : Team) {f g : Nat} (n : Nat) (h : g ≠ f) : (t.setFlag f n).flag g = t.flag g :=
  NMap.getD_set_other 0 0 t.flags n h

@[simp] theorem Team.setFrag_frag?_same (t : Team) (e : Nat) (f : Fragment) : (t.setFrag e f).frag? e = some f :=
  NMap.look_put_same t.frags e f

theorem Team.setFrag_frag?_other (t : Team) {e d : Nat} (f : Fragment) (h : d ≠ e) : (t.setFrag e f).frag? d = t.frag? d :=
  NMap.look_put_other t.frags f h

@[simp] theorem State.setReg_reg_same (s : State) (r : MReg) (v : DWord) : (s.setReg r v).reg r = v := by
  simp [State.reg, State.setReg]

end Sys2Proof.Machine
end

