-- ==== Sys2Proof/Laws/Ops.lean ====
section
/-! SUPPORT. What the shared operations of Machine/Ops.lean can do: settling a fragment, the frame every instruction runs in, time. -/

namespace Sys2Proof.Machine

/-! ### Updates of one team -/

theorem NMap.put_put {α : Type} (m : NMap α) (x : Nat) (v w : α) : NMap.put (NMap.put m x v) x w = NMap.put m x w := by
  induction m with
  | nil => simp [NMap.put]
  | cons e m ih =>
    obtain ⟨k, u⟩ := e
    by_cases h1 : k = x
    · simp [NMap.put, h1]
    · by_cases h2 : x < k <;> simp [NMap.put, h1, h2, ih]

theorem State.updTeam_updTeam (s : State) (t : Nat) (f g : Team → Team) : (s.updTeam t f).updTeam t g = s.updTeam t (fun x => g (f x)) := by
  unfold State.updTeam
  cases h : s.team? t with
  | none => simp [h]
  | some x => simp [State.team?, NMap.put_put]

theorem State.updTeam_of_none (s : State) (t : Nat) (f : Team → Team) (h : s.team? t = none) : s.updTeam t f = s := by
  simp [State.updTeam, h]

/-- Two updates that answer the same team for the one there is are one. -/
theorem State.updTeam_congr (s : State) (t : Nat) {f g : Team → Team} (h : ∀ x, s.team? t = some x → f x = g x) : s.updTeam t f = s.updTeam t g := by
  unfold State.updTeam
  cases hx : s.team? t with
  | none => rfl
  | some x => simp [h x hx]

/-! ### Settling changes fragments, joins and serial records alone -/

theorem Team.joinTest_quiet (t : Team) (j : Nat) : (t.joinTest j).1.quiet = t.quiet := by
  unfold Team.joinTest
  split
  · rfl
  · split
    · rfl
    · split
      · dsimp only
        split <;> rfl
      · rfl

theorem Team.dropFrag_quiet (t : Team) (e : Nat) (f : Fragment) : (t.dropFrag e f).quiet = t.quiet := by
  unfold Team.dropFrag
  dsimp only
  split <;> rfl

theorem Team.settle_quiet (n : Nat) (t : Team) (e : Nat) : (Team.settle n t e).quiet = t.quiet := by
  induction n generalizing t e with
  | zero => rfl
  | succ n ih =>
    -- a test of a join, and what it settles
    have test (j : Nat) (t : Team) : (match t.joinTest j with
        | (t', some e') => Team.settle n t' e'
        | (t', none) => t').quiet = t.quiet := by
      have h := Team.joinTest_quiet t j
      split
      · next he => rw [ih]; rw [he] at h; exact h
      · next he => rw [he] at h; exact h
    unfold Team.settle
    split
    · rfl
    · split
      · split
        · split
          · rw [ih]; rfl
          · rw [ih]; rfl
        · rfl
      · dsimp only
        split
        · split
          · exact Team.dropFrag_quiet _ _ _
          · exact (test _ _).trans (Team.dropFrag_quiet _ _ _)
        · split
          · rfl
          · split
            · exact (test _ _).trans rfl
            · rfl

theorem Team.goto_quiet (t : Team) (e pc : Nat) : (t.goto e pc).quiet = t.quiet := by
  unfold Team.goto
  split
  · rfl
  · rw [Team.settle_quiet]; rfl

/-- A fragment that stands at no place of its records stays as it is. -/
theorem Team.settle_still (n : Nat) (t : Team) (e : Nat) (f : Fragment) (hf : t.frag? e = some f) (hm : f.mask ≠ 0)
    (hs : ∀ r, topSerial t e = some r → r.join = f.join → f.pc ≠ r.reconv)
    (hj : (∀ r, topSerial t e = some r → r.join ≠ f.join) → ∀ r, NMap.look t.joins f.join = some r → f.pc = r.addr → f.st = .parked) :
    Team.settle n t e = t := by
  cases n with
  | zero => rfl
  | succ n =>
    have hm' : (f.mask == 0) = false := beq_eq_false_iff_ne.mpr hm
    unfold Team.settle
    rw [hf]
    dsimp only
    split
    · next r hr =>
      obtain ⟨hr1, hr2⟩ := Option.filter_eq_some_iff.mp hr
      have : (f.pc == r.reconv) = false := beq_eq_false_iff_ne.mpr (hs r hr1 (beq_iff_eq.mp hr2))
      rw [this, hm']
      rfl
    · next hr =>
      rw [hm']
      simp only [Bool.false_eq_true, if_false]
      split
      · rfl
      · next r hl =>
        by_cases hp : f.pc = r.addr
        · have hn : ∀ x, topSerial t e = some x → x.join ≠ f.join := by
            intro x hx hxj
            rw [hx] at hr
            simp [hxj] at hr
          rw [hj hn r hl hp, hp]; simp
        · have : (f.pc == r.addr) = false := beq_eq_false_iff_ne.mpr hp
          rw [this]; rfl

/-- A fragment that is moved to a place of none of its records stands there, its signature cleared (R113, R143), and has yielded if the clause it
leaves says so (R60). -/
theorem Team.goto_still (t : Team) (e pc : Nat) (f : Fragment) (hf : t.frag? e = some f) (hm : f.mask ≠ 0)
    (hs : ∀ r, topSerial t e = some r → r.join = f.join → pc ≠ r.reconv)
    (hj : (∀ r, topSerial t e = some r → r.join ≠ f.join) → ∀ r, NMap.look t.joins f.join = some r → pc ≠ r.addr) :
    t.goto e pc = t.setFrag e { f with pc := pc, sig := 0, clause := none, st := t.readySt e, latch := .none, starve := 0, yielded := f.yielded || f.yields } := by
  unfold Team.goto
  rw [hf]
  dsimp only
  exact Team.settle_still _ _ _ _ (NMap.look_put_same _ _ _) hm hs (fun h r hr hp => absurd hp (hj h r hr))

/-! ### Where a fragment stands after its word -/

/-- An update that leaves a team quiet: every lookup it serves but its fragments, joins and serial records is as before. -/
structure Quiet (f : Team → Team) : Prop where
  quiet : ∀ t, (f t).quiet = t.quiet

/-- finish is an update of its team that leaves it quiet. -/
theorem finish_eq (iss : Issue) (words : Nat) (ends : Bool) :
    ∃ f, Quiet f ∧ ∀ s : State, finish s iss words ends = s.updTeam iss.tid f := by
  refine ⟨_, ⟨fun t => ?_⟩, fun s => rfl⟩
  split
  · rfl
  · split
    · rw [Team.settle_quiet]; rfl
    · rfl

theorem block_eq (iss : Issue) (l : Latch) : ∃ f, Quiet f ∧ ∀ s : State, block s iss l = s.updTeam iss.tid f := by
  refine ⟨_, ⟨fun t => ?_⟩, fun s => rfl⟩
  split <;> rfl

/-- What hashing a word does to the team of its fragment: SIGCHK and SIGRD hash nothing (R143). -/
def hashTeam (iss : Issue) (i : Instr) (t : Team) : Team :=
  match i with
  | .sigchk _ => t
  | .sigrd _ => t
  | _ => match t.frag? iss.entry with
    | none => t
    | some f => t.setFrag iss.entry { f with sig := sigStep f.sig i.sigBits }

theorem hashTeam_quiet (iss : Issue) (i : Instr) (t : Team) : (hashTeam iss i t).quiet = t.quiet := by
  unfold hashTeam
  split
  · rfl
  · rfl
  · split <;> rfl

/-- Hashing is an update of its team, or nothing. -/
theorem hashed_cases (s : State) (iss : Issue) (i : Instr) :
    hashed s iss i = s.updTeam iss.tid (hashTeam iss i) ∨ (hashed s iss i = s ∧ hashTeam iss i = id) := by
  cases i <;> first | exact .inl rfl | exact .inr ⟨rfl, rfl⟩

@[simp] theorem hashed_team? (s : State) (iss : Issue) (i : Instr) : (hashed s iss i).team? iss.tid = (s.team? iss.tid).map (hashTeam iss i) := by
  rcases hashed_cases s iss i with h | ⟨h, h'⟩
  · simp [h]
  · simp [h, h']

theorem hashed_team?_other (s : State) (iss : Issue) (i : Instr) {u : Nat} (hu : u ≠ iss.tid) : (hashed s iss i).team? u = s.team? u := by
  rcases hashed_cases s iss i with h | ⟨h, -⟩
  · rw [h, State.updTeam_team?_other _ _ hu]
  · rw [h]

@[simp] theorem hashed_clk (s : State) (iss : Issue) (i : Instr) : (hashed s iss i).clk = s.clk := by
  rcases hashed_cases s iss i with h | ⟨h, -⟩ <;> simp [h]
@[simp] theorem hashed_free (s : State) (iss : Issue) (i : Instr) : (hashed s iss i).free = s.free := by
  rcases hashed_cases s iss i with h | ⟨h, -⟩ <;> simp [h]
@[simp] theorem hashed_turn (s : State) (iss : Issue) (i : Instr) : (hashed s iss i).turn = s.turn := by
  rcases hashed_cases s iss i with h | ⟨h, -⟩ <;> simp [h]
@[simp] theorem hashed_agenda (s : State) (iss : Issue) (i : Instr) : (hashed s iss i).agenda = s.agenda := by
  rcases hashed_cases s iss i with h | ⟨h, -⟩ <;> simp [h]
@[simp] theorem hashed_delays (s : State) (iss : Issue) (i : Instr) : (hashed s iss i).delays = s.delays := by
  rcases hashed_cases s iss i with h | ⟨h, -⟩ <;> simp [h]
@[simp] theorem hashed_upsets (s : State) (iss : Issue) (i : Instr) : (hashed s iss i).upsets = s.upsets := by
  rcases hashed_cases s iss i with h | ⟨h, -⟩ <;> simp [h]
@[simp] theorem hashed_nextId (s : State) (iss : Issue) (i : Instr) : (hashed s iss i).nextId = s.nextId := by
  rcases hashed_cases s iss i with h | ⟨h, -⟩ <;> simp [h]
@[simp] theorem hashed_issuing (s : State) (iss : Issue) (i : Instr) : (hashed s iss i).issuing = s.issuing := by
  rcases hashed_cases s iss i with h | ⟨h, -⟩ <;> simp [h]
@[simp] theorem hashed_groups (s : State) (iss : Issue) (i : Instr) : (hashed s iss i).groups = s.groups := by
  rcases hashed_cases s iss i with h | ⟨h, -⟩ <;> simp [h]
@[simp] theorem hashed_launches (s : State) (iss : Issue) (i : Instr) : (hashed s iss i).launches = s.launches := by
  rcases hashed_cases s iss i with h | ⟨h, -⟩ <;> simp [h]
@[simp] theorem hashed_cores (s : State) (iss : Issue) (i : Instr) : (hashed s iss i).cores = s.cores := by
  rcases hashed_cases s iss i with h | ⟨h, -⟩ <;> simp [h]
@[simp] theorem hashed_pairs (s : State) (iss : Issue) (i : Instr) : (hashed s iss i).pairs = s.pairs := by
  rcases hashed_cases s iss i with h | ⟨h, -⟩ <;> simp [h]
@[simp] theorem hashed_slots (s : State) (iss : Issue) (i : Instr) : (hashed s iss i).slots = s.slots := by
  rcases hashed_cases s iss i with h | ⟨h, -⟩ <;> simp [h]
@[simp] theorem hashed_ctxs (s : State) (iss : Issue) (i : Instr) : (hashed s iss i).ctxs = s.ctxs := by
  rcases hashed_cases s iss i with h | ⟨h, -⟩ <;> simp [h]
@[simp] theorem hashed_mem (s : State) (iss : Issue) (i : Instr) : (hashed s iss i).mem = s.mem := by
  rcases hashed_cases s iss i with h | ⟨h, -⟩ <;> simp [h]
@[simp] theorem hashed_reqs (s : State) (iss : Issue) (i : Instr) : (hashed s iss i).reqs = s.reqs := by
  rcases hashed_cases s iss i with h | ⟨h, -⟩ <;> simp [h]
@[simp] theorem hashed_conj (s : State) (iss : Issue) (i : Instr) : (hashed s iss i).conj = s.conj := by
  rcases hashed_cases s iss i with h | ⟨h, -⟩ <;> simp [h]
@[simp] theorem hashed_fab (s : State) (iss : Issue) (i : Instr) : (hashed s iss i).fab = s.fab := by
  rcases hashed_cases s iss i with h | ⟨h, -⟩ <;> simp [h]
@[simp] theorem hashed_front (s : State) (iss : Issue) (i : Instr) : (hashed s iss i).front = s.front := by
  rcases hashed_cases s iss i with h | ⟨h, -⟩ <;> simp [h]
@[simp] theorem hashed_mgmt (s : State) (iss : Issue) (i : Instr) : (hashed s iss i).mgmt = s.mgmt := by
  rcases hashed_cases s iss i with h | ⟨h, -⟩ <;> simp [h]
@[simp] theorem hashed_svc (s : State) (iss : Issue) (i : Instr) : (hashed s iss i).svc = s.svc := by
  rcases hashed_cases s iss i with h | ⟨h, -⟩ <;> simp [h]
@[simp] theorem hashed_boot (s : State) (iss : Issue) (i : Instr) : (hashed s iss i).boot = s.boot := by
  rcases hashed_cases s iss i with h | ⟨h, -⟩ <;> simp [h]
@[simp] theorem hashed_hostUp (s : State) (iss : Issue) (i : Instr) : (hashed s iss i).hostUp = s.hostUp := by
  rcases hashed_cases s iss i with h | ⟨h, -⟩ <;> simp [h]
@[simp] theorem hashed_net (s : State) (iss : Issue) (i : Instr) : (hashed s iss i).net = s.net := by
  rcases hashed_cases s iss i with h | ⟨h, -⟩ <;> simp [h]
@[simp] theorem hashed_xlats (s : State) (iss : Issue) (i : Instr) : (hashed s iss i).xlats = s.xlats := by
  rcases hashed_cases s iss i with h | ⟨h, -⟩ <;> simp [h]

@[simp] theorem finish_clk (s : State) (iss : Issue) (w : Nat) (e : Bool) : (finish s iss w e).clk = s.clk := State.updTeam_clk s _ _
@[simp] theorem finish_free (s : State) (iss : Issue) (w : Nat) (e : Bool) : (finish s iss w e).free = s.free := State.updTeam_free s _ _
@[simp] theorem finish_turn (s : State) (iss : Issue) (w : Nat) (e : Bool) : (finish s iss w e).turn = s.turn := State.updTeam_turn s _ _
@[simp] theorem finish_agenda (s : State) (iss : Issue) (w : Nat) (e : Bool) : (finish s iss w e).agenda = s.agenda := State.updTeam_agenda s _ _
@[simp] theorem finish_delays (s : State) (iss : Issue) (w : Nat) (e : Bool) : (finish s iss w e).delays = s.delays := State.updTeam_delays s _ _
@[simp] theorem finish_upsets (s : State) (iss : Issue) (w : Nat) (e : Bool) : (finish s iss w e).upsets = s.upsets := State.updTeam_upsets s _ _
@[simp] theorem finish_nextId (s : State) (iss : Issue) (w : Nat) (e : Bool) : (finish s iss w e).nextId = s.nextId := State.updTeam_nextId s _ _
@[simp] theorem finish_issuing (s : State) (iss : Issue) (w : Nat) (e : Bool) : (finish s iss w e).issuing = s.issuing := State.updTeam_issuing s _ _
@[simp] theorem finish_groups (s : State) (iss : Issue) (w : Nat) (e : Bool) : (finish s iss w e).groups = s.groups := State.updTeam_groups s _ _
@[simp] theorem finish_launches (s : State) (iss : Issue) (w : Nat) (e : Bool) : (finish s iss w e).launches = s.launches := State.updTeam_launches s _ _
@[simp] theorem finish_cores (s : State) (iss : Issue) (w : Nat) (e : Bool) : (finish s iss w e).cores = s.cores := State.updTeam_cores s _ _
@[simp] theorem finish_pairs (s : State) (iss : Issue) (w : Nat) (e : Bool) : (finish s iss w e).pairs = s.pairs := State.updTeam_pairs s _ _
@[simp] theorem finish_slots (s : State) (iss : Issue) (w : Nat) (e : Bool) : (finish s iss w e).slots = s.slots := State.updTeam_slots s _ _
@[simp] theorem finish_ctxs (s : State) (iss : Issue) (w : Nat) (e : Bool) : (finish s iss w e).ctxs = s.ctxs := State.updTeam_ctxs s _ _
@[simp] theorem finish_mem (s : State) (iss : Issue) (w : Nat) (e : Bool) : (finish s iss w e).mem = s.mem := State.updTeam_mem s _ _
@[simp] theorem finish_reqs (s : State) (iss : Issue) (w : Nat) (e : Bool) : (finish s iss w e).reqs = s.reqs := State.updTeam_reqs s _ _
@[simp] theorem finish_conj (s : State) (iss : Issue) (w : Nat) (e : Bool) : (finish s iss w e).conj = s.conj := State.updTeam_conj s _ _
@[simp] theorem finish_fab (s : State) (iss : Issue) (w : Nat) (e : Bool) : (finish s iss w e).fab = s.fab := State.updTeam_fab s _ _
@[simp] theorem finish_front (s : State) (iss : Issue) (w : Nat) (e : Bool) : (finish s iss w e).front = s.front := State.updTeam_front s _ _
@[simp] theorem finish_mgmt (s : State) (iss : Issue) (w : Nat) (e : Bool) : (finish s iss w e).mgmt = s.mgmt := State.updTeam_mgmt s _ _
@[simp] theorem finish_svc (s : State) (iss : Issue) (w : Nat) (e : Bool) : (finish s iss w e).svc = s.svc := State.updTeam_svc s _ _
@[simp] theorem finish_boot (s : State) (iss : Issue) (w : Nat) (e : Bool) : (finish s iss w e).boot = s.boot := State.updTeam_boot s _ _
@[simp] theorem finish_hostUp (s : State) (iss : Issue) (w : Nat) (e : Bool) : (finish s iss w e).hostUp = s.hostUp := State.updTeam_hostUp s _ _
@[simp] theorem finish_net (s : State) (iss : Issue) (w : Nat) (e : Bool) : (finish s iss w e).net = s.net := State.updTeam_net s _ _
@[simp] theorem finish_xlats (s : State) (iss : Issue) (w : Nat) (e : Bool) : (finish s iss w e).xlats = s.xlats := State.updTeam_xlats s _ _

@[simp] theorem block_clk (s : State) (iss : Issue) (l : Latch) : (block s iss l).clk = s.clk := State.updTeam_clk s _ _
@[simp] theorem block_free (s : State) (iss : Issue) (l : Latch) : (block s iss l).free = s.free := State.updTeam_free s _ _
@[simp] theorem block_turn (s : State) (iss : Issue) (l : Latch) : (block s iss l).turn = s.turn := State.updTeam_turn s _ _
@[simp] theorem block_agenda (s : State) (iss : Issue) (l : Latch) : (block s iss l).agenda = s.agenda := State.updTeam_agenda s _ _
@[simp] theorem block_delays (s : State) (iss : Issue) (l : Latch) : (block s iss l).delays = s.delays := State.updTeam_delays s _ _
@[simp] theorem block_upsets (s : State) (iss : Issue) (l : Latch) : (block s iss l).upsets = s.upsets := State.updTeam_upsets s _ _
@[simp] theorem block_nextId (s : State) (iss : Issue) (l : Latch) : (block s iss l).nextId = s.nextId := State.updTeam_nextId s _ _
@[simp] theorem block_issuing (s : State) (iss : Issue) (l : Latch) : (block s iss l).issuing = s.issuing := State.updTeam_issuing s _ _
@[simp] theorem block_groups (s : State) (iss : Issue) (l : Latch) : (block s iss l).groups = s.groups := State.updTeam_groups s _ _
@[simp] theorem block_launches (s : State) (iss : Issue) (l : Latch) : (block s iss l).launches = s.launches := State.updTeam_launches s _ _
@[simp] theorem block_cores (s : State) (iss : Issue) (l : Latch) : (block s iss l).cores = s.cores := State.updTeam_cores s _ _
@[simp] theorem block_pairs (s : State) (iss : Issue) (l : Latch) : (block s iss l).pairs = s.pairs := State.updTeam_pairs s _ _
@[simp] theorem block_slots (s : State) (iss : Issue) (l : Latch) : (block s iss l).slots = s.slots := State.updTeam_slots s _ _
@[simp] theorem block_ctxs (s : State) (iss : Issue) (l : Latch) : (block s iss l).ctxs = s.ctxs := State.updTeam_ctxs s _ _
@[simp] theorem block_mem (s : State) (iss : Issue) (l : Latch) : (block s iss l).mem = s.mem := State.updTeam_mem s _ _
@[simp] theorem block_reqs (s : State) (iss : Issue) (l : Latch) : (block s iss l).reqs = s.reqs := State.updTeam_reqs s _ _
@[simp] theorem block_conj (s : State) (iss : Issue) (l : Latch) : (block s iss l).conj = s.conj := State.updTeam_conj s _ _
@[simp] theorem block_fab (s : State) (iss : Issue) (l : Latch) : (block s iss l).fab = s.fab := State.updTeam_fab s _ _
@[simp] theorem block_front (s : State) (iss : Issue) (l : Latch) : (block s iss l).front = s.front := State.updTeam_front s _ _
@[simp] theorem block_mgmt (s : State) (iss : Issue) (l : Latch) : (block s iss l).mgmt = s.mgmt := State.updTeam_mgmt s _ _
@[simp] theorem block_svc (s : State) (iss : Issue) (l : Latch) : (block s iss l).svc = s.svc := State.updTeam_svc s _ _
@[simp] theorem block_boot (s : State) (iss : Issue) (l : Latch) : (block s iss l).boot = s.boot := State.updTeam_boot s _ _
@[simp] theorem block_hostUp (s : State) (iss : Issue) (l : Latch) : (block s iss l).hostUp = s.hostUp := State.updTeam_hostUp s _ _
@[simp] theorem block_net (s : State) (iss : Issue) (l : Latch) : (block s iss l).net = s.net := State.updTeam_net s _ _
@[simp] theorem block_xlats (s : State) (iss : Issue) (l : Latch) : (block s iss l).xlats = s.xlats := State.updTeam_xlats s _ _

/-! ### The quarter a word holds -/

@[simp] theorem State.occupy_clk (s : State) (iss : Issue) (i : Instr) : (s.occupy iss i).clk = s.clk := rfl
@[simp] theorem State.occupy_free (s : State) (iss : Issue) (i : Instr) : (s.occupy iss i).free = s.free := rfl
@[simp] theorem State.occupy_turn (s : State) (iss : Issue) (i : Instr) : (s.occupy iss i).turn = s.turn := rfl
@[simp] theorem State.occupy_agenda (s : State) (iss : Issue) (i : Instr) : (s.occupy iss i).agenda = s.agenda := rfl
@[simp] theorem State.occupy_delays (s : State) (iss : Issue) (i : Instr) : (s.occupy iss i).delays = s.delays := rfl
@[simp] theorem State.occupy_upsets (s : State) (iss : Issue) (i : Instr) : (s.occupy iss i).upsets = s.upsets := rfl
@[simp] theorem State.occupy_nextId (s : State) (iss : Issue) (i : Instr) : (s.occupy iss i).nextId = s.nextId := rfl
@[simp] theorem State.occupy_issuing (s : State) (iss : Issue) (i : Instr) : (s.occupy iss i).issuing = s.issuing := rfl
@[simp] theorem State.occupy_groups (s : State) (iss : Issue) (i : Instr) : (s.occupy iss i).groups = s.groups := rfl
@[simp] theorem State.occupy_launches (s : State) (iss : Issue) (i : Instr) : (s.occupy iss i).launches = s.launches := rfl
@[simp] theorem State.occupy_teams (s : State) (iss : Issue) (i : Instr) : (s.occupy iss i).teams = s.teams := rfl
@[simp] theorem State.occupy_pairs (s : State) (iss : Issue) (i : Instr) : (s.occupy iss i).pairs = s.pairs := rfl
@[simp] theorem State.occupy_slots (s : State) (iss : Issue) (i : Instr) : (s.occupy iss i).slots = s.slots := rfl
@[simp] theorem State.occupy_ctxs (s : State) (iss : Issue) (i : Instr) : (s.occupy iss i).ctxs = s.ctxs := rfl
@[simp] theorem State.occupy_mem (s : State) (iss : Issue) (i : Instr) : (s.occupy iss i).mem = s.mem := rfl
@[simp] theorem State.occupy_reqs (s : State) (iss : Issue) (i : Instr) : (s.occupy iss i).reqs = s.reqs := rfl
@[simp] theorem State.occupy_conj (s : State) (iss : Issue) (i : Instr) : (s.occupy iss i).conj = s.conj := rfl
@[simp] theorem State.occupy_fab (s : State) (iss : Issue) (i : Instr) : (s.occupy iss i).fab = s.fab := rfl
@[simp] theorem State.occupy_front (s : State) (iss : Issue) (i : Instr) : (s.occupy iss i).front = s.front := rfl
@[simp] theorem State.occupy_mgmt (s : State) (iss : Issue) (i : Instr) : (s.occupy iss i).mgmt = s.mgmt := rfl
@[simp] theorem State.occupy_svc (s : State) (iss : Issue) (i : Instr) : (s.occupy iss i).svc = s.svc := rfl
@[simp] theorem State.occupy_boot (s : State) (iss : Issue) (i : Instr) : (s.occupy iss i).boot = s.boot := rfl
@[simp] theorem State.occupy_hostUp (s : State) (iss : Issue) (i : Instr) : (s.occupy iss i).hostUp = s.hostUp := rfl
@[simp] theorem State.occupy_net (s : State) (iss : Issue) (i : Instr) : (s.occupy iss i).net = s.net := rfl
@[simp] theorem State.occupy_xlats (s : State) (iss : Issue) (i : Instr) : (s.occupy iss i).xlats = s.xlats := rfl
@[simp] theorem State.occupy_team? (s : State) (iss : Issue) (i : Instr) (u : Nat) : (s.occupy iss i).team? u = s.team? u := rfl

/-- Only the busy time of a quarter of the team's core changes (R28). -/
theorem State.occupy_coreSt (s : State) (iss : Issue) (i : Instr) (c : Nat) :
    { (s.occupy iss i).coreSt c with busy := (s.coreSt c).busy } = s.coreSt c := by
  unfold State.occupy
  by_cases h : c = iss.team.core
  · subst h; rw [State.updCore_coreSt_same]
  · rw [State.updCore_coreSt_other _ _ h]

/-! ### Time -/

/-- The watchdogs change the cores alone (R65). -/
theorem State.watchPass_eq (s : State) (n : Nat) : ∃ cs, s.watchPass n = { s with cores := cs } := by
  unfold State.watchPass
  generalize s.watched = ks
  induction ks generalizing s with
  | nil => exact ⟨s.cores, rfl⟩
  | cons k ks ih => exact ih (State.watchTick n s k)

/-- What time leaves (R7): the clock and the teams' fragments go on, the watchdogs count. -/
theorem State.pass_eq (s : State) (n : Nat) :
    ∃ cs ts, s.pass n = { s with cores := cs, clk := s.clk + n, teams := ts } := by
  obtain ⟨cs, h⟩ := State.watchPass_eq s n
  exact ⟨cs, _, by unfold State.pass; rw [h]⟩

@[simp] theorem State.pass_free (s : State) (n : Nat) : (s.pass n).free = s.free := by obtain ⟨cs, ts, h⟩ := State.pass_eq s n; rw [h]
@[simp] theorem State.pass_turn (s : State) (n : Nat) : (s.pass n).turn = s.turn := by obtain ⟨cs, ts, h⟩ := State.pass_eq s n; rw [h]
@[simp] theorem State.pass_agenda (s : State) (n : Nat) : (s.pass n).agenda = s.agenda := by obtain ⟨cs, ts, h⟩ := State.pass_eq s n; rw [h]
@[simp] theorem State.pass_delays (s : State) (n : Nat) : (s.pass n).delays = s.delays := by obtain ⟨cs, ts, h⟩ := State.pass_eq s n; rw [h]
@[simp] theorem State.pass_upsets (s : State) (n : Nat) : (s.pass n).upsets = s.upsets := by obtain ⟨cs, ts, h⟩ := State.pass_eq s n; rw [h]
@[simp] theorem State.pass_nextId (s : State) (n : Nat) : (s.pass n).nextId = s.nextId := by obtain ⟨cs, ts, h⟩ := State.pass_eq s n; rw [h]
@[simp] theorem State.pass_issuing (s : State) (n : Nat) : (s.pass n).issuing = s.issuing := by obtain ⟨cs, ts, h⟩ := State.pass_eq s n; rw [h]
@[simp] theorem State.pass_groups (s : State) (n : Nat) : (s.pass n).groups = s.groups := by obtain ⟨cs, ts, h⟩ := State.pass_eq s n; rw [h]
@[simp] theorem State.pass_launches (s : State) (n : Nat) : (s.pass n).launches = s.launches := by obtain ⟨cs, ts, h⟩ := State.pass_eq s n; rw [h]
@[simp] theorem State.pass_pairs (s : State) (n : Nat) : (s.pass n).pairs = s.pairs := by obtain ⟨cs, ts, h⟩ := State.pass_eq s n; rw [h]
@[simp] theorem State.pass_slots (s : State) (n : Nat) : (s.pass n).slots = s.slots := by obtain ⟨cs, ts, h⟩ := State.pass_eq s n; rw [h]
@[simp] theorem State.pass_ctxs (s : State) (n : Nat) : (s.pass n).ctxs = s.ctxs := by obtain ⟨cs, ts, h⟩ := State.pass_eq s n; rw [h]
@[simp] theorem State.pass_mem (s : State) (n : Nat) : (s.pass n).mem = s.mem := by obtain ⟨cs, ts, h⟩ := State.pass_eq s n; rw [h]
@[simp] theorem State.pass_reqs (s : State) (n : Nat) : (s.pass n).reqs = s.reqs := by obtain ⟨cs, ts, h⟩ := State.pass_eq s n; rw [h]
@[simp] theorem State.pass_conj (s : State) (n : Nat) : (s.pass n).conj = s.conj := by obtain ⟨cs, ts, h⟩ := State.pass_eq s n; rw [h]
@[simp] theorem State.pass_fab (s : State) (n : Nat) : (s.pass n).fab = s.fab := by obtain ⟨cs, ts, h⟩ := State.pass_eq s n; rw [h]
@[simp] theorem State.pass_front (s : State) (n : Nat) : (s.pass n).front = s.front := by obtain ⟨cs, ts, h⟩ := State.pass_eq s n; rw [h]
@[simp] theorem State.pass_mgmt (s : State) (n : Nat) : (s.pass n).mgmt = s.mgmt := by obtain ⟨cs, ts, h⟩ := State.pass_eq s n; rw [h]
@[simp] theorem State.pass_svc (s : State) (n : Nat) : (s.pass n).svc = s.svc := by obtain ⟨cs, ts, h⟩ := State.pass_eq s n; rw [h]
@[simp] theorem State.pass_boot (s : State) (n : Nat) : (s.pass n).boot = s.boot := by obtain ⟨cs, ts, h⟩ := State.pass_eq s n; rw [h]
@[simp] theorem State.pass_hostUp (s : State) (n : Nat) : (s.pass n).hostUp = s.hostUp := by obtain ⟨cs, ts, h⟩ := State.pass_eq s n; rw [h]
@[simp] theorem State.pass_net (s : State) (n : Nat) : (s.pass n).net = s.net := by obtain ⟨cs, ts, h⟩ := State.pass_eq s n; rw [h]
@[simp] theorem State.pass_xlats (s : State) (n : Nat) : (s.pass n).xlats = s.xlats := by obtain ⟨cs, ts, h⟩ := State.pass_eq s n; rw [h]
@[simp] theorem State.pass_clk (s : State) (n : Nat) : (s.pass n).clk = s.clk + n := by obtain ⟨cs, ts, h⟩ := State.pass_eq s n; rw [h]

/-- A core but for its watchdogs' counts. -/
theorem State.watchPass_coreSt (s : State) (n c : Nat) : { (s.watchPass n).coreSt c with watch := (s.coreSt c).watch } = s.coreSt c := by
  unfold State.watchPass
  generalize s.watched = ks
  have one (u : State) (k : Nat) : { (State.watchTick n u k).coreSt c with watch := (u.coreSt c).watch } = u.coreSt c := by
    unfold State.watchTick
    by_cases hc : c = k / 65536
    · subst hc; rw [State.updCore_coreSt_same]
    · rw [State.updCore_coreSt_other _ _ hc]
  induction ks generalizing s with
  | nil => rfl
  | cons k ks ih =>
    have h := ih (State.watchTick n s k)
    rw [List.foldl_cons, ← one s k, ← h]

/-- Time passes for a core but for its watchdogs' counts (R65). -/
theorem State.pass_coreSt (s : State) (n c : Nat) : { (s.pass n).coreSt c with watch := (s.coreSt c).watch } = s.coreSt c := State.watchPass_coreSt s n c

theorem NMap.look_mapVal {α β : Type} (m : NMap α) (f : α → β) (x : Nat) : NMap.look (m.map (fun e => (e.1, f e.2))) x = (NMap.look m x).map f := by
  induction m with
  | nil => rfl
  | cons e m ih =>
    obtain ⟨k, v⟩ := e
    by_cases h : k = x <;> simp [NMap.look, h, ih]

theorem Team.aged_quiet (n : Nat) (t : Team) : (t.aged n).quiet = t.quiet := by
  unfold Team.aged
  split <;> rfl

/-- The fragments of a team age by the cycles of its core's clock (R7, R60). -/
@[simp] theorem State.pass_team? (s : State) (n u : Nat) : (s.pass n).team? u = (s.team? u).map (fun t => t.aged (s.coreTicks n t.core)) := by
  obtain ⟨cs, h⟩ := State.watchPass_eq s n
  have hs : (s.pass n).teams = s.teams.map (fun e => (e.1, e.2.aged (s.coreTicks n e.2.core))) := by
    unfold State.pass
    rw [h]
  rw [State.team?, hs, NMap.look_mapVal s.teams (fun t => t.aged (s.coreTicks n t.core))]
  rfl

/-! ### Running -/

theorem Issue.idle (iss : Issue) (h : iss.act = 0) : (iss.act == 0) = true := beq_iff_eq.mpr h
theorem Issue.active (iss : Issue) (h : iss.act ≠ 0) : (iss.act == 0) = false := beq_eq_false_iff_ne.mpr h

/-- An instruction always has a next state. -/
theorem run_next (i : Instr) (s : State) (body : Issue → State → Eff) : ∃ t, run i s body = .next t := by
  unfold run
  split
  · exact ⟨_, rfl⟩
  · split
    · exact ⟨_, rfl⟩
    · split
      · exact ⟨_, rfl⟩
      · split <;> exact ⟨_, rfl⟩

/-- An instruction that runs comes to what its body says. -/
theorem run_of_issues {i : Instr} {s : State} {iss : Issue} (h : Issues s iss i) (body : Issue → State → Eff) :
    run i s body = .next (conclude s iss i (body iss (hashed s iss i))) := by
  simp [run, h.issue, h.legal, h.clear, h.calm]

/-- The issue of a fragment names its team, its fragment and its clause, and the rest follows from them and the mood (R128). -/
theorem issueOf_some {s : State} {iss : Issue} (h : issueOf s = some iss) :
    s.issuing = some (iss.tid, iss.entry) ∧ s.team? iss.tid = some iss.team ∧ iss.team.frag? iss.entry = some iss.frag
      ∧ iss.frag.clause = some iss.cl ∧ iss = mkIssue s iss.tid iss.entry iss.team iss.frag iss.cl := by
  unfold issueOf at h
  split at h
  · cases h
  · next e he =>
    split at h
    · cases h
    · next t ht =>
      split at h
      · cases h
      · next f hf =>
        split at h
        · cases h
        · next c hc =>
          cases h
          exact ⟨he, ht, hf, hc, rfl⟩

theorem Issues.team {s : State} {iss : Issue} {i : Instr} (h : Issues s iss i) : s.team? iss.tid = some iss.team := (issueOf_some h.issue).2.1

end Sys2Proof.Machine
end

