-- ==== Sys2Proof/Laws/Operands.lean ====
section
/-! SUPPORT. What reading operands and writing results can do: the one lemma of the lane-wise frame, laneOp. -/

namespace Sys2Proof.Machine

/-! ### Registers of a lane -/

theorem vkey_inj {r q l m : Nat} (hl : l < 1024) (hm : m < 1024) : vkey r l = vkey q m ↔ r = q ∧ l = m := by
  unfold vkey; constructor
  · intro h; omega
  · rintro ⟨rfl, rfl⟩; rfl

theorem Team.setV_v (t : Team) {r l q m : Nat} (x : Word) (tag : Bool) (hl : l < 1024) (hm : m < 1024) :
    (t.setV r l x tag).v q m = if q = r ∧ m = l then x else t.v q m := by
  unfold Team.v Team.setV
  by_cases h : q = r ∧ m = l
  · obtain ⟨rfl, rfl⟩ := h; simp
  · rw [if_neg h]
    exact NMap.getD_set_other 0 0 t.vec x (by rw [Ne, vkey_inj hm hl]; exact h)

theorem Team.setV_tag (t : Team) {r l q m : Nat} (x : Word) (tag : Bool) (hl : l < 1024) (hm : m < 1024) :
    NSet.has (t.setV r l x tag).vtag (vkey q m) = if q = r ∧ m = l then tag else NSet.has t.vtag (vkey q m) := by
  unfold Team.setV
  by_cases h : q = r ∧ m = l
  · obtain ⟨rfl, rfl⟩ := h; cases tag <;> simp [NSet.has_add, NSet.has_rem]
  · have h' : vkey q m ≠ vkey r l := by rw [Ne, vkey_inj hm hl]; exact h
    cases tag <;> simp [NSet.has_add, NSet.has_rem, h, h']

/-- Everything of a team but its vector registers and their marks. -/
def Team.noVec (t : Team) : Team := { t with vec := [], vtag := [] }

theorem Team.writeLane_noVec (t : Team) (w r : Nat) (o : LaneOut) : (t.writeLane w r o).noVec = t.noVec := by
  unfold Team.writeLane
  split <;> rfl

theorem Team.writeLane_v (t : Team) (w r : Nat) (o : LaneOut) {q m : Nat} (hl : o.lane < 1024) (hm : m < 1024) :
    (t.writeLane w r o).v q m
      = if m = o.lane then (if q = r then BitVec.ofNat 32 o.val else if w = 64 ∧ q = r + 1 then BitVec.ofNat 32 (o.val / 2 ^ 32) else t.v q m) else t.v q m := by
  unfold Team.writeLane
  by_cases hw : w = 64
  · simp only [hw, if_true, Team.setV_v _ _ _ hl hm]
    by_cases h1 : m = o.lane
    · by_cases h2 : q = r
      · simp [h1, h2]
      · by_cases h3 : q = r + 1 <;> simp [h1, h2, h3]
    · simp [h1]
  · simp only [hw, if_false, Team.setV_v _ _ _ hl hm]
    by_cases h1 : m = o.lane <;> by_cases h2 : q = r <;> simp [h1, h2]

theorem Team.writeLane_tag (t : Team) (w r : Nat) (o : LaneOut) {q m : Nat} (hl : o.lane < 1024) (hm : m < 1024) :
    NSet.has (t.writeLane w r o).vtag (vkey q m)
      = if m = o.lane ∧ (q = r ∨ w = 64 ∧ q = r + 1) then o.tag else NSet.has t.vtag (vkey q m) := by
  unfold Team.writeLane
  by_cases hw : w = 64
  · simp only [hw, if_true, Team.setV_tag _ _ _ hl hm]
    by_cases h1 : m = o.lane
    · by_cases h2 : q = r
      · simp [h1, h2]
      · by_cases h3 : q = r + 1 <;> simp [h1, h2, h3]
    · simp [h1]
  · simp only [hw, if_false, Team.setV_tag _ _ _ hl hm]
    by_cases h1 : m = o.lane <;> by_cases h2 : q = r <;> simp [h1, h2]

/-! ### Results of distinct lanes -/

/-- Results written to lanes that have a value. -/
def laneOuts (lanes : List Nat) (val : Nat → Option Nat) (tag : Nat → Bool) : List LaneOut :=
  lanes.filterMap (fun l => (val l).map (fun v => { lane := l, val := v, tag := tag l }))

theorem laneOuts_cons (l : Nat) (ls : List Nat) (val : Nat → Option Nat) (tag : Nat → Bool) :
    laneOuts (l :: ls) val tag = match val l with
      | some v => { lane := l, val := v, tag := tag l } :: laneOuts ls val tag
      | none => laneOuts ls val tag := by
  unfold laneOuts
  cases h : val l <;> simp [h]

/-- A register after the results of distinct lanes. -/
theorem foldl_writeLane (w r : Nat) (val : Nat → Option Nat) (tag : Nat → Bool) (lanes : List Nat) (hn : lanes.Nodup)
    (hb : ∀ l ∈ lanes, l < 1024) (t : Team) :
    let t' := (laneOuts lanes val tag).foldl (fun t o => t.writeLane w r o) t
    (∀ q l, l < 1024 → t'.v q l = laneValue t w r (inLanes lanes val) q l) ∧
    (∀ q l, l < 1024 → NSet.has t'.vtag (vkey q l) = laneTag t w r (inLanes lanes val) tag q l) ∧ t'.noVec = t.noVec := by
  induction lanes generalizing t with
  | nil => simp [laneOuts, laneValue, laneTag, inLanes]
  | cons k ks ih =>
    have hk : k < 1024 := hb k (by simp)
    obtain ⟨hkn, hn'⟩ := List.nodup_cons.mp hn
    have hb' : ∀ l ∈ ks, l < 1024 := fun l hl => hb l (by simp [hl])
    rw [laneOuts_cons]
    cases hv : val k with
    | none =>
      obtain ⟨h1, h2, h3⟩ := ih hn' hb' t
      have e : ∀ l, inLanes (k :: ks) val l = inLanes ks val l := by
        intro l
        unfold inLanes
        by_cases h : l = k
        · subst h; simp [hkn, hv]
        · simp [h]
      refine ⟨fun q l hl => ?_, fun q l hl => ?_, h3⟩
      · rw [h1 q l hl]; unfold laneValue; rw [e]
      · rw [h2 q l hl]; unfold laneTag; rw [e]
    | some x =>
      obtain ⟨h1, h2, h3⟩ := ih hn' hb' (t.writeLane w r { lane := k, val := x, tag := tag k })
      have ek : inLanes ks val k = none := by simp [inLanes, hkn]
      have e : ∀ l, l ≠ k → inLanes (k :: ks) val l = inLanes ks val l := by
        intro l h
        unfold inLanes
        simp [h]
      have ek' : inLanes (k :: ks) val k = some x := by simp [inLanes, hv]
      refine ⟨fun q l hl => ?_, fun q l hl => ?_, ?_⟩
      · simp only [List.foldl_cons]
        rw [h1 q l hl]
        unfold laneValue
        by_cases h : l = k
        · subst h; rw [ek, ek', Team.writeLane_v t w r { lane := l, val := x, tag := tag l } hk hk]; simp
        · rw [e l h]; simp only [Team.writeLane_v t w r { lane := k, val := x, tag := tag k } hk hl, h, if_false]
      · simp only [List.foldl_cons]
        rw [h2 q l hl]
        unfold laneTag
        by_cases h : l = k
        · subst h; rw [ek, ek', Team.writeLane_tag t w r { lane := l, val := x, tag := tag l } hk hk]; simp
        · rw [e l h]; simp only [Team.writeLane_tag t w r { lane := k, val := x, tag := tag k } hk hl, h, false_and, if_false]
      · simp only [List.foldl_cons]
        rw [h3, Team.writeLane_noVec]

theorem find_laneOuts (lanes : List Nat) (val : Nat → Option Nat) (tag : Nat → Bool) (k : Nat) :
    (laneOuts lanes val tag).find? (fun o => some o.lane == some k)
      = (inLanes lanes val k).map (fun v => { lane := k, val := v, tag := tag k }) := by
  induction lanes with
  | nil => simp [laneOuts, inLanes]
  | cons l ls ih =>
    rw [laneOuts_cons]
    by_cases h : l = k
    · subst h
      cases hv : val l with
      | none => rw [ih]; simp only [inLanes, hv]; split <;> simp
      | some v => simp [inLanes, hv]
    · have e : inLanes (l :: ls) val k = inLanes ls val k := by simp [inLanes, Ne.symm h]
      rw [e]
      cases hv : val l with
      | none => exact ih
      | some v => simpa [h] using ih

theorem lanesOf_nodup (m : LaneMask) (n : Nat) : (lanesOf m n).Nodup := List.Nodup.filter _ List.nodup_range

theorem lanesOf_lt {m : LaneMask} {n l : Nat} (h : l ∈ lanesOf m n) : l < 1024 := by
  simp only [lanesOf, List.mem_filter] at h
  exact BitVec.lt_of_getLsbD h.2

theorem mem_lanesOf {m : LaneMask} {n l : Nat} : l ∈ lanesOf m n ↔ l < n ∧ m.getLsbD l = true := by
  simp [lanesOf]

theorem outLanes_nodup (iss : Issue) (d : Reg) : (outLanes iss d).Nodup := by
  cases d with
  | v r => exact lanesOf_nodup _ _
  | q r => exact lanesOf_nodup _ _
  | s r => cases h : iss.low <;> simp [outLanes, h]

/-- What writeOut does with the results of distinct lanes. -/
theorem writeOut_writes (s : State) (iss : Issue) (w : Nat) (ext : Nat → Nat) (d : Reg) (lanes : List Nat) (val : Nat → Option Nat)
    (tag : Nat → Bool) (ht : ∃ t, s.team? iss.tid = some t) (hn : lanes.Nodup) (hb : ∀ r, d = .v r → ∀ l ∈ lanes, l < 1024) :
    Writes s iss w ext d (inLanes lanes val) tag (writeOut s iss w ext d (laneOuts lanes val tag)) := by
  cases d with
  | v r =>
    obtain ⟨t, ht⟩ := ht
    obtain ⟨h1, h2, h3⟩ := foldl_writeLane w r.val val tag lanes hn (hb r rfl) t
    refine ⟨t, _, ht, ?_, h1, h2, h3⟩
    exact State.updTeam_congr s _ (fun x hx => by rw [ht] at hx; cases hx; rfl)
  | s r =>
    show writeOut s iss w ext (.s r) _ = _
    unfold writeOut
    cases h : iss.low with
    | none =>
      have : (laneOuts lanes val tag).find? (fun o => some o.lane == (none : Option Nat)) = none := by simp
      simp only [this, Option.bind_none]
    | some k =>
      simp only [find_laneOuts, Option.bind_some]
      cases inLanes lanes val k <;> rfl
  | q r =>
    show writeOut s iss w ext (.q r) _ = _
    unfold writeOut
    cases h : iss.low with
    | none =>
      have : (laneOuts lanes val tag).find? (fun o => some o.lane == (none : Option Nat)) = none := by simp
      simp only [this, Option.bind_none]
    | some k =>
      simp only [find_laneOuts, Option.bind_some]
      cases inLanes lanes val k <;> rfl

/-! ### Ports -/

theorem State.team?_updGroup (s : State) (l g u : Nat) (f : Group → Group) : (s.updGroup l g f).team? u = s.team? u := rfl
theorem State.team?_updCore (s : State) (c u : Nat) (f : CoreSt → CoreSt) : (s.updCore c f).team? u = s.team? u := rfl

/-- Teams there are stay there. -/
def KeepsTeams (s t : State) : Prop := ∀ u, (t.team? u).isSome = (s.team? u).isSome

theorem KeepsTeams.refl (s : State) : KeepsTeams s s := fun _ => rfl
theorem KeepsTeams.trans {s t u : State} (h : KeepsTeams s t) (g : KeepsTeams t u) : KeepsTeams s u := fun x => (g x).trans (h x)

theorem KeepsTeams.updTeam (s : State) (t : Nat) (f : Team → Team) : KeepsTeams s (s.updTeam t f) := by
  intro u
  by_cases h : u = t
  · subst h; simp
  · rw [State.updTeam_team?_other _ _ h]

theorem KeepsTeams.foldl {α : Type} (f : State → α → State) (h : ∀ s a, KeepsTeams s (f s a)) (l : List α) (s : State) : KeepsTeams s (l.foldl f s) := by
  induction l generalizing s with
  | nil => exact KeepsTeams.refl s
  | cons a l ih => exact (h s a).trans (ih _)

theorem State.feedQ1_keepsTeams (s : State) (t : Nat) : KeepsTeams s (s.feedQ1 t) := by
  unfold State.feedQ1
  refine KeepsTeams.foldl _ (fun s g => KeepsTeams.foldl _ (fun s e => ?_) _ s) _ s
  split
  split
  · split
    · exact KeepsTeams.updTeam _ _ _
    · exact KeepsTeams.refl _
  · exact KeepsTeams.refl _

theorem State.popPort_keepsTeams (s : State) (t q : Nat) : KeepsTeams s (s.popPort t q) := by
  unfold State.popPort
  split
  · exact KeepsTeams.refl _
  · split
    · dsimp only
      split
      · exact (KeepsTeams.updTeam _ _ _).trans (State.feedQ1_keepsTeams _ _)
      · exact KeepsTeams.updTeam _ _ _
    · intro u
      dsimp only
      rw [KeepsTeams.updTeam _ _ _ u]
      rfl

theorem popAll_keepsTeams (s : State) (iss : Issue) (a : Option Reg) (b : Option Src) : KeepsTeams s (popAll s iss a b) := by
  unfold popAll
  split
  · exact KeepsTeams.refl _
  · exact KeepsTeams.foldl _ (fun s q => State.popPort_keepsTeams s _ q) _ s

theorem State.pushPort_keepsTeams (s : State) (t q : Nat) (x : DWord) : KeepsTeams s (s.pushPort t q x) := by
  unfold State.pushPort
  split
  · exact KeepsTeams.refl _
  · split
    · exact KeepsTeams.updTeam _ _ _
    · exact fun u => rfl

theorem Writes.keepsTeams {s1 s2 : State} {iss : Issue} {w : Nat} {ext : Nat → Nat} {d : Reg} {val : Nat → Option Nat} {tag : Nat → Bool}
    (h : Writes s1 iss w ext d val tag s2) : KeepsTeams s1 s2 := by
  cases d with
  | v r => obtain ⟨t, t', -, rfl, -⟩ := h; exact KeepsTeams.updTeam _ _ _
  | s r =>
    unfold Writes at h
    dsimp only at h
    split at h
    · subst h; exact KeepsTeams.updTeam _ _ _
    · subst h; exact KeepsTeams.refl _
  | q r =>
    unfold Writes at h
    dsimp only at h
    split at h
    · subst h; exact State.pushPort_keepsTeams _ _ _ _
    · subst h; exact KeepsTeams.refl _

/-! ### Operands do not depend on the fragments -/

theorem portsReady_congr {s s' : State} (h : s'.cores = s.cores) (t : Team) (d a : Option Reg) (b : Option Src) :
    portsReady s' t d a b = portsReady s t d a b := by
  have e : s'.coreSt = s.coreSt := by funext c; simp [State.coreSt, h]
  simp only [portsReady, portEntries, portRoom, e]
  rfl

theorem opdReg_congr {s s' : State} (hc : s'.cores = s.cores) (hf : s'.free = s.free) (iss : Issue) (i : Nat) (r : Reg) :
    opdReg s' iss i r = opdReg s iss i r := by
  cases r <;> simp [opdReg, portEntries, State.coreSt, hc, hf]

theorem opdA_congr {s s' : State} (hc : s'.cores = s.cores) (hf : s'.free = s.free) (iss : Issue) (a : Option Reg) :
    opdA s' iss a = opdA s iss a := by
  cases a <;> simp [opdA, opdReg_congr hc hf]

theorem opdB_congr {s s' : State} (hc : s'.cores = s.cores) (hf : s'.free = s.free) (iss : Issue) (a : Option Reg) (b : Option Src) :
    opdB s' iss a b = opdB s iss a b := by
  cases b with
  | none => rfl
  | some b => cases b <;> simp [opdB, opdSrc, opdReg_congr hc hf]

/-! ### The lane-wise frame -/

theorem Team.setG_g (t : Team) (l k : Nat) (x : Word) : (t.setG l x).g k = if k = l then x else t.g k := by
  unfold Team.g Team.setG Team.global
  by_cases h : k = l
  · subst h; simp [NMap.getD]
  · simp [NMap.getD, NMap.look_put_other _ _ h, h]

theorem foldl_setG (lanes : List Nat) (gen : Nat → Word) (t : Team) (hn : lanes.Nodup) :
    let t' := (lanes.map (fun l => (l, gen l))).foldl (fun t (e : Nat × Word) => t.setG e.1 e.2) t
    (∀ k, t'.g k = if k ∈ lanes then gen k else t.g k) ∧ { t' with gen := [] } = { t with gen := [] } := by
  induction lanes generalizing t with
  | nil => simp
  | cons l ls ih =>
    obtain ⟨hl, hn'⟩ := List.nodup_cons.mp hn
    obtain ⟨h1, h2⟩ := ih (t.setG l (gen l)) hn'
    refine ⟨fun k => ?_, h2⟩
    simp only [List.map_cons, List.foldl_cons]
    rw [h1 k, Team.setG_g]
    by_cases h : k = l
    · subst h; simp [hl]
    · simp [h]

theorem writeGens_steps (s : State) (iss : Issue) (lanes : List Nat) (gen : Nat → Word) (hn : lanes.Nodup) (ht : ∃ t, s.team? iss.tid = some t) :
    Steps s iss lanes gen (if iss.mode == .rst then writeGens s iss.tid (lanes.map (fun l => (l, gen l))) else s) := by
  constructor
  · rintro (h | h)
    · simp [h]
    · simp [h, writeGens]
  · intro h hl
    obtain ⟨t, ht⟩ := ht
    obtain ⟨h1, h2⟩ := foldl_setG lanes gen t hn
    refine ⟨t, _, ht, ?_, h1, h2⟩
    have hne : (lanes.map (fun l => (l, gen l))).isEmpty = false := by cases lanes <;> simp_all
    simp only [h, beq_self_eq_true, if_true, writeGens, hne, Bool.false_eq_true, if_false]
    exact State.updTeam_congr s _ (fun x hx => by rw [ht] at hx; cases hx; rfl)

theorem Steps.keepsTeams {s0 s1 : State} {iss : Issue} {lanes : List Nat} {gen : Nat → Word} (h : Steps s0 iss lanes gen s1) : KeepsTeams s0 s1 := by
  by_cases hm : iss.mode ≠ .rst ∨ lanes = []
  · rw [h.1 hm]; exact KeepsTeams.refl _
  · have hm1 : iss.mode = .rst := Classical.byContradiction (fun h => hm (.inl h))
    have hm2 : lanes ≠ [] := fun h => hm (.inr h)
    obtain ⟨t, t', -, rfl, -⟩ := h.2 hm1 hm2
    exact KeepsTeams.updTeam _ _ _

/-- The lane-wise frame, once a lane is active and the ports are ready. -/
theorem laneOp_spec (s : State) (iss : Issue) (readD : Bool) (wa wb wd : Nat) (ext : Nat → Nat) (d : Reg) (a : Option Reg) (b : Option Src)
    (f : Nat → Nat → Nat → Nat → Word → Option Nat × Word) (ht : ∃ t, s.team? iss.tid = some t) (ha : iss.act ≠ 0)
    (hp : iss.low.isSome → portsReady s iss.team (some d) a b) :
    let out (l : Nat) := f l (valA s iss wa a l) (valB s iss wb a b l) (valD s iss wd d l) (iss.team.g l)
    ∃ s1 s2, Steps { popAll s iss a b with free := s.free + 1 } iss (outLanes iss d) (fun l => (out l).2) s1
      ∧ Writes s1 iss wd ext d (inLanes (outLanes iss d) (fun l => (out l).1))
          (fun l => tagA s iss wa a l || tagB s iss wb a b l || (readD && tagD s iss wd d l)) s2
      ∧ laneOp s iss readD wa wb wd ext d a b f = .done s2 := by
  have ha' : (iss.act == 0) = false := by simpa using ha
  have hp' : (iss.low.isSome && !portsReady s iss.team (some d) a b) = false := by
    cases h : iss.low.isSome <;> simp_all
  have ht0 : ∃ t, State.team? { popAll s iss a b with free := s.free + 1 } iss.tid = some t := by
    rw [← Option.isSome_iff_exists]
    exact (popAll_keepsTeams s iss a b iss.tid).trans (Option.isSome_iff_exists.mpr ht)
  obtain hst := writeGens_steps { popAll s iss a b with free := s.free + 1 } iss (outLanes iss d)
    (fun l => (f l (valA s iss wa a l) (valB s iss wb a b l) (valD s iss wd d l) (iss.team.g l)).2) (outLanes_nodup iss d) ht0
  have ht1 := Option.isSome_iff_exists.mp ((hst.keepsTeams iss.tid).trans (Option.isSome_iff_exists.mpr ht0))
  refine ⟨_, _, hst, writeOut_writes _ iss wd ext d (outLanes iss d) _ _ ht1 (outLanes_nodup iss d) ?_, ?_⟩
  · rintro r rfl l hl; exact lanesOf_lt hl
  · simp only [laneOp, ha', Bool.false_eq_true, if_false, hp', List.map_map, List.filterMap_map, Function.comp_def]
    rfl

theorem laneOp_idle {s : State} {iss : Issue} {readD : Bool} {wa wb wd : Nat} {ext : Nat → Nat} {d : Reg} {a : Option Reg} {b : Option Src}
    {f : Nat → Nat → Nat → Nat → Word → Option Nat × Word} (h : iss.act = 0) : laneOp s iss readD wa wb wd ext d a b f = .done s := by
  simp [laneOp, h]

theorem laneOp_waits {s : State} {iss : Issue} {readD : Bool} {wa wb wd : Nat} {ext : Nat → Nat} {d : Reg} {a : Option Reg} {b : Option Src}
    {f : Nat → Nat → Nat → Nat → Word → Option Nat × Word} (h : iss.act ≠ 0) (hl : iss.low.isSome) (hp : portsReady s iss.team (some d) a b = false) :
    laneOp s iss readD wa wb wd ext d a b f = .wait .none s := by
  have h' : (iss.act == 0) = false := by simpa using h
  simp only [laneOp, h', hl, hp, Bool.false_eq_true, if_false, Bool.not_false, Bool.and_self, if_true]

section hashed
variable (s : State) (iss : Issue) (i : Instr)

@[simp] theorem valA_hashed (w : Nat) (a : Option Reg) (l : Nat) : valA (hashed s iss i) iss w a l = valA s iss w a l := by
  simp only [valA, opdA_congr (hashed_cores s iss i) (hashed_free s iss i)]
@[simp] theorem valB_hashed (w : Nat) (a : Option Reg) (b : Option Src) (l : Nat) : valB (hashed s iss i) iss w a b l = valB s iss w a b l := by
  simp only [valB, opdB_congr (hashed_cores s iss i) (hashed_free s iss i)]
@[simp] theorem valD_hashed (w : Nat) (d : Reg) (l : Nat) : valD (hashed s iss i) iss w d l = valD s iss w d l := by
  simp only [valD, opdReg_congr (hashed_cores s iss i) (hashed_free s iss i)]
@[simp] theorem tagA_hashed (w : Nat) (a : Option Reg) (l : Nat) : tagA (hashed s iss i) iss w a l = tagA s iss w a l := by
  simp only [tagA, opdA_congr (hashed_cores s iss i) (hashed_free s iss i)]
@[simp] theorem tagB_hashed (w : Nat) (a : Option Reg) (b : Option Src) (l : Nat) : tagB (hashed s iss i) iss w a b l = tagB s iss w a b l := by
  simp only [tagB, opdB_congr (hashed_cores s iss i) (hashed_free s iss i)]
@[simp] theorem tagD_hashed (w : Nat) (d : Reg) (l : Nat) : tagD (hashed s iss i) iss w d l = tagD s iss w d l := by
  simp only [tagD, opdReg_congr (hashed_cores s iss i) (hashed_free s iss i)]
@[simp] theorem portsReady_hashed (t : Team) (d a : Option Reg) (b : Option Src) : portsReady (hashed s iss i) t d a b = portsReady s t d a b :=
  portsReady_congr (by simp) _ _ _ _

end hashed

/-- An instruction whose body is the lane-wise frame completes as LaneWise says. -/
theorem laneWise_of_laneOp {i : Instr} {ok : Issue → Prop} {wa wb wd : Issue → Nat} {ext : Issue → Nat → Nat} {readD : Issue → Bool} {d : Reg}
    {a : Option Reg} {b : Option Src} {f : State → Issue → Nat → Nat → Nat → Nat → Word → Option Nat × Word}
    (hrun : ∀ s iss, Issues s iss i → ok iss → exec i s = .next (conclude s iss i
      (laneOp (hashed s iss i) iss (readD iss) (wa iss) (wb iss) (wd iss) (ext iss) d a b (f s iss)))) :
    LaneWise i ok wa wb wd ext readD d a b f := by
  intro s iss hi hok
  have hrd := hrun s iss hi hok
  refine ⟨fun ha => ?_, fun ha hp => ?_, fun ha hl hp => ?_⟩
  · rw [hrd, laneOp_idle ha]; rfl
  · have ht : ∃ t, (hashed s iss i).team? iss.tid = some t := ⟨hashTeam iss i iss.team, by simp [hi.team]⟩
    obtain ⟨s1, s2, h1, h2, h3⟩ := laneOp_spec (hashed s iss i) iss (readD iss) (wa iss) (wb iss) (wd iss) (ext iss) d a b (f s iss) ht ha (by simpa using hp)
    simp only [valA_hashed, valB_hashed, valD_hashed, tagA_hashed, tagB_hashed, tagD_hashed] at h1 h2
    exact ⟨s1, s2, by simpa [readState] using h1, h2, by rw [hrd, h3]; rfl⟩
  · rw [hrd, laneOp_waits ha hl (by simpa using hp)]; rfl

/-! ### Predicates -/

theorem maskOf_getLsbD (ls : List Nat) (l : Nat) (hl : l < 1024) : (maskOf ls).getLsbD l = decide (l ∈ ls) := by
  unfold maskOf
  suffices h : ∀ m : LaneMask, (ls.foldl (fun m l => m ||| (1#1024 <<< l)) m).getLsbD l = (m.getLsbD l || decide (l ∈ ls)) by
    rw [h]; simp
  induction ls with
  | nil => intro m; simp
  | cons k ks ih =>
    intro m
    rw [List.foldl_cons, ih]
    simp only [BitVec.getLsbD_or, BitVec.getLsbD_shiftLeft, hl, decide_true, Bool.true_and, BitVec.getLsbD_one, List.mem_cons]
    by_cases h : l = k
    · subst h; simp
    · have e : (!decide (l < k) && decide (l - k = 0) && decide (0 < 1024)) = false := by
        by_cases h2 : l < k
        · simp [h2]
        · have : l - k ≠ 0 := by omega
          simp [this]
      cases h3 : m.getLsbD l <;> simp_all

/-- Writing a predicate in some lanes. -/
theorem Team.writeP_p (t : Team) (r : Nat) (at' val : LaneMask) (q l : Nat) (hl : l < 1024) :
    (t.writeP r at' val).p q l = if q = r ∧ at'.getLsbD l = true then val.getLsbD l else t.p q l := by
  unfold Team.p Team.writeP Team.setP
  by_cases h : q = r
  · subst h
    rw [NMap.getD_set_same]
    cases h1 : at'.getLsbD l <;> simp only [BitVec.getLsbD_or, BitVec.getLsbD_and, BitVec.getLsbD_not, hl, h1] <;> simp
  · simp only [h, false_and, if_false]
    rw [NMap.getD_set_other _ _ _ _ h]

open Claims in
theorem setsPred_writeP (s : State) (iss : Issue) (p : Nat) (at' val : LaneMask) {t : Team} (ht : s.team? iss.tid = some t) :
    SetsPred s iss p at'.getLsbD val.getLsbD (s.updTeam iss.tid (fun t => t.writeP p at' val)) :=
  ⟨t, t.writeP p at' val, ht, State.updTeam_congr s _ (fun x hx => by rw [ht] at hx; cases hx; rfl), t.writeP_p p at' val, rfl⟩

open Claims in
theorem SetsPred_congr {s : State} {iss : Issue} {p : Nat} {a v a' v' : Nat → Bool} {s2 : State} (h : SetsPred s iss p a v s2)
    (ha : ∀ l, l < 1024 → a l = a' l) (hv : ∀ l, l < 1024 → a l = true → v l = v' l) : SetsPred s iss p a' v' s2 := by
  obtain ⟨t, t', h1, h2, h3, h4⟩ := h
  refine ⟨t, t', h1, h2, fun q l hl => ?_, h4⟩
  rw [h3 q l hl, ← ha l hl]
  by_cases h : q = p ∧ a l = true
  · simp [h, hv l hl h.2]
  · simp [h]

end Sys2Proof.Machine
end

