-- ==== Sys2Proof/Laws/PerInstr.lean ====
section
/-! SUPPORT. For every instruction, as syntax: the fields of its word lie within the widths that R116 gives them, so that the word
holds each of them whole; and what follows from that for the word. -/

namespace Sys2Proof

/-- Fields within their widths: opcode 8 bits, class modifier 2, registers and sub-fields 7; no literal beside X = 0. -/
structure Fields.Fit (f : Fields) : Prop where
  op  : f.op < 256
  cm  : f.cm < 4
  d   : f.d < 128
  a   : f.a < 128
  b   : f.b < 128
  lit : f.x = f.lit.isSome

theorem Reg.code_lt : ∀ r : Reg, r.code < 128
  | .v n => Nat.lt_trans n.isLt (by decide)
  | .s n => by have := n.isLt; simp only [Reg.code]; omega
  | .q n => by have := n.isLt; simp only [Reg.code]; omega

theorem Src.code_lt : ∀ b : Src, b.code < 128
  | .reg r => r.code_lt
  | .lit _ => Nat.zero_lt_succ _

theorem Src.isLit_eq : ∀ b : Src, b.isLit = b.litWord.isSome
  | .reg _ => rfl
  | .lit _ => rfl

theorem Cond.code_lt (x : Cond) : x.code < 15 := by cases x <;> decide

theorem VoteKind.code_lt (x : VoteKind) : x.code < 3 := by cases x <;> decide

theorem Special.code_lt (x : Special) : x.code < 18 := by cases x <;> decide

theorem PackSrc.code_lt (x : PackSrc) : x.code < 3 := by cases x <;> decide

theorem QuadX.code_lt (x : QuadX) : x.code < 3 := by cases x <;> decide

theorem ShflMode.code_lt (x : ShflMode) : x.code < 4 := by cases x <;> decide

theorem ScanMode.code_lt (x : ScanMode) : x.code < 4 := by cases x <;> decide

theorem RedxMode.code_lt (x : RedxMode) : x.code < 4 := by cases x <;> decide

theorem TshflMode.code_lt (x : TshflMode) : x.code < 3 := by cases x <;> decide

theorem LdClass.code_lt (x : LdClass) : x.code < 4 := by cases x <;> decide

theorem StClass.code_lt (x : StClass) : x.code < 4 := by cases x <;> decide

theorem AtOrder.code_lt (x : AtOrder) : x.code < 4 := by cases x <;> decide

theorem PfKind.code_lt (x : PfKind) : x.code < 3 := by cases x <;> decide

theorem PhField.code_lt (x : PhField) : x.code < 4 := by cases x <;> decide

theorem FenceKind.code_lt (x : FenceKind) : x.code < 3 := by cases x <;> decide

theorem Scope.code_lt (x : Scope) : x.code < 7 := by cases x <;> decide


/-- A word whose fields fit splits into them again. -/
theorem splitWord_word (f : Fields) (h : f.Fit) : splitWord f.word f.lit = f := by
  obtain ⟨op, x, cm, d, a, b, lit⟩ := f
  obtain ⟨h1, h2, h3, h4, h5, -⟩ := h
  simp only at h1 h2 h3 h4 h5
  have hx : x.toNat < 2 := Bool.toNat_lt x
  have hw : (Fields.word ⟨op, x, cm, d, a, b, lit⟩).toNat
      = op * 2 ^ 24 + x.toNat * 2 ^ 23 + cm * 2 ^ 21 + d * 2 ^ 14 + a * 2 ^ 7 + b := by
    simp only [Fields.word, BitVec.toNat_ofNat]
    apply Nat.mod_eq_of_lt
    omega
  simp only [splitWord, hw, bitsN]
  have e1 : (op * 2 ^ 24 + x.toNat * 2 ^ 23 + cm * 2 ^ 21 + d * 2 ^ 14 + a * 2 ^ 7 + b) / 2 ^ 24 % 2 ^ (31 - 24 + 1) = op := by omega
  have e2 : (op * 2 ^ 24 + x.toNat * 2 ^ 23 + cm * 2 ^ 21 + d * 2 ^ 14 + a * 2 ^ 7 + b) / 2 ^ 23 % 2 ^ (23 - 23 + 1) = x.toNat := by omega
  have e3 : (op * 2 ^ 24 + x.toNat * 2 ^ 23 + cm * 2 ^ 21 + d * 2 ^ 14 + a * 2 ^ 7 + b) / 2 ^ 21 % 2 ^ (22 - 21 + 1) = cm := by omega
  have e4 : (op * 2 ^ 24 + x.toNat * 2 ^ 23 + cm * 2 ^ 21 + d * 2 ^ 14 + a * 2 ^ 7 + b) / 2 ^ 14 % 2 ^ (20 - 14 + 1) = d := by omega
  have e5 : (op * 2 ^ 24 + x.toNat * 2 ^ 23 + cm * 2 ^ 21 + d * 2 ^ 14 + a * 2 ^ 7 + b) / 2 ^ 7 % 2 ^ (13 - 7 + 1) = a := by omega
  have e6 : (op * 2 ^ 24 + x.toNat * 2 ^ 23 + cm * 2 ^ 21 + d * 2 ^ 14 + a * 2 ^ 7 + b) / 2 ^ 0 % 2 ^ (6 - 0 + 1) = b := by omega
  rw [e1, e2, e3, e4, e5, e6]
  cases x <;> rfl

/-- The fields of the instruction's word, where it has one, are within their widths. -/
def Laws.FieldsFit.Statement (i : Instr) : Prop := ∀ f, encodeFields i = some f → f.Fit

theorem Laws.FieldsFit.fits {op cm d a b : Nat} {x : Bool} {lit : Option Word} {f : Fields} (h : some (mkF op x cm d a b lit) = some f)
    (hop : op < 256) (hcm : cm < 4) (hd : d < 128) (ha : a < 128) (hb : b < 128) (hl : x = lit.isSome) : f.Fit := by
  cases h
  exact ⟨hop, hcm, hd, ha, hb, hl⟩

theorem Laws.FieldsFit.nop : Statement (.nop) := fun _ h => fits h (by decide) (by decide) (by decide) (by decide) (by decide) rfl
theorem Laws.FieldsFit.bra (b : Src) : Statement (.bra b) := fun _ h => fits h (by decide) (by decide) (by decide) (by decide) b.code_lt b.isLit_eq
theorem Laws.FieldsFit.brc (neg : Bool) (pa : Fin 8) (b : Src) : Statement (.brc neg pa b) := fun _ h => fits h (by decide) (by have := Bool.toNat_lt neg; omega) (by decide) (Nat.lt_of_lt_of_le pa.isLt (by decide)) b.code_lt b.isLit_eq
theorem Laws.FieldsFit.brany (neg : Bool) (pa : Fin 8) (b : Src) : Statement (.brany neg pa b) := fun _ h => fits h (by decide) (by have := Bool.toNat_lt neg; omega) (by decide) (Nat.lt_of_lt_of_le pa.isLt (by decide)) b.code_lt b.isLit_eq
theorem Laws.FieldsFit.brall (neg : Bool) (pa : Fin 8) (b : Src) : Statement (.brall neg pa b) := fun _ h => fits h (by decide) (by have := Bool.toNat_lt neg; omega) (by decide) (Nat.lt_of_lt_of_le pa.isLt (by decide)) b.code_lt b.isLit_eq
theorem Laws.FieldsFit.jmp (b : Src) : Statement (.jmp b) := fun _ h => fits h (by decide) (by decide) (by decide) (by decide) b.code_lt b.isLit_eq
theorem Laws.FieldsFit.call (d : Reg) (b : Src) : Statement (.call d b) := fun _ h => fits h (by decide) (by decide) d.code_lt (by decide) b.code_lt b.isLit_eq
theorem Laws.FieldsFit.ret (b : Reg) : Statement (.ret b) := fun _ h => fits h (by decide) (by decide) (by decide) (by decide) b.code_lt rfl
theorem Laws.FieldsFit.loop (d : Reg) (b : Src) : Statement (.loop d b) := fun _ h => fits h (by decide) (by decide) d.code_lt (by decide) b.code_lt b.isLit_eq
theorem Laws.FieldsFit.fuse : Statement (.fuse) := fun _ h => fits h (by decide) (by decide) (by decide) (by decide) (by decide) rfl
theorem Laws.FieldsFit.yield : Statement (.yield) := fun _ h => fits h (by decide) (by decide) (by decide) (by decide) (by decide) rfl
theorem Laws.FieldsFit.exit : Statement (.exit) := fun _ h => fits h (by decide) (by decide) (by decide) (by decide) (by decide) rfl
theorem Laws.FieldsFit.stop : Statement (.stop) := fun _ h => fits h (by decide) (by decide) (by decide) (by decide) (by decide) rfl
theorem Laws.FieldsFit.sigchk (b : Src) : Statement (.sigchk b) := fun _ h => fits h (by decide) (by decide) (by decide) (by decide) b.code_lt b.isLit_eq
theorem Laws.FieldsFit.sigrd (d : Reg) : Statement (.sigrd d) := fun _ h => fits h (by decide) (by decide) d.code_lt (by decide) (by decide) rfl
theorem Laws.FieldsFit.elect (p : Fin 8) : Statement (.elect p) := fun _ h => fits h (by decide) (by decide) (by have := p.isLt; omega) (by decide) (by decide) rfl
theorem Laws.FieldsFit.mood (md : Fin 4) (b : Src) : Statement (.mood md b) := fun _ h => fits h (by decide) (by decide) (Nat.lt_of_lt_of_le md.isLt (by decide)) (by decide) b.code_lt b.isLit_eq
theorem Laws.FieldsFit.moodrd (d : Reg) (ma : Fin 4) : Statement (.moodrd d ma) := fun _ h => fits h (by decide) (by decide) d.code_lt (Nat.lt_of_lt_of_le ma.isLt (by decide)) (by decide) rfl
theorem Laws.FieldsFit.cmp (p : Fin 8) (c : Cond) (a : Reg) (b : Src) : Statement (.cmp p c a b) := fun _ h => fits h (by decide) (by decide) (by have := p.isLt; have := c.code_lt; omega) a.code_lt b.code_lt b.isLit_eq
theorem Laws.FieldsFit.pand (p : Fin 8) (pa : Fin 8) (pb : Fin 8) : Statement (.pand p pa pb) := fun _ h => fits h (by decide) (by decide) (by have := p.isLt; omega) (Nat.lt_of_lt_of_le pa.isLt (by decide)) (Nat.lt_of_lt_of_le pb.isLt (by decide)) rfl
theorem Laws.FieldsFit.por (p : Fin 8) (pa : Fin 8) (pb : Fin 8) : Statement (.por p pa pb) := fun _ h => fits h (by decide) (by decide) (by have := p.isLt; omega) (Nat.lt_of_lt_of_le pa.isLt (by decide)) (Nat.lt_of_lt_of_le pb.isLt (by decide)) rfl
theorem Laws.FieldsFit.pxor (p : Fin 8) (pa : Fin 8) (pb : Fin 8) : Statement (.pxor p pa pb) := fun _ h => fits h (by decide) (by decide) (by have := p.isLt; omega) (Nat.lt_of_lt_of_le pa.isLt (by decide)) (Nat.lt_of_lt_of_le pb.isLt (by decide)) rfl
theorem Laws.FieldsFit.pnot (p : Fin 8) (pa : Fin 8) : Statement (.pnot p pa) := fun _ h => fits h (by decide) (by decide) (by have := p.isLt; omega) (Nat.lt_of_lt_of_le pa.isLt (by decide)) (by decide) rfl
theorem Laws.FieldsFit.pmov (p : Fin 8) (a : Reg) (b : Src) : Statement (.pmov p a b) := fun _ h => fits h (by decide) (by decide) (by have := p.isLt; omega) a.code_lt b.code_lt b.isLit_eq
theorem Laws.FieldsFit.vote (p : Fin 8) (k : VoteKind) (pa : Fin 8) : Statement (.vote p k pa) := fun _ h => fits h (by decide) (by decide) (by have := p.isLt; have := k.code_lt; omega) (Nat.lt_of_lt_of_le pa.isLt (by decide)) (by decide) rfl
theorem Laws.FieldsFit.ballot (d : Reg) (pa : Fin 8) (b : Src) : Statement (.ballot d pa b) := fun _ h => fits h (by decide) (by decide) d.code_lt (Nat.lt_of_lt_of_le pa.isLt (by decide)) b.code_lt b.isLit_eq
theorem Laws.FieldsFit.selp (d : Reg) (a : Reg) (pb : Fin 8) : Statement (.selp d a pb) := fun _ h => fits h (by decide) (by decide) d.code_lt a.code_lt (Nat.lt_of_lt_of_le pb.isLt (by decide)) rfl
theorem Laws.FieldsFit.srd (d : Reg) (sp : Special) : Statement (.srd d sp) := fun _ h => fits h (by decide) (by decide) d.code_lt (Nat.lt_trans sp.code_lt (by decide)) (by decide) rfl
theorem Laws.FieldsFit.swrGen (b : Src) : Statement (.swrGen b) := fun _ h => fits h (by decide) (by decide) (by decide) (by decide) b.code_lt b.isLit_eq
theorem Laws.FieldsFit.swrSig (b : Src) : Statement (.swrSig b) := fun _ h => fits h (by decide) (by decide) (by decide) (by decide) b.code_lt b.isLit_eq
theorem Laws.FieldsFit.mov (d : Reg) (a : Reg) : Statement (.mov d a) := fun _ h => fits h (by decide) (by decide) d.code_lt a.code_lt (by decide) rfl
theorem Laws.FieldsFit.movi (d : Reg) (b : Src) : Statement (.movi d b) := fun _ h => fits h (by decide) (by decide) d.code_lt (by decide) b.code_lt b.isLit_eq
theorem Laws.FieldsFit.add (d : Reg) (a : Reg) (b : Src) : Statement (.add d a b) := fun _ h => fits h (by decide) (by decide) d.code_lt a.code_lt b.code_lt b.isLit_eq
theorem Laws.FieldsFit.sub (d : Reg) (a : Reg) (b : Src) : Statement (.sub d a b) := fun _ h => fits h (by decide) (by decide) d.code_lt a.code_lt b.code_lt b.isLit_eq
theorem Laws.FieldsFit.mul (d : Reg) (a : Reg) (b : Src) : Statement (.mul d a b) := fun _ h => fits h (by decide) (by decide) d.code_lt a.code_lt b.code_lt b.isLit_eq
theorem Laws.FieldsFit.mulhi (d : Reg) (a : Reg) (b : Src) : Statement (.mulhi d a b) := fun _ h => fits h (by decide) (by decide) d.code_lt a.code_lt b.code_lt b.isLit_eq
theorem Laws.FieldsFit.fma (d : Reg) (a : Reg) (b : Src) : Statement (.fma d a b) := fun _ h => fits h (by decide) (by decide) d.code_lt a.code_lt b.code_lt b.isLit_eq
theorem Laws.FieldsFit.fms (d : Reg) (a : Reg) (b : Src) : Statement (.fms d a b) := fun _ h => fits h (by decide) (by decide) d.code_lt a.code_lt b.code_lt b.isLit_eq
theorem Laws.FieldsFit.fnma (d : Reg) (a : Reg) (b : Src) : Statement (.fnma d a b) := fun _ h => fits h (by decide) (by decide) d.code_lt a.code_lt b.code_lt b.isLit_eq
theorem Laws.FieldsFit.min (d : Reg) (a : Reg) (b : Src) : Statement (.min d a b) := fun _ h => fits h (by decide) (by decide) d.code_lt a.code_lt b.code_lt b.isLit_eq
theorem Laws.FieldsFit.max (d : Reg) (a : Reg) (b : Src) : Statement (.max d a b) := fun _ h => fits h (by decide) (by decide) d.code_lt a.code_lt b.code_lt b.isLit_eq
theorem Laws.FieldsFit.abs (d : Reg) (a : Reg) : Statement (.abs d a) := fun _ h => fits h (by decide) (by decide) d.code_lt a.code_lt (by decide) rfl
theorem Laws.FieldsFit.neg (d : Reg) (a : Reg) : Statement (.neg d a) := fun _ h => fits h (by decide) (by decide) d.code_lt a.code_lt (by decide) rfl
theorem Laws.FieldsFit.clamp (d : Reg) (a : Reg) (b : Src) : Statement (.clamp d a b) := fun _ h => fits h (by decide) (by decide) d.code_lt a.code_lt b.code_lt b.isLit_eq
theorem Laws.FieldsFit.div (d : Reg) (a : Reg) (b : Src) : Statement (.div d a b) := fun _ h => fits h (by decide) (by decide) d.code_lt a.code_lt b.code_lt b.isLit_eq
theorem Laws.FieldsFit.rem (d : Reg) (a : Reg) (b : Src) : Statement (.rem d a b) := fun _ h => fits h (by decide) (by decide) d.code_lt a.code_lt b.code_lt b.isLit_eq
theorem Laws.FieldsFit.sqrt (d : Reg) (a : Reg) : Statement (.sqrt d a) := fun _ h => fits h (by decide) (by decide) d.code_lt a.code_lt (by decide) rfl
theorem Laws.FieldsFit.rsq (d : Reg) (a : Reg) : Statement (.rsq d a) := fun _ h => fits h (by decide) (by decide) d.code_lt a.code_lt (by decide) rfl
theorem Laws.FieldsFit.rcp (d : Reg) (a : Reg) : Statement (.rcp d a) := fun _ h => fits h (by decide) (by decide) d.code_lt a.code_lt (by decide) rfl
theorem Laws.FieldsFit.exp2 (d : Reg) (a : Reg) : Statement (.exp2 d a) := fun _ h => fits h (by decide) (by decide) d.code_lt a.code_lt (by decide) rfl
theorem Laws.FieldsFit.log2 (d : Reg) (a : Reg) : Statement (.log2 d a) := fun _ h => fits h (by decide) (by decide) d.code_lt a.code_lt (by decide) rfl
theorem Laws.FieldsFit.sin (d : Reg) (a : Reg) : Statement (.sin d a) := fun _ h => fits h (by decide) (by decide) d.code_lt a.code_lt (by decide) rfl
theorem Laws.FieldsFit.cos (d : Reg) (a : Reg) : Statement (.cos d a) := fun _ h => fits h (by decide) (by decide) d.code_lt a.code_lt (by decide) rfl
theorem Laws.FieldsFit.tanh (d : Reg) (a : Reg) : Statement (.tanh d a) := fun _ h => fits h (by decide) (by decide) d.code_lt a.code_lt (by decide) rfl
theorem Laws.FieldsFit.cvt (e : Fin 4) (d : Reg) (a : Reg) (st : Fin 15) : Statement (.cvt e d a st) := fun _ h => fits h (by decide) (Nat.lt_of_lt_of_le e.isLt (by decide)) d.code_lt a.code_lt (Nat.lt_of_lt_of_le st.isLt (by decide)) rfl
theorem Laws.FieldsFit.pack (src : PackSrc) (d : Reg) (a : Reg) (b : Src) : Statement (.pack src d a b) := fun _ h => fits h (by decide) (Nat.lt_trans src.code_lt (by decide)) d.code_lt a.code_lt b.code_lt b.isLit_eq
theorem Laws.FieldsFit.unpack (d : Reg) (a : Reg) (b : Src) : Statement (.unpack d a b) := fun _ h => fits h (by decide) (by decide) d.code_lt a.code_lt b.code_lt b.isLit_eq
theorem Laws.FieldsFit.dot4 (d : Reg) (a : Reg) (b : Src) : Statement (.dot4 d a b) := fun _ h => fits h (by decide) (by decide) d.code_lt a.code_lt b.code_lt b.isLit_eq
theorem Laws.FieldsFit.dot2 (d : Reg) (a : Reg) (b : Src) : Statement (.dot2 d a b) := fun _ h => fits h (by decide) (by decide) d.code_lt a.code_lt b.code_lt b.isLit_eq
theorem Laws.FieldsFit.frc (d : Reg) (a : Reg) : Statement (.frc d a) := fun _ h => fits h (by decide) (by decide) d.code_lt a.code_lt (by decide) rfl
theorem Laws.FieldsFit.rnd (d : Reg) (a : Reg) : Statement (.rnd d a) := fun _ h => fits h (by decide) (by decide) d.code_lt a.code_lt (by decide) rfl
theorem Laws.FieldsFit.and (d : Reg) (a : Reg) (b : Src) : Statement (.and d a b) := fun _ h => fits h (by decide) (by decide) d.code_lt a.code_lt b.code_lt b.isLit_eq
theorem Laws.FieldsFit.or (d : Reg) (a : Reg) (b : Src) : Statement (.or d a b) := fun _ h => fits h (by decide) (by decide) d.code_lt a.code_lt b.code_lt b.isLit_eq
theorem Laws.FieldsFit.xor (d : Reg) (a : Reg) (b : Src) : Statement (.xor d a b) := fun _ h => fits h (by decide) (by decide) d.code_lt a.code_lt b.code_lt b.isLit_eq
theorem Laws.FieldsFit.not (d : Reg) (a : Reg) : Statement (.not d a) := fun _ h => fits h (by decide) (by decide) d.code_lt a.code_lt (by decide) rfl
theorem Laws.FieldsFit.shl (d : Reg) (a : Reg) (b : Src) : Statement (.shl d a b) := fun _ h => fits h (by decide) (by decide) d.code_lt a.code_lt b.code_lt b.isLit_eq
theorem Laws.FieldsFit.shr (d : Reg) (a : Reg) (b : Src) : Statement (.shr d a b) := fun _ h => fits h (by decide) (by decide) d.code_lt a.code_lt b.code_lt b.isLit_eq
theorem Laws.FieldsFit.sar (d : Reg) (a : Reg) (b : Src) : Statement (.sar d a b) := fun _ h => fits h (by decide) (by decide) d.code_lt a.code_lt b.code_lt b.isLit_eq
theorem Laws.FieldsFit.rot (d : Reg) (a : Reg) (b : Src) : Statement (.rot d a b) := fun _ h => fits h (by decide) (by decide) d.code_lt a.code_lt b.code_lt b.isLit_eq
theorem Laws.FieldsFit.popc (d : Reg) (a : Reg) : Statement (.popc d a) := fun _ h => fits h (by decide) (by decide) d.code_lt a.code_lt (by decide) rfl
theorem Laws.FieldsFit.clz (d : Reg) (a : Reg) : Statement (.clz d a) := fun _ h => fits h (by decide) (by decide) d.code_lt a.code_lt (by decide) rfl
theorem Laws.FieldsFit.brev (d : Reg) (a : Reg) : Statement (.brev d a) := fun _ h => fits h (by decide) (by decide) d.code_lt a.code_lt (by decide) rfl
theorem Laws.FieldsFit.bfe (d : Reg) (a : Reg) (b : Src) : Statement (.bfe d a b) := fun _ h => fits h (by decide) (by decide) d.code_lt a.code_lt b.code_lt b.isLit_eq
theorem Laws.FieldsFit.bfi (d : Reg) (a : Reg) (b : Src) : Statement (.bfi d a b) := fun _ h => fits h (by decide) (by decide) d.code_lt a.code_lt b.code_lt b.isLit_eq
theorem Laws.FieldsFit.addc (d : Reg) (a : Reg) (b : Src) : Statement (.addc d a b) := fun _ h => fits h (by decide) (by decide) d.code_lt a.code_lt b.code_lt b.isLit_eq
theorem Laws.FieldsFit.lea (d : Reg) (a : Reg) (b : Src) : Statement (.lea d a b) := fun _ h => fits h (by decide) (by decide) d.code_lt a.code_lt b.code_lt b.isLit_eq
theorem Laws.FieldsFit.qswap (x : QuadX) (d : Reg) (a : Reg) : Statement (.qswap x d a) := fun _ h => fits h (by decide) (Nat.lt_trans x.code_lt (by decide)) d.code_lt a.code_lt (by decide) rfl
theorem Laws.FieldsFit.qbcast (l : Fin 4) (d : Reg) (a : Reg) : Statement (.qbcast l d a) := fun _ h => fits h (by decide) (Nat.lt_of_lt_of_le l.isLt (by decide)) d.code_lt a.code_lt (by decide) rfl
theorem Laws.FieldsFit.shfl (m : ShflMode) (d : Reg) (a : Reg) (b : Src) : Statement (.shfl m d a b) := fun _ h => fits h (by decide) m.code_lt d.code_lt a.code_lt b.code_lt b.isLit_eq
theorem Laws.FieldsFit.scan (m : ScanMode) (d : Reg) (a : Reg) : Statement (.scan m d a) := fun _ h => fits h (by decide) m.code_lt d.code_lt a.code_lt (by decide) rfl
theorem Laws.FieldsFit.redx (m : RedxMode) (d : Reg) (a : Reg) : Statement (.redx m d a) := fun _ h => fits h (by decide) m.code_lt d.code_lt a.code_lt (by decide) rfl
theorem Laws.FieldsFit.matchRow (d : Reg) (a : Reg) : Statement (.matchRow d a) := fun _ h => fits h (by decide) (by decide) d.code_lt a.code_lt (by decide) rfl
theorem Laws.FieldsFit.matchAll (p : Fin 8) (a : Reg) : Statement (.matchAll p a) := fun _ h => fits h (by decide) (by decide) (by have := p.isLt; omega) a.code_lt (by decide) rfl
theorem Laws.FieldsFit.tshfl (m : TshflMode) (d : Reg) (a : Reg) (b : Src) : Statement (.tshfl m d a b) := fun _ h => fits h (by decide) (Nat.lt_trans m.code_lt (by decide)) d.code_lt a.code_lt b.code_lt b.isLit_eq
theorem Laws.FieldsFit.ld8 (cls : LdClass) (d : Reg) (a : Reg) (b : Src) : Statement (.ld8 cls d a b) := fun _ h => fits h (by decide) cls.code_lt d.code_lt a.code_lt b.code_lt b.isLit_eq
theorem Laws.FieldsFit.ld16 (cls : LdClass) (d : Reg) (a : Reg) (b : Src) : Statement (.ld16 cls d a b) := fun _ h => fits h (by decide) cls.code_lt d.code_lt a.code_lt b.code_lt b.isLit_eq
theorem Laws.FieldsFit.ld32 (cls : LdClass) (d : Reg) (a : Reg) (b : Src) : Statement (.ld32 cls d a b) := fun _ h => fits h (by decide) cls.code_lt d.code_lt a.code_lt b.code_lt b.isLit_eq
theorem Laws.FieldsFit.ld64 (cls : LdClass) (d : Reg) (a : Reg) (b : Src) : Statement (.ld64 cls d a b) := fun _ h => fits h (by decide) cls.code_lt d.code_lt a.code_lt b.code_lt b.isLit_eq
theorem Laws.FieldsFit.ld128 (cls : LdClass) (d : Reg) (a : Reg) (b : Src) : Statement (.ld128 cls d a b) := fun _ h => fits h (by decide) cls.code_lt d.code_lt a.code_lt b.code_lt b.isLit_eq
theorem Laws.FieldsFit.st8 (cls : StClass) (d : Reg) (a : Reg) (b : Src) : Statement (.st8 cls d a b) := fun _ h => fits h (by decide) cls.code_lt d.code_lt a.code_lt b.code_lt b.isLit_eq
theorem Laws.FieldsFit.st16 (cls : StClass) (d : Reg) (a : Reg) (b : Src) : Statement (.st16 cls d a b) := fun _ h => fits h (by decide) cls.code_lt d.code_lt a.code_lt b.code_lt b.isLit_eq
theorem Laws.FieldsFit.st32 (cls : StClass) (d : Reg) (a : Reg) (b : Src) : Statement (.st32 cls d a b) := fun _ h => fits h (by decide) cls.code_lt d.code_lt a.code_lt b.code_lt b.isLit_eq
theorem Laws.FieldsFit.st64 (cls : StClass) (d : Reg) (a : Reg) (b : Src) : Statement (.st64 cls d a b) := fun _ h => fits h (by decide) cls.code_lt d.code_lt a.code_lt b.code_lt b.isLit_eq
theorem Laws.FieldsFit.st128 (cls : StClass) (d : Reg) (a : Reg) (b : Src) : Statement (.st128 cls d a b) := fun _ h => fits h (by decide) cls.code_lt d.code_lt a.code_lt b.code_lt b.isLit_eq
theorem Laws.FieldsFit.pf (k : PfKind) (a : Reg) (b : Src) : Statement (.pf k a b) := fun _ h => fits h (by decide) (Nat.lt_trans k.code_lt (by decide)) (by decide) a.code_lt b.code_lt b.isLit_eq
theorem Laws.FieldsFit.atadd (ord : AtOrder) (d : Reg) (a : Reg) (b : Src) : Statement (.atadd ord d a b) := fun _ h => fits h (by decide) ord.code_lt d.code_lt a.code_lt b.code_lt b.isLit_eq
theorem Laws.FieldsFit.atmin (ord : AtOrder) (d : Reg) (a : Reg) (b : Src) : Statement (.atmin ord d a b) := fun _ h => fits h (by decide) ord.code_lt d.code_lt a.code_lt b.code_lt b.isLit_eq
theorem Laws.FieldsFit.atmax (ord : AtOrder) (d : Reg) (a : Reg) (b : Src) : Statement (.atmax ord d a b) := fun _ h => fits h (by decide) ord.code_lt d.code_lt a.code_lt b.code_lt b.isLit_eq
theorem Laws.FieldsFit.atand (ord : AtOrder) (d : Reg) (a : Reg) (b : Src) : Statement (.atand ord d a b) := fun _ h => fits h (by decide) ord.code_lt d.code_lt a.code_lt b.code_lt b.isLit_eq
theorem Laws.FieldsFit.ator (ord : AtOrder) (d : Reg) (a : Reg) (b : Src) : Statement (.ator ord d a b) := fun _ h => fits h (by decide) ord.code_lt d.code_lt a.code_lt b.code_lt b.isLit_eq
theorem Laws.FieldsFit.atxor (ord : AtOrder) (d : Reg) (a : Reg) (b : Src) : Statement (.atxor ord d a b) := fun _ h => fits h (by decide) ord.code_lt d.code_lt a.code_lt b.code_lt b.isLit_eq
theorem Laws.FieldsFit.atxch (ord : AtOrder) (d : Reg) (a : Reg) (b : Src) : Statement (.atxch ord d a b) := fun _ h => fits h (by decide) ord.code_lt d.code_lt a.code_lt b.code_lt b.isLit_eq
theorem Laws.FieldsFit.atcas (ord : AtOrder) (d : Reg) (a : Reg) (b : Src) : Statement (.atcas ord d a b) := fun _ h => fits h (by decide) ord.code_lt d.code_lt a.code_lt b.code_lt b.isLit_eq
theorem Laws.FieldsFit.atinc (ord : AtOrder) (d : Reg) (a : Reg) (b : Src) : Statement (.atinc ord d a b) := fun _ h => fits h (by decide) ord.code_lt d.code_lt a.code_lt b.code_lt b.isLit_eq
theorem Laws.FieldsFit.rdadd (rel : Bool) (d : Reg) (a : Reg) (b : Src) : Statement (.rdadd rel d a b) := fun _ h => fits h (by decide) (by have := Bool.toNat_lt rel; omega) d.code_lt a.code_lt b.code_lt b.isLit_eq
theorem Laws.FieldsFit.rdmin (rel : Bool) (d : Reg) (a : Reg) (b : Src) : Statement (.rdmin rel d a b) := fun _ h => fits h (by decide) (by have := Bool.toNat_lt rel; omega) d.code_lt a.code_lt b.code_lt b.isLit_eq
theorem Laws.FieldsFit.rdmax (rel : Bool) (d : Reg) (a : Reg) (b : Src) : Statement (.rdmax rel d a b) := fun _ h => fits h (by decide) (by have := Bool.toNat_lt rel; omega) d.code_lt a.code_lt b.code_lt b.isLit_eq
theorem Laws.FieldsFit.rdand (rel : Bool) (d : Reg) (a : Reg) (b : Src) : Statement (.rdand rel d a b) := fun _ h => fits h (by decide) (by have := Bool.toNat_lt rel; omega) d.code_lt a.code_lt b.code_lt b.isLit_eq
theorem Laws.FieldsFit.rdor (rel : Bool) (d : Reg) (a : Reg) (b : Src) : Statement (.rdor rel d a b) := fun _ h => fits h (by decide) (by have := Bool.toNat_lt rel; omega) d.code_lt a.code_lt b.code_lt b.isLit_eq
theorem Laws.FieldsFit.rdxor (rel : Bool) (d : Reg) (a : Reg) (b : Src) : Statement (.rdxor rel d a b) := fun _ h => fits h (by decide) (by have := Bool.toNat_lt rel; omega) d.code_lt a.code_lt b.code_lt b.isLit_eq
theorem Laws.FieldsFit.lock (d : Reg) (a : Reg) (b : Src) : Statement (.lock d a b) := fun _ h => fits h (by decide) (by decide) d.code_lt a.code_lt b.code_lt b.isLit_eq
theorem Laws.FieldsFit.trylk (d : Reg) (a : Reg) : Statement (.trylk d a) := fun _ h => fits h (by decide) (by decide) d.code_lt a.code_lt (by decide) rfl
theorem Laws.FieldsFit.unlock (d : Reg) (a : Reg) : Statement (.unlock d a) := fun _ h => fits h (by decide) (by decide) d.code_lt a.code_lt (by decide) rfl
theorem Laws.FieldsFit.lkqry (d : Reg) (a : Reg) : Statement (.lkqry d a) := fun _ h => fits h (by decide) (by decide) d.code_lt a.code_lt (by decide) rfl
theorem Laws.FieldsFit.phhdr (cur : Bool) (b : Src) : Statement (.phhdr cur b) := fun _ h => fits h (by decide) (by have := Bool.toNat_lt cur; omega) (by decide) (by decide) b.code_lt b.isLit_eq
theorem Laws.FieldsFit.phend : Statement (.phend) := fun _ h => fits h (by decide) (by decide) (by decide) (by decide) (by decide) rfl
theorem Laws.FieldsFit.phwait (d : Reg) (a : Reg) (pb : Fin 8) : Statement (.phwait d a pb) := fun _ h => fits h (by decide) (by decide) d.code_lt a.code_lt (Nat.lt_of_lt_of_le pb.isLt (by decide)) rfl
theorem Laws.FieldsFit.phrd (fld : PhField) (d : Reg) : Statement (.phrd fld d) := fun _ h => fits h (by decide) fld.code_lt d.code_lt (by decide) (by decide) rfl
theorem Laws.FieldsFit.fence (k : FenceKind) (sc : Scope) : Statement (.fence k sc) := fun _ h => fits h (by decide) (Nat.lt_trans k.code_lt (by decide)) (by decide) (Nat.lt_trans sc.code_lt (by decide)) (by decide) rfl
theorem Laws.FieldsFit.bar : Statement (.bar) := fun _ h => fits h (by decide) (by decide) (by decide) (by decide) (by decide) rfl
theorem Laws.FieldsFit.gbar : Statement (.gbar) := fun _ h => fits h (by decide) (by decide) (by decide) (by decide) (by decide) rfl
theorem Laws.FieldsFit.waitp (path : Fin 7) (b : Src) : Statement (.waitp path b) := fun _ h => fits h (by decide) (by decide) (by decide) (Nat.lt_of_lt_of_le path.isLt (by decide)) b.code_lt b.isLit_eq
theorem Laws.FieldsFit.waitct (a : Reg) (b : Src) : Statement (.waitct a b) := fun _ h => fits h (by decide) (by decide) (by decide) a.code_lt b.code_lt b.isLit_eq
theorem Laws.FieldsFit.ctset (rel : Bool) (a : Reg) (b : Src) : Statement (.ctset rel a b) := fun _ h => fits h (by decide) (by have := Bool.toNat_lt rel; omega) (by decide) a.code_lt b.code_lt b.isLit_eq
theorem Laws.FieldsFit.ctadd (rel : Bool) (d : Reg) (a : Reg) (b : Src) : Statement (.ctadd rel d a b) := fun _ h => fits h (by decide) (by have := Bool.toNat_lt rel; omega) d.code_lt a.code_lt b.code_lt b.isLit_eq
theorem Laws.FieldsFit.ctrd (d : Reg) (a : Reg) : Statement (.ctrd d a) := fun _ h => fits h (by decide) (by decide) d.code_lt a.code_lt (by decide) rfl
theorem Laws.FieldsFit.bld (fb : Bool) (sq : Bool) (d : Reg) (a : Reg) (b : Reg) : Statement (.bld fb sq d a b) := fun _ h => fits h (by decide) (by have := Bool.toNat_lt fb; have := Bool.toNat_lt sq; omega) d.code_lt a.code_lt b.code_lt rfl
theorem Laws.FieldsFit.mma (fb : Bool) (sq : Bool) (d : Reg) (a : Reg) (b : Reg) : Statement (.mma fb sq d a b) := fun _ h => fits h (by decide) (by have := Bool.toNat_lt fb; have := Bool.toNat_lt sq; omega) d.code_lt a.code_lt b.code_lt rfl
theorem Laws.FieldsFit.mmas (fb : Bool) (sq : Bool) (d : Reg) (a : Reg) (b : Reg) : Statement (.mmas fb sq d a b) := fun _ h => fits h (by decide) (by have := Bool.toNat_lt fb; have := Bool.toNat_lt sq; omega) d.code_lt a.code_lt b.code_lt rfl
theorem Laws.FieldsFit.accz (fb : Bool) (sq : Bool) (d : Reg) : Statement (.accz fb sq d) := fun _ h => fits h (by decide) (by have := Bool.toNat_lt fb; have := Bool.toNat_lt sq; omega) d.code_lt (by decide) (by decide) rfl
theorem Laws.FieldsFit.accld (fb : Bool) (sq : Bool) (d : Reg) (a : Reg) (b : Src) : Statement (.accld fb sq d a b) := fun _ h => fits h (by decide) (by have := Bool.toNat_lt fb; have := Bool.toNat_lt sq; omega) d.code_lt a.code_lt b.code_lt b.isLit_eq
theorem Laws.FieldsFit.accst (fb : Bool) (sq : Bool) (d : Reg) (a : Reg) (b : Src) : Statement (.accst fb sq d a b) := fun _ h => fits h (by decide) (by have := Bool.toNat_lt fb; have := Bool.toNat_lt sq; omega) d.code_lt a.code_lt b.code_lt b.isLit_eq
theorem Laws.FieldsFit.accrd (d : Reg) (a : Reg) : Statement (.accrd d a) := fun _ h => fits h (by decide) (by decide) d.code_lt a.code_lt (by decide) rfl
theorem Laws.FieldsFit.accwr (d : Reg) (a : Reg) : Statement (.accwr d a) := fun _ h => fits h (by decide) (by decide) d.code_lt a.code_lt (by decide) rfl
theorem Laws.FieldsFit.spmld (fb : Bool) (sq : Bool) (d : Reg) (a : Reg) (b : Src) : Statement (.spmld fb sq d a b) := fun _ h => fits h (by decide) (by have := Bool.toNat_lt fb; have := Bool.toNat_lt sq; omega) d.code_lt a.code_lt b.code_lt b.isLit_eq
theorem Laws.FieldsFit.qnt (fb : Bool) (sq : Bool) (d : Reg) (a : Reg) (b : Src) : Statement (.qnt fb sq d a b) := fun _ h => fits h (by decide) (by have := Bool.toNat_lt fb; have := Bool.toNat_lt sq; omega) d.code_lt a.code_lt b.code_lt b.isLit_eq
theorem Laws.FieldsFit.dqnt (fb : Bool) (sq : Bool) (d : Reg) (a : Reg) (b : Src) : Statement (.dqnt fb sq d a b) := fun _ h => fits h (by decide) (by have := Bool.toNat_lt fb; have := Bool.toNat_lt sq; omega) d.code_lt a.code_lt b.code_lt b.isLit_eq
theorem Laws.FieldsFit.mxqry (d : Reg) : Statement (.mxqry d) := fun _ h => fits h (by decide) (by decide) d.code_lt (by decide) (by decide) rfl
theorem Laws.FieldsFit.cpsl (fb : Bool) (sq : Bool) (d : Reg) (a : Reg) (b : Src) : Statement (.cpsl fb sq d a b) := fun _ h => fits h (by decide) (by have := Bool.toNat_lt fb; have := Bool.toNat_lt sq; omega) d.code_lt a.code_lt b.code_lt b.isLit_eq
theorem Laws.FieldsFit.hbind (d : Reg) (a : Reg) (b : Src) : Statement (.hbind d a b) := fun _ h => fits h (by decide) (by decide) d.code_lt a.code_lt b.code_lt b.isLit_eq
theorem Laws.FieldsFit.hwait (d : Reg) (a : Reg) : Statement (.hwait d a) := fun _ h => fits h (by decide) (by decide) d.code_lt a.code_lt (by decide) rfl
theorem Laws.FieldsFit.hrel (d : Reg) (a : Reg) : Statement (.hrel d a) := fun _ h => fits h (by decide) (by decide) d.code_lt a.code_lt (by decide) rfl
theorem Laws.FieldsFit.hstat (d : Reg) (a : Reg) : Statement (.hstat d a) := fun _ h => fits h (by decide) (by decide) d.code_lt a.code_lt (by decide) rfl
theorem Laws.FieldsFit.put (fb : Bool) (sq : Bool) (d : Reg) (a : Reg) (b : Reg) : Statement (.put fb sq d a b) := fun _ h => fits h (by decide) (by have := Bool.toNat_lt fb; have := Bool.toNat_lt sq; omega) d.code_lt a.code_lt b.code_lt rfl
theorem Laws.FieldsFit.get (fb : Bool) (sq : Bool) (d : Reg) (a : Reg) (b : Reg) : Statement (.get fb sq d a b) := fun _ h => fits h (by decide) (by have := Bool.toNat_lt fb; have := Bool.toNat_lt sq; omega) d.code_lt a.code_lt b.code_lt rfl
theorem Laws.FieldsFit.bulk (fb : Bool) (sq : Bool) (d : Reg) : Statement (.bulk fb sq d) := fun _ h => fits h (by decide) (by have := Bool.toNat_lt fb; have := Bool.toNat_lt sq; omega) d.code_lt (by decide) (by decide) rfl
theorem Laws.FieldsFit.send (fb : Bool) (sq : Bool) (d : Reg) (a : Reg) : Statement (.send fb sq d a) := fun _ h => fits h (by decide) (by have := Bool.toNat_lt fb; have := Bool.toNat_lt sq; omega) d.code_lt a.code_lt (by decide) rfl
theorem Laws.FieldsFit.recv (a : Reg) : Statement (.recv a) := fun _ h => fits h (by decide) (by decide) (by decide) a.code_lt (by decide) rfl
theorem Laws.FieldsFit.fxqry (d : Reg) (b : Src) : Statement (.fxqry d b) := fun _ h => fits h (by decide) (by decide) d.code_lt (by decide) b.code_lt b.isLit_eq
theorem Laws.FieldsFit.cjpost (fb : Bool) (sq : Bool) (d : Reg) : Statement (.cjpost fb sq d) := fun _ h => fits h (by decide) (by have := Bool.toNat_lt fb; have := Bool.toNat_lt sq; omega) d.code_lt (by decide) (by decide) rfl
theorem Laws.FieldsFit.cjcancel (d : Reg) (a : Reg) : Statement (.cjcancel d a) := fun _ h => fits h (by decide) (by decide) d.code_lt a.code_lt (by decide) rfl
theorem Laws.FieldsFit.cjqry (d : Reg) (a : Reg) : Statement (.cjqry d a) := fun _ h => fits h (by decide) (by decide) d.code_lt a.code_lt (by decide) rfl
theorem Laws.FieldsFit.trap (b : Src) : Statement (.trap b) := fun _ h => fits h (by decide) (by decide) (by decide) (by decide) b.code_lt b.isLit_eq
theorem Laws.FieldsFit.chkerr (d : Reg) (b : Src) : Statement (.chkerr d b) := fun _ h => fits h (by decide) (by decide) d.code_lt (by decide) b.code_lt b.isLit_eq
theorem Laws.FieldsFit.bkpt (b : Src) : Statement (.bkpt b) := fun _ h => fits h (by decide) (by decide) (by decide) (by decide) b.code_lt b.isLit_eq
theorem Laws.FieldsFit.eret : Statement (.eret) := fun _ h => fits h (by decide) (by decide) (by decide) (by decide) (by decide) rfl
theorem Laws.FieldsFit.sysrd (d : Reg) (reg : Fin 12) : Statement (.sysrd d reg) := fun _ h => fits h (by decide) (by decide) d.code_lt (Nat.lt_of_lt_of_le reg.isLt (by decide)) (by decide) rfl
theorem Laws.FieldsFit.syswr (reg : Fin 12) (b : Src) : Statement (.syswr reg b) := fun _ h => fits h (by decide) (by decide) (by decide) (Nat.lt_of_lt_of_le reg.isLt (by decide)) b.code_lt b.isLit_eq
theorem Laws.FieldsFit.taskrd (d : Reg) (item : Fin 6) : Statement (.taskrd d item) := fun _ h => fits h (by decide) (by decide) d.code_lt (Nat.lt_of_lt_of_le item.isLt (by decide)) (by decide) rfl
theorem Laws.FieldsFit.deviceReset : Statement (.deviceReset) := fun _ h => nomatch h
theorem Laws.FieldsFit.notifyWrite (x0 : Nat) (x1 : DWord) : Statement (.notifyWrite x0 x1) := fun _ h => nomatch h
theorem Laws.FieldsFit.slotMap (x0 : Fin 64) (x1 : DWord) : Statement (.slotMap x0 x1) := fun _ h => nomatch h
theorem Laws.FieldsFit.slotUnmap (x0 : Fin 64) : Statement (.slotUnmap x0) := fun _ h => nomatch h
theorem Laws.FieldsFit.recordFetch (x0 : Fin 64) : Statement (.recordFetch x0) := fun _ h => nomatch h
theorem Laws.FieldsFit.recordCheck (x0 : Fin 64) : Statement (.recordCheck x0) := fun _ h => nomatch h
theorem Laws.FieldsFit.recordRelease (x0 : Fin 64) : Statement (.recordRelease x0) := fun _ h => nomatch h
theorem Laws.FieldsFit.groupPlace (x0 : Fin 2) : Statement (.groupPlace x0) := fun _ h => nomatch h
theorem Laws.FieldsFit.gangPlace (x0 : Fin 2) : Statement (.gangPlace x0) := fun _ h => nomatch h
theorem Laws.FieldsFit.affinityWiden (x0 : Fin 64) : Statement (.affinityWiden x0) := fun _ h => nomatch h
theorem Laws.FieldsFit.preempt (x0 : Fin 64) : Statement (.preempt x0) := fun _ h => nomatch h
theorem Laws.FieldsFit.teamEvict (x0 : Nat) : Statement (.teamEvict x0) := fun _ h => nomatch h
theorem Laws.FieldsFit.teamRestore (x0 : Nat) : Statement (.teamRestore x0) := fun _ h => nomatch h
theorem Laws.FieldsFit.teamRetire (x0 : Nat) : Statement (.teamRetire x0) := fun _ h => nomatch h
theorem Laws.FieldsFit.launchComplete (x0 : Nat) : Statement (.launchComplete x0) := fun _ h => nomatch h
theorem Laws.FieldsFit.watchdogExpire (x0 : Nat) : Statement (.watchdogExpire x0) := fun _ h => nomatch h
theorem Laws.FieldsFit.clockThrottle (x0 : Fin 256) : Statement (.clockThrottle x0) := fun _ h => nomatch h
theorem Laws.FieldsFit.slotOwnerWrite (x0 : Fin 64) (x1 : DWord) : Statement (.slotOwnerWrite x0 x1) := fun _ h => nomatch h
theorem Laws.FieldsFit.ctxdescWrite (x0 : DWord) (x1 : Nat) : Statement (.ctxdescWrite x0 x1) := fun _ h => nomatch h
theorem Laws.FieldsFit.xlinvPage (x0 : Bool) (x1 : Nat) : Statement (.xlinvPage x0 x1) := fun _ h => nomatch h
theorem Laws.FieldsFit.xlinvContext (x0 : Bool) (x1 : Nat) : Statement (.xlinvContext x0 x1) := fun _ h => nomatch h
theorem Laws.FieldsFit.xlinvAll (x0 : Bool) : Statement (.xlinvAll x0) := fun _ h => nomatch h
theorem Laws.FieldsFit.xlinvDone : Statement (.xlinvDone) := fun _ h => nomatch h
theorem Laws.FieldsFit.translationWalk (x0 : Nat) : Statement (.translationWalk x0) := fun _ h => nomatch h
theorem Laws.FieldsFit.pageRequestWrite : Statement (.pageRequestWrite) := fun _ h => nomatch h
theorem Laws.FieldsFit.pgrdoneFilled (x0 : Nat) : Statement (.pgrdoneFilled x0) := fun _ h => nomatch h
theorem Laws.FieldsFit.pgrdoneTranslationFault (x0 : Nat) : Statement (.pgrdoneTranslationFault x0) := fun _ h => nomatch h
theorem Laws.FieldsFit.pgrdoneProtectionFault (x0 : Nat) : Statement (.pgrdoneProtectionFault x0) := fun _ h => nomatch h
theorem Laws.FieldsFit.memoryResponse (x0 : Nat) (x1 : Marked) (x2 : Nat) : Statement (.memoryResponse x0 x1 x2) := fun _ h => nomatch h
theorem Laws.FieldsFit.holdLimitBounce (x0 : Nat) : Statement (.holdLimitBounce x0) := fun _ h => nomatch h
theorem Laws.FieldsFit.parenthesisReissue (x0 : Nat) : Statement (.parenthesisReissue x0) := fun _ h => nomatch h
theorem Laws.FieldsFit.backoffExpire (x0 : Nat) : Statement (.backoffExpire x0) := fun _ h => nomatch h
theorem Laws.FieldsFit.homeLoad (x0 : Nat) : Statement (.homeLoad x0) := fun _ h => nomatch h
theorem Laws.FieldsFit.writeNotice (x0 : Nat) : Statement (.writeNotice x0) := fun _ h => nomatch h
theorem Laws.FieldsFit.sectorFlush (x0 : Fin 256) (x1 : Nat) : Statement (.sectorFlush x0 x1) := fun _ h => nomatch h
theorem Laws.FieldsFit.homeSyncStore (x0 : Nat) : Statement (.homeSyncStore x0) := fun _ h => nomatch h
theorem Laws.FieldsFit.homeAtomic (x0 : Nat) : Statement (.homeAtomic x0) := fun _ h => nomatch h
theorem Laws.FieldsFit.homeReduction (x0 : Nat) : Statement (.homeReduction x0) := fun _ h => nomatch h
theorem Laws.FieldsFit.recall (x0 : Fin 256) (x1 : Nat) : Statement (.recall x0 x1) := fun _ h => nomatch h
theorem Laws.FieldsFit.writeUpdate (x0 : Nat) (x1 : Nat) : Statement (.writeUpdate x0 x1) := fun _ h => nomatch h
theorem Laws.FieldsFit.updateSwitch (x0 : Nat) : Statement (.updateSwitch x0) := fun _ h => nomatch h
theorem Laws.FieldsFit.missFill (x0 : Nat) (x1 : Nat) : Statement (.missFill x0 x1) := fun _ h => nomatch h
theorem Laws.FieldsFit.arrival (x0 : Fin 256) (x1 : Fin 64) (x2 : Nat) : Statement (.arrival x0 x1 x2) := fun _ h => nomatch h
theorem Laws.FieldsFit.phaseRaise (x0 : Nat) (x1 : Nat) : Statement (.phaseRaise x0 x1) := fun _ h => nomatch h
theorem Laws.FieldsFit.phaseCommit (x0 : Nat) : Statement (.phaseCommit x0) := fun _ h => nomatch h
theorem Laws.FieldsFit.commitBroadcast (x0 : Nat) (x1 : Fin 2) : Statement (.commitBroadcast x0 x1) := fun _ h => nomatch h
theorem Laws.FieldsFit.peerCommitMessage (x0 : Nat) (x1 : PeerPhase) : Statement (.peerCommitMessage x0 x1) := fun _ h => nomatch h
theorem Laws.FieldsFit.peerDiscardMessage (x0 : Nat) (x1 : Nat) : Statement (.peerDiscardMessage x0 x1) := fun _ h => nomatch h
theorem Laws.FieldsFit.lockTimeout (x0 : Nat) : Statement (.lockTimeout x0) := fun _ h => nomatch h
theorem Laws.FieldsFit.absenceTimerExpire (x0 : Nat) : Statement (.absenceTimerExpire x0) := fun _ h => nomatch h
theorem Laws.FieldsFit.deadlockProbe (x0 : Nat) : Statement (.deadlockProbe x0) := fun _ h => nomatch h
theorem Laws.FieldsFit.engineOpStart (x0 : Nat) : Statement (.engineOpStart x0) := fun _ h => nomatch h
theorem Laws.FieldsFit.engineOpComplete (x0 : Nat) : Statement (.engineOpComplete x0) := fun _ h => nomatch h
theorem Laws.FieldsFit.sparsityEntryArrive (x0 : Fin 128) (x1 : List Byte) : Statement (.sparsityEntryArrive x0 x1) := fun _ h => nomatch h
theorem Laws.FieldsFit.matrixQueryCommand (x0 : Nat) : Statement (.matrixQueryCommand x0) := fun _ h => nomatch h
theorem Laws.FieldsFit.matrixBadCommand (x0 : Nat) : Statement (.matrixBadCommand x0) := fun _ h => nomatch h
theorem Laws.FieldsFit.copyLineLand (x0 : Nat) : Statement (.copyLineLand x0) := fun _ h => nomatch h
theorem Laws.FieldsFit.copyFull (x0 : Nat) (x1 : Fin 8) : Statement (.copyFull x0 x1) := fun _ h => nomatch h
theorem Laws.FieldsFit.handleDrainDone (x0 : Nat) (x1 : Fin 8) : Statement (.handleDrainDone x0 x1) := fun _ h => nomatch h
theorem Laws.FieldsFit.copyCancel (x0 : Nat) : Statement (.copyCancel x0) := fun _ h => nomatch h
theorem Laws.FieldsFit.copyProgress (x0 : Nat) : Statement (.copyProgress x0) := fun _ h => nomatch h
theorem Laws.FieldsFit.copyBadCommand (x0 : Nat) : Statement (.copyBadCommand x0) := fun _ h => nomatch h
theorem Laws.FieldsFit.conjunctionQueryCommand (x0 : Nat) : Statement (.conjunctionQueryCommand x0) := fun _ h => nomatch h
theorem Laws.FieldsFit.conjunctionBadCommand (x0 : Nat) : Statement (.conjunctionBadCommand x0) := fun _ h => nomatch h
theorem Laws.FieldsFit.fabricQueryCommand (x0 : Nat) : Statement (.fabricQueryCommand x0) := fun _ h => nomatch h
theorem Laws.FieldsFit.fabricBadCommand (x0 : Nat) : Statement (.fabricBadCommand x0) := fun _ h => nomatch h
theorem Laws.FieldsFit.packetForm (x0 : Nat) : Statement (.packetForm x0) := fun _ h => nomatch h
theorem Laws.FieldsFit.fyoloInbound (x0 : InboundReq) : Statement (.fyoloInbound x0) := fun _ h => nomatch h
theorem Laws.FieldsFit.packetAck (x0 : Nat) (x1 : Nat) (x2 : Nat) (x3 : Marked) : Statement (.packetAck x0 x1 x2 x3) := fun _ h => nomatch h
theorem Laws.FieldsFit.multicastForward (x0 : Nat) : Statement (.multicastForward x0) := fun _ h => nomatch h
theorem Laws.FieldsFit.flitReceive (x0 : Fin 8) (x1 : Nat) (x2 : Bool) : Statement (.flitReceive x0 x1 x2) := fun _ h => nomatch h
theorem Laws.FieldsFit.linkAck (x0 : Fin 8) (x1 : Nat) : Statement (.linkAck x0 x1) := fun _ h => nomatch h
theorem Laws.FieldsFit.linkNak (x0 : Fin 8) (x1 : Nat) : Statement (.linkNak x0 x1) := fun _ h => nomatch h
theorem Laws.FieldsFit.acktoExpire (x0 : Fin 8) : Statement (.acktoExpire x0) := fun _ h => nomatch h
theorem Laws.FieldsFit.laneLoss (x0 : Fin 8) (x1 : Nat) : Statement (.laneLoss x0 x1) := fun _ h => nomatch h
theorem Laws.FieldsFit.retrainDone (x0 : Fin 8) : Statement (.retrainDone x0) := fun _ h => nomatch h
theorem Laws.FieldsFit.endToEndTimeout (x0 : Nat) (x1 : Nat) : Statement (.endToEndTimeout x0 x1) := fun _ h => nomatch h
theorem Laws.FieldsFit.fyselfWrite (x0 : DWord) : Statement (.fyselfWrite x0) := fun _ h => nomatch h
theorem Laws.FieldsFit.fyrtinvWrite (x0 : DWord) : Statement (.fyrtinvWrite x0) := fun _ h => nomatch h
theorem Laws.FieldsFit.conjunctionRoundIssue (x0 : Fin 2) : Statement (.conjunctionRoundIssue x0) := fun _ h => nomatch h
theorem Laws.FieldsFit.conjunctionRoundComplete (x0 : Nat) (x1 : Nat) (x2 : Marked) : Statement (.conjunctionRoundComplete x0 x1 x2) := fun _ h => nomatch h
theorem Laws.FieldsFit.callReplyWrite (x0 : Nat) (x1 : DWord) : Statement (.callReplyWrite x0 x1) := fun _ h => nomatch h
theorem Laws.FieldsFit.faultRecordDrain (x0 : Nat) : Statement (.faultRecordDrain x0) := fun _ h => nomatch h
theorem Laws.FieldsFit.teamRestart (x0 : Nat) : Statement (.teamRestart x0) := fun _ h => nomatch h
theorem Laws.FieldsFit.mxresetWrite (x0 : DWord) : Statement (.mxresetWrite x0) := fun _ h => nomatch h
theorem Laws.FieldsFit.matrixResetError (x0 : Fin 128) : Statement (.matrixResetError x0) := fun _ h => nomatch h
theorem Laws.FieldsFit.matrixResetDone (x0 : Fin 128) : Statement (.matrixResetDone x0) := fun _ h => nomatch h
theorem Laws.FieldsFit.ctxResume (x0 : Nat) : Statement (.ctxResume x0) := fun _ h => nomatch h
theorem Laws.FieldsFit.ctxDestroy (x0 : Nat) : Statement (.ctxDestroy x0) := fun _ h => nomatch h
theorem Laws.FieldsFit.vfswitchWrite (x0 : DWord) : Statement (.vfswitchWrite x0) := fun _ h => nomatch h
theorem Laws.FieldsFit.switchUnitCommit (x0 : Nat) : Statement (.switchUnitCommit x0) := fun _ h => nomatch h
theorem Laws.FieldsFit.funcPreempt (x0 : Nat) : Statement (.funcPreempt x0) := fun _ h => nomatch h
theorem Laws.FieldsFit.funcRestore (x0 : Nat) : Statement (.funcRestore x0) := fun _ h => nomatch h
theorem Laws.FieldsFit.ckOpen (x0 : Nat) : Statement (.ckOpen x0) := fun _ h => nomatch h
theorem Laws.FieldsFit.ckRollback (x0 : Nat) : Statement (.ckRollback x0) := fun _ h => nomatch h
theorem Laws.FieldsFit.ckClose (x0 : Nat) : Statement (.ckClose x0) := fun _ h => nomatch h
theorem Laws.FieldsFit.svcDrain (x0 : Nat) (x1 : Nat) : Statement (.svcDrain x0 x1) := fun _ h => nomatch h
theorem Laws.FieldsFit.svcReturn (x0 : Nat) (x1 : Nat) : Statement (.svcReturn x0 x1) := fun _ h => nomatch h
theorem Laws.FieldsFit.svcRepair (x0 : Nat) (x1 : Nat) : Statement (.svcRepair x0 x1) := fun _ h => nomatch h
theorem Laws.FieldsFit.svcUpdate (x0 : Nat) (x1 : UnitImage) : Statement (.svcUpdate x0 x1) := fun _ h => nomatch h
theorem Laws.FieldsFit.unitEmpty (x0 : Nat) (x1 : Nat) : Statement (.unitEmpty x0 x1) := fun _ h => nomatch h
theorem Laws.FieldsFit.unitReady (x0 : Nat) (x1 : Nat) : Statement (.unitReady x0 x1) := fun _ h => nomatch h
theorem Laws.FieldsFit.scrubLine (x0 : ScrubTarget) (x1 : ScrubOutcome) : Statement (.scrubLine x0 x1) := fun _ h => nomatch h
theorem Laws.FieldsFit.resync (x0 : DWord) : Statement (.resync x0) := fun _ h => nomatch h
theorem Laws.FieldsFit.spdmGetVersion : Statement .spdmGetVersion := fun _ h => nomatch h
theorem Laws.FieldsFit.spdmGetCapabilities : Statement .spdmGetCapabilities := fun _ h => nomatch h
theorem Laws.FieldsFit.spdmNegotiateAlgorithms : Statement .spdmNegotiateAlgorithms := fun _ h => nomatch h
theorem Laws.FieldsFit.spdmGetDigests : Statement .spdmGetDigests := fun _ h => nomatch h
theorem Laws.FieldsFit.spdmGetCertificate : Statement .spdmGetCertificate := fun _ h => nomatch h
theorem Laws.FieldsFit.spdmChallenge (x0 : List Byte) : Statement (.spdmChallenge x0) := fun _ h => nomatch h
theorem Laws.FieldsFit.spdmGetMeasurements (x0 : List Byte) : Statement (.spdmGetMeasurements x0) := fun _ h => nomatch h
theorem Laws.FieldsFit.spdmUnsupported (x0 : Byte) : Statement (.spdmUnsupported x0) := fun _ h => nomatch h
theorem Laws.FieldsFit.functionLevelReset (x0 : Nat) : Statement (.functionLevelReset x0) := fun _ h => nomatch h
theorem Laws.FieldsFit.hostCompletionError (x0 : Nat) (x1 : Nat) : Statement (.hostCompletionError x0 x1) := fun _ h => nomatch h
theorem Laws.FieldsFit.hostLinkDown (x0 : Fin 2) : Statement (.hostLinkDown x0) := fun _ h => nomatch h
theorem Laws.FieldsFit.mdLaunchMessage (x0 : Fin 64) (x1 : Nat) : Statement (.mdLaunchMessage x0 x1) := fun _ h => nomatch h
theorem Laws.FieldsFit.mdAck (x0 : Fin 64) (x1 : Nat) : Statement (.mdAck x0 x1) := fun _ h => nomatch h
theorem Laws.FieldsFit.mdConfirm (x0 : Fin 64) : Statement (.mdConfirm x0) := fun _ h => nomatch h
theorem Laws.FieldsFit.mdAckTimeout (x0 : Fin 64) : Statement (.mdAckTimeout x0) := fun _ h => nomatch h
theorem Laws.FieldsFit.mdSelfAbortTimeout (x0 : Fin 64) : Statement (.mdSelfAbortTimeout x0) := fun _ h => nomatch h
theorem Laws.FieldsFit.mdAbort (x0 : Fin 64) : Statement (.mdAbort x0) := fun _ h => nomatch h
theorem Laws.FieldsFit.mdRaised (x0 : Fin 64) (x1 : Nat) : Statement (.mdRaised x0 x1) := fun _ h => nomatch h
theorem Laws.FieldsFit.mdCommit (x0 : Fin 64) : Statement (.mdCommit x0) := fun _ h => nomatch h
theorem Laws.FieldsFit.mdApplied (x0 : Fin 64) (x1 : Nat) : Statement (.mdApplied x0 x1) := fun _ h => nomatch h
theorem Laws.FieldsFit.mdRelease (x0 : Fin 64) : Statement (.mdRelease x0) := fun _ h => nomatch h
theorem Laws.FieldsFit.registerWrite (x0 : MReg) (x1 : DWord) : Statement (.registerWrite x0 x1) := fun _ h => nomatch h
theorem Laws.FieldsFit.replayStoreReissue (x0 : Nat) : Statement (.replayStoreReissue x0) := fun _ h => nomatch h
theorem Laws.FieldsFit.failedPathMarkExpire (x0 : Fin 8) (x1 : Nat) (x2 : Nat) : Statement (.failedPathMarkExpire x0 x1 x2) := fun _ h => nomatch h
theorem Laws.FieldsFit.peerCommitAck (x0 : Nat) (x1 : Nat) : Statement (.peerCommitAck x0 x1) := fun _ h => nomatch h
theorem Laws.FieldsFit.throttleEnd (x0 : Fin 256) : Statement (.throttleEnd x0) := fun _ h => nomatch h
theorem Laws.FieldsFit.hostLinkUp (x0 : Fin 2) : Statement (.hostLinkUp x0) := fun _ h => nomatch h

/-- The statement for every instruction. -/
theorem Laws.FieldsFit.all : ∀ i : Instr, Statement i
  | .nop => Laws.FieldsFit.nop
  | .bra x0 => Laws.FieldsFit.bra x0
  | .brc x0 x1 x2 => Laws.FieldsFit.brc x0 x1 x2
  | .brany x0 x1 x2 => Laws.FieldsFit.brany x0 x1 x2
  | .brall x0 x1 x2 => Laws.FieldsFit.brall x0 x1 x2
  | .jmp x0 => Laws.FieldsFit.jmp x0
  | .call x0 x1 => Laws.FieldsFit.call x0 x1
  | .ret x0 => Laws.FieldsFit.ret x0
  | .loop x0 x1 => Laws.FieldsFit.loop x0 x1
  | .fuse => Laws.FieldsFit.fuse
  | .yield => Laws.FieldsFit.yield
  | .exit => Laws.FieldsFit.exit
  | .stop => Laws.FieldsFit.stop
  | .sigchk x0 => Laws.FieldsFit.sigchk x0
  | .sigrd x0 => Laws.FieldsFit.sigrd x0
  | .elect x0 => Laws.FieldsFit.elect x0
  | .mood x0 x1 => Laws.FieldsFit.mood x0 x1
  | .moodrd x0 x1 => Laws.FieldsFit.moodrd x0 x1
  | .cmp x0 x1 x2 x3 => Laws.FieldsFit.cmp x0 x1 x2 x3
  | .pand x0 x1 x2 => Laws.FieldsFit.pand x0 x1 x2
  | .por x0 x1 x2 => Laws.FieldsFit.por x0 x1 x2
  | .pxor x0 x1 x2 => Laws.FieldsFit.pxor x0 x1 x2
  | .pnot x0 x1 => Laws.FieldsFit.pnot x0 x1
  | .pmov x0 x1 x2 => Laws.FieldsFit.pmov x0 x1 x2
  | .vote x0 x1 x2 => Laws.FieldsFit.vote x0 x1 x2
  | .ballot x0 x1 x2 => Laws.FieldsFit.ballot x0 x1 x2
  | .selp x0 x1 x2 => Laws.FieldsFit.selp x0 x1 x2
  | .srd x0 x1 => Laws.FieldsFit.srd x0 x1
  | .swrGen x0 => Laws.FieldsFit.swrGen x0
  | .swrSig x0 => Laws.FieldsFit.swrSig x0
  | .mov x0 x1 => Laws.FieldsFit.mov x0 x1
  | .movi x0 x1 => Laws.FieldsFit.movi x0 x1
  | .add x0 x1 x2 => Laws.FieldsFit.add x0 x1 x2
  | .sub x0 x1 x2 => Laws.FieldsFit.sub x0 x1 x2
  | .mul x0 x1 x2 => Laws.FieldsFit.mul x0 x1 x2
  | .mulhi x0 x1 x2 => Laws.FieldsFit.mulhi x0 x1 x2
  | .fma x0 x1 x2 => Laws.FieldsFit.fma x0 x1 x2
  | .fms x0 x1 x2 => Laws.FieldsFit.fms x0 x1 x2
  | .fnma x0 x1 x2 => Laws.FieldsFit.fnma x0 x1 x2
  | .min x0 x1 x2 => Laws.FieldsFit.min x0 x1 x2
  | .max x0 x1 x2 => Laws.FieldsFit.max x0 x1 x2
  | .abs x0 x1 => Laws.FieldsFit.abs x0 x1
  | .neg x0 x1 => Laws.FieldsFit.neg x0 x1
  | .clamp x0 x1 x2 => Laws.FieldsFit.clamp x0 x1 x2
  | .div x0 x1 x2 => Laws.FieldsFit.div x0 x1 x2
  | .rem x0 x1 x2 => Laws.FieldsFit.rem x0 x1 x2
  | .sqrt x0 x1 => Laws.FieldsFit.sqrt x0 x1
  | .rsq x0 x1 => Laws.FieldsFit.rsq x0 x1
  | .rcp x0 x1 => Laws.FieldsFit.rcp x0 x1
  | .exp2 x0 x1 => Laws.FieldsFit.exp2 x0 x1
  | .log2 x0 x1 => Laws.FieldsFit.log2 x0 x1
  | .sin x0 x1 => Laws.FieldsFit.sin x0 x1
  | .cos x0 x1 => Laws.FieldsFit.cos x0 x1
  | .tanh x0 x1 => Laws.FieldsFit.tanh x0 x1
  | .cvt x0 x1 x2 x3 => Laws.FieldsFit.cvt x0 x1 x2 x3
  | .pack x0 x1 x2 x3 => Laws.FieldsFit.pack x0 x1 x2 x3
  | .unpack x0 x1 x2 => Laws.FieldsFit.unpack x0 x1 x2
  | .dot4 x0 x1 x2 => Laws.FieldsFit.dot4 x0 x1 x2
  | .dot2 x0 x1 x2 => Laws.FieldsFit.dot2 x0 x1 x2
  | .frc x0 x1 => Laws.FieldsFit.frc x0 x1
  | .rnd x0 x1 => Laws.FieldsFit.rnd x0 x1
  | .and x0 x1 x2 => Laws.FieldsFit.and x0 x1 x2
  | .or x0 x1 x2 => Laws.FieldsFit.or x0 x1 x2
  | .xor x0 x1 x2 => Laws.FieldsFit.xor x0 x1 x2
  | .not x0 x1 => Laws.FieldsFit.not x0 x1
  | .shl x0 x1 x2 => Laws.FieldsFit.shl x0 x1 x2
  | .shr x0 x1 x2 => Laws.FieldsFit.shr x0 x1 x2
  | .sar x0 x1 x2 => Laws.FieldsFit.sar x0 x1 x2
  | .rot x0 x1 x2 => Laws.FieldsFit.rot x0 x1 x2
  | .popc x0 x1 => Laws.FieldsFit.popc x0 x1
  | .clz x0 x1 => Laws.FieldsFit.clz x0 x1
  | .brev x0 x1 => Laws.FieldsFit.brev x0 x1
  | .bfe x0 x1 x2 => Laws.FieldsFit.bfe x0 x1 x2
  | .bfi x0 x1 x2 => Laws.FieldsFit.bfi x0 x1 x2
  | .addc x0 x1 x2 => Laws.FieldsFit.addc x0 x1 x2
  | .lea x0 x1 x2 => Laws.FieldsFit.lea x0 x1 x2
  | .qswap x0 x1 x2 => Laws.FieldsFit.qswap x0 x1 x2
  | .qbcast x0 x1 x2 => Laws.FieldsFit.qbcast x0 x1 x2
  | .shfl x0 x1 x2 x3 => Laws.FieldsFit.shfl x0 x1 x2 x3
  | .scan x0 x1 x2 => Laws.FieldsFit.scan x0 x1 x2
  | .redx x0 x1 x2 => Laws.FieldsFit.redx x0 x1 x2
  | .matchRow x0 x1 => Laws.FieldsFit.matchRow x0 x1
  | .matchAll x0 x1 => Laws.FieldsFit.matchAll x0 x1
  | .tshfl x0 x1 x2 x3 => Laws.FieldsFit.tshfl x0 x1 x2 x3
  | .ld8 x0 x1 x2 x3 => Laws.FieldsFit.ld8 x0 x1 x2 x3
  | .ld16 x0 x1 x2 x3 => Laws.FieldsFit.ld16 x0 x1 x2 x3
  | .ld32 x0 x1 x2 x3 => Laws.FieldsFit.ld32 x0 x1 x2 x3
  | .ld64 x0 x1 x2 x3 => Laws.FieldsFit.ld64 x0 x1 x2 x3
  | .ld128 x0 x1 x2 x3 => Laws.FieldsFit.ld128 x0 x1 x2 x3
  | .st8 x0 x1 x2 x3 => Laws.FieldsFit.st8 x0 x1 x2 x3
  | .st16 x0 x1 x2 x3 => Laws.FieldsFit.st16 x0 x1 x2 x3
  | .st32 x0 x1 x2 x3 => Laws.FieldsFit.st32 x0 x1 x2 x3
  | .st64 x0 x1 x2 x3 => Laws.FieldsFit.st64 x0 x1 x2 x3
  | .st128 x0 x1 x2 x3 => Laws.FieldsFit.st128 x0 x1 x2 x3
  | .pf x0 x1 x2 => Laws.FieldsFit.pf x0 x1 x2
  | .atadd x0 x1 x2 x3 => Laws.FieldsFit.atadd x0 x1 x2 x3
  | .atmin x0 x1 x2 x3 => Laws.FieldsFit.atmin x0 x1 x2 x3
  | .atmax x0 x1 x2 x3 => Laws.FieldsFit.atmax x0 x1 x2 x3
  | .atand x0 x1 x2 x3 => Laws.FieldsFit.atand x0 x1 x2 x3
  | .ator x0 x1 x2 x3 => Laws.FieldsFit.ator x0 x1 x2 x3
  | .atxor x0 x1 x2 x3 => Laws.FieldsFit.atxor x0 x1 x2 x3
  | .atxch x0 x1 x2 x3 => Laws.FieldsFit.atxch x0 x1 x2 x3
  | .atcas x0 x1 x2 x3 => Laws.FieldsFit.atcas x0 x1 x2 x3
  | .atinc x0 x1 x2 x3 => Laws.FieldsFit.atinc x0 x1 x2 x3
  | .rdadd x0 x1 x2 x3 => Laws.FieldsFit.rdadd x0 x1 x2 x3
  | .rdmin x0 x1 x2 x3 => Laws.FieldsFit.rdmin x0 x1 x2 x3
  | .rdmax x0 x1 x2 x3 => Laws.FieldsFit.rdmax x0 x1 x2 x3
  | .rdand x0 x1 x2 x3 => Laws.FieldsFit.rdand x0 x1 x2 x3
  | .rdor x0 x1 x2 x3 => Laws.FieldsFit.rdor x0 x1 x2 x3
  | .rdxor x0 x1 x2 x3 => Laws.FieldsFit.rdxor x0 x1 x2 x3
  | .lock x0 x1 x2 => Laws.FieldsFit.lock x0 x1 x2
  | .trylk x0 x1 => Laws.FieldsFit.trylk x0 x1
  | .unlock x0 x1 => Laws.FieldsFit.unlock x0 x1
  | .lkqry x0 x1 => Laws.FieldsFit.lkqry x0 x1
  | .phhdr x0 x1 => Laws.FieldsFit.phhdr x0 x1
  | .phend => Laws.FieldsFit.phend
  | .phwait x0 x1 x2 => Laws.FieldsFit.phwait x0 x1 x2
  | .phrd x0 x1 => Laws.FieldsFit.phrd x0 x1
  | .fence x0 x1 => Laws.FieldsFit.fence x0 x1
  | .bar => Laws.FieldsFit.bar
  | .gbar => Laws.FieldsFit.gbar
  | .waitp x0 x1 => Laws.FieldsFit.waitp x0 x1
  | .waitct x0 x1 => Laws.FieldsFit.waitct x0 x1
  | .ctset x0 x1 x2 => Laws.FieldsFit.ctset x0 x1 x2
  | .ctadd x0 x1 x2 x3 => Laws.FieldsFit.ctadd x0 x1 x2 x3
  | .ctrd x0 x1 => Laws.FieldsFit.ctrd x0 x1
  | .bld x0 x1 x2 x3 x4 => Laws.FieldsFit.bld x0 x1 x2 x3 x4
  | .mma x0 x1 x2 x3 x4 => Laws.FieldsFit.mma x0 x1 x2 x3 x4
  | .mmas x0 x1 x2 x3 x4 => Laws.FieldsFit.mmas x0 x1 x2 x3 x4
  | .accz x0 x1 x2 => Laws.FieldsFit.accz x0 x1 x2
  | .accld x0 x1 x2 x3 x4 => Laws.FieldsFit.accld x0 x1 x2 x3 x4
  | .accst x0 x1 x2 x3 x4 => Laws.FieldsFit.accst x0 x1 x2 x3 x4
  | .accrd x0 x1 => Laws.FieldsFit.accrd x0 x1
  | .accwr x0 x1 => Laws.FieldsFit.accwr x0 x1
  | .spmld x0 x1 x2 x3 x4 => Laws.FieldsFit.spmld x0 x1 x2 x3 x4
  | .qnt x0 x1 x2 x3 x4 => Laws.FieldsFit.qnt x0 x1 x2 x3 x4
  | .dqnt x0 x1 x2 x3 x4 => Laws.FieldsFit.dqnt x0 x1 x2 x3 x4
  | .mxqry x0 => Laws.FieldsFit.mxqry x0
  | .cpsl x0 x1 x2 x3 x4 => Laws.FieldsFit.cpsl x0 x1 x2 x3 x4
  | .hbind x0 x1 x2 => Laws.FieldsFit.hbind x0 x1 x2
  | .hwait x0 x1 => Laws.FieldsFit.hwait x0 x1
  | .hrel x0 x1 => Laws.FieldsFit.hrel x0 x1
  | .hstat x0 x1 => Laws.FieldsFit.hstat x0 x1
  | .put x0 x1 x2 x3 x4 => Laws.FieldsFit.put x0 x1 x2 x3 x4
  | .get x0 x1 x2 x3 x4 => Laws.FieldsFit.get x0 x1 x2 x3 x4
  | .bulk x0 x1 x2 => Laws.FieldsFit.bulk x0 x1 x2
  | .send x0 x1 x2 x3 => Laws.FieldsFit.send x0 x1 x2 x3
  | .recv x0 => Laws.FieldsFit.recv x0
  | .fxqry x0 x1 => Laws.FieldsFit.fxqry x0 x1
  | .cjpost x0 x1 x2 => Laws.FieldsFit.cjpost x0 x1 x2
  | .cjcancel x0 x1 => Laws.FieldsFit.cjcancel x0 x1
  | .cjqry x0 x1 => Laws.FieldsFit.cjqry x0 x1
  | .trap x0 => Laws.FieldsFit.trap x0
  | .chkerr x0 x1 => Laws.FieldsFit.chkerr x0 x1
  | .bkpt x0 => Laws.FieldsFit.bkpt x0
  | .eret => Laws.FieldsFit.eret
  | .sysrd x0 x1 => Laws.FieldsFit.sysrd x0 x1
  | .syswr x0 x1 => Laws.FieldsFit.syswr x0 x1
  | .taskrd x0 x1 => Laws.FieldsFit.taskrd x0 x1
  | .deviceReset => Laws.FieldsFit.deviceReset
  | .notifyWrite x0 x1 => Laws.FieldsFit.notifyWrite x0 x1
  | .slotMap x0 x1 => Laws.FieldsFit.slotMap x0 x1
  | .slotUnmap x0 => Laws.FieldsFit.slotUnmap x0
  | .recordFetch x0 => Laws.FieldsFit.recordFetch x0
  | .recordCheck x0 => Laws.FieldsFit.recordCheck x0
  | .recordRelease x0 => Laws.FieldsFit.recordRelease x0
  | .groupPlace x0 => Laws.FieldsFit.groupPlace x0
  | .gangPlace x0 => Laws.FieldsFit.gangPlace x0
  | .affinityWiden x0 => Laws.FieldsFit.affinityWiden x0
  | .preempt x0 => Laws.FieldsFit.preempt x0
  | .teamEvict x0 => Laws.FieldsFit.teamEvict x0
  | .teamRestore x0 => Laws.FieldsFit.teamRestore x0
  | .teamRetire x0 => Laws.FieldsFit.teamRetire x0
  | .launchComplete x0 => Laws.FieldsFit.launchComplete x0
  | .watchdogExpire x0 => Laws.FieldsFit.watchdogExpire x0
  | .clockThrottle x0 => Laws.FieldsFit.clockThrottle x0
  | .slotOwnerWrite x0 x1 => Laws.FieldsFit.slotOwnerWrite x0 x1
  | .ctxdescWrite x0 x1 => Laws.FieldsFit.ctxdescWrite x0 x1
  | .xlinvPage x0 x1 => Laws.FieldsFit.xlinvPage x0 x1
  | .xlinvContext x0 x1 => Laws.FieldsFit.xlinvContext x0 x1
  | .xlinvAll x0 => Laws.FieldsFit.xlinvAll x0
  | .xlinvDone => Laws.FieldsFit.xlinvDone
  | .translationWalk x0 => Laws.FieldsFit.translationWalk x0
  | .pageRequestWrite => Laws.FieldsFit.pageRequestWrite
  | .pgrdoneFilled x0 => Laws.FieldsFit.pgrdoneFilled x0
  | .pgrdoneTranslationFault x0 => Laws.FieldsFit.pgrdoneTranslationFault x0
  | .pgrdoneProtectionFault x0 => Laws.FieldsFit.pgrdoneProtectionFault x0
  | .memoryResponse x0 x1 x2 => Laws.FieldsFit.memoryResponse x0 x1 x2
  | .holdLimitBounce x0 => Laws.FieldsFit.holdLimitBounce x0
  | .parenthesisReissue x0 => Laws.FieldsFit.parenthesisReissue x0
  | .backoffExpire x0 => Laws.FieldsFit.backoffExpire x0
  | .homeLoad x0 => Laws.FieldsFit.homeLoad x0
  | .writeNotice x0 => Laws.FieldsFit.writeNotice x0
  | .sectorFlush x0 x1 => Laws.FieldsFit.sectorFlush x0 x1
  | .homeSyncStore x0 => Laws.FieldsFit.homeSyncStore x0
  | .homeAtomic x0 => Laws.FieldsFit.homeAtomic x0
  | .homeReduction x0 => Laws.FieldsFit.homeReduction x0
  | .recall x0 x1 => Laws.FieldsFit.recall x0 x1
  | .writeUpdate x0 x1 => Laws.FieldsFit.writeUpdate x0 x1
  | .updateSwitch x0 => Laws.FieldsFit.updateSwitch x0
  | .missFill x0 x1 => Laws.FieldsFit.missFill x0 x1
  | .arrival x0 x1 x2 => Laws.FieldsFit.arrival x0 x1 x2
  | .phaseRaise x0 x1 => Laws.FieldsFit.phaseRaise x0 x1
  | .phaseCommit x0 => Laws.FieldsFit.phaseCommit x0
  | .commitBroadcast x0 x1 => Laws.FieldsFit.commitBroadcast x0 x1
  | .peerCommitMessage x0 x1 => Laws.FieldsFit.peerCommitMessage x0 x1
  | .peerDiscardMessage x0 x1 => Laws.FieldsFit.peerDiscardMessage x0 x1
  | .lockTimeout x0 => Laws.FieldsFit.lockTimeout x0
  | .absenceTimerExpire x0 => Laws.FieldsFit.absenceTimerExpire x0
  | .deadlockProbe x0 => Laws.FieldsFit.deadlockProbe x0
  | .engineOpStart x0 => Laws.FieldsFit.engineOpStart x0
  | .engineOpComplete x0 => Laws.FieldsFit.engineOpComplete x0
  | .sparsityEntryArrive x0 x1 => Laws.FieldsFit.sparsityEntryArrive x0 x1
  | .matrixQueryCommand x0 => Laws.FieldsFit.matrixQueryCommand x0
  | .matrixBadCommand x0 => Laws.FieldsFit.matrixBadCommand x0
  | .copyLineLand x0 => Laws.FieldsFit.copyLineLand x0
  | .copyFull x0 x1 => Laws.FieldsFit.copyFull x0 x1
  | .handleDrainDone x0 x1 => Laws.FieldsFit.handleDrainDone x0 x1
  | .copyCancel x0 => Laws.FieldsFit.copyCancel x0
  | .copyProgress x0 => Laws.FieldsFit.copyProgress x0
  | .copyBadCommand x0 => Laws.FieldsFit.copyBadCommand x0
  | .conjunctionQueryCommand x0 => Laws.FieldsFit.conjunctionQueryCommand x0
  | .conjunctionBadCommand x0 => Laws.FieldsFit.conjunctionBadCommand x0
  | .fabricQueryCommand x0 => Laws.FieldsFit.fabricQueryCommand x0
  | .fabricBadCommand x0 => Laws.FieldsFit.fabricBadCommand x0
  | .packetForm x0 => Laws.FieldsFit.packetForm x0
  | .fyoloInbound x0 => Laws.FieldsFit.fyoloInbound x0
  | .packetAck x0 x1 x2 x3 => Laws.FieldsFit.packetAck x0 x1 x2 x3
  | .multicastForward x0 => Laws.FieldsFit.multicastForward x0
  | .flitReceive x0 x1 x2 => Laws.FieldsFit.flitReceive x0 x1 x2
  | .linkAck x0 x1 => Laws.FieldsFit.linkAck x0 x1
  | .linkNak x0 x1 => Laws.FieldsFit.linkNak x0 x1
  | .acktoExpire x0 => Laws.FieldsFit.acktoExpire x0
  | .laneLoss x0 x1 => Laws.FieldsFit.laneLoss x0 x1
  | .retrainDone x0 => Laws.FieldsFit.retrainDone x0
  | .endToEndTimeout x0 x1 => Laws.FieldsFit.endToEndTimeout x0 x1
  | .fyselfWrite x0 => Laws.FieldsFit.fyselfWrite x0
  | .fyrtinvWrite x0 => Laws.FieldsFit.fyrtinvWrite x0
  | .conjunctionRoundIssue x0 => Laws.FieldsFit.conjunctionRoundIssue x0
  | .conjunctionRoundComplete x0 x1 x2 => Laws.FieldsFit.conjunctionRoundComplete x0 x1 x2
  | .callReplyWrite x0 x1 => Laws.FieldsFit.callReplyWrite x0 x1
  | .faultRecordDrain x0 => Laws.FieldsFit.faultRecordDrain x0
  | .teamRestart x0 => Laws.FieldsFit.teamRestart x0
  | .mxresetWrite x0 => Laws.FieldsFit.mxresetWrite x0
  | .matrixResetError x0 => Laws.FieldsFit.matrixResetError x0
  | .matrixResetDone x0 => Laws.FieldsFit.matrixResetDone x0
  | .ctxResume x0 => Laws.FieldsFit.ctxResume x0
  | .ctxDestroy x0 => Laws.FieldsFit.ctxDestroy x0
  | .vfswitchWrite x0 => Laws.FieldsFit.vfswitchWrite x0
  | .switchUnitCommit x0 => Laws.FieldsFit.switchUnitCommit x0
  | .funcPreempt x0 => Laws.FieldsFit.funcPreempt x0
  | .funcRestore x0 => Laws.FieldsFit.funcRestore x0
  | .ckOpen x0 => Laws.FieldsFit.ckOpen x0
  | .ckRollback x0 => Laws.FieldsFit.ckRollback x0
  | .ckClose x0 => Laws.FieldsFit.ckClose x0
  | .svcDrain x0 x1 => Laws.FieldsFit.svcDrain x0 x1
  | .svcReturn x0 x1 => Laws.FieldsFit.svcReturn x0 x1
  | .svcRepair x0 x1 => Laws.FieldsFit.svcRepair x0 x1
  | .svcUpdate x0 x1 => Laws.FieldsFit.svcUpdate x0 x1
  | .unitEmpty x0 x1 => Laws.FieldsFit.unitEmpty x0 x1
  | .unitReady x0 x1 => Laws.FieldsFit.unitReady x0 x1
  | .scrubLine x0 x1 => Laws.FieldsFit.scrubLine x0 x1
  | .resync x0 => Laws.FieldsFit.resync x0
  | .spdmGetVersion => Laws.FieldsFit.spdmGetVersion
  | .spdmGetCapabilities => Laws.FieldsFit.spdmGetCapabilities
  | .spdmNegotiateAlgorithms => Laws.FieldsFit.spdmNegotiateAlgorithms
  | .spdmGetDigests => Laws.FieldsFit.spdmGetDigests
  | .spdmGetCertificate => Laws.FieldsFit.spdmGetCertificate
  | .spdmChallenge x0 => Laws.FieldsFit.spdmChallenge x0
  | .spdmGetMeasurements x0 => Laws.FieldsFit.spdmGetMeasurements x0
  | .spdmUnsupported x0 => Laws.FieldsFit.spdmUnsupported x0
  | .functionLevelReset x0 => Laws.FieldsFit.functionLevelReset x0
  | .hostCompletionError x0 x1 => Laws.FieldsFit.hostCompletionError x0 x1
  | .hostLinkDown x0 => Laws.FieldsFit.hostLinkDown x0
  | .mdLaunchMessage x0 x1 => Laws.FieldsFit.mdLaunchMessage x0 x1
  | .mdAck x0 x1 => Laws.FieldsFit.mdAck x0 x1
  | .mdConfirm x0 => Laws.FieldsFit.mdConfirm x0
  | .mdAckTimeout x0 => Laws.FieldsFit.mdAckTimeout x0
  | .mdSelfAbortTimeout x0 => Laws.FieldsFit.mdSelfAbortTimeout x0
  | .mdAbort x0 => Laws.FieldsFit.mdAbort x0
  | .mdRaised x0 x1 => Laws.FieldsFit.mdRaised x0 x1
  | .mdCommit x0 => Laws.FieldsFit.mdCommit x0
  | .mdApplied x0 x1 => Laws.FieldsFit.mdApplied x0 x1
  | .mdRelease x0 => Laws.FieldsFit.mdRelease x0
  | .registerWrite x0 x1 => Laws.FieldsFit.registerWrite x0 x1
  | .replayStoreReissue x0 => Laws.FieldsFit.replayStoreReissue x0
  | .failedPathMarkExpire x0 x1 x2 => Laws.FieldsFit.failedPathMarkExpire x0 x1 x2
  | .peerCommitAck x0 x1 => Laws.FieldsFit.peerCommitAck x0 x1
  | .throttleEnd x0 => Laws.FieldsFit.throttleEnd x0
  | .hostLinkUp x0 => Laws.FieldsFit.hostLinkUp x0

/-- The word of an instruction splits into the fields it was made of. -/
theorem splitWord_encodeFields {i : Instr} {f : Fields} (h : encodeFields i = some f) : splitWord f.word f.lit = f :=
  splitWord_word f (Laws.FieldsFit.all i f h)

end Sys2Proof
end

