-- ==== Sys2Proof/Tests/Slice0.lean ====
section
/-! SUPPORT. Small tests of the model: ill-formed instructions refused, words of the spec decoded, the word at the program counter run,
results that the spec works out, and for each claim with hypotheses a state and operands that meet them. -/

namespace Sys2Proof.Tests

-- one theorem after another, in bounded memory
set_option Elab.async false

open Sys2Proof Sys2Proof.Machine Sys2Proof.Claims

/-! ### A machine to test on -/

/-- A fragment of one lane or more, in a clause of two words at 2^38, at its first one. -/
def frag (m : Word) (mask : LaneMask) : Fragment :=
  { st := .ready, pc := 2 ^ 38 + 4, mask := mask, join := 15, age := 0, sig := 0
    clause := some { hdr := 2 ^ 38, len := 2, setA := 3, setB := 15, mood := m, yield := false }, latch := .none, yielded := false, starve := 0 }

/-- The team of 32 lanes that withFetchWord places, in that clause. -/
def team (m : Word) (mask : LaneMask) : Team := { Team.placed with frags := [(0, frag m mask)] }

/-- The machine with that team issuing. -/
def demo (t : Team) : State := { State.reset.withFetchWord 32 0 with issuing := some (1, 0), teams := [(1, t)] }

/-- Instruction i issues on s, and the issue has a property. -/
def ready (s : State) (i : Instr) (p : Issue → Bool) : Bool :=
  match issueOf s with
  | some iss => dynFault iss i == none && !regsPending s iss i && s.upsets == 0 && p iss
  | none => false

theorem ready_spec {s : State} {i : Instr} {p : Issue → Bool} (h : ready s i p = true) : ∃ iss, Issues s iss i ∧ p iss = true := by
  unfold ready at h
  split at h
  · rename_i iss he
    simp only [Bool.and_eq_true, beq_iff_eq, Bool.not_eq_true'] at h
    exact ⟨iss, ⟨he, h.1.1.1, h.1.1.2, h.1.2⟩, h.2⟩
  · cases h

theorem ready_all {s : State} {is : List Instr} {p : Issue → Bool} (h : is.all (fun i => ready s i p) = true) :
    ∀ i ∈ is, ∃ iss, Issues s iss i ∧ p iss = true :=
  fun i hi => ready_spec (List.all_eq_true.mp h i hi)

/-- The next state that an instruction gives has a property. -/
def gives (i : Instr) (s : State) (p : State → Bool) : Bool :=
  match exec i s with
  | .next s' => p s'
  | .fault _ => false
  | .refused _ => false

/-- A property of the team after an instruction. -/
def givesTeam (i : Instr) (s : State) (p : Team → Bool) : Bool := gives i s (fun s' => match s'.team? 1 with | some t => p t | none => false)

/-! ### Operand forms refused (R120, R134, R175, R181, R207, R233) -/

theorem test_wf_push_q5 : ((Instr.mov (.q 5) (.v 0)).wf, (Instr.mov (.q 6) (.v 0)).wf) = (false, true) := by decide
theorem test_wf_no_queue : (Instr.fma (.q 1) (.v 0) (.lit 0)).wf = false := by decide
theorem test_wf_scalar_only : (Instr.loop (.v 1) (.lit 0)).wf = false := by decide
theorem test_wf_vector_only : (Instr.accrd (.s 1) (.s 2)).wf = false := by decide
theorem test_wf_pair : ((Instr.lea (.v 3) (.v 2) (.lit 0)).wf, (Instr.lea (.v 4) (.v 2) (.lit 0)).wf) = (false, true) := by decide
theorem test_wf_four : ((Instr.ld128 .plain (.v 6) (.v 2) (.lit 0)).wf, (Instr.ld128 .plain (.v 8) (.v 2) (.lit 0)).wf) = (false, true) := by decide
theorem test_wf_cas : ((Instr.atcas .rlx (.s 23) (.s 0) (.lit 0)).wf, (Instr.atcas .rlx (.s 22) (.s 0) (.lit 0)).wf) = (false, true) := by decide
theorem test_wf_four_scalars : ((Instr.bulk false false (.s 21)).wf, (Instr.bulk false false (.s 20)).wf) = (false, true) := by decide
theorem test_wf_eight_scalars : ((Instr.cjpost false false (.s 17)).wf, (Instr.cjpost false false (.s 16)).wf) = (false, true) := by decide
theorem test_wf_scalar_pair : ((Instr.qnt false false (.s 23) (.s 0) (.lit 0)).wf, (Instr.qnt false false (.s 22) (.s 0) (.lit 0)).wf) = (false, true) := by decide
theorem test_wf_literal_kind : ((Instr.bra (.reg (.v 0))).wf, (Instr.bra (.reg (.s 0))).wf, (Instr.bra (.lit 8)).wf) = (false, true, true) := by decide

/-! ### Words of the spec decoded -/

theorem test_header : (decodeHeader 0x4000FF00).map (fun h => (h.len, h.wait, h.setA, h.setB)) = some (4, 0, 15, 15) := by decide
theorem test_header_illegal : (decodeHeader 0x4000CC00, decodeHeader 0x4000FF01, decodeHeader 0x0000FF00) = (none, none, none) := by decide

/-! The words of the worked examples and of the encoding tables, an instruction of each family. -/

theorem test_word_nop : decodeWord 0x00000000 none = .ok .nop := by decide +kernel
theorem test_word_bra : decodeWord 0x01800000 (some 0x1C) = .ok (.bra (.lit 0x1C)) := by decide +kernel
theorem test_word_brc : decodeWord 0x02800080 (some 0x000A000C) = .ok (.brc false 1 (.lit 0x000A000C)) := by decide +kernel
theorem test_word_cmp : decodeWord 0x12840080 (some 0) = .ok (.cmp 1 .eq (.v 1) (.lit 0)) := by decide +kernel
theorem test_word_cmp_lt : decodeWord 0x12848100 (some 0) = .ok (.cmp 1 .lt (.v 2) (.lit 0)) := by decide +kernel
theorem test_word_cmp_fifteen : decodeWord 0x1287C080 (some 0) = .error .subField := by decide +kernel
theorem test_word_mov : decodeWord 0x1A1FB380 none = .ok (.mov (.q 6) (.s 7)) := by decide +kernel
theorem test_word_neg : decodeWord 0x2A008100 none = .ok (.neg (.v 2) (.v 2)) := by decide +kernel
theorem test_word_sub : decodeWord 0x21818300 (some 0x40004000) = .ok (.sub (.v 6) (.v 6) (.lit 0x40004000)) := by decide +kernel
theorem test_word_exp2 : decodeWord 0x31018300 none = .ok (.exp2 (.v 6) (.v 6)) := by decide +kernel
theorem test_word_shl : decodeWord 0x44808100 (some 1) = .ok (.shl (.v 2) (.v 2) (.lit 1)) := by decide +kernel
theorem test_word_xor : decodeWord 0b01000010000000001100000010000010 none = .ok (.xor (.v 3) (.v 1) (.reg (.v 2))) := by decide +kernel
theorem test_word_qswap : decodeWord 0b01010000001000000100000100000000 none = .ok (.qswap .x2 (.v 1) (.v 2)) := by decide +kernel
theorem test_word_ld32 : decodeWord 0x5AE07280 (some 0) = .ok (.ld32 .acq (.v 1) (.s 5) (.lit 0)) := by decide +kernel
theorem test_word_ld32_b : decodeWord 0x5AE07281 (some 0) = .error .literal := by decide +kernel
theorem test_word_ld128 : decodeWord 0x5C220167 none = .ok (.ld128 .inv (.v 8) (.v 2) (.reg (.s 7))) := by decide +kernel
theorem test_word_st8 : decodeWord 0x5D9AB800 (some 0) = .ok (.st8 .plain (.s 10) (.s 16) (.lit 0)) := by decide +kernel
theorem test_word_st64 : decodeWord 0x60E1B200 (some 8) = .ok (.st64 .rel (.v 6) (.s 4) (.lit 8)) := by decide +kernel
theorem test_word_pf : decodeWord 0x62A03200 (some 0) = .ok (.pf .l2 (.s 4) (.lit 0)) := by decide +kernel
theorem test_word_atadd : decodeWord 0b01100100000000001100000100000001 none = .ok (.atadd .rlx (.v 3) (.v 2) (.reg (.v 1))) := by decide +kernel
theorem test_word_rdadd : decodeWord 0b01101101010000001100000100000001 none = .ok (.rdadd true (.v 3) (.v 2) (.reg (.v 1))) := by decide +kernel
theorem test_word_lock : decodeWord 0x73187265 none = .ok (.lock (.s 1) (.s 4) (.reg (.s 5))) := by decide +kernel
theorem test_word_unlock : decodeWord 0x751B7200 none = .ok (.unlock (.s 13) (.s 4)) := by decide +kernel
theorem test_word_phrd : decodeWord 0b01111010001110000100000000000000 none = .ok (.phrd .exp (.s 1)) := by decide +kernel
theorem test_word_fence : decodeWord 0x7B000300 none = .ok (.fence .all .system) := by decide +kernel
theorem test_word_waitct : decodeWord 0x7F0033F0 none = .ok (.waitct (.s 7) (.reg (.s 16))) := by decide +kernel
theorem test_word_ctadd : decodeWord 0x81F83380 (some 1) = .ok (.ctadd true (.s 0) (.s 7) (.lit 1)) := by decide +kernel
theorem test_word_bld : decodeWord 0x88183A75 none = .ok (.bld false false (.s 0) (.s 20) (.s 21)) := by decide +kernel
theorem test_word_mma : decodeWord 0x89587A76 none = .ok (.mma true false (.s 1) (.s 20) (.s 22)) := by decide +kernel
theorem test_word_accst : decodeWord 0x8D183163 none = .ok (.accst false false (.s 0) (.s 2) (.reg (.s 3))) := by decide +kernel
theorem test_word_qnt : decodeWord 0x9199B200 (some 0) = .ok (.qnt false false (.s 6) (.s 4) (.lit 0)) := by decide +kernel
theorem test_word_hbind : decodeWord 0x99987200 (some 0x00200000) = .ok (.hbind (.s 1) (.s 4) (.lit 0x00200000)) := by decide +kernel
theorem test_word_put : decodeWord 0xA0187265 none = .ok (.put false false (.s 1) (.s 4) (.s 5)) := by decide +kernel
theorem test_word_bulk : decodeWord 0xA2190000 none = .ok (.bulk false false (.s 4)) := by decide +kernel
theorem test_word_cjpost : decodeWord 0xA83A0000 none = .ok (.cjpost false true (.s 8)) := by decide +kernel
theorem test_word_trap : decodeWord 0xB0800000 (some 7) = .ok (.trap (.lit 7)) := by decide +kernel
theorem test_word_trap_s : decodeWord 0xB0000063 none = .ok (.trap (.reg (.s 3))) := by decide +kernel
theorem test_word_sysrd : decodeWord 0b10110100000110001000001110000000 none = .ok (.sysrd (.s 2) 7) := by decide +kernel

/-- The word at the program counter runs. -/
theorem test_step : (match step (State.reset.withFetchWord 32 0x20014282) with | .next s' => (s'.team? 1).isSome | _ => false) = true := by decide +kernel

/-! ### Results that the spec works out, in one lane -/

/-- R154. -/
theorem test_div_by_zero : givesTeam (.div (.v 5) (.v 6) (.reg (.v 7))) (demo { team 0x0 1 with vec := [(vkey 6 0, 7), (vkey 7 0, 0)] }) (fun t => t.v 5 0 == 0xFFFFFFFF) = true := by decide +kernel

/-- R154. -/
theorem test_div_overflow : givesTeam (.div (.v 5) (.v 6) (.reg (.v 7))) (demo { team 0x0 1 with vec := [(vkey 6 0, 0x80000000), (vkey 7 0, 0xFFFFFFFF)] }) (fun t => t.v 5 0 == 0x80000000) = true := by decide +kernel

/-- R154, saturated. -/
theorem test_div_overflow_sat : givesTeam (.div (.v 5) (.v 6) (.reg (.v 7))) (demo { team 0x80000 1 with vec := [(vkey 6 0, 0x80000000), (vkey 7 0, 0xFFFFFFFF)] }) (fun t => t.v 5 0 == 0x7FFFFFFF) = true := by decide +kernel

/-- R154. -/
theorem test_rem_negative : givesTeam (.rem (.v 5) (.v 6) (.reg (.v 7))) (demo { team 0x0 1 with vec := [(vkey 6 0, 0xFFFFFFF9), (vkey 7 0, 2)] }) (fun t => t.v 5 0 == 0xFFFFFFFF) = true := by decide +kernel

/-- R86. -/
theorem test_add_packed : givesTeam (.add (.v 5) (.v 6) (.reg (.v 7))) (demo { team 0x1000000 1 with vec := [(vkey 6 0, 0x7FFF0001), (vkey 7 0, 0x00010001)] }) (fun t => t.v 5 0 == 0x80000002) = true := by decide +kernel

/-- R86, saturated. -/
theorem test_add_packed_sat : givesTeam (.add (.v 5) (.v 6) (.reg (.v 7))) (demo { team 0x1080000 1 with vec := [(vkey 6 0, 0x7FFF0001), (vkey 7 0, 0x00010001)] }) (fun t => t.v 5 0 == 0x7FFF0002) = true := by decide +kernel

/-- R135. -/
theorem test_add_minus_zero : givesTeam (.add (.v 5) (.v 6) (.reg (.v 7))) (demo { team 0x1a00000 1 with vec := [(vkey 6 0, 0x3F800000), (vkey 7 0, 0xBF800000)] }) (fun t => t.v 5 0 == 0x80000000) = true := by decide +kernel

/-- R153. -/
theorem test_min_nan : givesTeam (.min (.v 5) (.v 6) (.reg (.v 7))) (demo { team 0x1800000 1 with vec := [(vkey 6 0, 0x7FC00000), (vkey 7 0, 0x3F800000)] }) (fun t => t.v 5 0 == 0x3F800000) = true := by decide +kernel

/-- R155. -/
theorem test_rcp_minus_zero : givesTeam (.rcp (.v 5) (.v 6)) (demo { team 0x1800000 1 with vec := [(vkey 6 0, 0x80000000), (vkey 7 0, 0)] }) (fun t => t.v 5 0 == 0xFF800000) = true := by decide +kernel

/-- R157. -/
theorem test_cvt_saturates : givesTeam (.cvt 0 (.v 5) (.v 6) 3) (demo { team 0x0 1 with vec := [(vkey 6 0, 0x4F32D05E), (vkey 7 0, 0)] }) (fun t => t.v 5 0 == 0x7FFFFFFF) = true := by decide +kernel

/-- R157. -/
theorem test_cvt_nan : givesTeam (.cvt 0 (.v 5) (.v 6) 3) (demo { team 0x0 1 with vec := [(vkey 6 0, 0x7FC00000), (vkey 7 0, 0)] }) (fun t => t.v 5 0 == 0) = true := by decide +kernel

/-- R158, R92. -/
theorem test_pack_bf16 : givesTeam (.pack .f32 (.v 5) (.v 6) (.reg (.v 7))) (demo { team 0x2000000 1 with vec := [(vkey 6 0, 0x3F804000), (vkey 7 0, 0xC0000000)] }) (fun t => t.v 5 0 == 0xC0003F80) = true := by decide +kernel

/-- R161. -/
theorem test_shl_by_forty : givesTeam (.shl (.v 5) (.v 6) (.lit 40)) (demo { team 0x0 1 with vec := [(vkey 6 0, 1), (vkey 7 0, 0)] }) (fun t => t.v 5 0 == 0) = true := by decide +kernel

/-- R161. -/
theorem test_sar_by_forty : givesTeam (.sar (.v 5) (.v 6) (.lit 40)) (demo { team 0x0 1 with vec := [(vkey 6 0, 0x80000000), (vkey 7 0, 0)] }) (fun t => t.v 5 0 == 0xFFFFFFFF) = true := by decide +kernel

/-- R161. -/
theorem test_rot_by_thirtysix : givesTeam (.rot (.v 5) (.v 6) (.lit 36)) (demo { team 0x800000 1 with vec := [(vkey 6 0, 0x80000001), (vkey 7 0, 0)] }) (fun t => t.v 5 0 == 0x18) = true := by decide +kernel

/-- R161. -/
theorem test_clz_zero : givesTeam (.clz (.v 5) (.v 6)) (demo { team 0x800000 1 with vec := [(vkey 6 0, 0), (vkey 7 0, 0)] }) (fun t => t.v 5 0 == 0x20) = true := by decide +kernel

/-- R162. -/
theorem test_bfe_signed : givesTeam (.bfe (.v 5) (.v 6) (.lit 0x0408)) (demo { team 0x0 1 with vec := [(vkey 6 0, 0x0F00), (vkey 7 0, 0)] }) (fun t => t.v 5 0 == 0xFFFFFFFF) = true := by decide +kernel

/-- R166, R167: SCAN over the values 5, 3, 9, 1 in four lanes, the third turned off by the guard. -/
def scanned (m : ScanMode) (l : Nat) (x : Word) : Bool :=
  givesTeam (.scan m (.v 2) (.v 1)) (demo { team 0x08000000 0xFFFFFFFF with
    vec := [(vkey 1 0, 5), (vkey 1 1, 3), (vkey 1 2, 9), (vkey 1 3, 1), (vkey 2 2, 77)], pred := [(0, 0xFFFFFFFB)] }) (fun t => t.v 2 l == x)

theorem test_scan_add : (scanned .add 0 5 && scanned .add 1 8 && scanned .add 2 77 && scanned .add 3 9 && scanned .add 31 9) = true := by decide +kernel
theorem test_scan_xadd : (scanned .xadd 0 0 && scanned .xadd 1 5 && scanned .xadd 3 8 && scanned .xadd 4 9) = true := by decide +kernel

/-! ### States and operands that meet the claims' hypotheses -/

/-- One lane, active; with the guard of its mood off; with scalars. -/
def lane (m : Word) : State := demo (team m 1)
def off (m : Word) : State := demo (team (m ||| 0x08000000) 1)
def scalars (m : Word) (xs : List (Nat × DWord)) : State := demo { team m 1 with scal := xs }

/-- The cases of an instruction whose lanes are computed: active lanes and ports that are ready, no active lane, a port that is not. -/
def Cases (m : Word) (is : Reg → List Instr) (ok : Issue → Bool) : Prop :=
  (∀ i ∈ is (.v 6), ∃ iss, Issues (lane m) iss i ∧ (ok iss && iss.act != 0 && portsReady (lane m) iss.team (some (.v 4)) (some (.v 6)) (some (.reg (.v 2)))) = true) ∧
  (∀ i ∈ is (.v 6), ∃ iss, Issues (off m) iss i ∧ (ok iss && iss.act == 0) = true) ∧
  (∀ i ∈ is (.q 0), ∃ iss, Issues (lane m) iss i ∧ (ok iss && iss.act != 0 && iss.low.isSome &&
    !portsReady (lane m) iss.team (some (.v 4)) (some (.q 0)) (some (.reg (.v 2)))) = true)

theorem cases_of {m : Word} {is : Reg → List Instr} {ok : Issue → Bool}
    (h : ((is (.v 6)).all (fun i => ready (lane m) i (fun iss => ok iss && iss.act != 0 && portsReady (lane m) iss.team (some (.v 4)) (some (.v 6)) (some (.reg (.v 2))))) &&
      (is (.v 6)).all (fun i => ready (off m) i (fun iss => ok iss && iss.act == 0)) &&
      (is (.q 0)).all (fun i => ready (lane m) i (fun iss => ok iss && iss.act != 0 && iss.low.isSome &&
        !portsReady (lane m) iss.team (some (.v 4)) (some (.q 0)) (some (.reg (.v 2)))))) = true) : Cases m is ok := by
  simp only [Bool.and_eq_true] at h
  exact ⟨ready_all h.1.1, ready_all h.1.2, ready_all h.2⟩

theorem witness_ArithmeticResults : Cases 0 (fun a => [.add (.v 4) a (.reg (.v 2)), .sub (.v 4) a (.reg (.v 2)), .mul (.v 4) a (.reg (.v 2)),
    .fma (.v 4) a (.reg (.v 2)), .fms (.v 4) a (.reg (.v 2)), .fnma (.v 4) a (.reg (.v 2)), .min (.v 4) a (.reg (.v 2)), .max (.v 4) a (.reg (.v 2)),
    .clamp (.v 4) a (.reg (.v 2)), .abs (.v 4) a, .neg (.v 4) a, .mulhi (.v 4) a (.reg (.v 2))]) (fun iss => tyArith iss.ty && iss.ty.isInt) :=
  cases_of (by decide +kernel)

theorem witness_DivisionAndElementaryResults : Cases 0x01800000 (fun a => [.div (.v 4) a (.reg (.v 2)), .rem (.v 4) a (.reg (.v 2)), .sqrt (.v 4) a,
    .rsq (.v 4) a, .rcp (.v 4) a, .exp2 (.v 4) a, .log2 (.v 4) a, .sin (.v 4) a, .cos (.v 4) a, .tanh (.v 4) a, .frc (.v 4) a, .rnd (.v 4) a])
    (fun iss => tyArith iss.ty && iss.ty.isFloat) := cases_of (by decide +kernel)

theorem witness_ConversionAndDotResults :
    Cases 0 (fun a => [.cvt 0 (.v 4) a 3]) (fun iss => tyArith iss.ty && iss.ty != .b32 && (Ty.ofCode 3 == some .f32)) ∧
    Cases 0x01000000 (fun a => [.pack .f32 (.v 4) a (.reg (.v 2)), .dot2 (.v 4) a (.reg (.v 2)), .unpack (.v 4) a (.reg (.v 2))]) (fun iss => iss.ty == .s16x2) ∧
    Cases 0x04000000 (fun a => [.pack .s32 (.v 4) a (.reg (.v 2)), .dot4 (.v 4) a (.reg (.v 2))]) (fun iss => iss.ty == .s8x4) :=
  ⟨cases_of (by decide +kernel), cases_of (by decide +kernel), cases_of (by decide +kernel)⟩

theorem witness_BitwiseResults : Cases 0 (fun a => [.and (.v 4) a (.reg (.v 2)), .or (.v 4) a (.reg (.v 2)), .xor (.v 4) a (.reg (.v 2)), .not (.v 4) a,
    .shl (.v 4) a (.reg (.v 2)), .shr (.v 4) a (.reg (.v 2)), .sar (.v 4) a (.reg (.v 2)), .rot (.v 4) a (.reg (.v 2)), .popc (.v 4) a, .clz (.v 4) a,
    .brev (.v 4) a, .bfe (.v 4) a (.reg (.v 2)), .bfi (.v 4) a (.reg (.v 2)), .lea (.v 4) a (.reg (.v 2))]) (fun _ => true) := cases_of (by decide +kernel)

theorem witness_AddWithCarry : ∃ iss, Issues (lane 0) iss (.addc (.v 4) (.v 6) (.reg (.v 2))) ∧
    (iss.act != 0 && portsReady (lane 0) iss.team (some (.v 4)) (some (.v 6)) (some (.reg (.v 2)))) = true := ready_spec (by decide +kernel)

theorem witness_PredicateResults :
    (∀ i ∈ [Instr.pand 1 2 3, .por 1 2 3, .pxor 1 2 3, .pnot 1 2, .vote 1 .any 2, .vote 1 .all 2, .vote 1 .uni 2, .elect 1],
      ∃ iss, Issues (lane 0) iss i ∧ (iss.act != 0) = true) ∧
    ∃ iss, Issues (off 0) iss (.elect 1) ∧ (iss.act == 0) = true := ⟨ready_all (by decide +kernel), ready_spec (by decide +kernel)⟩

theorem witness_CompareResults :
    Cases 0 (fun a => [.cmp 1 .lt a (.reg (.v 2)), .pmov 1 a (.reg (.v 2))]) (fun iss => iss.ty != .q4x8) ∧
    ∃ iss, Issues (lane 0x07000000) iss (.cmp 1 .lt (.v 4) (.reg (.v 2))) ∧ (iss.act != 0 && iss.ty == .q4x8) = true :=
  ⟨cases_of (by decide +kernel), ready_spec (by decide +kernel)⟩

theorem witness_SelectSpecialAndMoveResults :
    Cases 0 (fun a => [.selp (.v 4) a 1, .mov (.v 4) a, .ballot (.v 4) 1 (.reg a), .movi (.v 4) (.reg a)]) (fun _ => true) ∧
    (∀ i ∈ [Instr.srd (.v 4) .lane, .movi (.v 4) (.lit 7)], ∃ iss, Issues (lane 0) iss i ∧ (iss.act != 0) = true) ∧
    (∃ iss, Issues (lane 0x05000000) iss (.movi (.s 4) (.lit 7)) ∧ (iss.act != 0 && iss.ty.width == 64) = true) ∧
    ∃ iss, Issues (lane 0) iss (.movi (.s 4) (.lit 7)) ∧ (iss.act != 0 && iss.ty.width == 32) = true :=
  ⟨cases_of (by decide +kernel), ready_all (by decide +kernel), ready_spec (by decide +kernel), ready_spec (by decide +kernel)⟩

theorem witness_MoodAndGeneratorResults :
    (∀ i ∈ [Instr.moodrd (.v 4) 1, .sigrd (.v 4), .swrSig (.reg (.v 2)), .swrGen (.reg (.v 2)), .mood 1 (.lit 0x01A00000)], ∃ iss, Issues (lane 0) iss i ∧
      (iss.act != 0 && iss.low == some 0 && lanesOf iss.act iss.team.n == [0] && portsReady (lane 0) iss.team (some (.v 4)) none (some (.reg (.v 2)))) = true) ∧
    (∀ i ∈ [Instr.moodrd (.v 4) 1, .sigrd (.v 4), .swrSig (.reg (.v 2)), .swrGen (.reg (.v 2)), .mood 1 (.lit 0x01A00000)], ∃ iss, Issues (off 0) iss i ∧
      (iss.act == 0 && iss.low == none) = true) ∧ moodBad 0x01A00000 = false ∧ moodBad 0x07800000 = true :=
  ⟨ready_all (by decide +kernel), ready_all (by decide +kernel), by decide +kernel, by decide +kernel⟩

theorem witness_ExchangeResults :
    (∀ i ∈ [Instr.qswap .x1 (.v 4) (.v 6), .qswap .x2 (.v 4) (.v 6), .qswap .x3 (.v 4) (.v 6), .qbcast 3 (.v 4) (.v 6)],
      (∃ iss, Issues (lane 0) iss i ∧ (iss.act != 0) = true) ∧ ∃ iss, Issues (off 0) iss i ∧ (iss.act == 0) = true) ∧
    Cases 0 (fun b => [.shfl .idx (.v 4) (.v 2) (.reg b), .shfl .up (.v 4) (.v 2) (.reg b), .shfl .dn (.v 4) (.v 2) (.reg b), .shfl .xor (.v 4) (.v 2) (.reg b),
      .tshfl .idx (.v 4) (.v 2) (.reg b), .tshfl .up (.v 4) (.v 2) (.reg b), .tshfl .dn (.v 4) (.v 2) (.reg b)]) (fun _ => true) :=
  ⟨fun i hi => ⟨ready_all (by decide +kernel) i hi, ready_all (by decide +kernel) i hi⟩, cases_of (by decide +kernel)⟩

theorem witness_ScanReduceAndMatchResults : ∀ i ∈ [Instr.scan .add (.v 4) (.v 6), .scan .max (.v 4) (.v 6), .scan .min (.v 4) (.v 6), .scan .xadd (.v 4) (.v 6),
    .redx .add (.s 4) (.v 6), .redx .min (.s 4) (.v 6), .redx .max (.s 4) (.v 6), .redx .or (.s 4) (.v 6), .matchRow (.v 4) (.v 6), .matchAll 1 (.v 6)],
    ∃ iss, Issues (lane 0) iss i ∧ (iss.low.isSome && tyArith iss.ty && iss.mode != .rst) = true := ready_all (by decide +kernel)

/-- Targets that a control instruction reaches: a clause, one beyond the address space, one between words. -/
theorem witness_BranchResults :
    let s := scalars 0 [(1, 2 ^ 38 + 64), (2, 2 ^ 57), (3, 2 ^ 38 + 2), (4, 1), (5, 9)]
    (∀ i ∈ [Instr.bra (.lit 64), .jmp (.reg (.s 1)), .ret (.s 1), .brany true 1 (.lit 64), .brall true 1 (.lit 64), .call (.s 0) (.lit 64), .loop (.s 4) (.lit 64),
      .loop (.s 5) (.lit 64)], ∃ iss, Issues s iss i ∧ (iss.act != 0 && iss.val == 1 && guarded iss 1 true 0 && plainSrc iss (.reg (.s 1)) == 2 ^ 38 + 64 &&
        headerPlus iss (.lit 64) == 2 ^ 38 + 64 && plainSrc iss (.reg (.s 2)) == 2 ^ 57 && plainSrc iss (.reg (.s 3)) % 4 == 2 &&
        2 ^ 57 ≤ headerPlus iss (.reg (.s 2)) && headerPlus iss (.lit 2) % 4 == 2) = true) ∧
    ∀ i ∈ [Instr.bra (.lit 64), .jmp (.reg (.s 1)), .ret (.s 1), .brany true 1 (.lit 64), .brall true 1 (.lit 64), .call (.s 0) (.lit 64), .loop (.s 4) (.lit 64)],
      ∃ iss, Issues (off 0) iss i ∧ (iss.act == 0 && iss.val == 0) = true := ⟨ready_all (by decide +kernel), ready_all (by decide +kernel)⟩

/-- A fragment in serial mode, or not, in a clause at h. -/
def forked (n : Nat) (h : Nat) : Team :=
  let f := frag 0 3
  { team 0 3 with pred := [(1, 1)], serial := List.replicate n { entry := 0, join := 15, lanes := 1, addr := 2 ^ 38, reconv := 2 ^ 38 + 96, side := false }
                  frags := [(0, { f with clause := f.clause.map (fun c => { c with hdr := h }) })] }

/-- With all eight entries taken. -/
def crowded (n : Nat) : Team := { forked n (2 ^ 38) with frags := (List.range 8).map (fun k => (k, frag 0 3)) }

theorem witness_ConditionalBranchResults :
    let b : Src := .lit 0x000A000C
    let taken (iss : Issue) (neg : Bool) : LaneMask := maskOf ((List.range 1024).filter (fun l => iss.act.getLsbD l && guarded iss 1 neg l))
    let parts (iss : Issue) : Bool := taken iss false != 0 && taken iss false != iss.act
    let aims (iss : Issue) : Bool := decide (branchWord iss b true < 2 ^ 57) && decide (branchWord iss b false < 2 ^ 57) && branchWord iss b true % 4 == 0 &&
      branchWord iss b false % 4 == 0 && branchWord iss b true != branchWord iss b false && nextClause iss != branchWord iss b false
    (∃ iss, Issues (lane 0) iss (.brc false 1 b) ∧ (taken iss false == 0) = true) ∧
    (∃ iss, Issues (lane 0) iss (.brc true 1 b) ∧ (taken iss true != 0 && taken iss true == iss.act) = true) ∧
    (∃ iss, Issues (demo (forked 0 (2 ^ 57 - 12))) iss (.brc false 1 b) ∧ (parts iss && decide (2 ^ 57 ≤ branchWord iss b true)) = true) ∧
    (∃ iss, Issues (demo (forked 0 (2 ^ 38 + 2))) iss (.brc false 1 b) ∧ (parts iss && decide (branchWord iss b true < 2 ^ 57) &&
      decide (branchWord iss b false < 2 ^ 57) && branchWord iss b true % 4 != 0) = true) ∧
    (∃ iss, Issues (demo (forked 0 (2 ^ 38))) iss (.brc false 1 b) ∧ (parts iss && aims iss && (List.range 2).all (fun k => (iss.team.frag? k).isNone == decide (k = 1)) &&
      (List.range 1).all (fun k => (NMap.look iss.team.joins k).isNone == decide (k = 0)) && iss.entry != 1 && topSerial iss.team 0 == none && topSerial iss.team 1 == none) = true) ∧
    (∃ iss, Issues (demo (crowded 64)) iss (.brc false 1 b) ∧ (parts iss && aims iss && (List.range 8).all (fun k => (iss.team.frag? k).isSome) &&
      decide (64 ≤ iss.team.serial.length)) = true) ∧
    ∃ iss, Issues (demo (crowded 63)) iss (.brc false 1 b) ∧ (parts iss && aims iss && (List.range 8).all (fun k => (iss.team.frag? k).isSome) &&
      decide (iss.team.serial.length < 64)) = true :=
  ⟨ready_spec (by decide +kernel), ready_spec (by decide +kernel), ready_spec (by decide +kernel), ready_spec (by decide +kernel), ready_spec (by decide +kernel),
    ready_spec (by decide +kernel), ready_spec (by decide +kernel)⟩

theorem witness_FragmentControlResults :
    let joined : Team := { team 0 1 with frags := [(0, { frag 0 1 with join := 2 })], joins := [(2, { addr := 2 ^ 38 + 96, expected := 2, arrived := 0, outer := 15 })] }
    let some1 : Team := { team 0x08000000 3 with pred := [(0, 1)] }
    (∀ i ∈ [Instr.nop, .yield, .fuse, .exit, .stop, .sigchk (.lit 0)], ∃ iss, Issues (lane 0) iss i ∧ (topSerial iss.team iss.entry == none &&
      NMap.look iss.team.joins iss.frag.join == none && iss.act != 0 && iss.frag.mask &&& ~~~iss.act == 0 && iss.team.frags == [(iss.entry, iss.frag)] &&
      iss.team.serial == [] && iss.team.status == .running && iss.frag.sig.toNat == plainSrc iss (.lit 0) % 2 ^ 32) = true) ∧
    (∃ iss, Issues (demo joined) iss .fuse ∧ (topSerial iss.team iss.entry == none && (NMap.look iss.team.joins iss.frag.join).isSome) = true) ∧
    (∃ iss, Issues (demo (forked 1 (2 ^ 38))) iss .fuse ∧ (topSerial iss.team iss.entry).isSome = true) ∧
    (∀ i ∈ [Instr.exit, .stop], ∃ iss, Issues (off 0) iss i ∧ (iss.act == 0) = true) ∧
    (∃ iss, Issues (demo some1) iss .exit ∧ (iss.act != 0 && iss.frag.mask &&& ~~~iss.act != 0) = true) ∧
    ∃ iss, Issues (lane 0) iss (.sigchk (.lit 1)) ∧ (iss.frag.sig.toNat != plainSrc iss (.lit 1) % 2 ^ 32 && (lane 0).launch? iss.team.launch == some Launch.placed &&
      Launch.placed.restart == 0) = true :=
  ⟨ready_all (by decide +kernel), ready_spec (by decide +kernel), ready_spec (by decide +kernel), ready_all (by decide +kernel), ready_spec (by decide +kernel),
    ready_spec (by decide +kernel)⟩

/-- The launch with fields of its record raised. -/
def launchOf (x : Nat) : Launch := { Launch.placed with record := leBytes 112 (leNat placedRecord + x) }

/-- One page of scratchpad; s1 holds the address of its byte o. -/
def pad (m : Word) (o : Nat) : State := { scalars m [(1, BitVec.ofNat 64 (winBase 1 + o)), (2, 2 ^ 57), (4, 5), (5, 6)] with launches := [(1, launchOf (2 ^ 172))] }
def padGroup : Group :=
  { launch := 1, num := 0, core := 0, off := 0, len := 0, scratch := Store.empty, shareLen := 0, share := Store.empty
    handles := [], endedTeams := [], lost := false, saved := false, kept := PairSt.reset }

def settledB (s : State) (iss : Issue) (l : Launch) (g : Group) : Bool :=
  iss.team.id == iss.tid && iss.team.status == .running && s.launch? iss.team.launch == some l && s.group? iss.team.launch iss.team.group == some g && l.md == none &&
  !iss.team.lockOut && iss.team.ovflow == [] && iss.team.paths == [] && s.reqs == [] && s.fab.mcast == []

theorem settledB_spec {s : State} {iss : Issue} {l : Launch} {g : Group} (h : settledB s iss l g = true) : Settled s iss l g := by
  simp only [settledB, Bool.and_eq_true, beq_iff_eq, Bool.not_eq_true'] at h
  obtain ⟨⟨⟨⟨⟨⟨⟨⟨⟨h1, h2⟩, h3⟩, h4⟩, h5⟩, h6⟩, h7⟩, h8⟩, h9⟩, h10⟩ := h
  exact ⟨h1, h2, h3, h4, h5, h6, h7, fun p => by simp [Team.path, h8, NMap.getD, NMap.look], by simp [h9], by simp [h9], h10⟩

def inScratchB (s : State) (iss : Issue) (l : Launch) (o size : Nat) : Bool :=
  decide (o + size ≤ l.scratch) && (decide (o % 8 + size ≤ 8) || size == 16 && o % 8 == 0) && NMap.look s.mem.owned (scratchLoc iss o).key == none

theorem inScratchB_spec {s : State} {iss : Issue} {l : Launch} {o size : Nat} (h : inScratchB s iss l o size = true) : InScratch s iss l o size := by
  simpa [inScratchB, InScratch, and_assoc] using h

/-- What the memory instructions ask for: nothing outstanding, an access of size bytes within the scratchpad, and more. -/
theorem settled_all {s : State} {is : List Instr} {l : Launch} {g : Group} {o size : Nat} {p : Issue → Bool}
    (h : is.all (fun i => ready s i (fun iss => settledB s iss l g && inScratchB s iss l o size && p iss)) = true) :
    ∀ i ∈ is, ∃ iss, Issues s iss i ∧ Settled s iss l g ∧ InScratch s iss l o size ∧ p iss = true := fun i hi => by
  obtain ⟨iss, h1, h2⟩ := ready_all h i hi
  simp only [Bool.and_eq_true] at h2
  exact ⟨iss, h1, settledB_spec h2.1.1, inScratchB_spec h2.1.2, h2.2⟩

/-- The last bytes of the scratchpad, loaded. -/
theorem witness_LoadResults :
    let ok (size o : Nat) (iss : Issue) : Bool := !addrTag iss (.s 1) (.lit 0) 0 && effAddr iss (.s 1) (.lit 0) 0 == winBase 1 + o && !padGroup.scratch.tagged o size &&
      lanesOf iss.act iss.team.n == [0] && iss.low == some 0
    (∀ i ∈ [Instr.ld8 .plain (.v 4) (.s 1) (.lit 0), .ld8 .acq (.s 4) (.s 1) (.lit 0)], ∃ iss, Issues (pad 0 4095) iss i ∧ Settled (pad 0 4095) iss (launchOf (2 ^ 172)) padGroup ∧
      InScratch (pad 0 4095) iss (launchOf (2 ^ 172)) 4095 1 ∧ ok 1 4095 iss = true) ∧
    (∀ i ∈ [Instr.ld16 .inv (.v 4) (.s 1) (.lit 0), .ld16 .acq (.s 4) (.s 1) (.lit 0)], ∃ iss, Issues (pad 0 4094) iss i ∧ Settled (pad 0 4094) iss (launchOf (2 ^ 172)) padGroup ∧
      InScratch (pad 0 4094) iss (launchOf (2 ^ 172)) 4094 2 ∧ ok 2 4094 iss = true) ∧
    (∀ i ∈ [Instr.ld32 .rlx (.v 4) (.s 1) (.lit 0), .ld32 .acq (.s 4) (.s 1) (.lit 0)], ∃ iss, Issues (pad 0 4092) iss i ∧ Settled (pad 0 4092) iss (launchOf (2 ^ 172)) padGroup ∧
      InScratch (pad 0 4092) iss (launchOf (2 ^ 172)) 4092 4 ∧ ok 4 4092 iss = true) ∧
    (∀ i ∈ [Instr.ld64 .plain (.v 4) (.s 1) (.lit 0), .ld64 .acq (.s 4) (.s 1) (.lit 0)], ∃ iss, Issues (pad 0 4088) iss i ∧ Settled (pad 0 4088) iss (launchOf (2 ^ 172)) padGroup ∧
      InScratch (pad 0 4088) iss (launchOf (2 ^ 172)) 4088 8 ∧ ok 8 4088 iss = true) ∧
    ∀ i ∈ [Instr.ld128 .plain (.v 4) (.s 1) (.lit 0)], ∃ iss, Issues (pad 0 4080) iss i ∧ Settled (pad 0 4080) iss (launchOf (2 ^ 172)) padGroup ∧
      InScratch (pad 0 4080) iss (launchOf (2 ^ 172)) 4080 16 ∧ ok 16 4080 iss = true :=
  ⟨settled_all (by decide +kernel), settled_all (by decide +kernel), settled_all (by decide +kernel), settled_all (by decide +kernel), settled_all (by decide +kernel)⟩

theorem witness_StoreResults :
    let ok (size o : Nat) (d : Reg) (iss : Issue) : Bool := !addrTag iss (.s 1) (.lit 0) 0 && effAddr iss (.s 1) (.lit 0) 0 == winBase 1 + o && !storeTag iss size d 0 &&
      lanesOf iss.val iss.team.n == [0]
    (∀ i ∈ [Instr.st8 .plain (.v 4) (.s 1) (.lit 0)], ∃ iss, Issues (pad 0 4095) iss i ∧ Settled (pad 0 4095) iss (launchOf (2 ^ 172)) padGroup ∧
      InScratch (pad 0 4095) iss (launchOf (2 ^ 172)) 4095 1 ∧ ok 1 4095 (.v 4) iss = true) ∧
    (∀ i ∈ [Instr.st16 .strm (.v 4) (.s 1) (.lit 0)], ∃ iss, Issues (pad 0 4094) iss i ∧ Settled (pad 0 4094) iss (launchOf (2 ^ 172)) padGroup ∧
      InScratch (pad 0 4094) iss (launchOf (2 ^ 172)) 4094 2 ∧ ok 2 4094 (.v 4) iss = true) ∧
    (∀ i ∈ [Instr.st32 .rel (.v 4) (.s 1) (.lit 0)], ∃ iss, Issues (pad 0 4092) iss i ∧ Settled (pad 0 4092) iss (launchOf (2 ^ 172)) padGroup ∧
      InScratch (pad 0 4092) iss (launchOf (2 ^ 172)) 4092 4 ∧ ok 4 4092 (.v 4) iss = true) ∧
    (∀ i ∈ [Instr.st64 .rlx (.s 4) (.s 1) (.lit 0)], ∃ iss, Issues (pad 0 4088) iss i ∧ Settled (pad 0 4088) iss (launchOf (2 ^ 172)) padGroup ∧
      InScratch (pad 0 4088) iss (launchOf (2 ^ 172)) 4088 8 ∧ ok 8 4088 (.s 4) iss = true) ∧
    ∀ i ∈ [Instr.st128 .plain (.v 4) (.s 1) (.lit 0)], ∃ iss, Issues (pad 0 4080) iss i ∧ Settled (pad 0 4080) iss (launchOf (2 ^ 172)) padGroup ∧
      InScratch (pad 0 4080) iss (launchOf (2 ^ 172)) 4080 16 ∧ ok 16 4080 (.v 4) iss = true :=
  ⟨settled_all (by decide +kernel), settled_all (by decide +kernel), settled_all (by decide +kernel), settled_all (by decide +kernel), settled_all (by decide +kernel)⟩

theorem witness_AtomicResults :
    let ok (d : Reg) (iss : Issue) : Bool := (List.range 9).all (fun op => atomTypes iss.ty op) && iss.low == some 0 && lanesOf iss.val iss.team.n == [0] &&
      !addrTag iss (.s 1) (.lit 0) 0 && !atomTag iss d false 0 && !atomTag iss d true 0 && effAddr iss (.s 1) (.lit 0) 0 == winBase 1 + 4092 && 4092 % (iss.ty.width / 8) == 0 &&
      !padGroup.scratch.tagged 4092 (iss.ty.width / 8) && iss.ty.width == 32
    (∀ i ∈ [Instr.atadd .ar (.v 4) (.s 1) (.lit 0), .atmin .acq (.v 4) (.s 1) (.lit 0), .atmax .rel (.v 4) (.s 1) (.lit 0), .atand .rlx (.v 4) (.s 1) (.lit 0),
      .ator .rlx (.v 4) (.s 1) (.lit 0), .atxor .rlx (.v 4) (.s 1) (.lit 0), .atxch .rlx (.v 4) (.s 1) (.lit 0), .atcas .rlx (.v 4) (.s 1) (.lit 0), .atinc .rlx (.v 4) (.s 1) (.lit 0),
      .rdadd true (.v 4) (.s 1) (.lit 0), .rdmin false (.v 4) (.s 1) (.lit 0), .rdmax false (.v 4) (.s 1) (.lit 0), .rdand false (.v 4) (.s 1) (.lit 0),
      .rdor false (.v 4) (.s 1) (.lit 0), .rdxor false (.v 4) (.s 1) (.lit 0)], ∃ iss, Issues (pad 0x00800000 4092) iss i ∧
        Settled (pad 0x00800000 4092) iss (launchOf (2 ^ 172)) padGroup ∧ InScratch (pad 0x00800000 4092) iss (launchOf (2 ^ 172)) 4092 4 ∧ ok (.v 4) iss = true) ∧
    ∀ i ∈ [Instr.atadd .acq (.s 4) (.s 1) (.lit 0), .atcas .rlx (.s 4) (.s 1) (.lit 0)], ∃ iss, Issues (pad 0x00800000 4092) iss i ∧
        Settled (pad 0x00800000 4092) iss (launchOf (2 ^ 172)) padGroup ∧ InScratch (pad 0x00800000 4092) iss (launchOf (2 ^ 172)) 4092 4 ∧ ok (.s 4) iss = true :=
  ⟨settled_all (by decide +kernel), settled_all (by decide +kernel)⟩

/-- The precise checks: no lane; an address from 2^57 on; a misaligned one; the first byte beyond the scratchpad. -/
theorem witness_AccessChecks :
    let is (a : Reg) : List Instr := [.ld8 .plain (.v 4) a (.lit 0), .ld16 .plain (.v 4) a (.lit 0), .ld32 .acq (.s 4) a (.lit 0), .ld64 .plain (.v 4) a (.lit 0),
      .ld128 .plain (.v 4) a (.lit 0), .st8 .plain (.v 4) a (.lit 0), .st16 .plain (.v 4) a (.lit 0), .st32 .rel (.v 4) a (.lit 0), .st64 .plain (.v 4) a (.lit 0),
      .st128 .plain (.v 4) a (.lit 0), .atadd .rlx (.v 4) a (.lit 0), .atmin .rlx (.s 4) a (.lit 0), .atmax .rlx (.v 4) a (.lit 0), .atand .rlx (.v 4) a (.lit 0),
      .ator .rlx (.v 4) a (.lit 0), .atxor .rlx (.v 4) a (.lit 0), .atxch .rlx (.v 4) a (.lit 0), .atcas .rlx (.v 4) a (.lit 0), .atinc .rlx (.v 4) a (.lit 0),
      .rdadd true (.v 4) a (.lit 0), .rdmin true (.v 4) a (.lit 0), .rdmax true (.v 4) a (.lit 0), .rdand true (.v 4) a (.lit 0), .rdor true (.v 4) a (.lit 0), .rdxor true (.v 4) a (.lit 0)]
    let ok (iss : Issue) (a : Reg) : Bool := (List.range 9).all (fun op => atomTypes iss.ty op) && lanesOf iss.act iss.team.n == [0] && lanesOf iss.val iss.team.n == [0] &&
      iss.low == some 0 && iss.team.real.getLsbD 0 && !addrTag iss a (.lit 0) 0
    (∀ i ∈ is (.s 1), ∃ iss, Issues (off 0x00800000) iss i ∧ (lanesOf iss.act iss.team.n == [] && lanesOf iss.val iss.team.n == [] && iss.low == none) = true) ∧
    (∀ i ∈ is (.s 2), ∃ iss, Issues (pad 0x00800000 0) iss i ∧ (ok iss (.s 2) && effAddr iss (.s 2) (.lit 0) 0 == 2 ^ 57) = true) ∧
    (∀ i ∈ is (.s 1), ∃ iss, Issues (pad 0x00800000 4094) iss i ∧ (ok iss (.s 1) && decide (effAddr iss (.s 1) (.lit 0) 0 < 2 ^ 57) && effAddr iss (.s 1) (.lit 0) 0 % 4 != 0) = true) ∧
    (∀ i ∈ is (.s 1), ∃ iss, Issues (pad 0x00800000 4096) iss i ∧ (ok iss (.s 1) && effAddr iss (.s 1) (.lit 0) 0 == winBase 1 + 4096 &&
      effAddr iss (.s 1) (.lit 0) 0 % 4 == 0 && (pad 0x00800000 4096).launch? iss.team.launch == some (launchOf (2 ^ 172)) && (launchOf (2 ^ 172)).scratch == 4096) = true) ∧
    (∃ iss, Issues (demo { team 0 1 with ovflow := [1] }) iss (.pf .l2 (.s 1) (.lit 0)) ∧ (iss.team.ovflow != []) = true) ∧
    ∃ iss, Issues (pad 0 0) iss (.pf .l2 (.s 1) (.lit 0)) ∧ (iss.team.ovflow == [] && lanesOf iss.val iss.team.n == [0] && decide (winBase 0 ≤ effAddr iss (.s 1) (.lit 0) 0) &&
      decide (effAddr iss (.s 1) (.lit 0) 0 < 2 ^ 57)) = true :=
  ⟨ready_all (by decide +kernel), ready_all (by decide +kernel), ready_all (by decide +kernel), ready_all (by decide +kernel), ready_spec (by decide +kernel),
    ready_spec (by decide +kernel)⟩

/-! s1 holds 2^38 + 256, an address whose translation the core has cached; some locks are held. -/

def lineLock (n holder : Nat) (queue : List (Nat × Nat)) : LineLock :=
  { line := 2 ^ 30 + 256 * n, holder := holder, absent := false, check := Store.empty, copy := Store.empty, queue := queue, handoffs := 0, timer := 0, order := n }

def near (t : Team) (ks : List LineLock) : State :=
  let s := ((demo { t with scal := [(1, 2 ^ 38 + 256)] }).translate (some 0) 0 (2 ^ 38 + 256) .both).2
  { s with mem := { s.mem with locks := ks }, teams := s.teams ++ [(2, { Team.placed with id := 2, slot := 1 })] }

def locksAtB (s : State) (iss : Issue) (i : Instr) (need : Need) : Bool :=
  iss.low == some 0 && !teamTag iss true 0 (.s 1) && (match (hashed s iss i).lockAim iss.team 0 (teamReg iss true 0 (.s 1)) need with
    | (.at' x _, s1) => x == { space := 0, x := 0, y := 0, addr := 2 ^ 30 + 256 } && s1 == hashed s iss i
    | _ => false)

theorem locks_all {s : State} {is : List Instr} {need : Need} {p : Issue → Bool} (h : is.all (fun i => ready s i (fun iss => locksAtB s iss i need && p iss)) = true) :
    ∀ i ∈ is, ∃ iss, Issues s iss i ∧ LocksAt s iss i (.s 1) 0 need (2 ^ 30 + 256) ∧ p iss = true := fun i hi => by
  obtain ⟨iss, h1, h2⟩ := ready_spec (List.all_eq_true.mp h i hi)
  simp only [Bool.and_eq_true] at h2
  refine ⟨iss, h1, ?_, h2.2⟩
  have h3 := h2.1
  simp only [locksAtB, Bool.and_eq_true, beq_iff_eq, Bool.not_eq_true'] at h3
  obtain ⟨⟨h4, h5⟩, h6⟩ := h3
  refine ⟨h4, h5, ?_⟩
  split at h6
  · rename_i x y s1 he
    simp only [Bool.and_eq_true, beq_iff_eq] at h6
    exact ⟨y, by rw [he, h6.1, h6.2]⟩
  · cases h6

theorem witness_LockResults :
    let is : List Instr := [.lock (.s 4) (.s 1) (.lit 0), .trylk (.s 4) (.s 1), .unlock (.s 4) (.s 1)]
    let w (s : State) (p : Issue → Bool) : Prop := ∀ i ∈ is, ∃ iss, Issues s iss i ∧ LocksAt s iss i (.s 1) 0 .both (2 ^ 30 + 256) ∧
      (iss.team.id == iss.tid && iss.frag.latch == .none && !s.lockHeldBack iss && !s.touchWaits iss.team (teamReg iss true 0 (.s 1)) && s.reqs == [] && p iss) = true
    let done : Team := { team 0 1 with frags := [(0, { frag 0 1 with latch := .done 0 })] }
    (∀ i ∈ is, ∃ iss, Issues (off 0) iss i ∧ (iss.low == none) = true) ∧
    (∀ i ∈ is, ∃ iss, Issues (near done []) iss i ∧ LocksAt (near done []) iss i (.s 1) 0 .both (2 ^ 30 + 256) ∧ (iss.frag.latch == .done 0 && iss.team.id == iss.tid) = true) ∧
    w (near (team 0 1) [lineLock 1 1 []]) (fun _ => (near (team 0 1) [lineLock 1 1 []]).lockAt (2 ^ 30 + 256) == some (lineLock 1 1 [])) ∧
    (let s := near (team 0 1) (lineLock 1 2 [] :: (List.range 8).map (fun n => lineLock (2 + n) 1 []))
     w s (fun _ => s.lockAt (2 ^ 30 + 256) == some (lineLock 1 2 []) && (s.locksOf 1).length == 8)) ∧
    (let s := near (team 0 1) (lineLock 1 2 [] :: (List.range 7).map (fun n => lineLock (2 + n) 1 []))
     w s (fun iss => s.lockAt (2 ^ 30 + 256) == some (lineLock 1 2 []) && (s.locksOf 1).length == 7 && decide ((s.coreSt iss.team.core).waiters.length < 32))) ∧
    (let s := near (team 0 1) []
     w s (fun _ => s.lockAt (2 ^ 30 + 256) == none && decide ((s.locksOf 1).length < 8) && s.ownerAt (2 ^ 30 + 256) == none && s.mem.updates == [] && s.mem.parts == [] &&
       s.mem.pend == [] && s.mem.peerPend == [])) ∧
    (∀ i ∈ [Instr.lkqry (.s 4) (.s 1)], ∃ iss, Issues (near (team 0 1) []) iss i ∧ LocksAt (near (team 0 1) []) iss i (.s 1) 0 .read (2 ^ 30 + 256) ∧
      ((near (team 0 1) []).lockAt (2 ^ 30 + 256) == none && !(near (team 0 1) []).touchWaits iss.team (teamReg iss true 0 (.s 1))) = true) ∧
    (let s := near (team 0 1) [lineLock 1 2 [(3, 0)]]
     ∀ i ∈ [Instr.lkqry (.s 4) (.s 1)], ∃ iss, Issues s iss i ∧ LocksAt s iss i (.s 1) 0 .read (2 ^ 30 + 256) ∧
      (s.lockAt (2 ^ 30 + 256) == some (lineLock 1 2 [(3, 0)]) && (s.team? 2).isSome && !s.touchWaits iss.team (teamReg iss true 0 (.s 1))) = true) :=
  ⟨ready_all (by decide +kernel), locks_all (by decide +kernel), locks_all (by decide +kernel), locks_all (by decide +kernel), locks_all (by decide +kernel),
    locks_all (by decide +kernel), locks_all (by decide +kernel), locks_all (by decide +kernel)⟩

/-- The token table of R197: in phase 5, s1 holds a token. -/
def phasing (t : Team) (dies : List Nat) : State :=
  { demo t with
    launches := [(1, { Launch.placed with dies := dies, heads := [(0, { hdr := { late := false, overrun := false, phase := 5, nextexp := 0, expect := 0 }, st := .isOpen })] })] }

def phased (token : DWord) (passed : Bool) : State := phasing { team 0 1 with scal := [(1, token)], phaseDone := passed } []

/-- The same at a PHWAIT whose latch stands so, the launch's last commit still to reach the dies named. -/
def latched (token : DWord) (latch : Latch) (dies : List Nat) : State :=
  phasing { team 0 1 with scal := [(1, token)], frags := [(0, { frag 0 1 with latch := latch })] } dies

theorem test_phase_tokens : [(4, 1, false), (2, 3, true), (0xFFF0, 21, true), (0x8006, 32767, true)].all (fun (x : DWord × Word × Bool) =>
    givesTeam (.phwait (.v 5) (.s 1) 3) (phased x.1 false) (fun t => t.v 5 0 == x.2.1 && t.p 3 0 == x.2.2)) = true := by decide +kernel

theorem witness_PhaseResults :
    let delta (s : State) (iss : Issue) : Nat := (BitVec.ofNat 16 (s.phaseOf iss.team) - BitVec.ofNat 16 (teamReg iss false 0 (.s 1))).toNat
    let w (s : State) (p : Issue → Bool) : Prop := ∃ iss, Issues s iss (.phwait (.v 5) (.s 1) 3) ∧ (iss.low == some 0 && (s.launch? iss.team.launch).isSome &&
      portsReady s iss.team (some (.v 5)) none none && p iss) = true
    let fresh (token : DWord) (dies : List Nat) (d : Nat) (waits : Bool) : Prop := w (latched token .none dies) (fun iss =>
      iss.frag.latch == .none && (latched token .none dies).unreleased iss.team.launch == waits && delta (latched token .none dies) iss == d)
    (∀ i ∈ [Instr.phhdr true (.lit 1), .phhdr false (.lit 1), .phwait (.v 5) (.s 1) 3], ∃ iss, Issues (off 0) iss i ∧ (iss.low == none) = true) ∧
    (∀ i ∈ [Instr.phhdr true (.lit 1), .phhdr false (.lit 1), .phend, .phrd .exp (.v 5)], ∃ iss, Issues (phased 0 false) iss i ∧ (iss.low == some 0 && iss.act != 0 && !iss.team.phaseDone &&
      (phased 0 false).reqs == [] && ((phased 0 false).launch? iss.team.launch).isSome && portsReady (phased 0 false) iss.team (some (.v 5)) none none) = true) ∧
    (∀ i ∈ [Instr.phhdr true (.lit 1), .phend], ∃ iss, Issues (phased 0 true) iss i ∧ (iss.low == some 0 && iss.team.phaseDone) = true) ∧
    (∃ iss, Issues (off 0) iss (.phrd .exp (.v 5)) ∧ (iss.act == 0) = true) ∧
    fresh 5 [] 0 false ∧ fresh 4 [1] 1 true ∧ fresh 4 [] 1 false ∧ fresh 3 [1] 2 true ∧ fresh 0x8006 [] 32767 false ∧ fresh 0x8005 [] 32768 false ∧
    w (latched 5 (.done 1) []) (fun iss => iss.frag.latch == .done 1) :=
  ⟨ready_all (by decide +kernel), ready_all (by decide +kernel), ready_all (by decide +kernel), ready_spec (by decide +kernel), ready_spec (by decide +kernel),
    ready_spec (by decide +kernel), ready_spec (by decide +kernel), ready_spec (by decide +kernel), ready_spec (by decide +kernel), ready_spec (by decide +kernel),
    ready_spec (by decide +kernel)⟩

/-- A store of team 1 that has not been performed. -/
def owed (team : Nat) (op : ReqOp) : Req :=
  { id := 1, inst := 1, team := team, entry := 0, pc := 0, op := op, path := 0, half := 0, parts := [], signed := false, ty := 0, place := .queue 1, since := 0
    pa := none, answer := [], counted := false, twins := [], arrived := 0, again := false, via := none }

theorem witness_FenceAndBarrierResults :
    let waits : State := { lane 0 with reqs := [owed 1 (.store .plain 4)] }
    let parked (key : Nat) (l : Latch) : State := { lane 0 with teams := [(1, { team 0 1 with frags := [(0, { frag 0 1 with latch := .none })] }),
      (2, { team 0 1 with id := 2, slot := 1, frags := [(0, { frag 0 1 with latch := l })] }), (3, { team 0 1 with id := key, slot := 2, status := .ended, frags := [] })] }
    let done (v : Nat) : State := demo { team 0 1 with frags := [(0, { frag 0 1 with latch := .done v })] }
    let ok (s : State) (is : List Instr) (p : Issue → Bool) : Prop := ∀ i ∈ is, ∃ iss, Issues s iss i ∧ p iss = true
    ok waits [.fence .all .system, .fence .st .group] (fun iss => waits.fenceWaits iss.team .all .system && waits.fenceWaits iss.team .st .group) ∧
    ok (lane 0) [.fence .ld .device, .fence .all .team, .fence .st .group, .fence .all .system] (fun iss => !(lane 0).fenceWaits iss.team .all .system &&
      !(lane 0).fenceWaits iss.team .ld .device && !(lane 0).fenceWaits iss.team .all .team) ∧
    ok (done 0) [.bar, .gbar] (fun iss => iss.frag.latch == .done 0) ∧
    ok waits [.bar, .gbar] (fun iss => iss.frag.latch == .none && waits.fenceWaits iss.team .all .group && waits.fenceWaits iss.team .all .gang) ∧
    ok (parked 3 .none) [.bar, .gbar] (fun iss => iss.frag.latch == .none && !(parked 3 .none).fenceWaits iss.team .all .gang && ((parked 3 .none).launch? iss.team.launch).isSome &&
      (parked 3 .none).team? 2 == some { team 0 1 with id := 2, slot := 1 }) ∧
    ok (parked 3 (.waiting 3)) [.bar] (fun iss => iss.team.status != .ended && iss.team.frags == [(iss.entry, iss.frag)] && !(parked 3 (.waiting 3)).fenceWaits iss.team .all .group &&
      (parked 3 (.waiting 3)).teams.all (fun e => if e.1 == iss.tid then e.2 == iss.team else e.2.status == .ended || !e.2.frags.isEmpty && e.2.frags.all (fun f => f.2.latch == .waiting 3))) ∧
    ok (parked 3 (.waiting 4)) [.gbar] (fun iss => iss.team.status != .ended && iss.team.frags == [(iss.entry, iss.frag)] && !(parked 3 (.waiting 4)).fenceWaits iss.team .all .gang &&
      (parked 3 (.waiting 4)).teams.all (fun e => if e.1 == iss.tid then e.2 == iss.team else e.2.status == .ended || !e.2.frags.isEmpty && e.2.frags.all (fun f => f.2.latch == .waiting 4))) ∧
    ok (off 0) [.waitp 0 (.lit 0)] (fun iss => iss.low == none) ∧
    ok (lane 0) [.waitp 0 (.lit 0)] (fun iss => iss.low == some 0 && (match ((lane 0).retire iss.tid).team? iss.tid with | some t => (t.path 0).length == 0 | none => false)) ∧
    (let s := { waits with teams := [(1, { team 0 1 with paths := [(0, [1])] })] }
     ok s [.waitp 0 (.lit 0)] (fun iss => iss.low == some 0 && (match (s.retire iss.tid).team? iss.tid with | some t => decide (0 < (t.path 0).length) | none => false))) :=
  ⟨ready_all (by decide +kernel), ready_all (by decide +kernel), ready_all (by decide +kernel), ready_all (by decide +kernel), ready_all (by decide +kernel),
    ready_all (by decide +kernel), ready_all (by decide +kernel), ready_all (by decide +kernel), ready_all (by decide +kernel), ready_all (by decide +kernel)⟩

/-! s1 holds the address of counter n of die 1, of which the context may use 4 to 4095. -/

def counted (n : Nat) (m : Nat) : State :=
  { scalars 0 [(1, BitVec.ofNat 64 (winBase 4 + 32768 + n)), (2, 2 ^ 57), (3, 8)] with ctxs := [(0, { Ctx.placed with desc := leBytes 64 (4 * 2 ^ 192 + m * 2 ^ 208) })] }

def quietB (s : State) (iss : Issue) : Bool :=
  iss.team.id == iss.tid && !iss.team.lockOut && iss.team.ovflow == [] && s.reqs == [] && iss.team.paths == [] && s.launch? iss.team.launch == some Launch.placed

theorem quietB_spec {s : State} {iss : Issue} (h : quietB s iss = true) : Quiet s iss := by
  simp only [quietB, Bool.and_eq_true, beq_iff_eq, Bool.not_eq_true'] at h
  obtain ⟨⟨⟨⟨⟨h1, h2⟩, h3⟩, h4⟩, h5⟩, h6⟩ := h
  exact ⟨h1, h2, h3, by simp [h4], fun p => by simp [Team.path, h5, NMap.getD, NMap.look], fun q hq => by rw [h6] at hq; cases hq; rfl⟩

def atCounterB (s : State) (iss : Issue) (d n : Nat) : Bool :=
  iss.low == some 0 && teamReg iss true 0 (.s 1) == winBase 4 + counterAddr d n && decide (d < 2) && decide (n < 4096) &&
    (match s.ctx? iss.ctx with | some c => decide (c.ctrLo d ≤ n) && decide (n ≤ c.ctrHi d) | none => false)

theorem atCounterB_spec {s : State} {iss : Issue} {d n : Nat} (h : atCounterB s iss d n = true) : AtCounter s iss 0 (.s 1) d n := by
  simp only [atCounterB, Bool.and_eq_true, beq_iff_eq, decide_eq_true_eq] at h
  obtain ⟨⟨⟨⟨h1, h2⟩, h3⟩, h4⟩, h5⟩ := h
  refine ⟨h1, h2, ⟨h3, h4⟩, ?_⟩
  split at h5
  · rename_i c hc
    simp only [Bool.and_eq_true, decide_eq_true_eq] at h5
    exact ⟨c, hc, h5⟩
  · cases h5

theorem counter_all {s : State} {is : List Instr} {d n : Nat} {p : Issue → Bool} (h : is.all (fun i => ready s i (fun iss => quietB s iss && atCounterB s iss d n && p iss)) = true) :
    ∀ i ∈ is, ∃ iss, Issues s iss i ∧ Quiet s iss ∧ AtCounter s iss 0 (.s 1) d n ∧ p iss = true := fun i hi => by
  obtain ⟨iss, h1, h2⟩ := ready_all h i hi
  simp only [Bool.and_eq_true] at h2
  exact ⟨iss, h1, quietB_spec h2.1.1, atCounterB_spec h2.1.2, h2.2⟩

/-- The first and the last counter of a range, and those beyond it. -/
theorem witness_CounterResults :
    let is (b : Src) : List Instr := [.waitct (.s 1) b, .ctset true (.s 1) b, .ctadd false (.s 4) (.s 1) b, .ctrd (.s 4) (.s 1)]
    let fails (n : Nat) (a : Reg) (p : Nat → Bool) : Prop := ∀ i ∈ [Instr.waitct a (.lit 0), .ctset true a (.lit 1), .ctadd false (.s 4) a (.lit 1), .ctrd (.s 4) a],
      ∃ iss, Issues (counted n 4094) iss i ∧ (iss.low == some 0 && iss.frag.latch == .none && p (teamReg iss true 0 a)) = true
    (∀ i ∈ is (.lit 1), ∃ iss, Issues (off 0) iss i ∧ (iss.low == none) = true) ∧
    (∀ i ∈ is (.lit 0), ∃ iss, Issues (counted (8 * 4095) 4095) iss i ∧ Quiet (counted (8 * 4095) 4095) iss ∧ AtCounter (counted (8 * 4095) 4095) iss 0 (.s 1) 1 4095 ∧
      (iss.frag.latch == .none && !iss.team.waitsBehind (counted (8 * 4095) 4095) && decide (teamSrc iss false 0 (.lit 0) ≤ (counted (8 * 4095) 4095).counter (counterAddr 1 4095)) &&
        !(counted (8 * 4095) 4095).mem.ctr.tagged (counterAddr 1 4095) 8) = true) ∧
    (∀ i ∈ is (.lit 1), ∃ iss, Issues (counted 32 4095) iss i ∧ Quiet (counted 32 4095) iss ∧ AtCounter (counted 32 4095) iss 0 (.s 1) 1 4 ∧
      (iss.frag.latch == .none && !iss.team.waitsBehind (counted 32 4095) && decide ((counted 32 4095).counter (counterAddr 1 4) < teamSrc iss false 0 (.lit 1))) = true) ∧
    fails 0 (.s 2) (fun va => decide (2 ^ 57 ≤ va)) ∧ fails 0 (.s 3) (fun va => decide (va < winBase 0)) ∧
    fails (8 * 4095) (.s 1) (fun va => va == winBase 4 + counterAddr 1 4095) ∧ fails 24 (.s 1) (fun va => va == winBase 4 + counterAddr 1 3) ∧
    fails 36 (.s 1) (fun va => va == winBase 4 + 32768 + 36) :=
  ⟨ready_all (by decide +kernel), counter_all (by decide +kernel), counter_all (by decide +kernel), ready_all (by decide +kernel), ready_all (by decide +kernel),
    ready_all (by decide +kernel), ready_all (by decide +kernel), ready_all (by decide +kernel)⟩

/-! Matrix and copy operations: core 0 is even; s0 a selector or control word, s1 an address or record, s2 an address; the scratchpad of 100 pages
holds two inflection records, plain ones at 0 and one with a sparse A at 32; HBM is mapped from 2^38 on. -/

def boxed (m : Word) (core : Nat) (xs : List (Nat × DWord)) (p : PairSt) (hs : NMap Handle) : State :=
  { demo { team m 1 with scal := xs, core := core } with
    launches := [(1, launchOf (100 * 2 ^ 172))], pairs := [(0, p)]
    groups := [{ padGroup with handles := hs
                               scratch := (Store.empty.write 0 (leBytes 32 (3 * 2 ^ 128 + 3 * 2 ^ 144)) false).write 32 (leBytes 32 (67 * 2 ^ 128 + 3 * 2 ^ 144)) false }] }

def matrixB (s : State) (iss : Issue) : Bool :=
  iss.team.id == iss.tid && iss.low == some 0 && iss.team.core % 2 == 0 && (s.pairSt (pairOf iss)).resetAt == none &&
    (match s.group? iss.team.launch iss.team.group with | some g => !g.lost | none => true)

theorem matrixB_spec {s : State} {iss : Issue} (h : matrixB s iss = true) : MatrixReady s iss 0 := by
  simp only [matrixB, Bool.and_eq_true, beq_iff_eq] at h
  obtain ⟨⟨⟨⟨h1, h2⟩, h3⟩, h4⟩, h5⟩ := h
  exact ⟨⟨h1, h3, h4, fun g hg => by simpa [hg] using h5⟩, h2⟩

theorem matrix_all {s : State} {is : List Instr} {p : Issue → Bool} (h : is.all (fun i => ready s i (fun iss => matrixB s iss && p iss)) = true) :
    ∀ i ∈ is, ∃ iss, Issues s iss i ∧ MatrixReady s iss 0 ∧ p iss = true := fun i hi => by
  obtain ⟨iss, h1, h2⟩ := ready_all h i hi
  simp only [Bool.and_eq_true] at h2
  exact ⟨iss, h1, matrixB_spec h2.1, h2.2⟩

/-- The operation may be submitted, and its ranges are mapped. -/
def submitsB (s : State) (iss : Issue) (i : Instr) (fb : Bool) (names : List Nat) (srcs dsts : List Range) : Bool :=
  !(s.pairSt (pairOf iss)).heldByOther iss.gkey names && decide (((s.pairSt (pairOf iss)).ops.filter (fun x => x.team == iss.team.id && !x.started)).length < 8) &&
    flagRoom iss (selFlag iss fb) && !s.acquiring iss.team && (srcs ++ dsts).all (fun r => !s.unsettled iss.team r.va r.n) &&
    (match probeAll iss.team 11 srcs (hashed s iss i) with
      | (.ok _, s1) => (match probeAll iss.team 11 dsts s1 with | (.ok _, _) => true | _ => false)
      | _ => false)

theorem submitsB_spec {s : State} {iss : Issue} {i : Instr} {fb : Bool} {names : List Nat} {srcs dsts : List Range} (h : submitsB s iss i fb names srcs dsts = true) :
    MaySubmit s iss fb names ∧ (∀ r ∈ srcs ++ dsts, s.unsettled iss.team r.va r.n = false) ∧
      ∃ ss ds s1 s2, probeAll iss.team 11 srcs (hashed s iss i) = (.ok ss, s1) ∧ probeAll iss.team 11 dsts s1 = (.ok ds, s2) := by
  simp only [submitsB, Bool.and_eq_true, Bool.not_eq_true', decide_eq_true_eq, List.all_eq_true] at h
  obtain ⟨⟨⟨⟨⟨h1, h2⟩, h3⟩, h4⟩, h5⟩, h6⟩ := h
  refine ⟨⟨h1, h2, h3, h4⟩, h5, ?_⟩
  split at h6
  · rename_i ss s1 he
    split at h6
    · rename_i ds s2 hf
      exact ⟨ss, ds, s1, s2, he, hf⟩
    · cases h6
  · cases h6

def matrixInstrs : List Instr := [.bld false false (.s 0) (.s 1) (.s 2), .mma false false (.s 0) (.s 1) (.s 2), .mmas false false (.s 0) (.s 1) (.s 2), .accz false false (.s 0),
  .accld false false (.s 0) (.s 1) (.lit 1024), .accst false false (.s 0) (.s 1) (.lit 1024), .accrd (.v 4) (.v 6), .accwr (.v 4) (.v 6),
  .spmld false false (.s 0) (.s 1) (.lit 64), .qnt false false (.s 0) (.s 1) (.lit 0x40000), .dqnt false false (.s 0) (.s 1) (.lit 0x40000)]

theorem witness_MatrixGates :
    (∀ i ∈ matrixInstrs, ∃ iss, Issues (off 0) iss i ∧ (iss.low == none && iss.act == 0) = true) ∧
    (∀ i ∈ matrixInstrs, ∃ iss, Issues (boxed 0 1 [] PairSt.reset []) iss i ∧ (iss.low == some 0 && iss.act != 0 && iss.team.core % 2 == 1) = true) ∧
    (∀ i ∈ matrixInstrs, ∃ iss, Issues (boxed 0 0 [] { PairSt.reset with resetAt := some 0 } []) iss i ∧ (iss.low == some 0 && iss.act != 0 && iss.team.core % 2 == 0 &&
      (boxed 0 0 [] { PairSt.reset with resetAt := some 0 } []).pairSt (pairOf iss) != PairSt.reset) = true) ∧
    ∀ i ∈ matrixInstrs, ∃ iss, Issues (boxed 0 0 [] PairSt.reset []) iss i ∧ MatrixReady (boxed 0 0 [] PairSt.reset []) iss 0 ∧ (iss.act != 0 && !accTypes iss.ty && !cvTypes iss.ty) = true :=
  ⟨ready_all (by decide +kernel), ready_all (by decide +kernel), ready_all (by decide +kernel), matrix_all (by decide +kernel)⟩

/-- The operands of BLD, MMA and MMAS: selector, record, the address of the elements. -/
def operands (sel rec' x : Nat) : List (Nat × DWord) := [(0, BitVec.ofNat 64 sel), (1, BitVec.ofNat 64 (winBase 1 + rec')), (2, BitVec.ofNat 64 x)]

def reads (s : State) (iss : Issue) (i : Instr) (p : Inflection → Bool) : Bool :=
  match readRecord (hashed s iss i) iss (teamReg iss true 0 (.s 1)) with
  | .ok x _ => p x
  | _ => false

/-- Buffers 0 and 1 loaded with what those records ask for, single or double. -/
def filled (double : Bool) : PairSt :=
  let b : BBuf := { valid := true, double := double, bctl := 3, cols := 0, depth := 0, elems := [], scales := [], tags := [] }
  { PairSt.reset with bufs := [(0, b), (1, b)], bufOwner := [(0, groupKey 1 0), (1, groupKey 1 0)] }

theorem witness_MultiplyIssueResults :
    let bld : Instr := .bld false false (.s 0) (.s 1) (.s 2)
    let mma : Instr := .mma false false (.s 0) (.s 1) (.s 2)
    let mmas : Instr := .mmas false false (.s 0) (.s 1) (.s 2)
    let w (s : State) (is : List Instr) (p : Issue → Bool) : Prop := ∀ i ∈ is, ∃ iss, Issues s iss i ∧ MatrixReady s iss 0 ∧ (!anyTag iss 0 [.s 1, .s 2] && p iss) = true
    let sel (iss : Issue) : Nat := teamReg iss false 0 (.s 0)
    (let s := boxed 0 0 (operands 8 0 (2 ^ 38)) PairSt.reset []
     w s [bld, mma, mmas] (fun iss => !selOk (sel iss))) ∧
    (let s := boxed 0 0 (operands 0 0 (2 ^ 38)) { PairSt.reset with bufOwner := [(0, 7)] } []
     w s [bld] (fun iss => selOk (sel iss) && (s.pairSt (pairOf iss)).heldByOther iss.gkey [2])) ∧
    (let s := boxed 0 0 (operands 1 32 (2 ^ 38)) PairSt.reset []
     w s [bld] (fun iss => selOk (sel iss) && !(s.pairSt (pairOf iss)).heldByOther iss.gkey [3] && reads s iss bld (fun x => x.double))) ∧
    (let s := boxed 0 0 (operands 0 0 (2 ^ 38 + 8)) PairSt.reset []
     w s [bld] (fun iss => selOk (sel iss) && !(s.pairSt (pairOf iss)).heldByOther iss.gkey [2] && reads s iss bld (fun x => !x.double) && teamReg iss true 0 (.s 2) % 256 != 0)) ∧
    (let s := boxed 0 0 (operands 0 0 (2 ^ 38)) PairSt.reset []
     w s [bld] (fun iss => selOk (sel iss) && reads s iss bld (fun x => !x.double && !x.cb.scen && submitsB s iss bld false [2]
       [{ va := 2 ^ 38, n := 256 * x.cb.rowBytes x.k', need := .read }, { va := x.bscale, n := 256 * x.cb.scaleBytes x.k', need := .read }] []))) ∧
    (let s := boxed 0 0 (operands 0 32 (2 ^ 38)) PairSt.reset []
     w s [mma] (fun iss => selOk (sel iss) && !(s.pairSt (pairOf iss)).heldByOther iss.gkey [2, 0] && reads s iss mma (fun x => x.ca.sparse != 0))) ∧
    (let s := boxed 0 0 (operands 0 0 (2 ^ 38)) PairSt.reset []
     w s [mmas] (fun iss => selOk (sel iss) && !(s.pairSt (pairOf iss)).heldByOther iss.gkey [2, 0] && reads s iss mmas (fun x => x.ca.sparse == 0 && x.cb.sparse == 0)) ∧
     w s [mma] (fun iss => selOk (sel iss) && reads s iss mma (fun x => x.ca.sparse == 0 && x.cb.sparse == 0) && (s.pairSt (pairOf iss)).owner 2 != some iss.gkey)) ∧
    (let s := boxed 0 0 (operands 0 0 (winBase 1 + 4096)) (filled false) []
     w s [mma] (fun iss => selOk (sel iss) && (s.pairSt (pairOf iss)).owner 2 == some iss.gkey && reads s iss mma (fun x => x.ca.sparse == 0 && x.cb.sparse == 0 && !x.double && !x.ca.scen &&
       ((s.pairSt (pairOf iss)).buf 0).valid && ((s.pairSt (pairOf iss)).buf 0).bctl == x.bctl && !((s.pairSt (pairOf iss)).buf 0).double &&
       (match scratchSeg (hashed s iss mma) iss.team (winBase 1 + 4096) (256 * x.ca.rowBytes x.k') with | .ok _ => true | .error _ => false) && submitsB s iss mma false [2, 0] [] []))) ∧
    (let s := boxed 0 0 (operands 0 32 (winBase 1 + 4096)) (filled true) []
     w s [mmas] (fun iss => selOk (sel iss) && (s.pairSt (pairOf iss)).owner 2 == some iss.gkey && (s.pairSt (pairOf iss)).owner 3 == some iss.gkey &&
       reads s iss mmas (fun x => x.ca.sparse != 0 && x.cb.sparse == 0 && x.double && !x.ca.scen && ((s.pairSt (pairOf iss)).buf 1).valid &&
         ((s.pairSt (pairOf iss)).buf 1).bctl == x.bctl && ((s.pairSt (pairOf iss)).buf 1).double &&
         (match scratchSeg (hashed s iss mmas) iss.team (winBase 1 + 4096) (256 * x.ca.rowBytes x.k') with | .ok _ => true | .error _ => false) &&
         submitsB s iss mmas false [2, 3, 10, 0] [] []))) :=
  ⟨matrix_all (by decide +kernel), matrix_all (by decide +kernel), matrix_all (by decide +kernel), matrix_all (by decide +kernel), matrix_all (by decide +kernel),
    matrix_all (by decide +kernel), ⟨matrix_all (by decide +kernel), matrix_all (by decide +kernel)⟩, matrix_all (by decide +kernel), matrix_all (by decide +kernel)⟩

theorem witness_TransferIssueResults :
    let accld : Instr := .accld false false (.s 0) (.s 1) (.reg (.s 3))
    let accst : Instr := .accst false false (.s 0) (.s 1) (.reg (.s 3))
    let qnt : Instr := .qnt false false (.s 4) (.s 1) (.reg (.s 3))
    let dqnt : Instr := .dqnt false false (.s 4) (.s 1) (.reg (.s 3))
    let spmld : Instr := .spmld false false (.s 0) (.s 1) (.reg (.s 3))
    let at' (sel va y : Nat) : State := boxed 0x01800000 0 [(0, BitVec.ofNat 64 sel), (1, BitVec.ofNat 64 va), (3, BitVec.ofNat 64 y), (4, 2 ^ 38 + 2 ^ 20), (5, 2 ^ 38 + 2 ^ 21)] PairSt.reset []
    let w (s : State) (is : List Instr) (p : Issue → Bool) : Prop := ∀ i ∈ is, ∃ iss, Issues s iss i ∧ MatrixReady s iss 0 ∧
      (!anyTag iss 0 [.s 1] && accTypes iss.ty && cvTypes iss.ty && iss.team.stag == [] && iss.ty.ew == 32 && p iss) = true
    let sel (iss : Issue) : Nat := teamReg iss false 0 (.s 0)
    let y (iss : Issue) : Nat := teamSrc iss false 0 (.reg (.s 3))
    let rows (m n : Nat) (need : Need) : List Range := (List.range m).map (fun i => { va := 2 ^ 38 + i * 1024, n := n, need := need })
    w (at' 8 (2 ^ 38) 1024) [.accz false false (.s 0), accld, accst] (fun iss => !selOk (sel iss)) ∧
    w (at' 16 (2 ^ 38) 1024) [.accz false false (.s 0)] (fun iss => selOk (sel iss) && submitsB (at' 16 (2 ^ 38) 1024) iss (.accz false false (.s 0)) false [1] [] []) ∧
    w (at' 0 (2 ^ 38) 768) [accld, accst] (fun iss => selOk (sel iss) && decide (y iss < 1024)) ∧ w (at' 0 (2 ^ 38) 1032) [accld, accst] (fun iss => selOk (sel iss) && y iss % 256 != 0) ∧
    w (at' 0 (2 ^ 57) 1024) [accld, accst] (fun iss => selOk (sel iss) && y iss == 1024) ∧ w (at' 0 (2 ^ 38 + 64) 1024) [accld, accst] (fun iss => selOk (sel iss) && y iss == 1024) ∧
    w (at' 0 (2 ^ 38) 1024) [accld] (fun iss => submitsB (at' 0 (2 ^ 38) 1024) iss accld false [0] (rows 256 1024 .read) []) ∧
    w (at' 0 (2 ^ 38) 1024) [accst] (fun iss => submitsB (at' 0 (2 ^ 38) 1024) iss accst false [0] [] (rows 256 1024 .write)) ∧
    w (at' 32 (2 ^ 38) 64) [spmld] (fun iss => sel iss % 64 != 0) ∧ w (at' 16384 (2 ^ 38) 64) [spmld] (fun iss => decide (16384 < sel iss + y iss)) ∧
    w (at' 16320 (2 ^ 38) 64) [spmld] (fun iss => sel iss % 64 == 0 && y iss % 64 == 0 && decide (sel iss + y iss ≤ 16384) &&
      submitsB (at' 16320 (2 ^ 38) 64) iss spmld false [10] [{ va := 2 ^ 38, n := 64, need := .read }] []) ∧
    w (at' 0 (2 ^ 38) 0x40005) [qnt, dqnt] (fun iss => y iss == 0x40005) ∧ w (at' 0 (2 ^ 38) 0x3F000) [qnt, dqnt] (fun iss => y iss % 2 ^ 32 / 2 ^ 12 * 16 == 1008) ∧
    w (at' 0 (2 ^ 38) 0x40000) [qnt] (fun iss => y iss % 2 ^ 32 / 2 ^ 12 * 16 == 1024 && submitsB (at' 0 (2 ^ 38) 0x40000) iss qnt false [] (rows 1 1024 .read)
      [{ va := 2 ^ 38 + 2 ^ 20, n := 128, need := .write }, { va := 2 ^ 38 + 2 ^ 21, n := 8, need := .write }]) ∧
    w (at' 0 (2 ^ 38) 0x40000) [dqnt] (fun iss => submitsB (at' 0 (2 ^ 38) 0x40000) iss dqnt false []
      [{ va := 2 ^ 38, n := 128, need := .read }, { va := 2 ^ 38 + 2 ^ 21, n := 8, need := .read }] [{ va := 2 ^ 38 + 2 ^ 20, n := 1024, need := .write }]) :=
  ⟨matrix_all (by decide +kernel), matrix_all (by decide +kernel), matrix_all (by decide +kernel), matrix_all (by decide +kernel), matrix_all (by decide +kernel),
    matrix_all (by decide +kernel), matrix_all (by decide +kernel), matrix_all (by decide +kernel), matrix_all (by decide +kernel), matrix_all (by decide +kernel),
    matrix_all (by decide +kernel), matrix_all (by decide +kernel), matrix_all (by decide +kernel), matrix_all (by decide +kernel), matrix_all (by decide +kernel)⟩

theorem witness_AccumulatorElementResults :
    let at' (pos : Word) : State := { boxed 0x01800000 0 [] PairSt.reset [] with teams := [(1, { team 0x01800000 1 with vec := [(vkey 6 0, pos)] })] }
    (∀ i ∈ [Instr.accrd (.v 4) (.v 6), .accwr (.v 4) (.v 6), .mxqry (.s 4)], ∃ iss, Issues (at' 131071) iss i ∧ MatrixReady (at' 131071) iss 0 ∧
      (iss.ty == .f32 && lanesOf iss.act iss.team.n == [0] && lanesOf iss.val iss.team.n == [0] && !teamTag iss false 0 (.v 6) && !teamTag iss false 0 (.v 4) &&
        teamReg iss false 0 (.v 6) == 131071 && (at' 131071).pairSt (pairOf iss) == PairSt.reset) = true) ∧
    (∀ i ∈ [Instr.accrd (.v 4) (.v 6), .accwr (.v 4) (.v 6)], ∃ iss, Issues (at' 131072) iss i ∧ MatrixReady (at' 131072) iss 0 ∧
      (lanesOf iss.act iss.team.n == [0] && lanesOf iss.val iss.team.n == [0] && decide (2 ^ 17 ≤ teamReg iss false 0 (.v 6))) = true) ∧
    ∃ iss, Issues (off 0) iss (.mxqry (.s 4)) ∧ (iss.low == none) = true :=
  ⟨matrix_all (by decide +kernel), matrix_all (by decide +kernel), ready_spec (by decide +kernel)⟩

def atHandleB (s : State) (iss : Issue) (h : Nat) (x : Handle) : Bool :=
  iss.low == some 0 && iss.team.id == iss.tid && decide (h < 8) && (match s.group? iss.team.launch iss.team.group with | some g => g.handle h == x | none => false)

theorem atHandleB_spec {s : State} {iss : Issue} {h : Nat} {x : Handle} (e : atHandleB s iss h x = true) : ∃ g, AtHandle s iss 0 h g x := by
  simp only [atHandleB, Bool.and_eq_true, beq_iff_eq, decide_eq_true_eq] at e
  obtain ⟨⟨⟨h1, h2⟩, h3⟩, h4⟩ := e
  split at h4
  · rename_i g hg
    exact ⟨g, h1, h2, h3, hg, by simpa using h4⟩
  · cases h4

theorem handle_all {s : State} {is : List Instr} {n : Nat} {x : Handle} {p : Issue → Bool} (h : is.all (fun i => ready s i (fun iss => atHandleB s iss n x && p iss)) = true) :
    ∀ i ∈ is, ∃ iss, Issues s iss i ∧ (∃ g, AtHandle s iss 0 n g x) ∧ p iss = true := fun i hi => by
  obtain ⟨iss, h1, h2⟩ := ready_all h i hi
  simp only [Bool.and_eq_true] at h2
  exact ⟨iss, h1, atHandleB_spec h2.1, h2.2⟩

/-- A bound handle in a state; s0 a slice's offset and length, s1 an address or a handle's number, s3 what binds or names a handle. -/
def bound (st : HandleSt) : Handle := { Handle.blank with st := st, bound := true, kind := 0, base := winBase 1 + 4096, len := 8192 }
def copying (x : Handle) (core : Nat) (desc a b : Nat) : State :=
  boxed 0 core [(0, BitVec.ofNat 64 desc), (1, BitVec.ofNat 64 a), (3, BitVec.ofNat 64 b)] PairSt.reset [(7, x)]

theorem witness_CopyResults :
    let hbind : Instr := .hbind (.s 4) (.s 1) (.reg (.s 3))
    let cpsl : Instr := .cpsl false false (.s 0) (.s 1) (.reg (.s 3))
    let hs : List Instr := [.hwait (.s 4) (.s 1), .hrel (.s 4) (.s 1), .hstat (.s 4) (.s 1)]
    let w (x : Handle) (s : State) (is : List Instr) (p : Issue → Bool) : Prop := ∀ i ∈ is, ∃ iss, Issues s iss i ∧ (∃ g, AtHandle s iss 0 7 g x) ∧ p iss = true
    let word (iss : Issue) : Nat := teamSrc iss true 0 (.reg (.s 3))
    let sub (iss : Issue) : Bool := !anyTag iss 0 [.s 1] && flagRoom iss (selFlag iss false) && iss.team.pathRoom [5] && iss.frag.latch == .none
    let go (len : Nat) (s : State) (iss : Issue) : Bool := sub iss && !s.acquiring iss.team && !s.unsettled iss.team (2 ^ 38) len &&
      (match probeAll iss.team 24 [{ va := 2 ^ 38, n := len, need := .read }] (hashed s iss cpsl) with
        | (.ok _, s1) => (match probeAll iss.team 24 [{ va := winBase 1 + 4096, n := len, need := .write }] s1 with | (.ok _, _) => true | _ => false)
        | _ => false)
    (∀ i ∈ hbind :: cpsl :: hs, ∃ iss, Issues (off 0) iss i ∧ (iss.low == none) = true) ∧
    (∀ i ∈ hs, ∃ iss, Issues (copying Handle.blank 0 0 8 0) iss i ∧ (iss.low == some 0 && decide (7 < teamReg iss false 0 (.s 1))) = true) ∧
    -- HBIND: a word that is not one, an odd core, an address too high, one across the windows, a handle in use, a free one
    w Handle.blank (copying Handle.blank 0 0 (2 ^ 38) (2 ^ 40 + 7)) [hbind] (fun iss => decide (2 ^ 40 ≤ word iss)) ∧
    w Handle.blank (copying Handle.blank 1 0 (2 ^ 38) (256 + 16 + 7)) [hbind] (fun iss => word iss / 16 % 2 == 1 && iss.team.core % 2 == 1) ∧
    w Handle.blank (copying Handle.blank 0 0 (2 ^ 57) (256 + 7)) [hbind] (fun iss => decide (2 ^ 57 < teamReg iss true 0 (.s 1) + word iss / 256 % 2 ^ 32)) ∧
    w Handle.blank (copying Handle.blank 0 0 (winBase 0 - 1) (2 * 256 + 7)) [hbind] (fun iss => decide (teamReg iss true 0 (.s 1) < winBase 0) &&
      decide (winBase 0 < teamReg iss true 0 (.s 1) + word iss / 256 % 2 ^ 32)) ∧
    w (bound .full) (copying (bound .full) 0 0 (winBase 0 - 1) (256 + 7)) [hbind] (fun iss => teamReg iss true 0 (.s 1) + word iss / 256 % 2 ^ 32 == winBase 0) ∧
    w Handle.blank (copying Handle.blank 0 0 (winBase 0 - 1) (256 + 7)) [hbind] (fun iss => teamReg iss true 0 (.s 1) + word iss / 256 % 2 ^ 32 == winBase 0 && word iss % 8 == 7) ∧
    w Handle.blank (copying Handle.blank 0 0 0 (256 + 16 + 7)) [hbind] (fun iss => word iss / 16 % 2 == 1 && iss.team.core % 2 == 0 && !anyTag iss 0 [.s 1]) ∧
    -- CPSL: a handle that is not bound, a slice beyond it, the last slice that fits
    w Handle.blank (copying Handle.blank 0 0 (2 ^ 38) 7) [cpsl] sub ∧
    w (bound .free) (copying (bound .free) 0 (8192 * 2 ^ 32 + 1) (2 ^ 38) 7) [cpsl] sub ∧
    w (bound .free) (copying (bound .free) 0 8192 (2 ^ 38) 7) [cpsl] (fun iss => go 8192 (copying (bound .free) 0 8192 (2 ^ 38) 7) iss) ∧
    (let s : State := { copying (bound .free) 0 8192 (2 ^ 38) 7 with teams := (copying (bound .free) 0 8192 (2 ^ 38) 7).teams ++ [(2, { Team.placed with id := 2, slot := 1 })] }
     w (bound .free) s [cpsl] (fun iss => go 8192 s iss)) ∧
    -- HWAIT, HREL and HSTAT, by state
    w Handle.blank (copying Handle.blank 0 0 7 0) hs (fun iss => teamReg iss false 0 (.s 1) == 7 && iss.frag.latch == .none) ∧
    (let v (st : HandleSt) : Prop := w (bound st) (copying (bound st) 0 0 7 0) hs (fun iss => teamReg iss false 0 (.s 1) == 7 && iss.frag.latch == .none)
     v .free ∧ v .filling ∧ v .full ∧ v .draining) :=
  ⟨ready_all (by decide +kernel), ready_all (by decide +kernel), handle_all (by decide +kernel), handle_all (by decide +kernel), handle_all (by decide +kernel),
    handle_all (by decide +kernel), handle_all (by decide +kernel), handle_all (by decide +kernel), handle_all (by decide +kernel), handle_all (by decide +kernel),
    handle_all (by decide +kernel), handle_all (by decide +kernel), handle_all (by decide +kernel), handle_all (by decide +kernel),
    ⟨handle_all (by decide +kernel), handle_all (by decide +kernel), handle_all (by decide +kernel), handle_all (by decide +kernel)⟩⟩

/-! Fabric and Conjunction: the context may use counters 0 to 7 of die 0 and slots 0 to 7 of die 1. -/

def linked (xs : List (Nat × DWord)) (ports : NMap Port) : State :=
  { boxed 0 0 [] PairSt.reset [] with
    teams := [(1, { team 0 1 with scal := xs, ports := ports })]
    ctxs := [(0, { Ctx.placed with desc := leBytes 64 (7 * 2 ^ 176), cjRange := [(1, 7 * 2 ^ 16)] })] }

theorem witness_FabricResults :
    let put : Instr := .put false false (.s 0) (.s 1) (.s 2)
    let get : Instr := .get false false (.s 0) (.s 1) (.s 2)
    let bulk : Instr := .bulk false false (.s 1)
    let send : Instr := .send false false (.s 0) (.s 1)
    let recv : Instr := .recv (.s 1)
    let at' (ctl dst src : Nat) : State := linked [(0, BitVec.ofNat 64 ctl), (1, BitVec.ofNat 64 dst), (2, BitVec.ofNat 64 src)] []
    let bulky (src dst len ctl : Nat) : State := linked [(1, BitVec.ofNat 64 src), (2, BitVec.ofNat 64 dst), (3, BitVec.ofNat 64 len), (4, BitVec.ofNat 64 ctl)] []
    let w (s : State) (is : List Instr) (p : Issue → Bool) : Prop := ∀ i ∈ is, ∃ iss, Issues s iss i ∧
      (iss.low == some 0 && iss.team.id == iss.tid && iss.team.stag == [] && !anyTag iss 0 [.s 1, .s 2] && p iss) = true
    let room (s : State) (iss : Issue) : Bool := flagRoom iss (selFlag iss false) && iss.team.paths == [] && !s.acquiring iss.team && s.reqs == [] && !iss.team.lockOut
    let opens (s : State) (iss : Issue) (i : Instr) (g : Bool) (src dst len : Nat) (p : List Seg → List Seg → Bool) : Bool :=
      match (hashed s iss i).fabBoth iss.team (if g then getSrc else putSrc) (if g then getDst else putDst) src dst len false with
      | ((.ok ss, .ok ds), _) => p ss ds
      | _ => false
    (∀ i ∈ [put, get, bulk, send, recv, .fxqry (.s 4) (.lit 0)], ∃ iss, Issues (off 0) iss i ∧ (iss.low == none) = true) ∧
    -- a reserved bit; no byte; a reference out of range
    w (at' (2 ^ 31 + 64) (2 ^ 38) (2 ^ 38)) [put, get, send] (fun iss => flagRoom iss (selFlag iss false) && ctlBad (teamReg iss false 0 (.s 0))) ∧
    w (at' 0 (2 ^ 38) (2 ^ 38)) [put, get, send] (fun iss => flagRoom iss (selFlag iss false) && !ctlBad (teamReg iss false 0 (.s 0)) && teamReg iss false 0 (.s 0) % 512 == 0) ∧
    w (at' (0x8008 * 2 ^ 32 + 64) (2 ^ 38) (2 ^ 38)) [put, get, send] (fun iss => flagRoom iss (selFlag iss false) && !ctlBad (teamReg iss false 0 (.s 0)) && refOn (ctlLctr (teamReg iss false 0 (.s 0))) &&
      (match (at' (0x8008 * 2 ^ 32 + 64) (2 ^ 38) (2 ^ 38)).ctx? iss.ctx with | some c => !refIn c (ctlLctr (teamReg iss false 0 (.s 0))) | none => false)) ∧
    w (bulky (2 ^ 38) (2 ^ 38) 0 0) [bulk] (fun iss => flagRoom iss (selFlag iss false) && iss.team.s 3 == 0) ∧
    -- the flag already at 63
    (let s : State := { demo { team 0 1 with flags := [(3, 63)] } with ctxs := [(0, Ctx.placed)] }
     w s [put, get, send, bulk] (fun iss => !flagRoom iss (selFlag iss false))) ∧
    -- one whole line; a source or a destination of another device's memory GET may name
    w (at' 256 (2 ^ 38) (2 ^ 38 + 256)) [put] (fun iss => room (at' 256 (2 ^ 38) (2 ^ 38 + 256)) iss && opens (at' 256 (2 ^ 38) (2 ^ 38 + 256)) iss put false (2 ^ 38 + 256) (2 ^ 38) 256 (fun _ _ => true)) ∧
    w (at' 256 (2 ^ 38) (2 ^ 38 + 256)) [get] (fun iss => room (at' 256 (2 ^ 38) (2 ^ 38 + 256)) iss && opens (at' 256 (2 ^ 38) (2 ^ 38 + 256)) iss get true (2 ^ 38 + 256) (2 ^ 38) 256 (fun _ _ => true)) ∧
    w (bulky (2 ^ 38) (2 ^ 38 + 512) 512 0) [bulk] (fun iss => room (bulky (2 ^ 38) (2 ^ 38 + 512) 512 0) iss &&
      opens (bulky (2 ^ 38) (2 ^ 38 + 512) 512 0) iss bulk false (2 ^ 38) (2 ^ 38 + 512) 512 (fun ss ds => !segsMeet (bulky (2 ^ 38) (2 ^ 38 + 512) 512 0).fab.self ss ds)) ∧
    w (bulky (2 ^ 38) (2 ^ 38 + 511) 512 0) [bulk] (fun iss => opens (bulky (2 ^ 38) (2 ^ 38 + 511) 512 0) iss bulk false (2 ^ 38) (2 ^ 38 + 511) 512 (segsMeet (bulky (2 ^ 38) (2 ^ 38 + 511) 512 0).fab.self)) ∧
    -- SEND: between lines, with too little in its queue, with just enough
    w (at' 64 (2 ^ 38 + 8) 0) [send] (fun iss => flagRoom iss (selFlag iss false) && teamReg iss true 0 (.s 1) % 64 != 0) ∧
    w (at' 64 (2 ^ 38) 0) [send] (fun iss => decide ((iss.team.port 12).q.length < 8)) ∧
    (let s := linked [(0, 64), (1, 2 ^ 38)] [(12, { q := List.replicate 8 7, ovf := false })]
     w s [send] (fun iss => (iss.team.port 12).q.length == 8 && room s iss && (match (hashed s iss send).fabProbe iss.team putDst (2 ^ 38) 64 .write false with | (.ok _, _) => true | _ => false))) ∧
    -- RECV
    w (at' 0 (2 ^ 38 + 8) 0) [recv] (fun iss => teamReg iss true 0 (.s 1) % 64 != 0) ∧
    (let s := linked [(1, 2 ^ 38)] [(4, { q := List.replicate 9 7, ovf := false })]
     w s [recv] (fun iss => decide (portDepth 4 < (iss.team.port 4).q.length + 8))) ∧
    w (at' 0 (2 ^ 38) 0) [recv] (fun iss => decide ((iss.team.port 4).q.length + 8 ≤ portDepth 4) && room (at' 0 (2 ^ 38) 0) iss && !(at' 0 (2 ^ 38) 0).mem.hbm.tagged (2 ^ 30) 64 &&
      (match (hashed (at' 0 (2 ^ 38) 0) iss recv).fabProbe iss.team getDst (2 ^ 38) 64 .read false with
        | (.ok [g], _) => g == { loc := { space := 0, x := 0, y := 0, addr := 2 ^ 30 }, len := 64 }
        | _ => false)) ∧
    w (at' 0 0 0) [.fxqry (.s 4) (.lit 7)] (fun iss => teamSrc iss false 0 (.lit 7) == 7) ∧ w (at' 0 0 0) [.fxqry (.s 4) (.lit 8)] (fun iss => teamSrc iss false 0 (.lit 8) == 8) :=
  ⟨ready_all (by decide +kernel), ready_all (by decide +kernel), ready_all (by decide +kernel), ready_all (by decide +kernel), ready_all (by decide +kernel),
    ready_all (by decide +kernel), ready_all (by decide +kernel), ready_all (by decide +kernel), ready_all (by decide +kernel), ready_all (by decide +kernel),
    ready_all (by decide +kernel), ready_all (by decide +kernel), ready_all (by decide +kernel), ready_all (by decide +kernel), ready_all (by decide +kernel),
    ready_all (by decide +kernel), ready_all (by decide +kernel), ready_all (by decide +kernel)⟩

theorem witness_ConjunctionResults :
    let at' (trig op slot thresh len dst r : Nat) (slots : NMap CjSlot) : State :=
      { linked [(0, BitVec.ofNat 64 (trig * 2 ^ 48 + op * 2 ^ 13 + slot)), (1, BitVec.ofNat 64 thresh), (3, BitVec.ofNat 64 (len * 2 ^ 32)), (4, 2 ^ 38), (5, BitVec.ofNat 64 dst),
          (9, BitVec.ofNat 64 r)] [] with
        ctxs := [(0, { Ctx.placed with desc := leBytes 64 (7 * 2 ^ 176 + 7 * 2 ^ 208), cjRange := [(1, 7 * 2 ^ 16)] })], conj := { ConjSt.reset with slots := slots } }
    let post : Instr := .cjpost false true (.s 0)
    let slot (st : CjSt) : CjSlot := { st := st, ctx := 0, desc := [], srcs := [], dsts := [], issued := 0, flight := 0, thresh := 0, phase := 0, ends := false }
    let w (s : State) (is : List Instr) (p : Issue → Ctx → Bool) : Prop := ∀ i ∈ is, ∃ iss, Issues s iss i ∧ (iss.low == some 0 && iss.team.id == iss.tid && iss.team.stag == [] &&
      !scalarTag iss (.s 0) [4, 5] && (match s.ctx? iss.ctx with | some c => p iss c | none => false)) = true
    let trig (iss : Issue) : Nat := descBits (cjDesc iss (.s 0)) 63 48
    let number (iss : Issue) : Nat := descBits (cjDesc iss (.s 0)) 12 0
    let goes (s : State) (iss : Issue) (c : Ctx) : Bool := !cjBad (cjDesc iss (.s 0)) && refOn (trig iss) && c.cjIn (trig iss / 4096 % 2) (number iss) && refIn c (trig iss) &&
      !refOn (cjDone (cjDesc iss (.s 0))) && !refOn (cjRctr (cjDesc iss (.s 0))) && !cjMisaligned (cjDesc iss (.s 0)) && flagRoom iss (selFlag iss false) && !s.acquiring iss.team &&
      s.launch? iss.team.launch == some (launchOf (100 * 2 ^ 172)) && trig iss / 4096 % 2 * 8192 + number iss == 8199 &&
      (match (hashed s iss post).cjProbe iss.team (cjDesc iss (.s 0)) with | ((.ok _, .ok _), _) => true | _ => false)
    (∀ i ∈ [post, .cjcancel (.s 8) (.s 9), .cjqry (.s 8) (.s 9)], ∃ iss, Issues (off 0) iss i ∧ (iss.low == none) = true) ∧
    (let s := at' 0x9007 0 7 1 64 (2 ^ 38 + 64) 0 []
     w { s with teams := s.teams.map (fun e => (e.1, { e.2 with flags := [(3, 63)] })) } [post] (fun iss _ => !flagRoom iss (selFlag iss false))) ∧
    w (at' 0x9007 6 7 1 64 (2 ^ 38 + 64) 0 []) [post] (fun iss _ => flagRoom iss (selFlag iss false) && cjBad (cjDesc iss (.s 0))) ∧
    w (at' 0x1007 0 7 1 64 (2 ^ 38 + 64) 0 []) [post] (fun iss _ => !cjBad (cjDesc iss (.s 0)) && !refOn (trig iss)) ∧
    w (at' 0x9007 0 8 1 64 (2 ^ 38 + 64) 0 []) [post] (fun iss c => !cjBad (cjDesc iss (.s 0)) && refOn (trig iss) && !c.cjIn 1 8) ∧
    w (at' 0x9008 0 7 1 64 (2 ^ 38 + 64) 0 []) [post] (fun iss c => !cjBad (cjDesc iss (.s 0)) && refOn (trig iss) && c.cjIn 1 7 && !refIn c (trig iss)) ∧
    w (at' 0x9007 4 7 1 64 (2 ^ 38 + 8) 0 []) [post] (fun iss c => !cjBad (cjDesc iss (.s 0)) && refOn (trig iss) && c.cjIn 1 7 && refIn c (trig iss) && cjMisaligned (cjDesc iss (.s 0))) ∧
    (let s := at' 0x9007 0 7 1 64 (2 ^ 38 + 64) 0 []
     w s [post] (fun iss c => goes s iss c && NMap.look s.conj.slots 8199 == none && descBits (cjDesc iss (.s 0)) 127 64 == 1 && s.counter (counterAddr 1 7) == 0)) ∧
    (let s := at' 0x9007 0 7 0 64 (2 ^ 38 + 64) 0 []
     w s [post] (fun iss c => goes s iss c && NMap.look s.conj.slots 8199 == none && descBits (cjDesc iss (.s 0)) 127 64 == 0)) ∧
    (let s := at' 0x9007 0 7 1 64 (2 ^ 38 + 64) 0 [(8199, slot .armed)]
     w s [post] (fun iss c => goes s iss c && NMap.look s.conj.slots 8199 != none)) ∧
    w (at' 0 0 0 0 0 0 (2 ^ 14) []) [.cjcancel (.s 8) (.s 9), .cjqry (.s 8) (.s 9)] (fun iss _ => decide (2 ^ 14 ≤ teamReg iss false 0 (.s 9))) ∧
    w (at' 0 0 0 0 0 0 8200 []) [.cjcancel (.s 8) (.s 9), .cjqry (.s 8) (.s 9)] (fun iss c => teamReg iss false 0 (.s 9) == 8200 && !c.cjIn 1 8) ∧
    (let v (slots : NMap CjSlot) : Prop := w (at' 0 0 0 0 0 0 8199 slots) [.cjcancel (.s 8) (.s 9), .cjqry (.s 8) (.s 9)] (fun iss c => teamReg iss false 0 (.s 9) == 8199 && c.cjIn 1 7)
     v [] ∧ v [(8199, slot .armed)] ∧ v [(8199, slot .firing)] ∧ v [(8199, slot .closing)]) :=
  ⟨ready_all (by decide +kernel), ready_all (by decide +kernel), ready_all (by decide +kernel), ready_all (by decide +kernel), ready_all (by decide +kernel),
    ready_all (by decide +kernel), ready_all (by decide +kernel), ready_all (by decide +kernel), ready_all (by decide +kernel), ready_all (by decide +kernel),
    ready_all (by decide +kernel), ready_all (by decide +kernel), ⟨ready_all (by decide +kernel), ready_all (by decide +kernel), ready_all (by decide +kernel), ready_all (by decide +kernel)⟩⟩

/-- A context with a call ring of 16 entries, or none; with its debug bit, or not. -/
def calling (ring tail head : Nat) (dbg : DWord) (replies : Nat) (reqs : List Req) : State :=
  { demo { team 0 1 with ports := [(5, { q := List.replicate replies 0, ovf := false })] } with
    ctxs := [(0, { Ctx.placed with crBase := BitVec.ofNat 64 ring, crTail := tail, crHead := head, dbg := dbg })], reqs := reqs }

theorem witness_SystemResults :
    let w (s : State) (is : List Instr) (p : Issue → Ctx → Bool) : Prop := ∀ i ∈ is, ∃ iss, Issues s iss i ∧ (iss.low == some 0 && iss.team.id == iss.tid &&
      (match s.ctx? iss.ctx with | some c => c.num == iss.ctx && p iss c | none => false)) = true
    let calls (tail head replies : Nat) (p : State → Issue → Ctx → Bool) : Prop := w (calling 4 tail head 0 replies []) [.trap (.lit 7)] (fun iss c => c.ringOn && p (calling 4 tail head 0 replies []) iss c) ∧
      w (calling 4 tail head 1 replies []) [.bkpt (.lit 7)] (fun iss c => c.ringOn && c.dbg.getLsbD 0 && p (calling 4 tail head 1 replies []) iss c)
    let is : List Instr := [.trap (.lit 7), .bkpt (.lit 7), .chkerr (.s 4) (.lit 1), .sysrd (.s 4) 7, .syswr 8 (.lit 1), .taskrd (.s 4) 0]
    (∀ i ∈ is, ∃ iss, Issues (off 0) iss i ∧ (iss.low == none) = true) ∧
    w (calling 3 0 0 0 0 []) [.trap (.lit 7)] (fun _ c => !c.ringOn) ∧ w (calling 3 0 0 1 0 []) [.bkpt (.lit 7)] (fun _ c => !c.ringOn && c.dbg.getLsbD 0) ∧
    calls 0 0 4 (fun _ iss _ => decide (3 < (iss.team.port 5).q.length)) ∧ calls 16 0 3 (fun s _ c => s.hostReach && !c.ringRoom) ∧
    (let s := calling 4 0 0 0 0 []
     w { s with ctxs := s.ctxs.map (fun e => (e.1, { e.2 with buffer := [(0, List.replicate 64 0)] })) } [.trap (.lit 7)] (fun _ c => c.ringOn && s.hostReach && !c.buffer.isEmpty)) ∧
    calls 15 0 3 (fun s iss c => s.hostReach && c.ringRoom && c.buffer.isEmpty && decide ((iss.team.port 5).q.length ≤ 3) && !s.fenceWaits iss.team .all .system && s.mem.pend == [] && s.mem.posted == [] &&
      s.launch? iss.team.launch == some Launch.placed) ∧
    w (calling 4 0 0 0 0 []) [.bkpt (.lit 7)] (fun _ c => !c.dbg.getLsbD 0) ∧
    w (calling 4 0 0 0 0 [owed 1 (.load .plain 4 (.v 0))]) [.chkerr (.s 4) (.lit 1)] (fun iss _ => iss.tid == 1) ∧
    w (calling 4 0 0 0 0 []) [.chkerr (.s 4) (.lit 1), .sysrd (.s 4) 0, .sysrd (.s 4) 11, .syswr 7 (.lit 1), .syswr 8 (.lit 1), .syswr 11 (.lit 1), .taskrd (.s 4) 5]
      (fun _ _ => (calling 4 0 0 0 0 []).reqs == []) ∧
    w (calling 4 0 0 0 0 []) [.eret] (fun iss _ => !iss.team.restartMode) ∧
    ∃ iss, Issues (demo { team 0 1 with restartMode := true }) iss .eret ∧ iss.team.restartMode = true :=
  ⟨ready_all (by decide +kernel), ready_all (by decide +kernel), ready_all (by decide +kernel), ⟨ready_all (by decide +kernel), ready_all (by decide +kernel)⟩,
    ⟨ready_all (by decide +kernel), ready_all (by decide +kernel)⟩, ready_all (by decide +kernel), ⟨ready_all (by decide +kernel), ready_all (by decide +kernel)⟩, ready_all (by decide +kernel),
    ready_all (by decide +kernel), ready_all (by decide +kernel), ready_all (by decide +kernel), ready_spec (by decide +kernel)⟩

theorem witness_EncodingRoundTrip : (Instr.ld128 .acq (.v 92) (.s 23) (.lit 0xFFFFFFFF)).wf = true ∧ (Instr.ld128 .acq (.v 92) (.s 23) (.lit 0xFFFFFFFF)).isEvent = false ∧
    decodeWord 0x20014282 none = .ok (.add (.v 5) (.v 5) (.reg (.v 2))) := by decide +kernel

/-- A team of that lane at a header, or at a word of a clause, which w is. -/
def heading (w : Nat) (flags : NMap Nat) : State :=
  let s := State.reset.withFetchWord 32 0
  { s with teams := [(1, { Team.placed with flags := flags })], mem := { s.mem with hbm := s.mem.hbm.write (2 ^ 30) (leBytes 4 w) false } }

theorem witness_HeaderLegality :
    let w (s : State) (p : Word → Bool) : Bool := match s.team? 1 with
      | some t => (match t.frag? 0 with
        | some f => f.clause == none && !t.evicted && t.status == .running && !t.victim && f.st != .parked && f.latch == .none &&
          (match s.fetchWord t f.pc with | .word x _ => p x | _ => false)
        | none => false)
      | none => false
    (decodeHeader 0xF8001BDF, decodeHeader 0x0000FF00).1 = none ∧ (decodeHeader 0xF800BA40).isSome = true ∧
    w (heading 0x4000CC00 []) (fun x => decodeHeader x == none) = true ∧
    w (heading 0x4800FF00 [(11, 1)]) (fun x => match decodeHeader x with | some h => h.wait.getLsbD 11 | none => false) = true := by decide +kernel

theorem witness_ReservedOpcodes : (0x1C000000 : Word).toNat / 2 ^ 24 = 0x1C ∧ (0xFFFFFFFF : Word).toNat / 2 ^ 24 = 0xFF := by decide

theorem witness_StepRunsDecoded :
    let s := State.reset.withFetchWord 32 0x20014282
    let at' (c : Nat × Nat) (p : Team → Fragment → Bool) (s : State) : Bool := match s.team? c.1 with
      | some t => (match t.frag? c.2 with | some f => !t.evicted && t.status == .running && f.st != .parked && f.latch == .none && p t f | none => false)
      | none => false
    let cand : Cand := { tid := 1, entry := 0, frag := { frag 0 (BitVec.ofNat 1024 (2 ^ 32 - 1)) with pc := 2 ^ 38, clause := none } }
    -- fetch, and the header
    at' (1, 0) (fun t f => (match s.translate (some t.core) (s.ctxOf t.launch) f.pc .exec with | (.hit h, s1) => hitLoc h == { space := 0, x := 0, y := 0, addr := 2 ^ 30 } &&
        (match s1.launch? t.launch with | some l => NMap.look l.icache (2 ^ 30) == none | none => false) | _ => false) && !isWindow f.pc && f.clause == none && !t.victim &&
      (match s.fetchWord t f.pc with | .word w _ => (match decodeHeader w with | some h => h.wait == 0 | none => false) | _ => false)) s = true ∧
    -- a word of its clause, one of two words, one that is illegal
    at' (1, 0) (fun t f => f.clause.isSome && (match (demo (team 0 1)).fetchWord t f.pc with | .word w _ => wordsOf w == 1 && decodeWord w none == .ok .nop | _ => false)) (demo (team 0 1)) = true ∧
    (let s := { (State.reset.withFetchWord 64 (0x01800000 + 8 * 2 ^ 32)) with teams := [(1, team 0 1)] }
     at' (1, 0) (fun t f => match s.fetchWord t f.pc with
      | .word w s1 => wordsOf w == 2 && (match f.clause with | some c => decide (f.pc + 4 < c.hdr + 4 * (c.len + 1)) | none => false) &&
        (match s1.fetchWord t (f.pc + 4) with | .word v _ => decodeWord w (some v) == .ok (.bra (.lit 8)) | _ => false)
      | _ => false) s = true) ∧
    (let s := { (State.reset.withFetchWord 32 0x1C000000) with teams := [(1, team 0 1)] }
     at' (1, 0) (fun t f => match s.fetchWord t f.pc with | .word w _ => wordsOf w == 1 && decodeWord w none == .error .opcode | _ => false) s = true) ∧
    -- the step
    s.booting = false ∧ s.agenda = [] ∧ s.boot.failed = none ∧ s.turn = .cores ∧ s.quarters = [0] ∧
    issueOrder (NMap.look (s.coreSt 0).holder 0) (s.quarterFrags 0) = [cand] ∧
    (match attempt s 1 0 with | .issue i s1 => i == .add (.v 5) (.v 5) (.reg (.v 2)) && (match exec i s1 with | .next s3 => !s3.onlyWaits 1 0 .none | _ => false) | _ => false) = true := by
  decide +kernel

theorem witness_OnlyMissingMemoryStops : (Instr.add (.v 5) (.v 5) (.lit 0)).isEvent = false ∧ paExists (2 ^ 57 + 24) = false ∧
    (match exec (.notifyWrite (2 ^ 57) 0) State.reset with | .fault f => f == .noSuchAddress (2 ^ 57 + 24) | _ => false) = true := by decide +kernel

/-- An odd register of a 64-bit type, one beyond the launch's, one that a load is still to write, and a third error of the datapath. -/
theorem witness_IssueChecks :
    let w (s : State) (i : Instr) (p : Issue → Bool) : Bool := !i.isEvent && (match issueOf s with | some iss => p iss | none => false)
    w (lane 0x05000000) (.add (.v 5) (.v 6) (.lit 0)) (fun iss => (Instr.add (.v 5) (.v 6) (.lit 0)).spans.any (spanOdd iss.ty)) = true ∧
    w (demo { team 0 1 with k := 8 }) (.add (.v 8) (.v 6) (.lit 0)) (fun iss => !(Instr.add (.v 8) (.v 6) (.lit 0)).spans.any (spanOdd iss.ty) &&
      (Instr.add (.v 8) (.v 6) (.lit 0)).spans.any (spanOut iss.ty iss.team.k)) = true ∧
    (let s : State := { lane 0 with reqs := [owed 1 (.load .plain 4 (.s 5))] }
     w s (.add (.v 4) (.s 5) (.lit 0)) (fun iss => dynFault iss (.add (.v 4) (.s 5) (.lit 0)) == none && regsPending s iss (.add (.v 4) (.s 5) (.lit 0))) = true) ∧
    (let s : State := { lane 0 with upsets := 3 }
     w s (.add (.v 4) (.v 5) (.lit 0)) (fun iss => dynFault iss (.add (.v 4) (.v 5) (.lit 0)) == none && !regsPending s iss (.add (.v 4) (.v 5) (.lit 0)) && decide (3 ≤ s.upsets)) = true) := by
  decide +kernel

theorem witness_TypeFaults :
    (∀ i ∈ [Instr.add (.v 4) (.v 6) (.lit 0), .sub (.v 4) (.v 6) (.lit 0), .mul (.v 4) (.v 6) (.lit 0), .fma (.v 4) (.v 6) (.lit 0), .fms (.v 4) (.v 6) (.lit 0), .fnma (.v 4) (.v 6) (.lit 0),
      .min (.v 4) (.v 6) (.lit 0), .max (.v 4) (.v 6) (.lit 0), .clamp (.v 4) (.v 6) (.lit 0), .abs (.v 4) (.v 6), .neg (.v 4) (.v 6), .mulhi (.v 4) (.v 6) (.lit 0),
      .div (.v 4) (.v 6) (.lit 0), .rem (.v 4) (.v 6) (.lit 0), .sqrt (.v 4) (.v 6), .rsq (.v 4) (.v 6), .rcp (.v 4) (.v 6), .exp2 (.v 4) (.v 6), .log2 (.v 4) (.v 6), .sin (.v 4) (.v 6),
      .cos (.v 4) (.v 6), .tanh (.v 4) (.v 6), .frc (.v 4) (.v 6), .rnd (.v 4) (.v 6), .scan .add (.v 4) (.v 6), .redx .or (.v 4) (.v 6)],
      ∃ iss, Issues (lane 0x07000000) iss i ∧ (iss.low.isSome && iss.act != 0 && !tyArith iss.ty && !iss.ty.isInt && !iss.ty.isFloat) = true) ∧
    ∃ iss, Issues (lane 0) iss (.sqrt (.v 4) (.v 6)) ∧ (iss.act != 0 && !iss.ty.isFloat) = true :=
  ⟨ready_all (by decide +kernel), ready_spec (by decide +kernel)⟩

theorem witness_NarrowingAndRounding : (match issueOf (lane 0x01000000) with | some iss => iss.ty.isInt && iss.ty.isS && iss.ty.ew == 16 | none => false) = true ∧
    Ty.f32.isFloat = true ∧ 0x7F7FFFFF < 2 ^ Ty.f32.ew ∧ valueOf .f32 false 0x7F7FFFFF ≠ .nan := by decide +kernel

theorem witness_MemoryReadAfterWrite : Memory.wf [(0, 1), (5, 7)] = true ∧ (Store.empty.write 3 [1, 0, 2] true).wf = true ∧
    (Store.empty.write 3 [1, 0, 2] true).bytes.read 5 = 2 ∧ NSet.has (Store.empty.write 3 [1, 0, 2] true).poison 0 = true := by decide +kernel

theorem witness_StepKeepsMemoryCanonical : (State.reset.withFetchWord 32 0).memWf = true ∧ (match step (State.reset.withFetchWord 32 0) with | .next s => s.memWf | _ => false) = true := by
  decide +kernel

/-- A clause goes on, and ends. -/
theorem witness_AroundInstructions :
    let w (t : Team) (p : Issue → Bool) : Bool := match issueOf (demo t) with
      | some iss => (demo t).team? iss.tid == some t && topSerial t iss.entry == none && NMap.look t.joins 15 == none && p iss
      | none => false
    (w (team 0 1) (fun iss => decide (iss.frag.pc + 4 < nextClause iss)) && w (team 0 1) (fun iss => decide (nextClause iss ≤ iss.frag.pc + 4 * 2)) &&
      (let s : State := { demo (team 0 1) with cores := [(0, { CoreSt.reset with busy := [(0, 5)] })] }; s.runningQuarters.any (fun q => decide (s.clk < s.busyUntil q)))) = true := by decide +kernel

/-- A fragment that reaches its join: not yet, not as the last, as the last. -/
theorem witness_JoinResults :
    let j (arrived : Nat) : Join := { addr := 2 ^ 38 + 96, expected := 2, arrived := arrived, outer := 15 }
    let f : Fragment := { frag 0 1 with join := 0 }
    let g : Fragment := { frag 0 2 with join := 0, st := .parked }
    let t (arrived : Nat) : Team := { team 0 3 with frags := [(0, f), (1, g)], joins := [(0, j arrived)] }
    (t 1).frag? 0 = some f ∧ f.mask ≠ 0 ∧ topSerial (t 1) 0 = none ∧ topSerial (t 1) 1 = none ∧ NMap.look (t 1).joins f.join = some (j 1) ∧ (j 1).addr ≠ 2 ^ 38 ∧ (j 0).arrived + 1 ≠ (j 0).expected ∧
      (j 1).arrived + 1 = (j 1).expected ∧ NMap.look (t 1).joins 15 = none ∧ f.join ≠ 15 ∧ (t 1).frag? 1 = some g ∧ g.join = f.join ∧ g.st = .parked ∧
      (∀ x ∈ (t 1).frags, x.1 ≠ 0 → x.1 ≠ 1 → ¬(x.2.join = f.join ∧ x.2.st = .parked)) ∧ ((t 1).frags.map Prod.fst).Nodup ∧ NMap.above 0 (t 1).frags = true := by decide +kernel

/-- A team with a record in a ring that has room, one without, one that is stopped. -/
theorem witness_TakingFault :
    let w (s : State) (p : Team → Ctx → Bool) : Bool := match s.team? 1 with
      | some t => t.id == 1 && (t.frag? 0).isSome && (match s.ctx? (s.ctxOf t.launch) with | some c => c.num == s.ctxOf t.launch && s.mem.locks == [] && p t c | none => false)
      | none => false
    (w (calling 4 15 0 0 0 []) (fun t c => t.status == .running && (calling 4 15 0 0 0 []).hostReach && c.ringRoom && c.buffer == []) &&
      w (calling 4 16 0 0 0 []) (fun t c => t.status == .running && !c.ringRoom && decide (c.buffer.length < 16)) &&
      w (demo { team 0 1 with status := .stopped }) (fun t _ => t.status == .stopped)) = true := by decide +kernel

/-! ### Events -/

/-- The machine with the placed team on it, and the same with nothing placed. -/
def on : State := State.reset.withFetchWord 32 0
def bare : State := { on with teams := [], groups := [], launches := [] }
/-- HBM with bytes at an address. -/
def putHbm (s : State) (a : Nat) (bs : List Byte) : State := { s with mem := { s.mem with hbm := s.mem.hbm.write a bs false } }
/-- HBM in its canonical form, all zero, with nothing of it pending. -/
def cleanMem (s : State) : Bool := s.mem.pend == [] && s.mem.peerPend == [] && s.mem.parts == []

/-- A queue's descriptor at 2^31: its ring of 16 records at 2^38 + 4096. -/
def queueDesc : List Byte := leBytes 64 (2 ^ 38 + 4096 + 4 * 2 ^ 64)
def goodRecord : List Byte := leBytes 128 (leNat placedRecord + 2 ^ 38 * 2 ^ 320)
def queueSlot (st : SlotSt) (desc record : List Byte) : Slot := { Slot.reset with st := st, map := 2 ^ 31, desc := desc, record := record, launch := 1, hold := true }
def queued (x : Slot) : State := { putHbm (putHbm bare (2 ^ 31 + 24) [1]) (2 ^ 30 + 4096) goodRecord with slots := [(63, x)], launches := [(1, { Launch.placed with next := 0, slot := 63 })] }

theorem witness_QueueEvents :
    let in' (st : SlotSt) : State := queued (queueSlot st queueDesc goodRecord)
    let a : Nat := 2 ^ 31 + 24
    (-- doorbells: no memory there, a line held, a line owned, a line that is free
      !paExists (2 ^ 57 + 24) && paExists a && paExists (a + 7) && ({ bare with mem := { bare.mem with locks := [{ lineLock 0 1 [] with line := 2 ^ 31 }] } }.lockAt a).isSome &&
      bare.front.notifies == [] && ({ bare with mem := { bare.mem with owned := [(2 ^ 31, [7])] } }.ownerAt a).isSome && bare.lockAt a == none && bare.ownerAt a == none && cleanMem bare &&
      -- maps
      paExists (2 ^ 31) && paExists (2 ^ 31 + 63) && dw (2 ^ 31) 56 6 * 64 == 2 ^ 31 && dw (2 ^ 56) 56 6 * 64 == 2 ^ 56 && !paExists (2 ^ 56) && (bare.slot 63).st == .free &&
      recBits (bare.mem.hbm.read (2 ^ 31) 64) 75 71 == (bare.slot 63).owner && recBits (bare.mem.hbm.read (2 ^ 31) 64) 75 71 != ({ Slot.reset with owner := 1 } : Slot).owner &&
      -- states
      ((in' .idle).slot 63).st == .idle && ((in' .dispatch).slot 63).st == .dispatch && (in' .idle).frontOn && ((in' .idle).slot 63).readix == 0 &&
      ((in' .idle).mem.hbm.dword a).toNat == 1 && (bare.mem.hbm.dword a).toNat == 0 &&
      -- checks
      (match (in' .fetch).checkRecord ((in' .fetch).slot 63) with | (.good r, _) => r == goodRecord | _ => false) &&
      (let s := queued (queueSlot .fetch (leBytes 64 (2 ^ 38)) []); match s.checkRecord (s.slot 63) with | (.stop c, _) => c == 2 | _ => false) &&
      (let s := queued (queueSlot .fetch (leBytes 64 (2 ^ 40 + 4 * 2 ^ 64)) []); match s.checkRecord (s.slot 63) with | (.miss _, _) => true | _ => false) &&
      -- releases, owners
      ((in' .held).slot 63).hold && !(in' .held).ctxHeld ((in' .held).slot 63).ctxNum && !(Launch.ofRecord goodRecord).ordered && !(in' .held).mdOn 63 && dw 16 4 0 == 16 && dw 17 4 0 == 17) = true := by
  decide +kernel

theorem witness_PlacementEvents :
    let in' (x : Nat) : State := let s := queued (queueSlot .dispatch queueDesc goodRecord)
      { s with launches := [(1, { launchOf (x + 2 ^ 38 * 2 ^ 320) with next := 0, slot := 63 })] }
    let s : State := in' 0
    let g : State := in' (2 ^ 76)
    let at' (s : State) (p : Launch → Bool) : Bool := s.inService 5 0 && s.dispatchOrder 0 == [63] && (s.launch? (s.slot 63).launch).any (fun l => l.id == (s.slot 63).launch &&
      decide (l.next < l.groups) && !s.returnsFirst 0 (s.levelOf l) && p l)
    let old (t : Team) : State := { on with teams := [(1, t)] }
    (-- a group
      at' s (fun l => l.gang == 1 && (s.offerCore l l.next []).any (fun c => coreDie c == 0 && match s.frontRead l.ctx l.argSrc l.argLen with
        | (.data _, s1) => (match s1.frontRead l.ctx l.phSrc 64 with | (.data _, s2) => (fitQuarters (footprint l.n l.k) (l.teamsOf l.next) (s2.quarterLoads c [])).isSome | _ => false)
        | _ => false)) &&
      -- a gang of two that wants one block (its second group has no lane)
      at' g (fun l => l.gang == 2 && !l.compat && (g.offerBlock l []).any (fun b => pairDie b == 0 &&
        (match State.placeMembers l b l.members g with | (true, s1) => (s1.launch? l.id).any (fun l1 => l1.next == l.next) | _ => false))) &&
      -- widening
      at' s (fun l => l.waited == 0 && l.waitSince == 0 && s.clk == 0) && ({ s with clk := 1025 }.launch? 1).any (fun (l : Launch) => decide (l.waitSince + 1024 < 1025)) &&
      ({ s with clk := 4097 }.launch? 1).any (fun (l : Launch) => decide (l.waitSince + 4096 < 4097)) &&
      -- eviction, return, retirement
      (let o := old { Team.placed with victim := true, frags := [(0, { frag 0 1 with clause := none })] }
       (o.team? 1).any (fun t => t.id == 1 && t.victim && o.evictReady t && !o.switchRuns (o.ctxOf t.launch))) &&
      (let o := old { Team.placed with evicted := true }
       (o.team? 1).any (fun t => t.id == 1 && t.savedReply == none && (o.launch? t.launch).isSome && (o.group? t.launch t.group).any (fun g => !g.saved && o.returns t == [g.core] && (o.launch? t.launch).any (fun l => !o.goesFirst (o.levelOf l)) &&
        (fitQuarters (footprint t.n t.k) 1 (o.quarterLoads g.core [])).any (fun qs => !qs.isEmpty)))) &&
      (let o := old { Team.placed with status := .ended, frags := [] }
       ((o.retire 1).team? 1).any (fun t => t.id == 1 && (o.retire 1).mayRetire t)) && ((on.retire 1).team? 1).any (fun t => !(on.retire 1).mayRetire t) &&
      -- completion, with a counter to raise
      (let o : State := { bare with launches := [(1, { launchOf (0x8007 * 2 ^ 576) with ended := 1 })] }
       (o.launch? 1).any (fun l => l.id == 1 && o.finished l && !l.dead && refOn l.donect && !o.mem.ctr.tagged (refAddr l.donect) 8)) && (on.launch? 1).any (fun l => !on.finished l) &&
      -- the watchdog
      (let o : State := { on with ctxs := [(0, { Ctx.placed with desc := leBytes 64 (2 ^ 448) })], cores := [(0, { CoreSt.reset with watch := [(0, 65537)] })] }
       (o.ctx? 0).any (fun c => !c.halted && c.wdLimit == 1 && decide (c.wdLimit * 65536 < o.watchdog 0))) && (on.ctx? 0).any (fun c => c.wdLimit == 0)) = true := by decide +kernel

/-- A request of the placed team for four bytes at 2^38 + 256, where it stands. -/
def ask (id : Nat) (op : ReqOp) (place : Place) (pa : Option Nat) : Req :=
  { owed 1 op with id := id, parts := [{ lane := 0, va := 2 ^ 38 + 256, off := 0, len := 4, data := [1, 2, 3, 4], tag := false }], place := place, pa := pa, ty := 1 }
def asked (r : Req) : State :=
  { on with reqs := [r], nextId := 10, mem := { on.mem with tags := [(on.setOf (2 ^ 30 + 256), [2 ^ 30 + 256])] } }
def aimed (s : State) (r : Req) (p : Loc → Bool) : Bool := match s.reqAim Team.placed r with | (.at' l _, _) => p l | _ => false

theorem witness_ContextAndPageEvents :
    let page (written : Nat) (seqs : List Nat) : PageReq := { ctx := 0, page := 2 ^ 26 + 5, bits := 1, written := written, seqs := seqs, since := 0 }
    let paged (base : DWord) (q : PageReq) : State := { on with front := { on.front with pages := [q], pgrBase := base } }
    let far (place : Place) : Req := { ask 1 (.load .plain 4 (.v 4)) place none with parts := [{ lane := 0, va := 2 ^ 40, off := 0, len := 4, data := [], tag := false }] }
    let x : Xlinv := { scope := 2, ctx := 0, keepG := false, page := 0, first := 0, last := 0 }
    let inv (s : State) : State := { s with mgmt := { s.mgmt with xlinv := some x } }
    let held : State := { paged 4 (page 1 [7]) with teams := [(1, { Team.placed with frags := [(0, { frag 0 1 with latch := .page ((2 ^ 26 + 5) * 4096) 0 })] })] }
    (-- contexts
      !paExists (dw (2 ^ 56) 56 6 * 64) && paExists (dw (2 ^ 31) 56 6 * 64) && paExists (dw (2 ^ 31) 56 6 * 64 + 63) && on.ctx? 5 == none && (on.ctx? 0).isSome &&
      (queued (queueSlot .idle queueDesc goodRecord)).slots.any (fun e => e.2.st != .free && e.2.ctxNum == 0) &&
      -- invalidations
      on.mgmt.xlinv == none && !(inv on).xlinvWaits x && (inv (asked (ask 1 (.load .plain 4 (.v 4)) (.queue 1) (some (2 ^ 30 + 256))))).xlinvWaits x &&
      -- walks
      (let r := ask 1 (.load .plain 4 (.v 4)) (.queue 0) none
       (asked r).heads r && aimed (asked r) r (fun l => l.space == 0) && (asked r).walkWaits Team.placed r && (asked r).walking Team.placed r &&
        (match (asked r).reqAim Team.placed r with | (.at' _ _, s1) => !s1.l1Serves Team.placed r | _ => false) && !({ asked r with reqs := [{ r with id := 0 }, r] }.heads r)) &&
      (asked (far (.queue 0))).heads (far (.queue 0)) && ((asked (far (.queue 0))).reqAim Team.placed (far (.queue 0))).1 == .miss &&
      (let r := ask 1 (.load .plain 4 (.v 4)) (.paren 9) none; aimed (asked r) r (fun l => l.space == 0) && (asked r).walking Team.placed r) && (asked (far (.paren 9))).walking Team.placed (far (.paren 9)) &&
      -- the seventeenth walk of a die
      (let r (n : Nat) : Req := { far (.paren 9) with id := n, parts := [{ lane := 0, va := 2 ^ 40 + 4096 * n, off := 0, len := 4, data := [], tag := false }] }
       let s : State := { on with reqs := (List.range 16).map r ++ [{ r 16 with place := .queue 0 }] }
       s.walkWaits Team.placed { r 16 with place := .queue 0 } && !s.walking Team.placed { r 16 with place := .queue 0 }) && ((asked (far (.paren 9))).reqAim Team.placed (far (.paren 9))).1 == .miss &&
      -- page requests
      (paged 3 (page 0 [])).front.pages.find? (fun q => q.seqs.isEmpty || q.bits != q.written) == some (page 0 []) && !(paged 3 (page 0 [])).front.pgrRoom &&
      (paged 4 (page 0 [])).front.pgrRoom && (paged 4 (page 0 [])).hostReach &&
      -- answers
      on.pageOf 7 == none && NMap.getD on.mgmt.errors 6 0 == 0 && !NSet.has on.front.answered 7 && NSet.has { on.front with answered := [7] }.answered 7 && held.pageOf 7 == some (page 1 [7]) &&
      (held.team? 1).any (fun t => t.id == 1 && (t.frag? 0).any (fun f => match f.latch with | .page va _ => va / 4096 == (page 1 [7]).page | _ => false) && held.ctxOf t.launch == 0 &&
        held.teamList.filter (fun t => held.ctxOf t.launch == 0) == [t] && held.reqs == [] && (List.range 64).all (fun n => !held.slotOnPage 0 (page 1 [7]).page n))) = true := by decide +kernel

def homeLoc : Loc := { space := 0, x := 0, y := 0, addr := 2 ^ 30 + 256 }
def homeHit : Hit := { ap := 0, dev := 0, addr := 2 ^ 30 + 256, sync := false, c := false, rap := false, ha := false, pasid := 0 }

theorem atHome_of (op : ReqOp) : let r := ask 1 op (.queue 3) (some (2 ^ 30 + 256))
    ((asked r).aim Team.placed 0 (2 ^ 38 + 256) r.op.need r.op.isAtomic r.op.isLd64).1 = .at' homeLoc homeHit → (asked r).missAt (2 ^ 30 + 256) = false ∧ (asked r).homeNext r (2 ^ 30 + 256) = true ∧ (asked r).l2Holds (2 ^ 30 + 256) = true → (asked r).behind r = false →
    AtHome (asked r) r Team.placed { lane := 0, va := 2 ^ 38 + 256, off := 0, len := 4, data := [1, 2, 3, 4], tag := false } homeLoc homeHit
      ((asked r).aim Team.placed 0 (2 ^ 38 + 256) r.op.need r.op.isAtomic r.op.isLd64).2 := fun h1 h3 h4 =>
  { kept := rfl, team := rfl, queued := rfl, walked := ⟨_, rfl, h3⟩, first := h4, parts := rfl, alone := rfl, aim := Prod.ext h1 rfl, here := rfl
    pending := ⟨rfl, rfl, rfl⟩, locks := rfl, owned := rfl, updates := rfl, mcast := rfl, copies := rfl }

/-- A load, a plain store, a sync store, an atomic and a reduction at their home. -/
theorem witness_RequestEvents_home : ∀ op ∈ [ReqOp.load .plain 4 (.v 4), .store .plain 4, .store .rel 4, .atomic 0 1 (.v 4), .reduce 0 1],
    ∃ p l h s1, AtHome (asked (ask 1 op (.queue 3) (some (2 ^ 30 + 256)))) (ask 1 op (.queue 3) (some (2 ^ 30 + 256))) Team.placed p l h s1 ∧ h.sync = false ∧
      (s1.ctx? ((asked (ask 1 op (.queue 3) (some (2 ^ 30 + 256)))).ctxOf 1)).any (fun c => !NSet.has c.exhausted 1 && s1.versionRoom 0 (lineOf l.addr) != 2) = true := by
  intro op hop
  simp only [List.mem_cons, List.not_mem_nil, or_false] at hop
  rcases hop with rfl | rfl | rfl | rfl | rfl
  all_goals exact ⟨_, homeLoc, homeHit, _, atHome_of _ (by decide +kernel) (by decide +kernel) (by decide +kernel), rfl, by decide +kernel⟩

/-- A channel taken out of service. -/
theorem witness_RequestEvents_channel : ({ on with svc := [(2 * 65536 + hbmChannel (2 ^ 30), .out)] } : State).channelWaits (2 ^ 30) = true := by
  simp [State.channelWaits, State.inService, NMap.look, NSet.has, on, State.withFetchWord, State.reset, MgmtSt.reset]

/-- Fills, answers, hold limits and the Parenthesis. -/
theorem witness_RequestEvents :
    let ld : ReqOp := .load .plain 4 (.v 4)
    let there : Nat := 2 ^ 30 + 256
    let miss : State := asked (ask 1 ld .miss (some there))
    let leaf (ap dev : Nat) : State := { asked (ask 1 ld .remote none) with mem := { on.mem with hbm := on.mem.hbm.setDword 0x2800 (BitVec.ofNat 64 (2 ^ 18 * 2 ^ 30 + dev * 2 ^ 16 + ap * 16 + 0x3C0F)) } }
    let at' (place : Place) (clk : Nat) : State := { asked (ask 2 ld place none) with clk := clk }
    let two (place : Place) : State := { asked (ask 2 ld place none) with reqs := [ask 1 ld place none, ask 2 ld place none] }
    let r (place : Place) : Req := ask 2 ld place none
    (!miss.channelWaits there && !NSet.has miss.mgmt.badChan (hbmChannel (lineOf there)) && miss.homeOf there == miss.homeOf (lineOf there) &&
      miss.reqs.filter (fun r => r.place == .miss && r.pa == some there) == [ask 1 ld .miss (some there)] && aimed miss (ask 1 ld .miss (some there)) (fun l => l == homeLoc) && cleanMem miss &&
      miss.mem.locks == [] && miss.mem.owned == [] && miss.mem.updates == [] && miss.fab.mcast == [] &&
      -- answers
      ({ ask 2 ld .answered none with answer := [([1, 2, 3, 4], false)] } : Req).answer == [(([1, 2, 3, 4] : List Byte), false)] && !NSet.has Team.placed.vtag (vkey 4 0) && Team.placed.id == 1 && Team.placed.status != .stopped &&
      (let s := asked (ask 2 ld .answered none)
       !s.net.carries (.answer 2) && (s.send (.answer 2) 1 0 1).net.carries (.answer 2) && ((s.send (.answer 2) 1 0 1).req? 2).any (fun r => r.place == .answered) && s.reqs.all (fun r => r.place != .atIssue)) &&
      aimed (leaf 1 5) (ask 1 ld .remote none) (fun l => l.space == 7) && aimed (leaf 2 0) (ask 1 ld .remote none) (fun l => l.space == 5) && (ask 1 ld .remote none).answer == [] &&
      (ask 1 ld .remote none).op.isLoad && !(ask 1 (.store .plain 4) .remote none).op.isLoad &&
      -- a load of a helper lane alone, and another
      (asked { ask 1 ld .remote none with parts := [{ lane := 40, va := 2 ^ 38, off := 0, len := 4, data := [], tag := false }] }).reqs.all (fun r => on.helperOnly r) && !on.helperOnly (ask 1 ld .remote none) &&
      -- hold limits
      (at' (.queue 3) 511).heads (r (.queue 3)) && decide (511 < (r (.queue 3)).since + dw (on.reg (.holdLim 3)) 12 0) && decide ((r (.queue 3)).since + dw (on.reg (.holdLim 3)) 12 0 ≤ 512) &&
      !(two (.queue 3)).heads (r (.queue 3)) && (at' (.queue 3) 512).reqs.all (fun x => x == r (.queue 3)) &&
      -- the Parenthesis
      decide (1023 < (r (.paren 1)).since + 2 * dw (on.reg (.holdLim 3)) 12 0) && decide ((r (.paren 1)).since + 2 * dw (on.reg (.holdLim 3)) 12 0 ≤ 1024) &&
      decide ((r (.paren 9)).since + 2 * dw (on.reg (.holdLim 0)) 12 0 ≤ 1024) && decide ((r (.paren 18)).since + 2 * dw (on.reg (.holdLim (Fin.ofNat 6 (18 - 16)))) 12 0 ≤ 1024) &&
      !(at' (.paren 5) 0).eligible Team.placed (r (.paren 5)) && (at' (.paren 8) 0).eligible Team.placed (r (.paren 8)) && (two (.paren 8)).reqs.length == 2 &&
      (let s : State := { two (.paren 8) with reqs := [{ ask 1 ld (.paren 8) none with parts := [] }, ask 2 ld (.paren 8) none] }
       s.eligible Team.placed (ask 2 ld (.paren 8) none) && s.eligible Team.placed { ask 1 ld (.paren 8) none with parts := [] }) &&
      Team.placed.ovflow == [] && (at' (.paren 8) 0).delays == [] &&
      (match ((at' (.paren 8) 0).updTeam 1 (fun t => { t with ovflow := [] })).perform { Team.placed with ovflow := [] } { r (.paren 8) with pa := none, again := true } with
        | (.answer _, s1) => s1.fab.mcast == []
        | _ => false)) = true := by decide +kernel

theorem witness_CacheAndLockEvents :
    let up (waiting : List Nat) : Update := { id := 7, req := 1, inb := none, sectors := [sectorOf (2 ^ 30 + 256)], waiting := waiting }
    let sync (waiting : List Nat) : State := { asked (ask 1 (.store .rel 4) .update none) with mem := { on.mem with updates := [up waiting] } }
    let owes (has : Bool) : Req := { owed 1 (.lock (.v 4) 100 has false) with place := .lockWait }
    let late (clk : Nat) (has : Bool) (t : Team) : State := { on with teams := [(1, t)], reqs := [owes has], clk := clk }
    let k1 : LineLock := lineLock 1 2 [(1, 0)]
    let k2 : LineLock := lineLock 2 1 [(2, 0)]
    let ring (clk : Nat) (ks : List LineLock) : State := { on with teams := [(1, Team.placed), (2, { Team.placed with id := 2, slot := 1 })], reqs := [owes false], clk := clk, mem := { on.mem with locks := ks } }
    let line : Nat := 2 ^ 30 + 256
    let gone (queue : List (Nat × Nat)) : LineLock := { lineLock 1 2 queue with absent := true, timer := 4096 }
    let sent : State := (({ on with clk := 0 }.send (.request 1) 0 0 3).send (.answer 2) 4 0 3).send (.handoff 0) 4 7 64
    let won (clk : Nat) : Option NetLoad := (sent.net.winner clk (outKey 0 1)).map (fun k => k.load)
    (-- packets: three of their own number, moved; the response first, after 64 cycles the request that has waited longest
      sent.net.pkts.map (fun k => k.id) == [0, 1, 2] && (sent.net.cycle 0).pkts.map (fun k => (k.id, k.stop, k.ready)) == [(0, 0, 0), (1, 1, 2), (2, 64, 8)] &&
      won 0 == some (.answer 2) && won 63 == some (.answer 2) && won 64 == some (.request 1) &&
      (sync [3]).mem.updates.find? (fun u => u.id == 7) == some (up [3]) && (up [3]).waiting != [] && (up []).inb == none &&
      ((sync []).req? 1).any (fun r => r.place == .update && r.twins == []) && cleanMem (sync []) && (sync [3]).net.pkts == [] && ((sync [3]).send (.update 7 3) 1 0 1).net.carries (.update 7 3) &&
      aimed ((sync []).updMem (fun m => { m with updates := [] })) (ask 1 (.store .rel 4) .update none) (fun l => l == homeLoc) &&
      -- timeouts
      (late 99 true Team.placed).reqs == [owes true] && (owes true).team == 1 && !Team.placed.evicted && Team.placed.status != .stopped && decide (100 < (late 101 true Team.placed).clk) &&
      !decide (100 < (late 100 true Team.placed).clk) && (late 100 true { Team.placed with evicted := true }).teamList.all (fun t => t.evicted) &&
      -- probes: too early, no longer held, its holder awaits nothing, a ring of two
      (ring 65535 [k1, k2]).awaits 1 == some (line, 0) && decide ((ring 65535 [k1, k2]).clk < 0 + 65536) && (ring 65536 [k1, k2]).mem.locks.find? (fun k => k.line == line) == some k1 &&
      (ring 65536 [k1]).awaits k1.holder == none && k1.holder != 1 && ((ring 65536 [k1, k2]).team? 2).any (fun h => h.status != .stopped) && (ring 65536 [k1, k2]).awaits 2 == some (2 ^ 30 + 512, 0) &&
      (ring 65536 [k1, k2]).mem.locks.find? (fun k => k.line == 2 ^ 30 + 512) == some k2 && k2.holder == 1 && decide (0 + 65536 ≤ (ring 65536 [k1, k2]).clk) &&
      -- absence
      !k1.absent && (gone []).absent && decide ((ring 4095 [gone []]).clk < (gone []).timer) && decide ((gone []).timer ≤ (ring 4096 [gone []]).clk) && (gone [(1, 0)]).queue == [(1, 0)]) = true := by
  decide +kernel

/-! Phases, engines and queues. -/

def headAt (phase : Nat) (st : PhaseSt) (expect : Int) : CorePhase := { hdr := { late := false, overrun := false, phase := phase, nextexp := 2, expect := expect }, st := st }
/-- The placed launch in a phase, with its header on core 0. -/
def inPhase (l : Launch) (phase : Nat) (h : CorePhase) : State := { on with launches := [(1, { l with phase := phase, heads := [(0, h)] })] }
def pendOf (phase : Nat) (bytes : NMap PByte) : Pend := { team := 1, launch := 1, group := 0, core := 0, phase := phase, bytes := bytes, spilled := [] }
def pbyte (v : Byte) : PByte := { val := v, tag := false, seq := 1, inL1 := true, kept := false, lost := false, pubs := [] }

theorem witness_PhaseEvents :
    let pl : Launch := Launch.placed
    let raised (p : Nat) : State := inPhase pl p (headAt p .raised 0)
    let arr (p : Nat) : Bool := let s := inPhase pl p (headAt p .isOpen 1)
      (s.launchOn 0 0).any (fun l => l.id == 1 && s.launch? l.id == some l && NMap.look l.heads 0 == some (headAt p .isOpen 1))
    let up (s : State) : Bool := match s.launch? 1 with | some l => l.id == 1 && s.treeUp l && !s.unreleased 1 && l.md == none | none => false
    let m : MdState := { initiator := false, members := [0, 5], acked := [], raised := [], applied := [], confirmed := true, since := 0, sentRaised := false, held := false }
    let q (d : Nat) : Pend := pendOf 0 [(2 ^ 30 + 6 * 2 ^ 37 * d, pbyte 7)]
    let peer (task : Nat) : PeerPend := { dev := 5, ctx := 0, slot := 0, launch := 1, phase := 4, task := task, bytes := [(2 ^ 30, pbyte 7)], spilled := [] }
    let from' (ps : List PeerPend) : State := { on with mem := { on.mem with peerPend := ps } }
    (-- arrivals: of the phase, of the next, of the next after 65535, late; stray ones
      arr 5 && 5 % 65536 == 5 && 6 % 65536 == (5 + 1) % 65536 && arr 65535 && (65535 + 1) % 65536 == 0 && 7 % 65536 != (5 + 1) % 65536 && on.launchOn 0 0 == none && on.slotCtx 0 == none &&
      { on with slots := [(0, { Slot.reset with st := .idle, desc := List.replicate 64 0 })] }.slotCtx 0 == some Ctx.placed &&
      -- raising
      (let s := inPhase pl 5 (headAt 5 .flushing 0); (s.launch? 1).any (fun l => l.id == 1 && NMap.look l.heads 0 == some (headAt 5 .flushing 0)) && !s.storesOut 1 0 && !s.loadsOut 1 0) &&
      { inPhase pl 5 (headAt 5 .flushing 0) with teams := [(1, { Team.placed with phaseDone := true, phMark := 2 })], reqs := [owed 1 (.load .plain 4 (.v 0))] }.loadsOut 1 0 &&
      { inPhase pl 5 (headAt 5 .flushing 0) with reqs := [owed 1 (.store .plain 4)] }.storesOut 1 0 && (headAt 5 .isOpen 1).st != .flushing && decide (0 < (headAt 5 .flushing 1).hdr.expect) &&
      -- the commit: not yet, unreleased, due, with a waiting team and one pending version of either die
      (on.launch? 1).any (fun l => !on.treeUp l) && (inPhase { pl with dies := [1] } 5 (headAt 5 .raised 0)).unreleased 1 && up (raised 5) && up (raised 65535) &&
      (let t := { Team.placed with phaseDone := true, lastPhase := 5, frags := [(0, { frag 0 1 with latch := .waiting 2 })] }
       up { raised 5 with teams := [(1, t)] } && t.passed 5 && t.launch == 1) &&
      (List.range 2).all (fun d => (let s : State := { raised 5 with mem := { (raised 5).mem with pend := [q d] } }; up s && s.mem.pend == [q d] && s.mem.peerPend == [] && (q d).launch == 1 &&
        (q d).phase != (5 + 1) % 65536 && (q d).bytes.all (fun e => decide (s.homeOf e.1 / 64 = d)) && (q d).bytes != [])) &&
      (let s := inPhase { pl with md := some m } 5 (headAt 5 .raised 0); match s.launch? 1 with | some l => s.treeUp l && !s.unreleased 1 && l.md == some m && !l.dead | none => false) &&
      (inPhase { pl with dies := [1] } 5 (headAt 5 .raised 0)).launches.all (fun e => !e.2.dies.contains 0 && e.2.dies.contains 1) && on.net.pkts == [] && (on.send (.commit 1 1) 1 0 1).net.carries (.commit 1 1) &&
      (inPhase { pl with peerWait := [5] } 5 (headAt 5 .raised 0)).launches.all (fun e => !e.2.peerWait.contains 6 && e.2.peerWait.contains 5) &&
      -- peers
      (from' [peer 3]).mem.peerPend == [peer 3] && (from' [peer 3, { peer 3 with launch := 2 }, { peer 3 with phase := 5 }]).mem.peerPend.all (fun p => p.bytes != [] && keepLines p.spilled p.bytes == p.spilled) && (peer 3).phase == 65540 % 65536 && (from' [peer 3, peer 4]).mem.peerPend.length == 2) = true := by
  decide +kernel

def opOf (id op : Nat) : EngineOp :=
  { id := id, op := op, team := 1, entry := 0, pc := 0, group := groupKey 1 0, pair := 0, flag := 3, sq := false, d := 0, a := 0, b := 0, recd := [], srcs := [], dsts := []
    ty := 3, mood := 0, lane := 0, inst := 1, rd := [], wr := [], started := false, loaded := false, outs := [], gens := [], spm := [], tag := 0, since := 0, held := none }
/-- The placed team with operations on its pair; an open flag of it. -/
def engined (p : PairSt) : State := { on with teams := [(1, { Team.placed with flags := [(3, 1)] })], pairs := [(0, p)] }
def working (os : List EngineOp) : State := engined { PairSt.reset with ops := os }

theorem witness_EngineEvents :
    let mine (s : State) (o : EngineOp) : Bool := s.engineOp? o.id == some o && (s.pairSt o.pair).ops.find? (fun x => x.id == o.id) == some o && (s.team? o.team).any (fun t => t.id == o.team)
    let run (o : EngineOp) : EngineOp := { o with started := true }
    let tile (id op : Nat) : EngineOp := { opOf id op with wr := [0] }
    let w : Landing := { loc := homeLoc, bytes := [(homeLoc.addr + 1, (7, false))] }
    let st : EngineOp := { run (opOf 9 0x8D) with loaded := true }
    let own (o : EngineOp) (line : Nat) : State := { working [o] with mem := { (working [o]).mem with owned := [(lineOf line, [9])] } }
    let handle (x : Handle) (os : List EngineOp) : State := { working os with groups := [{ padGroup with handles := [(5, x)] }] }
    let cp : EngineOp := { run (opOf 9 0x98) with d := 5 }
    let h5 (st : HandleSt) : Handle := { Handle.blank with st := st, bound := true, base := 2 ^ 38, len := 4096, release := 1, mark := 4, slices := [{ team := 1, off := 0, len := 64, src := [], dst := [], flag := 3, sq := false, inst := 2 }] }
    let spq (n : Nat) : PairSt := { PairSt.reset with spq := List.replicate n [] }
    let pop : EngineOp := { run (opOf 9 0x8A) with rd := [11], recd := leBytes 32 (3 * 2 ^ 128 + 3 * 2 ^ 144) }
    let stuck (due : Nat) : PairSt := { PairSt.reset with resetAt := some due, ops := [run (opOf 9 0x98)] }
    (-- starts: alone, beside one of another lane, behind one that runs in its lane, behind one that conflicts
      mine (working [opOf 9 0x8B]) (opOf 9 0x8B) && ((working [opOf 9 0x8B]).pairSt 0).resetAt == none &&
      mine (working [run (tile 8 0x89), { opOf 9 0x8B with wr := [1] }]) { opOf 9 0x8B with wr := [1] } && (tile 8 0x89).laneNo != (tile 9 0x8B).laneNo && !(tile 8 0x89).conflicts { opOf 9 0x8B with wr := [1] } &&
      mine (working [run (opOf 8 0x8C), opOf 9 0x8B]) (opOf 9 0x8B) && (opOf 8 0x8C).laneNo == (opOf 9 0x8B).laneNo && mine (working [tile 8 0x89, tile 9 0x8B]) (tile 9 0x8B) && (tile 8 0x89).conflicts (tile 9 0x8B) &&
      -- completions
      mine (working [run (opOf 9 0x8B)]) (run (opOf 9 0x8B)) && !(opOf 9 0x8B).toMemory && ((working [run (opOf 9 0x8B)]).matrixEffect (run (opOf 9 0x8B))).isSome && st.toMemory && mine (working [st]) st && st.outs == [] &&
      (let o : EngineOp := { run (opOf 9 0x8C) with srcs := [{ loc := homeLoc, len := 4 }] }
       mine (working [o]) o && accBytes ((Ty.ofCode o.ty).getD .f32) == 4 && !(working [o]).sourcesBusy o && (match (working [o]).engineRead 0 (some Team.placed) o.srcs with | (bs, _) => bs.length == 4) &&
       -- behind an earlier write of its source
       (let s : State := { working [run (opOf 8 0x8D), o] with mem := { on.mem with owned := [(lineOf homeLoc.addr, [8])] } }; mine s o && s.matrixEffect o == none && s.sourcesBusy { o with op := 0x8D, loaded := false })) &&
      -- landings: the line locked, and the line owned
      (let o := { st with outs := [w] }
       mine (own o homeLoc.addr) o && NMap.look (own o homeLoc.addr).mem.owned w.loc.key == some [9] && o.held == none && w.loc.space == 0 && mine (working [{ o with held := some (0, 0) }]) { o with held := some (0, 0) } && (own o homeLoc.addr).lockAt w.loc.addr == none && NMap.above 0 w.bytes &&
       { working [o] with mem := { on.mem with locks := [{ lineLock 0 1 [] with line := lineOf homeLoc.addr }] } }.lockAt w.loc.addr != none) &&
      -- copies
      (let s := handle (h5 .filling) [{ cp with loaded := true }]
       (s.groupOf (groupKey 1 0)).any (fun g => g.handle 5 == h5 .filling && corePair g.core == 0) &&
       (s.pairSt 0).ops.find? (fun o => o.op == 0x98 && o.group == groupKey 1 0 && o.d.toNat == 5) == some { cp with loaded := true } && (s.team? 1).any (fun t => t.launch == 1 && t.group == 0)) &&
      (let s := handle (h5 .draining) []
       (s.groupOf (groupKey 1 0)).any (fun g => (g.handle 5).st == .draining) && s.reqs == []) &&
      (let s : State := { handle (h5 .draining) [] with reqs := [{ ask 1 (.load .plain 4 (.v 4)) .miss none with inst := 3, parts := [{ lane := 0, va := 2 ^ 38 + 4095, off := 0, len := 4, data := [], tag := false }] }] }
       s.reqs.any (fun r => r.team == (h5 .draining).release && r.op.isLoad && decide (r.inst < (h5 .draining).mark) &&
         r.parts.any (fun p => decide (p.va < 2 ^ 38 + 4096) && decide (2 ^ 38 < p.va + p.len)))) &&
      -- the sparsity queue
      (spq 32).spq.length == 32 && decide ((spq 31).spq.length < 32) && (List.replicate 128 (0 : Byte)).length == 128 && (working []).pairs != [] &&
      ((working [pop]).pairSt 0).ops.find? (fun o => o.started && o.op == 0x8A && o.rd.contains 11) == some pop && ((working [pop]).pairSt 0).spq == [] &&
      (Inflection.of pop.recd).any (fun x => decide (pop.spm.length < x.k' / 4)) &&
      -- resets
      ((working [run (opOf 9 0x89)]).pairSt 0).resetAt == none && ((working [run (opOf 9 0x89)]).pairSt 0).ops.all (fun o => o.op != 0x98 && ((working []).team? o.team).any (fun u => u.id == o.team)) &&
      (let s := engined { PairSt.reset with tileOwner := [(0, groupKey 1 0)] }
       s.groups.any (fun g => (s.pairSt 0).owner 0 == some (groupKey g.launch g.num) && corePair g.core == 0)) && !(5 : DWord).getLsbD 63 &&
      ((engined (stuck 2048)).pairSt 0).resetAt == some 2048 && decide ((engined (stuck 2048)).clk < 2048) && decide (2048 ≤ ({ engined (stuck 2048) with clk := 2048 } : State).clk) &&
      ((engined (stuck 2048)).team? 1).any (fun t => t.id == 1 && !t.evicted && t.status != .ended && corePair t.core == 0)) = true := by decide +kernel

theorem witness_QueueCommandEvents :
    let at' (p : Nat) (x : DWord) : State := { on with teams := [(1, { Team.placed with ports := [(p, { q := [x], ovf := false })] })] }
    let has (p : Nat) (x : DWord) (f : Team → Bool) : Bool := ((at' p x).team? 1).any (fun t => (t.port p).q == [x] && !(t.port (p - 8)).ovf && f t)
    let code (k : Nat) : DWord := BitVec.ofNat 64 (k * 2 ^ 60 + 5)
    let cj (x : DWord) : State := { at' 10 x with ctxs := [(0, { Ctx.placed with cjRange := [(1, 7 * 2 ^ 16)] })] }
    let ok (x : Nat) : Bool := (cj (BitVec.ofNat 64 x)).ctx? 0 == some { Ctx.placed with cjRange := [(1, 7 * 2 ^ 16)] } && x / 2 ^ 60 % 16 == 1 && Ctx.cjIn { Ctx.placed with cjRange := [(1, 7 * 2 ^ 16)] } (x / 8192 % 2) (x % 8192)
    let cp (k : Nat) (x : Handle) (replies : Nat) : Bool :=
      let s : State := { at' 9 (code k) with groups := [{ padGroup with handles := [(5, x)] }], teams := [(1, { Team.placed with ports := [(1, { q := List.replicate replies 0, ovf := false }), (9, { q := [code k], ovf := false })] }),
        (2, { Team.placed with id := 2, slot := 1, frags := [(0, { frag 0 1 with latch := .waiting (16 + 5) })] })] }
      (s.group? 1 0).any (fun g => g.handle 5 == x) && (s.team? 1).any (fun t => (t.port 9).q == [code k] && (t.port 1).q.length == replies) && (code k).toNat / 2 ^ 60 % 16 == k && (code k).toNat % 8 == 5 &&
      (s.team? 2).any (fun v => v.launch == 1 && v.group == 0 && (v.frag? 0).any (fun f => f.latch == .waiting (16 + 5)))
    (-- nothing pushed; each code
      (on.team? 1).any (fun t => (List.range 4).all (fun q => (t.port (8 + q)).q == [])) &&
      has 8 (code 1) (fun _ => true) && has 8 (code 2) (fun _ => true) && has 11 (code 1) (fun _ => true) && has 11 (code 2) (fun _ => true) && has 10 (code 1) (fun _ => true) &&
      -- slots 0 and 7 of die 1 are the context's, slot 8 and die 0 are not
      ok (2 ^ 60 + 8192) && ok (2 ^ 60 + 8192 + 7) && !ok (2 ^ 60 + 8192 + 8) && !ok (2 ^ 60 + 1) && !ok (2 ^ 61 + 8192) &&
      -- copies: replies with room and without
      cp 2 (bound .free) 0 && cp 2 (bound .filling) 8 && cp 3 (bound .free) 7 && cp 15 (bound .full) 8 && cp 1 (bound .free) 7 && cp 1 { bound .filling with running := true } 8 && cp 1 (bound .filling) 0 &&
      !(bound .filling).running) = true := by decide +kernel

/-! The fabric. -/

def seg (space x addr len : Nat) : Seg := { loc := { space := space, x := x, y := 0, addr := addr }, len := len }
/-- A transfer of the placed team, from 2^38 to the same offset of another page; its bytes lie at 2^30. -/
def xfer (kind len : Nat) (ds : List Seg) : Transfer :=
  { id := 7, kind := kind, team := 1, ctx := 0, launch := 1, core := 0, slot := 0, dev := 5, src := 2 ^ 38, dst := 2 ^ 38 + 4096, len := len, srcs := [seg 0 0 (2 ^ 30) len], dsts := ds
    lctr := 0, rctr := 0, pd := 0, pin := none, flag := 3, sq := false, inst := 1, formed := 0, packets := [], status := 0, stalled := none, data := [], counted := false }
def sent (xs : List Transfer) : State :=
  { on with teams := [(1, { Team.placed with flags := [(3, 1)] })], fab := { on.fab with transfers := xs, routes := [(5, 2 ^ 127)], ports := [(0, { PortSt.reset with up := true, laneOk := 0xFFFF })] } }
def packet (num : Nat) (resends : Nat) : Packet := { num := num, off := num - 1, len := 64, port := 0, path := 0, since := 0, resends := resends }
def peerAsks (kind : InKind) (etype seq a : Nat) : InboundReq :=
  { src := 5, seq := seq, kind := kind, addr := BitVec.ofNat 64 a, etype := etype, data := List.replicate 4 (7, false), rctr := 0, pd := 0 }
/-- Window 0 grants the first 2 MiB at 2^30. -/
def granting : State := on.setReg (.fyWin 0) (BitVec.ofNat 64 (3 * 2 ^ 62 + 2 ^ 30 + 1))
def cjSlotOf (rounds flight : Nat) : CjSlot :=
  { st := .firing, ctx := 0, desc := [0, 0, 0, BitVec.ofNat 64 (rounds * 2 ^ 16 + 512 * 2 ^ 32)], srcs := [], dsts := [], issued := 0, flight := flight, thresh := 5, phase := 0, ends := false }
def cjRoundOf (aside far : Bool) : CjRound :=
  { id := 7, key := 3, num := 0, ctx := 0, desc := (cjSlotOf 2 1).desc, srcs := [], dsts := [seg 0 0 (2 ^ 30) 512], tag := 0, ready := true, data := List.replicate 512 (7, false), off := 0, old := none
    status := 0, counted := false, far := far, aside := aside, since := 0, packets := [] }
def conjoined (x : CjSlot) (rs : List CjRound) (queue : List Nat) : State := { on with conj := { slots := [(3, x)], queue := [(0, queue)], rounds := rs } }

theorem witness_FabricPacketEvents :
    let near (len : Nat) : Transfer := xfer 0 len [seg 0 0 (2 ^ 30 + 4096) len]
    let far (len : Nat) : Transfer := xfer 2 len [seg 7 5 (2 ^ 30) len]
    let mine (x : Transfer) (s : State) : Bool := s.fab.transfers.find? (fun y => y.id == 7) == some x
    let forms (x : Transfer) (s : State) : Bool := mine x s && x.kind != 1 && !x.failing && decide (x.formed < x.len) && !s.segsBusy (segSlice x.srcs 0 (min 256 x.len))
    let lands (x : Transfer) (s : State) (owned locked : Bool) : Bool := forms x s && x.kind != 3 && (match x.dstLoc 0, s.engineRead 0 (s.team? 1) (segSlice x.srcs 0 (min 256 x.len)) with
      | some l, (_, s1) => l.space == 0 && (NMap.look s1.mem.owned l.key).isSome == owned && (s1.lockAt l.addr).isSome == locked
      | none, _ => false)
    let held (m : MemSt) : State := { sent [near 256] with mem := m }
    let out (k : Packet) (x : Transfer) : Transfer := { x with formed := x.len, packets := [k] }
    let acked (k : Packet) (x : Transfer) (s : State) : Bool := mine x s && x.packets.find? (fun y => y.num == 1 && y.port != 8) == some k
    let late (k : Packet) (clk : Nat) : State := { sent [out k (near 64)] with clk := clk }
    let p0 : Nat := 2 ^ 30 + 2 ^ 21
    let m (id : Nat) (a : Nat) (left : List Nat) : Mcast := { id := id, group := 4, req := peerAsks .put 0 1 a, left := left, status := 0 }
    let roots (ms : List Mcast) : State := { on with fab := { on.fab with mcast := ms } }
    let issues (s : State) (rounds : Nat) : Bool := NMap.getD s.conj.queue 0 [] == [3] && s.inService 5 0 && NMap.look s.conj.slots 3 == some (cjSlotOf rounds 0) && cjOp (cjSlotOf rounds 0).desc == 0 &&
      (cjSlotOf rounds 0).rounds == rounds
    let round (s : State) (r : CjRound) : Bool := s.conj.rounds.find? (fun r => r.id == 7) == some r
    (-- packets formed: not of a failing transfer, not past its end, the first of two and the last one, at a line owned or locked, to another device
      mine { near 64 with status := 2 } (sent [{ near 64 with status := 2 }]) && { near 64 with status := 2 }.failing && decide ({ near 64 with formed := 64 }.len ≤ 64) &&
      lands (near 512) (sent [near 512]) false false && lands (near 256) (sent [near 256]) false false && (near 256).packets == [] &&
      lands (near 256) (held { on.mem with owned := [(2 ^ 30 + 4096, [9])] }) true false && lands (near 256) (held { on.mem with locks := [{ lineLock 0 1 [] with line := 2 ^ 30 + 4096 }] }) false true &&
      [far 256, { far 256 with kind := 0 }].all (fun x => let s := sent [x]; forms x s && x.pin == none && (x.dstLoc 0).any (fun l => isFar l && s.devOf l == 5 && s.devOf l != s.fab.self) &&
        (match s.packetData x 0 256 with | some (_, s1) => (match s1.choosePort 0 5 (fun _ => false) with | (.port p, s2) => p == 0 && s2.portTakes 0 | _ => false) | none => false)) &&
      -- acknowledged: one of two, the last one
      acked (packet 1 0) { near 128 with packets := [packet 1 0, packet 65 0] } (sent [{ near 128 with packets := [packet 1 0, packet 65 0] }]) &&
      acked (packet 1 0) (out (packet 1 0) (near 64)) (sent [out (packet 1 0) (near 64)]) && (out (packet 1 0) (near 64)).status == 0 &&
      (let x := out (packet 1 0) { near 64 with kind := 1 }; acked (packet 1 0) x (sent [x]) && x.data == [] && (x.dstLoc 0).any (fun l => l.space == 0 && NMap.look (sent [x]).mem.owned l.key == none && (sent [x]).lockAt l.addr == none)) &&
      -- timed out: too early, the last resend but one, the last
      acked (packet 1 7) (out (packet 1 7) (near 64)) (late (packet 1 7) 60000) && (sent []).e2eCycles == 60000 && decide ((late (packet 1 7) 59999).clk < 0 + 60000) && (sent []).e2eResends == 8 &&
      ((late (packet 1 8) 60000).port 0).up && !((late (packet 1 8) 60000).port 0).retrain &&
      (let x := { out (packet 1 7) (far 64) with dst := 2 ^ 38 }; let s : State := { sent [x] with clk := 60000 }
       (x.farLoc 0).map s.devOf == some 5 && (match (s.markPath 0 5 0).nextWay x.pin.isSome 0 (packet 1 7) 5 with | (some (q, i), _) => q == 0 && i == 1 | _ => false)) &&
      (let s : State := { on with fab := { on.fab with marks := [(pathKey 0 5 0, 3000000)] } }
       NMap.look s.fab.marks (pathKey 0 5 0) == some 3000000 && NMap.look s.fab.marks (pathKey 0 5 1) == none && decide ({ s with clk := 2999999 }.clk < 3000000)) &&
      -- peers: performed before, not granted (a byte beyond the window), waiting at a line, granted
      { on.fab with performed := [(5, 1)] }.performed.contains (5, 1) && !granting.fab.performed.contains (5, 1) && !granting.granted 1 (p0 - 3) 4 && granting.granted 1 (p0 - 4) 4 && !granting.granted 2 (p0 - 4) 4 &&
      inLen (peerAsks .put 0 1 (p0 - 4)) == 4 && !(peerAsks .put 0 1 (p0 - 4)).addr.getLsbD 63 && inRight (.put) == 1 && inRight (.store) == 1 && !granting.inboundWaits (peerAsks .put 0 1 (p0 - 4)) (p0 - 4) 4 && granting.mem.parts == [] &&
      !granting.inboundWaits (peerAsks .store 0 1 (p0 - 4)) (p0 - 4) 4 && granting.versionRoom 0 (lineOf (p0 - 4)) != 2 &&
      { granting with mem := { granting.mem with owned := [(p0 - 256, [9])] } }.inboundWaits (peerAsks .put 0 1 (p0 - 4)) (p0 - 4) 4 && granting.fab.waiting == [] &&
      -- multicast
      (roots [m 7 0 []]).fab.mcast.find? (fun y => y.id == 7) == some (m 7 0 []) && (roots [m 7 0 [5]]).fab.mcast.find? (fun y => y.id == 7) == some (m 7 0 [5]) && (m 7 0 [5, 6]).left == [5, 6] &&
      (roots [m 6 255 [5], m 7 0 [5]]).fab.mcast.any (fun x => decide (x.id < 7) && x.req.addr.toNat / 256 == 0 && x.left.contains 5) &&
      -- Conjunction rounds
      NMap.getD on.conj.queue 0 [] == [] && !{ conjoined (cjSlotOf 1 0) [] [3] with svc := [(5 * 65536, .out)] }.inService 5 0 && issues (conjoined (cjSlotOf 1 0) [] [3]) 1 && issues (conjoined (cjSlotOf 2 0) [] [3]) 2 &&
      (conjoined (cjSlotOf 2 0) [] [3]).roundOk (cjRoundOf false false) &&
      -- a round to another device: its second packet, and its answer
      (let r : CjRound := { cjRoundOf false true with off := 256, dsts := [seg 7 5 (2 ^ 30) 512] }
       let s : State := { conjoined (cjSlotOf 2 1) [r] [] with fab := (sent []).fab }
       round s r && r.farLen == 512 && s.roundPeer r 256 == 5 && (match s.choosePort 0 5 (fun _ => false) with | (.port p, s1) => p == 0 && s1.portTakes 0 | _ => false)) &&
      decide ({ cjRoundOf false true with off := 512 }.farLen ≤ 512) && round (conjoined (cjSlotOf 2 1) [{ cjRoundOf false true with off := 512 }] []) { cjRoundOf false true with off := 512 } &&
      round (conjoined (cjSlotOf 2 1) [cjRoundOf true false] []) (cjRoundOf true false) &&
      NMap.look (conjoined (cjSlotOf 2 2) [cjRoundOf false true] []).conj.slots 3 == some (cjSlotOf 2 2) && decide (1 < (cjSlotOf 2 2).flight) && decide ((cjSlotOf 2 1).flight ≤ 1) &&
      (let s := conjoined (cjSlotOf 2 1) [cjRoundOf false false] []; let r := cjRoundOf false false
       round s r && cjOp r.desc == 0 && cjLen r.desc == 512 && (segAt r.dsts 0).any (fun l => l.space == 0 && NMap.look s.mem.owned l.key == none && s.lockAt l.addr == none) && r.status == 0 &&
        (segAt r.dsts 256).any (fun l => l.addr == 2 ^ 30 + 256))) = true := by decide +kernel

theorem witness_FabricLinkEvents :
    let p (x : PortSt) (clk : Nat) : State := { on with clk := clk, fab := { on.fab with ports := [(2, x)] } }
    let x : PortSt := { PortSt.reset with up := true, laneOk := 0xFFFF, unacked := [4094, 4095, 0], replays := 6 }
    let host (links : NMap Bool) : State := { on with hostUp := links }
    ((p x 0).port 2 == x && !x.unacked.contains 1 && x.unacked == [4094] ++ 4095 :: [0] && !([4094].contains 4095) && decide ((if [4094] == ([] : List Nat) then 6 else 0) + 1 < 8) && !PortSt.reset.up &&
      -- the eighth replay of one flit; a flit unacknowledged too long
      { x with replays := 7 }.unacked == [] ++ 4094 :: [4095, 0] && decide (8 ≤ { x with replays := 7 }.replays + 1) && decide ((p x 2999).clk < 0 + dw ((p x 0).reg (.fyLnk 2)) 47 32 * 30) &&
      decide (0 + dw ((p x 0).reg (.fyLnk 2)) 47 32 * 30 ≤ (p x 3000).clk) && decide (x.replays < 7) && decide (7 ≤ { x with replays := 7 }.replays) &&
      -- lanes before and after the device has its number, retraining
      { on with fab := { on.fab with opened := true } }.fab.opened && !on.fab.opened && !{ x with retrain := false }.retrain && decide ((p { x with retrain := true } 5999).clk < 0 + 6000) && decide (0 + 6000 ≤ (p { x with retrain := true } 6000).clk) &&
      decide (9215 < dw 9216 13 0) && decide (dw 9215 13 0 ≤ 9215) && (1 : DWord).getLsbD 0 && !(2 : DWord).getLsbD 0 && halfOk x.laneOk 0 && on.inService 3 2 &&
      -- the host links
      (host [(0, false)]).linkUp 0 == false && (host [(0, false)]).linkUp 1 && !(host [(0, false), (1, false)]).linkUp 1 && on.linkUp 0 && on.linkUp 1) = true := by decide +kernel

/-! The host and management. -/

/-- The placed team after a call, its record 5 asked about. -/
def called (t : Team) : State := { on with ctxs := [(0, { Ctx.placed with crTag := 5 })], teams := [(1, { t with record := some 5 })] }
def ctxed (c : Ctx) : State := { on with ctxs := [(0, c)] }
def funcs (x : FuncSt) (c : Ctx) (t : Team) : State := { ctxed c with mgmt := { on.mgmt with func := [(3, x)] }, teams := [(1, t)] }
def serviced (cls unit : Nat) (x : UnitSt) : State := { on with svc := [(cls * 65536 + unit, x)] }

theorem witness_HostCallEvents :
    let find (s : State) (st : TeamSt) : Bool := (s.ctx? 0).any (fun c => (s.teamList.find? (fun t => s.ctxOf t.launch == 0 && t.record == some c.crTag && t.status != .ended)).any (fun t =>
      t.status == st && s.team? t.id == some t && (s.launch? t.launch).isSome))
    let st (x : TeamSt) : Team := { Team.placed with status := x }
    let label : State := { called (st .stopped) with launches := [(1, launchOf (2 ^ 384 * (2 ^ 38 + 8)))] }
    let busy (s : State) : State := { s with reqs := [ask 1 (.load .plain 4 (.v 4)) .miss none] }
    let due (p ev : Bool) : State := { label with teams := [(1, { Team.placed with restartPending := p, evicted := ev })] }
    let ring : Ctx := { Ctx.placed with crBase := 4, crHead := 0, crTail := 15, buffer := [(1, List.replicate 64 1)] }
    let running (c : Ctx) (sw : Bool) : State := { ctxed c with mgmt := { on.mgmt with func := [(0, { switching := sw, preempted := false, ctx := 0, units := 0, active := false, left := 0 })] } }
    let cj (st : CjSt) : CjSlot := { st := st, ctx := 0, desc := [], srcs := [], dsts := [], issued := 0, flight := 0, thresh := 0, phase := 0, ends := false }
    (on.ctx? 1 == none && find (called (st .running)) .running && find (called (st .parked)) .parked && find (called (st .halted)) .halted && find (called (st .stopped)) .stopped &&
      find (called { st .stopped with evicted := true }) .stopped && on.teamList.all (fun t => t.record == none) &&
      (called (st .stopped)).launches.all (fun e => e.2.restart == 0) && find label .stopped && (label.launch? 1).any (fun l => l.restart == 2 ^ 38 + 8) &&
      (label.team? 1).any (fun t => label.settledTeam t) && ((busy label).team? 1).any (fun t => !(busy label).settledTeam t) &&
      ((due true false).team? 1).any (fun t => t.restartPending && !t.evicted && (due true false).settledTeam t) && ((due false false).team? 1).any (fun t => !t.restartPending) &&
      ((due true true).team? 1).any (fun t => t.evicted) &&
      -- buffered records
      (ctxed ring).ctx? 0 == some ring && ring.num == 0 && ring.ringRoom && !{ ring with crTail := 16 }.ringRoom && !{ ring with crBase := 3 }.ringRoom && (ctxed ring).hostReach && (List.replicate 64 (1 : Byte)).length == 64 &&
      !{ ctxed ring with hostUp := [(0, false), (1, false)] }.hostReach && Ctx.placed.buffer == [] &&
      -- resumed, destroyed
      (running { Ctx.placed with halted := true } false).ctx? 0 == some { Ctx.placed with halted := true } && !(running { Ctx.placed with halted := true } false).switchRuns 0 && (running Ctx.placed true).switchRuns 0 &&
      !Ctx.placed.halted && !Ctx.placed.switching && (running Ctx.placed false).preempted 0 == false && (on.team? 1).any (fun t => t.id == 1 && (on.launch? t.launch).any (fun l => l.id == t.launch && l.ctx == 0)) &&
      ({ on with conj := { on.conj with slots := [(3, cj .armed)] } } : State).conj.slots.all (fun e => e.2.ctx == 0) && { Slot.reset with st := .idle, desc := List.replicate 64 0 }.ctxNum == 0 &&
      ({ engined { PairSt.reset with tileOwner := [(0, groupKey 1 0)] } with clk := 0 } : State).groups.all (fun g => on.ctxOf g.launch == 0)) = true := by decide +kernel

theorem witness_FunctionEvents :
    let c (sw : Bool) : Ctx := { Ctx.placed with func := 3, switching := sw }
    let f (sw pre : Bool) : FuncSt := { switching := sw, preempted := pre, ctx := 0, units := 2, active := pre, left := 1 }
    let v : DWord := BitVec.ofNat 64 (2 ^ 63)
    let rest (victim : Bool) : Team := { Team.placed with victim := victim, frags := [(0, { frag 0 1 with clause := none })] }
    let unit (s : State) (t : Team) : Bool := s.switchUnit 0 == some t && s.team? t.id == some t
    let ck (o full : Bool) (log : List (Nat × List Byte × List Nat)) : Ctx := { Ctx.placed with halted := true, ck := { Ctx.placed.ck with isOpen := o, overflowed := full, log := log } }
    let line : List Byte := List.replicate 256 7
    let x (sw pre : Bool) : State := funcs (f sw pre) (c false) (rest false)
    (v.getLsbD 63 && dw v 15 0 == 0 && !(0 : DWord).getLsbD 63 && (x false false).ctx? (dw v 15 0) == some (c false) && (x false true).funcSt 3 == f false true && (x true false).funcSt 3 == f true false &&
      unit (x false false) (rest false) && { x false false with teams := [] }.switchUnit 0 == none &&
      -- a unit that commits, and one not at rest
      (x true false).switchRuns 0 && !(x false false).switchRuns 0 && (let s := funcs (f true false) (c true) (rest true); unit s (rest true) && s.switchRuns 0 && s.evictReady (rest true)) &&
      (let t : Team := { Team.placed with victim := true, frags := [(0, { frag 0 1 with latch := .page (2 ^ 38) 0 })] }
       let s : State := { funcs (f true false) (c true) t with reqs := [owed 1 (.load .plain 4 (.v 4))] }
       unit s t && s.switchRuns 0 && (s.evictReady t || !s.evictReady t)) &&
      (let t : Team := { Team.placed with victim := true, frags := [(0, frag 0 1)] }; let s := funcs (f true false) (c true) t; unit s t && !s.evictReady t) &&
      -- functions
      !((x false false).funcSt 3).preempted && ((x false true).funcSt 3).preempted && !(x false true).preempting 3 && (funcs { f true true with active := false } (c false) (rest false)).preempting 3 && !(on.funcSt 16).preempted && decide (16 ≤ 16) && decide (16 < 17) &&
      (x false false).ctxOf 1 == 0 && (x false false).teamList.all (fun t => !t.evicted && t.status != .ended) && (let s : Slot := { Slot.reset with st := .idle }; s.st != .free && s.func == 0) &&
      -- checkpoints
      (ctxed (ck true false [])).ctx? 0 == some (ck true false []) && !(ck false false []).ck.isOpen && (ck true true []).ck.overflowed && !Ctx.placed.halted &&
      (let g : Ctx := ck true false [(2 ^ 30, line, []), (2 ^ 30 + 256, line, [])]
       (ctxed g).ctx? 0 == some g && g.halted && decide (g.ck.log.map Prod.fst).Nodup && g.ck.log.all (fun e => e.1 % 256 == 0 && e.2.1.length == 256)) &&
      -- registers
      (unreserved .l2VerCfg 2).toNat == 2 && (unreserved .l2VerCfg 8).toNat == 8 && (unreserved .l2VerCfg 1).toNat == 1 && decide (8 < (unreserved .l2VerCfg 9).toNat) && State.reset.ctxs == [] && on.ctxs != [] &&
      on.ctx? 0 == some Ctx.placed && dw 1 63 48 == 0) = true := by decide +kernel

theorem witness_ServiceEvents :
    let st (cls unit : Nat) (x : UnitSt) : Bool := (serviced cls unit x).unitSt cls unit == x
    let teamsOn (core : Nat) (ev : Bool) (s : State) : State := { s with teams := [(1, { Team.placed with core := core, evicted := ev })] }
    let log (target : ScrubTarget) (v : Nat) : State := on.setReg (.errLog (on.scrubPlace target).1) (BitVec.ofNat 64 v)
    let v : Nat := 2 ^ 63 + 2 ^ 60 + 2 ^ 20 + 5 * 2 ^ 8
    let dirty : Pend := pendOf 0 [(2 ^ 30, pbyte 7)]
    ([(0, 128), (1, 128), (2, 384), (3, 8), (4, 2), (5, 2)].all (fun e => decide (unitCount e.1 ≤ e.2) && decide (e.2 - 1 < unitCount e.1) && st e.1 (e.2 - 1) .inService && st e.1 (e.2 - 1) .draining &&
        st e.1 (e.2 - 1) .out && st e.1 (e.2 - 1) .returning) && decide (unitCount 6 ≤ 0) &&
      -- a team of the unit's pair, and one of another
      corePair 255 == 127 && corePair 1 == 0 && (teamsOn 255 false on).teamList.all (fun t => corePair t.core == 127 && !t.evicted && t.status != .ended && (on.launch? t.launch).any (fun l => l.gang == 1)) &&
      -- images
      updateImage 0 0 == none && updateImage 2 383 == some (3, 3) && updateImage 3 7 == some (4, 4) && updateImage 5 1 == some (5, 6) && (serviced 3 7 .out).flashImage 4 4096 == none &&
      (BitVec.ofNat 64 (2 ^ 63 + 4 * 2 ^ 60)).getLsbD 63 && dw (BitVec.ofNat 64 (2 ^ 63 + 4 * 2 ^ 60)) 62 60 == 4 && (teamsOn 255 false on).teamList.all (fun t => !on.ctxHeld (on.ctxOf t.launch)) &&
      -- empty, and not yet
      !(teamsOn 255 true (serviced 0 127 .draining)).teamList.any (fun t => corePair t.core == 127 && !t.evicted) && (serviced 0 127 .draining).groups.all (fun g => corePair g.core != 127) &&
      (teamsOn 255 false (serviced 0 127 .draining)).teamList.any (fun t => corePair t.core == 127 && !t.evicted) && ((serviced 3 7 .draining).port 7).unacked == [] &&
      !({ serviced 3 7 .draining with fab := { on.fab with ports := [(7, { PortSt.reset with unacked := [1] })] } }.port 7).unacked.isEmpty && ((serviced 3 7 .draining).port 7).out == [] &&
      { serviced 0 0 .draining with teams := [], launches := [(1, launchOf (2 ^ 76))] }.groups.any (fun g => corePair g.core == 0) && (launchOf (2 ^ 76)).gang != 1 && (serviced 4 1 .draining).linkUp 1 &&
      { serviced 4 1 .draining with hostUp := [(1, false)], mem := { on.mem with posted := [(1, [(0, 0, [1])])] } }.mem.posted == [(1, [(0, 0, [1])])] && (serviced 5 1 .draining).conj.rounds == [] &&
      (cjRoundOf false false).key / 8192 == 0 && { serviced 1 127 .draining with mem := { on.mem with pend := [dirty] } }.mem.pend == [dirty] && homeSlice (lineOf (2 ^ 30)) == homeSlice (2 ^ 30) &&
      -- scrubbing off and on; logs: off, and a ring of 128 records
      !(on.reg (.scrubCfg (on.scrubPlace (.hbm 5)).1)).getLsbD 31 && (let s := on.setReg (.scrubCfg 3) 0x80000004; (s.reg (.scrubCfg (s.scrubPlace (.hbm 5)).1)).getLsbD 31) &&
      dw (on.reg (.errLog (on.scrubPlace (.hbm 5)).1)) 7 4 == 0 && (let s := log (.hbm 5) (2 ^ 31 + 16); dw (s.reg (.errLog (s.scrubPlace (.hbm 5)).1)) 7 4 == 1 && paExists (dw (s.reg (.errLog (s.scrubPlace (.hbm 5)).1)) 56 12 * 4096)) &&
      -- what errors touch
      (on.team? 1).isSome && (on.group? 1 0).isSome && (on.team? 1).any (fun t => t.id == 1 && t.status == .running && t.frags != []) &&
      dirty.bytes.all (fun e => e.2.inL1 && sectorOf e.1 == sectorOf (2 ^ 30) && NMap.look dirty.bytes e.1 == some e.2) && dirty.team == 1 && dirty.core == 0 && (lineLock 0 1 []).line == lineOf (8 * 2 ^ 27) &&
      -- RESYNC
      (BitVec.ofNat 64 v).getLsbD 63 && dw (BitVec.ofNat 64 v) 62 60 == 1 && on.hostReach && dw (BitVec.ofNat 64 (2 ^ 63)) 62 60 != 1 && !{ on with hostUp := [(0, false), (1, false)] }.hostReach) = true := by decide +kernel

/-- An image of 64 bytes of KIND kind, with no body and no signature; it is accepted when Config.falconOk accepts that. -/
def imageOf (kind : Nat) : Image := leBytes 64 (imageMagic + kind * 2 ^ 64)
def flashed (a b : NMap Image) : State := { State.reset with boot := { BootSt.reset with imagesA := a, imagesB := b } }

theorem image_fields : [1, 2, 3, 4, 5].all (fun k => let i := imageOf k
    recBits i 63 0 == imageMagic && recBits i 95 64 == k && recBits i 511 256 == 0 && recBits i 127 96 == 0 && recBits i 159 128 == 0 && recBits i 191 160 == 0 && i.length == 64 &&
      recBits [] 63 0 != imageMagic) = true := by decide +kernel

theorem image_accepted (kind : Nat) (hk : kind ∈ [1, 2, 3, 4, 5]) (h : Config.falconOk (signedPart (imageOf kind)) (signature (imageOf kind)) = true) (s : State) (hm : s.boot.minSvn = []) :
    s.imageOk kind (imageOf kind) = true ∧ s.imageOk kind [] = false := by
  have e := List.all_eq_true.mp image_fields kind hk
  simp only [Bool.and_eq_true, beq_iff_eq, bne_iff_ne] at e
  obtain ⟨⟨⟨⟨⟨⟨⟨h1, h2⟩, h3⟩, h4⟩, h5⟩, h6⟩, h7⟩, h8⟩ := e
  constructor
  · simp [State.imageOk, signedOk, h, h1, h2, h3, h4, h5, h6, h7, hm, NMap.getD, NMap.look]
  · simp [State.imageOk, h8]

theorem good_first {s : State} {kind : Nat} {i : Image} (hA : s.boot.imagesA = [(kind * 64, i)]) (ok : s.imageOk kind i = true) : s.goodImage kind 0 = some i := by
  simp [State.goodImage, NMap.look, hA, ok]

theorem good_second {s : State} {kind : Nat} {i : Image} (hA : s.boot.imagesA = [(kind * 64, [])]) (hB : s.boot.imagesB = [(kind * 64, i)]) (bad : s.imageOk kind [] = false)
    (ok : s.imageOk kind i = true) : s.goodImage kind 0 = some i := by
  simp [State.goodImage, NMap.look, hA, hB, bad, ok]

/-- The first copy is accepted; the second, where the first is not. -/
theorem witness_BootAndMailboxEvents_images (kind : Nat) (hk : kind ∈ [1, 2, 3, 4, 5]) (h : Config.falconOk (signedPart (imageOf kind)) (signature (imageOf kind)) = true) :
    (flashed [(kind * 64, imageOf kind)] []).goodImage kind 0 = some (imageOf kind) ∧ (flashed [(kind * 64, [])] [(kind * 64, imageOf kind)]).goodImage kind 0 = some (imageOf kind) :=
  have ok (a b : NMap Image) := image_accepted kind hk h (flashed a b) rfl
  ⟨good_first rfl (ok _ _).1, good_second rfl rfl (ok _ _).2 (ok _ _).1⟩

/-- An image in the flash that an update finds (R314). -/
theorem witness_ServiceEvents_image (kind : Nat) (hk : kind ∈ [3, 4, 5]) (h : Config.falconOk (signedPart (imageOf kind)) (signature (imageOf kind)) = true) :
    let s : State := { serviced 2 383 .out with boot := { BootSt.reset with flash := [(4096, imageOf kind)] } }
    s.flashImage kind 4096 = some (imageOf kind) := by
  intro s
  have ok : s.imageOk kind (imageOf kind) = true := (image_accepted kind (by simp at hk ⊢; omega) h s rfl).1
  have look : NMap.look s.boot.flash 4096 = some (imageOf kind) := rfl
  rw [State.flashImage, look, Option.bind_some, if_pos ok]

theorem witness_BootAndMailboxEvents :
    let ready' : State := { State.reset with boot := { BootSt.reset with stage := 8 } }
    let failed : State := { State.reset with boot := { BootSt.reset with failed := some 2 } }
    (State.reset.wiped.goodImage 1 0 == none && acceptedRecords State.reset.boot.records == [] && decide (8 ≤ ready'.boot.stage) && ready'.boot.failed == none && failed.boot.failed == some 2 &&
      { ready' with fab := { ready'.fab with opened := true } }.fab.opened && !ready'.fab.opened && decide (State.reset.boot.stage < 8) && State.reset.boot.failed == none &&
      (peerAsks (.spdm (.measurements [])) 0 0 0).kind == .spdm (.measurements [])) = true := by decide +kernel

theorem witness_MultiDeviceEvents :
    let md (ini con sent' held : Bool) (acked raised applied : NSet) : MdState :=
      { initiator := ini, members := [0, 5, 6], acked := acked, raised := raised, applied := applied, confirmed := con, since := 0, sentRaised := sent', held := held }
    let at' (m : MdState) : State := { on with launches := [(1, { Launch.placed with slot := 9, md := some m })] }
    let the (m : MdState) (p : MdState → Bool) : Bool := match (at' m).mdOf 9 p with | some (l, m') => m' == m && (at' m).launch? l.id == some l && l.md == some m && p m | none => false
    let joins (x : Nat) (st : SlotSt) : State := { on with slots := [(9, { Slot.reset with st := st })] }.setReg (.mdJoin 9) (BitVec.ofNat 64 x)
    let join (s : State) : DWord := s.reg (.mdJoin 9)
    let tentative (m : MdState) : Bool := m.initiator && !m.confirmed
    let cycles : Nat := max 1 (dw (on.reg .mdAckTo) 31 0) * 300
    ((let s := joins (2 ^ 63 + 5 * 2 ^ 34) .held; (join s).getLsbD 63 && !(join s).getLsbD 62 && dw (join s) 47 34 == 5 && (s.slot 9).st == .held && s.mdOf 9 (fun m => !m.initiator && !m.confirmed) == none) &&
      !(join (joins 0 .idle)).getLsbD 63 && (join (joins (3 * 2 ^ 62) .idle)).getLsbD 62 && dw (join (joins (2 ^ 63) .idle)) 47 34 != 5 && on.mdOf 9 tentative == none &&
      -- tentative: one to acknowledge, the last one, on time and late
      the (md true false false false [0] [] []) tentative && the (md true false false false [0, 6] [] []) tentative && decide (on.clk ≤ 0 + cycles) && decide (0 + cycles < ({ on with clk := cycles + 1 } : State).clk) &&
      the (md false false false false [] [] []) (fun m => !m.initiator && !m.confirmed) && decide (0 + 2 * cycles < ({ on with clk := 2 * cycles + 1 } : State).clk) &&
      [0, 5, 6].all (fun d => NSet.has (NSet.add [0, 6] 5) d) && ([0, 5, 6] : List Nat).find? (fun d => !NSet.has [0, 6] d) == some 5 &&
      -- phases
      the (md true true true false [] [0] []) (fun m => m.initiator && !m.held && !NSet.has m.raised 5) && the (md true true true false [] [0, 6] []) (fun m => m.initiator && !m.held && !NSet.has m.raised 5) &&
      the (md false true true false [] [] []) (fun m => !m.initiator && m.sentRaised) && the (md true true false true [] [] [0]) (fun m => m.initiator && m.held) && the (md true true false true [] [] [0, 6]) (fun m => m.initiator && m.held) &&
      the (md false true false true [] [] []) (fun m => !m.initiator && m.held) && (at' (md false true false true [] [] [])).launches.all (fun e => e.2.dies == [] && e.2.peerWait == []) &&
      (at' (md false true false true [] [] [])).teamList.all (fun t => t.id == 1 && t.launch == 1)) = true := by decide +kernel

end Sys2Proof.Tests
end

section
/-! The canonical form of maps, and storages written and read: every byte (R6) and every mark (R350). -/

namespace Sys2Proof.Machine

/-! ### Maps in canonical form are equal where they read alike -/

/-- Keys below the bound of a rising map are not listed. -/
theorem NMap.look_eq_none_of_above {α : Type} (m : NMap α) {b x : Nat} (h : NMap.above b m = true) (hx : x < b) : NMap.look m x = none := by
  induction m generalizing b with
  | nil => rfl
  | cons e m ih =>
    simp only [NMap.above, Bool.and_eq_true, decide_eq_true_eq] at h
    have hk : e.1 ≠ x := by omega
    simpa [NMap.look, hk] using ih h.2 (by omega)

/-- The lookups of a rising map determine it. -/
theorem NMap.ext_of_above {α : Type} (m m' : NMap α) {b b' : Nat} (h : NMap.above b m = true) (h' : NMap.above b' m' = true)
    (e : ∀ x, NMap.look m x = NMap.look m' x) : m = m' := by
  induction m generalizing m' b b' with
  | nil =>
    cases m' with
    | nil => rfl
    | cons p _ => simpa [NMap.look] using e p.1
  | cons p m ih =>
    obtain ⟨k, v⟩ := p
    cases m' with
    | nil => simpa [NMap.look] using e k
    | cons p' m' =>
      obtain ⟨k', v'⟩ := p'
      simp only [NMap.above, Bool.and_eq_true, decide_eq_true_eq] at h h'
      have low (x : Nat) (hx : x < k + 1) : NMap.look m x = none := NMap.look_eq_none_of_above m h.2 hx
      have low' (x : Nat) (hx : x < k' + 1) : NMap.look m' x = none := NMap.look_eq_none_of_above m' h'.2 hx
      have hk : k = k' := by
        rcases Nat.lt_trichotomy k k' with lt | eq | gt
        · simpa [NMap.look, Nat.ne_of_gt lt, low' k (by omega)] using e k
        · exact eq
        · simpa [NMap.look, Nat.ne_of_gt gt, low k' (by omega)] using e k'
      subst hk
      have hv : v = v' := by simpa [NMap.look] using e k
      have tails (x : Nat) : NMap.look m x = NMap.look m' x := by
        by_cases hx : k = x
        · rw [low x (by omega), low' x (by omega)]
        · simpa [NMap.look, hx] using e x
      rw [hv, ih m' h.2 h'.2 tails]

/-- What a map lists, it lists under its key. -/
theorem NMap.mem_of_look {α : Type} {m : NMap α} {x : Nat} {v : α} (h : NMap.look m x = some v) : (x, v) ∈ m := by
  induction m with
  | nil => simp [NMap.look] at h
  | cons e m ih =>
    by_cases hk : e.1 = x
    · simp only [NMap.look, hk, if_true, Option.some.injEq] at h
      simp [← hk, ← h]
    · simp only [NMap.look, hk, if_false] at h
      exact List.mem_cons_of_mem _ (ih h)

/-- A listed value of a map in canonical form is not the default, so that the values read determine the lookups. -/
theorem NMap.look_eq_of_getD_eq {α : Type} [DecidableEq α] {d : α} {m m' : NMap α} (h : NMap.wf d m = true) (h' : NMap.wf d m' = true) {x : Nat}
    (e : NMap.getD m x d = NMap.getD m' x d) : NMap.look m x = NMap.look m' x := by
  simp only [NMap.wf, Bool.and_eq_true, List.all_eq_true, decide_eq_true_eq] at h h'
  have listed (v : α) (hv : NMap.look m x = some v) : v ≠ d := h.2 _ (NMap.mem_of_look hv)
  have listed' (v : α) (hv : NMap.look m' x = some v) : v ≠ d := h'.2 _ (NMap.mem_of_look hv)
  cases hm : NMap.look m x <;> cases hm' : NMap.look m' x <;> simp only [NMap.getD, hm, hm'] at e
  · rfl
  · exact absurd e.symm (listed' _ hm')
  · exact absurd e (listed _ hm)
  · rw [e]

/-- Memories in canonical form with equal contents are equal data. -/
theorem Memory.ext_of_wf {m m' : Memory} (h : Memory.wf m = true) (h' : Memory.wf m' = true) (e : ∀ a, Memory.read m a = Memory.read m' a) : m = m' := by
  have rising (m : Memory) (h : Memory.wf m = true) : NMap.above 0 m = true := by
    simp only [Memory.wf, NMap.wf, Bool.and_eq_true] at h
    exact h.1
  exact NMap.ext_of_above m m' (rising m h) (rising m' h') (fun a => NMap.look_eq_of_getD_eq h h' (e a))

/-- A byte reads as it was last written, every other as before. -/
theorem Memory.read_write (m : Memory) (a : Nat) (b : Byte) (c : Nat) : Memory.read (Memory.write m a b) c = if c = a then b else Memory.read m c := by
  split
  case isTrue h => rw [h, Memory.read_write_same]
  case isFalse h => exact Memory.read_write_other m b h

/-! ### Marks of granules (R350) -/

/-- The granules that n bytes at a touch are those with a byte among them. -/
theorem mem_granules {a n g : Nat} : g ∈ granules a n ↔ 0 < n ∧ a < 8 * g + 8 ∧ 8 * g < a + n := by
  by_cases hn : n = 0
  · simp [granules, hn]
  · simp only [granules, hn, if_false, List.mem_map, List.mem_range]
    constructor
    · rintro ⟨i, hi, rfl⟩
      omega
    · intro h
      exact ⟨g - a / 8, by omega, by omega⟩

/-- Marks added or cleared granule by granule: of each that is listed the rule decides, the others stay. -/
theorem NSet.has_foldl (add rem : Nat → Bool) (gs : List Nat) (p : NSet) (g : Nat) :
    NSet.has (gs.foldl (fun p g => if add g then NSet.add p g else if rem g then NSet.rem p g else p) p) g =
      if g ∈ gs then add g || (NSet.has p g && !rem g) else NSet.has p g := by
  induction gs generalizing p with
  | nil => simp
  | cons k gs ih =>
    rw [List.foldl_cons, ih]
    by_cases hg : g = k
    · subst hg
      split_ifs with ha hr <;> simp_all [NSet.has_add, NSet.has_rem]
    · have step : NSet.has (if add k then NSet.add p k else if rem k then NSet.rem p k else p) g = NSet.has p g := by
        split_ifs <;> simp [NSet.has_add, NSet.has_rem, hg]
      simp [step, hg]

/-- The mark of a granule after a write: one that it touches is marked by marked data, and loses its mark to other data that covers it whole. -/
theorem Store.has_poison_write (s : Store) (a : Nat) (data : List Byte) (tag : Bool) (g : Nat) :
    NSet.has (s.write a data tag).poison g = if 0 < data.length ∧ a < 8 * g + 8 ∧ 8 * g < a + data.length
      then tag || (NSet.has s.poison g && !(decide (a ≤ 8 * g) && decide (8 * g + 8 ≤ a + data.length))) else NSet.has s.poison g := by
  have h := NSet.has_foldl (fun _ => tag) (fun g => decide (a ≤ 8 * g) && decide (8 * g + 8 ≤ a + data.length)) (granules a data.length) s.poison g
  simp only [mem_granules] at h
  exact h

end Sys2Proof.Machine

namespace Sys2Proof.Claims
open Sys2Proof.Machine

/-- Settles O40, part by part from the laws of maps, memories and storages. -/
theorem memoryReadAfterWrite : Obligations.MemoryReadAfterWrite := by
  unfold Obligations.MemoryReadAfterWrite
  refine ⟨Memory.read_write, Memory.write_wf, fun m m' => Memory.ext_of_wf, fun s a data tag => ⟨?_, ?_, ?_, ?_, ?_, ?_, ?_⟩⟩
  · exact Store.write_bytes_wf s a data tag
  · intro k hk
    rw [List.getD_eq_getElem data 0 hk]
    exact Memory.read_writeN_same s.bytes a data k hk
  · exact Store.byte_write_other s a data tag
  · exact Store.read_write s a data tag
  · intro g outside
    rw [Store.has_poison_write, if_neg (by omega)]
  · intro g after before nonempty
    rw [Store.has_poison_write, if_pos ⟨List.length_pos_of_ne_nil nonempty, after, before⟩]
  · exact Store.dword_setDword s a

end Sys2Proof.Claims
end

section
/-! What an operation leaves as it was: the front end and the registered contexts. Ending teams, passing locks, settling memory and freeing slots
register and drop no context; of one they change at most the call ring, the buffered records and the checkpoint. -/

namespace Sys2Proof.Machine

/-! ### The relation -/

/-- A context without its call ring's tail, its buffered records and its logged lines. -/
def Ctx.core (c : Ctx) : Ctx := { c with crTail := 0, buffer := [], dropped := 0, ck := c.ck.fresh c.ck.isOpen }

/-- The front end and the registered contexts stand as they were. -/
structure Stands (s s' : State) : Prop where
  front : s'.front = s.front
  ctxs : ∀ k, (s'.ctx? k).map Ctx.core = (s.ctx? k).map Ctx.core

theorem Stands.refl (s : State) : Stands s s := ⟨rfl, fun _ => rfl⟩

theorem Stands.trans {s s' s'' : State} (h : Stands s s') (h' : Stands s' s'') : Stands s s'' :=
  ⟨h'.front.trans h.front, fun k => (h'.ctxs k).trans (h.ctxs k)⟩

/-- An operation that leaves both fields. -/
theorem Stands.of_eq {s s' : State} (hf : s'.front = s.front) (hc : s'.ctxs = s.ctxs) : Stands s s' :=
  ⟨hf, fun k => by simp only [State.ctx?, hc]⟩

theorem Stands.foldl {α : Type} {f : State → α → State} (h : ∀ s x, Stands s (f s x)) (l : List α) (s : State) : Stands s (l.foldl f s) := by
  induction l generalizing s with
  | nil => exact .refl s
  | cons x l ih => exact (h s x).trans (ih _)

/-- A choice between two operations. -/
theorem Stands.ite {s a b : State} (c : Prop) [Decidable c] (ha : Stands s a) (hb : Stands s b) : Stands s (if c then a else b) := by
  split
  · exact ha
  · exact hb

theorem Stands.ctx?_eq_none {s s' : State} (h : Stands s s') {k : Nat} : s'.ctx? k = none ↔ s.ctx? k = none := by
  rw [← Option.map_eq_none_iff (f := Ctx.core), h.ctxs k, Option.map_eq_none_iff]

/-! ### Updates of a context -/

/-- An update of a context that leaves what it is registered with. -/
theorem Stands.updCtx (s : State) (c : Nat) {f : Ctx → Ctx} (h : ∀ x, (f x).core = x.core) : Stands s (s.updCtx c f) := by
  refine ⟨State.updCtx_front s c f, fun k => ?_⟩
  by_cases hk : k = c
  · rw [hk, State.updCtx_ctx?_same, Option.map_map, show Ctx.core ∘ f = Ctx.core from funext h]
  · rw [State.updCtx_ctx?_other s f hk]

/-! ### Parts of the state other than these two -/

theorem Stands.updTeam (s : State) (t : Nat) (f : Team → Team) : Stands s (s.updTeam t f) := .of_eq (State.updTeam_front s t f) (State.updTeam_ctxs s t f)
theorem Stands.updLaunch (s : State) (l : Nat) (f : Launch → Launch) : Stands s (s.updLaunch l f) :=
  .of_eq (State.updLaunch_front s l f) (State.updLaunch_ctxs s l f)
theorem Stands.updMem (s : State) (f : MemSt → MemSt) : Stands s (s.updMem f) := .of_eq rfl rfl
theorem Stands.updMgmt (s : State) (f : MgmtSt → MgmtSt) : Stands s (s.updMgmt f) := .of_eq rfl rfl
theorem Stands.updConj (s : State) (f : ConjSt → ConjSt) : Stands s (s.updConj f) := .of_eq rfl rfl
theorem Stands.updCore (s : State) (c : Nat) (f : CoreSt → CoreSt) : Stands s (s.updCore c f) := .of_eq rfl rfl
theorem Stands.updPair (s : State) (p : Nat) (f : PairSt → PairSt) : Stands s (s.updPair p f) := .of_eq rfl rfl
theorem Stands.updGroup (s : State) (l g : Nat) (f : Group → Group) : Stands s (s.updGroup l g f) := .of_eq rfl rfl
theorem Stands.updSlot (s : State) (n : Nat) (f : Slot → Slot) : Stands s (s.updSlot n f) := .of_eq rfl rfl

/-! ### Records and memory -/

theorem Stands.keepWords (s : State) (w : Writer) (ws : List (Nat × Word × Word)) : Stands s (s.keepWords w ws) :=
  .ite _ (.refl s) (.of_eq rfl rfl)

theorem Stands.hostWrite (s : State) (w : Writer) (a : Nat) (data : List Byte) : Stands s (s.hostWrite w a data) :=
  (Stands.updMem s _).trans (.keepWords _ w _)

theorem Stands.ringWrite (s : State) (c : Ctx) (r : List Byte) : Stands s (s.ringWrite c r) := by
  unfold State.ringWrite
  extract_lets a s1 s2
  have h1 : Stands s s1 := .hostWrite s none a r
  have h2 : Stands s1 s2 := .updCtx s1 c.num (fun _ => rfl)
  exact h1.trans (h2.trans (.of_eq rfl rfl))

theorem Stands.countError (s : State) (k : Nat) : Stands s (s.countError k) := .updMgmt s _

theorem Stands.record (s : State) (ctx : Nat) (r : List Byte) (team : Nat) : Stands s (s.record ctx r team) := by
  unfold State.record
  split
  · exact .countError s 0
  · refine .ite _ (.ringWrite s _ r) (.ite _ (.updCtx s ctx (fun _ => rfl)) ?_)
    refine .trans ?_ (.countError _ 1)
    exact .updCtx s ctx (fun _ => rfl)

theorem Stands.event (s : State) (ctx kind core slot low d0 d1 : Nat) : Stands s (s.event ctx kind core slot low d0 d1) := .record s ctx _ 0

theorem Stands.logLine (s : State) (w : Writer) (pa : Nat) : Stands s (s.logLine w pa) := by
  unfold State.logLine
  split
  · exact .refl s
  · split
    · exact .refl s
    · refine .ite _ (.refl s) (.ite _ (.refl s) (.ite _ ?_ (.updCtx s _ (fun _ => rfl))))
      extract_lets s1
      have h1 : Stands s s1 := .updCtx s _ (fun _ => rfl)
      exact h1.trans (.event s1 _ _ _ _ _ _ _)

theorem Stands.commitWrite (s : State) (w : Writer) (pa : Nat) (data : List Byte) (tag : Bool) : Stands s (s.commitWrite w pa data tag) := by
  unfold State.commitWrite
  extract_lets s1 s2
  have h1 : Stands s s1 := .trans (.logLine s w pa) (.logLine _ w _)
  have h2 : Stands s1 s2 := .updMem s1 _
  exact h1.trans (h2.trans (.keepWords s2 w _))

theorem Stands.invalidate (s : State) (pa n : Nat) : Stands s (s.invalidate pa n) := .of_eq rfl rfl

theorem Stands.homeWrite (s : State) (w : Writer) (pa : Nat) (data : List Byte) (tag : Bool) : Stands s (s.homeWrite w pa data tag) := by
  unfold State.homeWrite
  extract_lets s1
  have h1 : Stands s s1 := .trans (.commitWrite s w pa data tag) (.invalidate _ _ _)
  exact .ite _ (.refl s) (h1.trans (.updMem s1 _))

/-! ### Pending versions settled -/

theorem Stands.chooseBytes (offer : State → Nat → List (Writer × PByte)) (g : Nat) (s : State) : Stands s (chooseBytes offer g s).2 := by
  unfold Machine.chooseBytes
  induction List.range 8 using List.reverseRecOn with
  | nil => exact .refl s
  | append_singleton l i ih =>
    rw [List.foldl_concat]
    dsimp only
    split
    · exact ih
    · exact ih
    · exact ih.trans (.of_eq rfl rfl)

theorem Stands.settleGranule (offer : State → Nat → List (Writer × PByte)) (s : State) (g : Nat) : Stands s (s.settleGranule offer g) := by
  unfold State.settleGranule
  have chosen := Stands.chooseBytes offer g s
  generalize Machine.chooseBytes offer g s = p at chosen ⊢
  obtain ⟨got, s1⟩ := p
  have logged : Stands s (got.foldl (fun s x => s.logLine x.2.1 x.1) s1) := chosen.trans (.foldl (fun s _ => .logLine s _ _) got s1)
  cases got with
  | nil => exact logged
  | cons x xs =>
    refine (logged.trans ?_).trans (.invalidate _ _ _)
    exact .ite _ (.commitWrite _ _ _ _ _) (.foldl (fun s _ => .commitWrite s _ _ _ _) _ _)

theorem Stands.settle (s : State) (sel : Pend → Nat → Bool) (selp : PeerPend → Nat → Bool) : Stands s (s.settle sel selp) := by
  unfold State.settle
  extract_lets keys peerKeys s1
  have h1 : Stands s s1 := .foldl (.settleGranule _) _ s
  exact h1.trans (.updMem s1 _)

theorem Stands.markEarly (s : State) (sel : Pend → Nat → Bool) : Stands s (s.markEarly sel) :=
  .foldl (fun s _ => .ite _ (.updTeam s _ _) (.refl s)) _ s

theorem Stands.mergeLine (s : State) (line : Nat) : Stands s (s.mergeLine line) := .trans (.markEarly s _) (.settle _ _ _)

theorem Stands.applyPartial (s : State) (p : Partial) : Stands s (s.applyPartial p) := by
  unfold State.applyPartial
  split
  · exact .refl s
  · exact .foldl (fun s _ => .homeWrite s _ _ _ _) _ s

theorem Stands.combine (s : State) (sector : Nat) : Stands s (s.combine sector) := by
  unfold State.combine
  extract_lets mine s1
  have h1 : Stands s s1 := .trans (.mergeLine s _) (.updMem _ _)
  exact .ite _ (.refl s) (h1.trans (.foldl .applyPartial mine s1))

theorem Stands.claimLine (s : State) (line : Nat) : Stands s (s.claimLine line) :=
  .trans (.foldl (fun s i => .combine s (line / 64 + i)) (List.range 4) s) (.mergeLine _ line)

/-! ### Locks, copies, phases and barriers -/

theorem Stands.retire (s : State) (t : Nat) : Stands s (s.retire t) := .updTeam s t _

theorem Stands.freeWaiter (s : State) (t : Nat) : Stands s (s.freeWaiter t) := by
  unfold State.freeWaiter
  split
  · exact .refl s
  · exact .updCore s _ _

theorem Stands.dropLockReq (s : State) (t : Nat) : Stands s (s.dropLockReq t) := .of_eq rfl rfl

theorem Stands.lockStatus (s : State) (team status : Nat) : Stands s (s.lockStatus team status) :=
  .trans (.trans (.dropLockReq s team) (.updTeam _ team _)) (.retire _ team)

theorem Stands.send (s : State) (load : NetLoad) (flits src dst : Nat) : Stands s (s.send load flits src dst) := .of_eq rfl rfl

theorem Stands.setNextId (s : State) (n : Nat) : Stands s { s with nextId := n } := .of_eq rfl rfl

theorem Stands.passLock (s : State) (k : LineLock) (data : Store) : Stands s (s.passLock k data) := by
  unfold State.passLock
  extract_lets w home order
  have homes (s : State) : Stands s (home s) := by
    refine .foldl (fun s i => ?_) (List.range 32) s
    exact .ite _ (.refl s) (.homeWrite s w _ _ _)
  clear_value home
  split
  case h_1 => exact .trans (.updMem s _) (homes _)
  case h_2 =>
    extract_lets away k' s1 s2
    have h1 : Stands s s1 := .trans (homes s) (.updMem _ _)
    have h2 : Stands s1 s2 := .setNextId s1 _
    refine .ite _ (h1.trans h2) ((h1.trans h2).trans ?_)
    exact .trans (.trans (.freeWaiter s2 _) (.lockStatus _ _ 0)) (.send _ _ _ _ _)

theorem Stands.letGo (s : State) (t : Nat) : Stands s (s.letGo t) := .ite _ (.refl s) (.foldl (fun s k => .passLock s k k.copy) _ s)

theorem Stands.withdrawWaits (s : State) (t : Nat) : Stands s (s.withdrawWaits t) := by
  unfold State.withdrawWaits
  extract_lets s1 s2
  have h1 : Stands s s1 := .trans (.freeWaiter s t) (.dropLockReq _ t)
  have h2 : Stands s1 s2 := .updMem s1 _
  exact h1.trans (h2.trans (.foldl (fun s k => .passLock s k k.check) _ s2))

theorem Stands.releaseKey (s : State) (launch num key value : Nat) : Stands s (s.releaseKey launch num key value) := .of_eq rfl rfl

theorem Stands.sliceDone (s : State) (h status bytes : Nat) (c : Slice) : Stands s (s.sliceDone h status bytes c) := .updTeam s c.team _

theorem Stands.slicesOff (s : State) (cs : List Slice) : Stands s (s.slicesOff cs) := .foldl (fun s (c : Slice) => .retire s c.team) cs s

theorem Stands.cancelCopy (s : State) (g : Group) (h : Nat) : Stands s (s.cancelCopy g h) := by
  unfold State.cancelCopy
  split
  · exact .refl s
  · refine .ite _ ?_ (.refl s)
    extract_lets waits s1 x' s2
    have h1 : Stands s s1 := .foldl (fun s c => .sliceDone s h 2 0 c) _ s
    have h2 : Stands s1 s2 := .trans (.updGroup s1 _ _ _) (.slicesOff _ _)
    exact h1.trans (h2.trans (.trans (.releaseKey s2 _ _ _ _) (.releaseKey _ _ _ _ _)))

theorem Stands.withdrawSlices (s : State) (t : Team) : Stands s (s.withdrawSlices t) := by
  unfold State.withdrawSlices
  split
  · exact .refl s
  · exact .foldl (fun s _ => .cancelCopy s _ _) _ s

theorem Stands.rollback (s : State) (t : Team) : Stands s (s.rollback t) := .ite _ (.refl s) (.of_eq rfl rfl)

theorem Stands.stopTeam (s : State) (t : Team) (status : TeamSt) : Stands s (s.stopTeam t status).2 := by
  unfold State.stopTeam
  extract_lets told s1 s2 held s3 s4 s5 s6
  have h1 : Stands s s1 := .updTeam s _ _
  have h2 : Stands s1 s2 := .withdrawSlices s1 t
  have h3 : Stands s2 s3 := .trans (.withdrawWaits s2 t.id) (.updTeam _ _ _)
  have h4 : Stands s3 s4 := .foldl (fun s k => .passLock s k k.check) held s3
  have h5 : Stands s4 s5 := .of_eq rfl rfl
  exact h1.trans <| h2.trans <| h3.trans <| h4.trans <| h5.trans <| .trans (.retire s5 t.id) (.rollback s6 t)

theorem Stands.ownSegs (s : State) (op : Nat) (segs : List Seg) : Stands s (s.ownSegs op segs) :=
  .foldl (fun s _ => .ite _ (.refl s) (.trans (.ite _ (.claimLine s _) (.refl s)) (.updMem _ _))) _ s

theorem Stands.copyTest (s : State) (launch num h : Nat) : Stands s (s.copyTest launch num h) := by
  unfold State.copyTest
  split
  · exact .refl s
  · split
    · exact .refl s
    · refine .ite _ ?_ (.refl s)
      split
      case h_1 id s0 hs =>
        extract_lets srt first op0 op s1 s2
        have h0 : Stands s s0 := (Prod.mk.inj hs).2 ▸ .of_eq rfl rfl
        have h1 : Stands s0 s1 := .updGroup s0 launch num _
        have h2 : Stands s1 s2 := .ownSegs s1 _ _
        exact h0.trans <| h1.trans <| h2.trans (.updPair s2 _ _)

theorem Stands.phaseTest (s : State) (launch core : Nat) : Stands s (s.phaseTest launch core) := by
  unfold State.phaseTest
  split
  · exact .refl s
  · split
    · exact .refl s
    · exact .ite _ (.trans (.updMem s _) (.updLaunch _ _ _)) (.refl s)

theorem Stands.barTest (s : State) (key : Nat) (sel : Team → Bool) : Stands s (s.barTest key sel) := .ite _ (.of_eq rfl rfl) (.refl s)

theorem Stands.barriers (s : State) (launch group : Nat) : Stands s (s.barriers launch group) := .trans (.barTest s 3 _) (.barTest _ 4 _)

/-! ### Teams, launches and slots ended -/

theorem Stands.endTeam (s : State) (tid : Nat) : Stands s (s.endTeam tid) := by
  unfold State.endTeam
  split
  · exact .refl s
  case h_2 t _ =>
    extract_lets s1 s2 s3 s4 s5
    have h1 : Stands s s1 := .letGo s tid
    have h2 : Stands s1 s2 := .withdrawWaits s1 tid
    have h3 : Stands s2 s3 := .updTeam s2 tid _
    have h4 : Stands s3 s4 := .updGroup s3 _ _ _
    have h5 : Stands s4 s5 := .foldl (fun s h => .copyTest s t.launch t.group h) _ s4
    exact h1.trans <| h2.trans <| h3.trans <| h4.trans <| h5.trans <| .trans (.phaseTest s5 _ _) (.barriers _ _ _)

theorem Stands.killTeam (s : State) (t : Team) : Stands s (s.killTeam t) := by
  unfold State.killTeam
  refine .ite _ (.refl s) ?_
  split
  case h_1 locks s0 hs =>
    extract_lets stray s1
    have h0 : Stands s s0 := by simpa [hs] using Stands.stopTeam s t .stopped
    have h1 : Stands s0 s1 := .of_eq rfl rfl
    exact h0.trans <| h1.trans <| .trans (.updTeam s1 t.id _) (.endTeam _ t.id)

theorem Stands.freeGang (s : State) (launch : Nat) : Stands s (s.freeGang launch) := .foldl (fun s _ => .updCore s _ _) _ s

theorem Stands.writeReadix (s : State) (x : Slot) : Stands s (s.writeReadix x) := .homeWrite s none _ _ false

theorem Stands.freeSlot (s : State) (n : Nat) : Stands s (s.freeSlot n) := by
  unfold State.freeSlot
  exact .trans (.writeReadix s (s.slot n)) (.updSlot _ n _)

theorem Stands.slotPlaced (s : State) (n : Nat) : Stands s (s.slotPlaced n) := by
  unfold State.slotPlaced
  split
  · exact .refl s
  · refine .ite _ (.refl s) ?_
    split
    · exact .updSlot s n _
    · exact .freeSlot s n
    · exact .refl s

theorem Stands.killLaunch (s : State) (l : Launch) : Stands s (s.killLaunch l) := by
  unfold State.killLaunch
  extract_lets s1 s2
  have h1 : Stands s s1 := .trans (.foldl .killTeam _ s) (.freeGang _ l.id)
  have h2 : Stands s1 s2 := .updLaunch s1 l.id _
  exact h1.trans (h2.trans (.slotPlaced s2 l.slot))

theorem Stands.setCj (s : State) (key : Nat) (x : CjSlot) : Stands s (s.setCj key x) := .updConj s _

theorem Stands.cjCancel (s : State) (key : Nat) : Stands s (s.cjCancel key).2 := by
  unfold State.cjCancel
  split
  · exact .refl s
  · split
    · exact .setCj s key _
    · exact .setCj s key _
    · exact .refl s
    · exact .refl s

/-! ### A context destroyed (R341) -/

/-- Of a context's end only the loss of its descriptor is not in the relation. -/
theorem Stands.destroy (s : State) (ctx : Nat) : ∃ s', Stands s s' ∧ s.destroy ctx = { s' with ctxs := NMap.del s'.ctxs ctx } := by
  unfold State.destroy
  extract_lets ls s1 s2 unbind s3 s4 slots s5 ends s6
  have h1 : Stands s s1 := by
    refine .foldl (fun s l => ?_) ls s
    split
    · exact .killLaunch s _
    · exact .refl s
  have h2 : Stands s1 s2 := .foldl .cjCancel _ s1
  have h3 : Stands s2 s3 := .of_eq rfl rfl
  have h4 : Stands s3 s4 := .foldl (fun s g => .updPair s _ _) _ s3
  have h5 : Stands s4 s5 := .foldl .freeSlot slots s4
  have h6 : Stands s5 s6 := .updMgmt s5 _
  exact ⟨s6, h1.trans <| h2.trans <| h3.trans <| h4.trans <| h5.trans h6, rfl⟩

@[simp] theorem State.destroy_front (s : State) (ctx : Nat) : (s.destroy ctx).front = s.front := by
  obtain ⟨s', stands, h⟩ := Stands.destroy s ctx
  rw [h]
  exact stands.front

@[simp] theorem State.destroy_ctx?_same (s : State) (ctx : Nat) : (s.destroy ctx).ctx? ctx = none := by
  obtain ⟨s', -, h⟩ := Stands.destroy s ctx
  rw [h]
  exact NMap.look_del_same s'.ctxs ctx

/-- A context that is not registered is not registered by the end of another. -/
theorem State.destroy_ctx?_eq_none (s : State) (ctx : Nat) {k : Nat} (hk : s.ctx? k = none) : (s.destroy ctx).ctx? k = none := by
  by_cases h : k = ctx
  · rw [h, State.destroy_ctx?_same]
  · obtain ⟨s', stands, h'⟩ := Stands.destroy s ctx
    rw [h', State.ctx?, NMap.look_del_other _ h]
    exact stands.ctx?_eq_none.mpr hk

end Sys2Proof.Machine
end

section
/-! Slots freed, and the reset of a function (R383). -/

namespace Sys2Proof.Machine

/-- A fold whose steps keep a part of the state keeps it. -/
theorem foldl_keeps {α β γ : Type} (part : β → γ) {f : β → α → β} (h : ∀ b x, part (f b x) = part b) (l : List α) (b : β) : part (l.foldl f b) = part b := by
  induction l generalizing b with
  | nil => rfl
  | cons x l ih => rw [List.foldl_cons, ih, h]

/-! ### Writes by no context -/

@[simp] theorem State.keepWords_slots (s : State) (w : Writer) (ws : List (Nat × Word × Word)) : (s.keepWords w ws).slots = s.slots := by
  unfold State.keepWords; split <;> rfl
@[simp] theorem State.keepWords_ctxs (s : State) (w : Writer) (ws : List (Nat × Word × Word)) : (s.keepWords w ws).ctxs = s.ctxs := by
  unfold State.keepWords; split <;> rfl
@[simp] theorem State.keepWords_mem (s : State) (w : Writer) (ws : List (Nat × Word × Word)) : (s.keepWords w ws).mem = s.mem := by
  unfold State.keepWords; split <;> rfl

@[simp] theorem State.commitWrite_none_slots (s : State) (pa : Nat) (data : List Byte) (tag : Bool) : (s.commitWrite none pa data tag).slots = s.slots :=
  State.keepWords_slots _ _ _
@[simp] theorem State.commitWrite_none_ctxs (s : State) (pa : Nat) (data : List Byte) (tag : Bool) : (s.commitWrite none pa data tag).ctxs = s.ctxs :=
  State.keepWords_ctxs _ _ _
@[simp] theorem State.commitWrite_none_mem (s : State) (pa : Nat) (data : List Byte) (tag : Bool) :
    (s.commitWrite none pa data tag).mem = { s.mem with hbm := s.mem.hbm.write pa data tag } :=
  State.keepWords_mem _ _ _

@[simp] theorem State.invalidate_slots (s : State) (pa n : Nat) : (s.invalidate pa n).slots = s.slots := rfl

@[simp] theorem State.homeWrite_none_slots (s : State) (pa : Nat) (data : List Byte) (tag : Bool) : (s.homeWrite none pa data tag).slots = s.slots := by
  unfold State.homeWrite
  extract_lets s1
  split
  · rfl
  · rw [State.updMem_slots]
    exact (State.invalidate_slots _ _ _).trans (State.commitWrite_none_slots s pa data tag)

/-! ### Slots freed -/

/-- Freeing a slot leaves of it only its owner, and leaves the others. -/
theorem State.freeSlot_slot (s : State) (n m : Nat) : (s.freeSlot n).slot m = if m = n then { Slot.reset with owner := (s.slot n).owner } else s.slot m := by
  have written (k : Nat) : (s.writeReadix (s.slot n)).slot k = s.slot k := by simp [State.slot, State.writeReadix]
  unfold State.freeSlot
  by_cases h : m = n
  · simp [h, written]
  · simp [h, State.updSlot_slot_other, written]

/-- Freeing some slots: those are Free, the others as they were. -/
theorem State.foldl_freeSlot_slot (ns : List Nat) (s : State) (m : Nat) :
    (m ∈ ns → ((ns.foldl State.freeSlot s).slot m).st = .free) ∧ (m ∉ ns → (ns.foldl State.freeSlot s).slot m = s.slot m) := by
  induction ns generalizing s with
  | nil => simp
  | cons n ns ih =>
    obtain ⟨freed, kept⟩ := ih (s.freeSlot n)
    rw [List.foldl_cons]
    refine ⟨fun h => ?_, fun h => ?_⟩
    · by_cases hm : m ∈ ns
      · exact freed hm
      · have hn : m = n := by simpa [hm] using h
        rw [kept hm, State.freeSlot_slot, if_pos hn]
        rfl
    · rw [List.mem_cons, not_or] at h
      rw [kept h.2, State.freeSlot_slot, if_neg h.1]

/-! ### Contexts destroyed -/

/-- Contexts destroyed one after another are registered no longer, and no other has been registered. -/
theorem State.foldl_destroy_ctx? (ks : List Nat) (s : State) (k : Nat) (h : k ∈ ks ∨ s.ctx? k = none) : (ks.foldl State.destroy s).ctx? k = none := by
  induction ks generalizing s with
  | nil => simpa using h
  | cons j ks ih =>
    refine ih _ ?_
    by_cases hj : k = j
    · exact .inr (by rw [hj, State.destroy_ctx?_same])
    · rcases h with h | h
      · exact .inl (by simpa [hj] using h)
      · exact .inr (State.destroy_ctx?_eq_none s j h)

end Sys2Proof.Machine

namespace Sys2Proof.Claims
open Sys2Proof.Machine

/-- FUNCTION_LEVEL_RESET (R383): of the function no context is left, no slot but Free ones, no notify for one of its queues. -/
theorem gives_functionLevelReset (s : State) (f : Nat) : Gives (.functionLevelReset f) s (fun s' =>
    (∀ k c, s.ctx? k = some c → c.func = f → s'.ctx? k = none) ∧
    (∀ n, n < 64 → (s'.slot n).st = .free ∨ (s'.slot n).func ≠ f) ∧
    ∀ e ∈ s'.front.notifies, e ∈ s.front.notifies ∧ ∀ n, n < 64 → (s.slot n).st ≠ .free → (s.slot n).func = f → e.1 ≠ (s.slot n).map) := by
  rw [Gives, exec_functionLevelReset]
  unfold execFunctionLevelReset
  extract_lets mine queues s1 s2
  have freed : Stands s1 s2 := .foldl .freeSlot _ s1
  refine ⟨_, rfl, ?_, ?_, ?_⟩
  · intro k c hc hf
    refine freed.ctx?_eq_none.mpr (State.foldl_destroy_ctx? _ s k (.inl ?_))
    exact List.mem_map.mpr ⟨(k, c), by simpa [hf] using NMap.mem_of_look hc, rfl⟩
  · intro n hn
    obtain ⟨ofFunction, others⟩ := State.foldl_freeSlot_slot ((List.range 64).filter (mine s1)) s1 n
    by_cases hm : n ∈ (List.range 64).filter (mine s1)
    · exact .inl (ofFunction hm)
    · have slot : s2.slot n = s1.slot n := others hm
      rw [State.slot, State.updFront_slots, ← State.slot, slot]
      simpa [hn, mine, imp_iff_not_or] using hm
  · intro e he
    have front : s2.front = s.front := freed.front.trans (foldl_keeps State.front State.destroy_front _ s)
    simp only [State.updFront_front, front, List.mem_filter] at he
    refine ⟨he.1, fun n hn hst hfn heq => ?_⟩
    have listed : e.1 ∈ queues := List.mem_map.mpr ⟨n, by simp [hn, mine, hst, hfn], heq.symm⟩
    simp [listed] at he

end Sys2Proof.Claims
end

section
/-! Teams told to stop, teams saved, and the switch state of functions (R61, R62, R342). -/

namespace Sys2Proof.Machine

/-! ### The switch state of a function -/

@[simp] theorem State.funcSt_setFunc_same (s : State) (f : Nat) (x : FuncSt) : (s.setFunc f x).funcSt f = x := by
  simp [State.funcSt, State.setFunc, NMap.getD]

theorem State.funcSt_congr {s s' : State} (h : s'.mgmt.func = s.mgmt.func) (f : Nat) : s'.funcSt f = s.funcSt f := by
  simp [State.funcSt, h]

@[simp] theorem State.setFunc_ctxs (s : State) (f : Nat) (x : FuncSt) : (s.setFunc f x).ctxs = s.ctxs := rfl
@[simp] theorem State.setFunc_teams (s : State) (f : Nat) (x : FuncSt) : (s.setFunc f x).teams = s.teams := rfl
@[simp] theorem State.setFunc_launches (s : State) (f : Nat) (x : FuncSt) : (s.setFunc f x).launches = s.launches := rfl

@[simp] theorem State.setFunc_ctx? (s : State) (f : Nat) (x : FuncSt) (k : Nat) : (s.setFunc f x).ctx? k = s.ctx? k := rfl
@[simp] theorem State.setFunc_team? (s : State) (f : Nat) (x : FuncSt) (u : Nat) : (s.setFunc f x).team? u = s.team? u := rfl
/-- FUNCPRE alone is set. -/
theorem State.setFuncPre_eq (s : State) (r g : Nat) :
    s.setFuncPre r g = s.updMgmt (fun m => { m with funcPre := BitVec.ofNat 64 (r * 2 ^ 62 + g % 32) }) := rfl

@[simp] theorem State.setFuncPre_funcSt (s : State) (r g f : Nat) : (s.setFuncPre r g).funcSt f = s.funcSt f :=
  State.funcSt_congr (by rw [State.setFuncPre_eq, State.updMgmt_mgmt]) f
@[simp] theorem State.setFuncPre_ctxs (s : State) (r g : Nat) : (s.setFuncPre r g).ctxs = s.ctxs := by rw [State.setFuncPre_eq, State.updMgmt_ctxs]
@[simp] theorem State.setFuncPre_teams (s : State) (r g : Nat) : (s.setFuncPre r g).teams = s.teams := by rw [State.setFuncPre_eq, State.updMgmt_teams]
@[simp] theorem State.setFuncPre_launches (s : State) (r g : Nat) : (s.setFuncPre r g).launches = s.launches := by
  rw [State.setFuncPre_eq, State.updMgmt_launches]
@[simp] theorem State.evictFunc_funcSt (s : State) (g f : Nat) : (s.evictFunc g).funcSt f = s.funcSt f := rfl

/-- A switch that runs is its function's, and of this context. -/
theorem State.switchRuns_iff {s : State} {ctx : Nat} {c : Ctx} (hc : s.ctx? ctx = some c) :
    s.switchRuns ctx = true ↔ (s.funcSt c.func).switching = true ∧ (s.funcSt c.func).active = false ∧ (s.funcSt c.func).ctx = ctx := by
  cases h : NMap.look s.mgmt.func c.func <;> simp [State.switchRuns, State.funcSt, NMap.getD, hc, h, and_assoc]

/-- The next unit of a switch depends on the teams and on their launches. -/
theorem State.switchUnit_congr {s s' : State} (ht : s'.teams = s.teams) (hl : s'.launches = s.launches) (ctx : Nat) : s'.switchUnit ctx = s.switchUnit ctx := by
  simp [State.switchUnit, State.teamList, State.ctxOf, State.launch?, ht, hl]

/-- A switch with no unit left has ended. -/
theorem State.switchNext_of_none {s : State} {f : Nat} (h : s.switchUnit (s.funcSt f).ctx = none) :
    s.switchNext f = s.setFunc f { s.funcSt f with switching := false } := by
  simp [State.switchNext, h]

/-- A switch goes on with its next unit. -/
theorem State.switchNext_of_some {s : State} {f : Nat} {t : Team} (h : s.switchUnit (s.funcSt f).ctx = some t) :
    s.switchNext f = s.updTeam t.id (fun t => { t with victim := true }) := by
  simp [State.switchNext, h]

@[simp] theorem State.updTeam_funcSt (s : State) (t : Nat) (g : Team → Team) (f : Nat) : (s.updTeam t g).funcSt f = s.funcSt f :=
  State.funcSt_congr (congrArg MgmtSt.func (State.updTeam_mgmt s t g)) f

/-- Going on, a switch keeps its context and its count of units. -/
@[simp] theorem State.switchNext_units (s : State) (f : Nat) : ((s.switchNext f).funcSt f).units = (s.funcSt f).units := by
  cases h : s.switchUnit (s.funcSt f).ctx with
  | none => rw [State.switchNext_of_none h, State.funcSt_setFunc_same]
  | some t => rw [State.switchNext_of_some h, State.updTeam_funcSt]

@[simp] theorem State.switchNext_ctx (s : State) (f : Nat) : ((s.switchNext f).funcSt f).ctx = (s.funcSt f).ctx := by
  cases h : s.switchUnit (s.funcSt f).ctx with
  | none => rw [State.switchNext_of_none h, State.funcSt_setFunc_same]
  | some t => rw [State.switchNext_of_some h, State.updTeam_funcSt]

@[simp] theorem State.switchNext_ctxs (s : State) (f : Nat) : (s.switchNext f).ctxs = s.ctxs := by
  cases h : s.switchUnit (s.funcSt f).ctx with
  | none => simp [State.switchNext_of_none h]
  | some t => simp [State.switchNext_of_some h]

/-! ### Teams told to stop -/

/-- Of the teams selected those on the device that have not ended are victims now; the others stay. -/
theorem State.evictAll_team? (s : State) (sel : Team → Bool) (u : Nat) : (s.evictAll sel).team? u =
    (s.team? u).map (fun t => if sel t && !t.evicted && t.status != .ended then { t with victim := true } else t) := by
  rw [State.team?, State.team?, ← NMap.look_mapVal]
  congr 1
  refine List.map_congr_left (fun e _ => ?_)
  dsimp only
  split <;> rfl

/-! ### Teams saved (R62) -/

@[simp] theorem State.saveGroup_teams (s : State) (launch num : Nat) : (s.saveGroup launch num).teams = s.teams := by
  unfold State.saveGroup
  split
  · rfl
  · dsimp only
    split <;> rfl

@[simp] theorem State.saveGroup_mgmt (s : State) (launch num : Nat) : (s.saveGroup launch num).mgmt = s.mgmt := by
  unfold State.saveGroup
  split
  · rfl
  · dsimp only
    split <;> rfl

@[simp] theorem State.placeReq_mgmt (s : State) (r : Req) (w : Place) : (s.placeReq r w).mgmt = s.mgmt := by
  unfold State.placeReq
  extract_lets s1 r'
  have h1 : s1.mgmt = s.mgmt := by
    unfold s1
    split
    · exact State.updTeam_mgmt s r.team _
    · rfl
  split <;> exact h1

@[simp] theorem State.evictNow_mgmt (s : State) (t : Team) : (s.evictNow t).mgmt = s.mgmt := by
  unfold State.evictNow
  extract_lets inQueue s0 s1 s2 s3
  have h1 : s1.mgmt = s0.mgmt := foldl_keeps State.mgmt (fun s r => State.placeReq_mgmt s _ _) _ s0
  have h2 : s2.mgmt = s1.mgmt := State.updTeam_mgmt s1 t.id _
  rw [State.saveGroup_mgmt, State.updCore_mgmt, h2, h1]
  rfl

end Sys2Proof.Machine

namespace Sys2Proof.Claims
open Sys2Proof.Machine

/-! ### Registers kept -/

theorem SameRegisters.refl (t : Team) : SameRegisters t t := ⟨rfl, rfl, rfl, rfl, rfl, rfl, rfl, rfl⟩

theorem SameRegisters.trans {t u w : Team} (h : SameRegisters t u) (g : SameRegisters u w) : SameRegisters t w := by
  obtain ⟨h1, h2, h3, h4, h5, h6, h7, h8⟩ := h
  obtain ⟨g1, g2, g3, g4, g5, g6, g7, g8⟩ := g
  exact ⟨g1.trans h1, g2.trans h2, g3.trans h3, g4.trans h4, g5.trans h5, g6.trans h6, g7.trans h7, g8.trans h8⟩

/-- Every team stays with its registers, on the device or off it as it was. -/
def KeepsRegisters (s s' : State) : Prop := ∀ u t, s.team? u = some t → ∃ t', s'.team? u = some t' ∧ SameRegisters t t' ∧ t'.evicted = t.evicted

theorem KeepsRegisters.trans {s s' s'' : State} (h : KeepsRegisters s s') (h' : KeepsRegisters s' s'') : KeepsRegisters s s'' := by
  intro u t ht
  obtain ⟨t1, ht1, same1, evicted1⟩ := h u t ht
  obtain ⟨t2, ht2, same2, evicted2⟩ := h' u t1 ht1
  exact ⟨t2, ht2, same1.trans same2, evicted2.trans evicted1⟩

/-- A change of every team that leaves its registers. -/
theorem KeepsRegisters.of_map {s s' : State} (f : Nat → Team → Team) (h : ∀ u, s'.team? u = (s.team? u).map (f u))
    (hf : ∀ u t, SameRegisters t (f u t) ∧ (f u t).evicted = t.evicted) : KeepsRegisters s s' :=
  fun u t ht => ⟨f u t, by rw [h, ht, Option.map_some], hf u t⟩

theorem KeepsRegisters.of_teams {s s' : State} (h : s'.teams = s.teams) : KeepsRegisters s s' :=
  fun _ t ht => ⟨t, by rw [State.team?, h]; exact ht, .refl t, rfl⟩

theorem KeepsRegisters.foldl {α : Type} {f : State → α → State} (h : ∀ s x, KeepsRegisters s (f s x)) (l : List α) (s : State) : KeepsRegisters s (l.foldl f s) := by
  induction l generalizing s with
  | nil => exact .of_teams rfl
  | cons x l ih => exact (h s x).trans (ih _)

theorem KeepsRegisters.updTeam (s : State) (n : Nat) {f : Team → Team} (hf : ∀ t, SameRegisters t (f t) ∧ (f t).evicted = t.evicted) : KeepsRegisters s (s.updTeam n f) := by
  refine .of_map (fun u t => if u = n then f t else t) (fun u => ?_) (fun u t => ?_)
  · by_cases hu : u = n
    · simp [hu]
    · simp [hu, State.updTeam_team?_other s f hu]
  · split
    · exact hf t
    · exact ⟨.refl t, rfl⟩

theorem KeepsRegisters.evictAll (s : State) (sel : Team → Bool) : KeepsRegisters s (s.evictAll sel) := by
  refine .of_map _ (State.evictAll_team? s sel) (fun _ t => ?_)
  split
  · exact ⟨⟨rfl, rfl, rfl, rfl, rfl, rfl, rfl, rfl⟩, rfl⟩
  · exact ⟨.refl t, rfl⟩

theorem KeepsRegisters.evictFunc (s : State) (f : Nat) : KeepsRegisters s (s.evictFunc f) := .evictAll s _

theorem KeepsRegisters.setFunc (s : State) (f : Nat) (x : FuncSt) : KeepsRegisters s (s.setFunc f x) := .of_teams rfl

theorem KeepsRegisters.switchNext (s : State) (f : Nat) : KeepsRegisters s (s.switchNext f) := by
  cases h : s.switchUnit (s.funcSt f).ctx with
  | none => rw [State.switchNext_of_none h]; exact .of_teams rfl
  | some t => rw [State.switchNext_of_some h]; exact .updTeam s t.id (fun t => ⟨⟨rfl, rfl, rfl, rfl, rfl, rfl, rfl, rfl⟩, rfl⟩)

theorem KeepsRegisters.placeReq (s : State) (r : Req) (w : Place) : KeepsRegisters s (s.placeReq r w) := by
  unfold State.placeReq
  extract_lets s1 r'
  have h1 : KeepsRegisters s s1 := by
    unfold s1
    split
    · refine .updTeam s r.team (fun t => ?_)
      split
      · exact ⟨⟨rfl, rfl, rfl, rfl, rfl, rfl, rfl, rfl⟩, rfl⟩
      · exact ⟨.refl t, rfl⟩
    · exact .of_teams rfl
  split
  · exact h1.trans (.of_teams rfl)
  · exact h1.trans (.of_teams rfl)

/-- A team saved is off the device, its registers as they were. -/
theorem evictNow_team? {s : State} {t : Team} (h : s.team? t.id = some t) : ∃ t', (s.evictNow t).team? t.id = some t' ∧ SameRegisters t t' ∧ t'.evicted = true := by
  unfold State.evictNow
  extract_lets inQueue s0 s1 s2 s3
  have bounced : KeepsRegisters s s1 := .trans (.of_teams rfl) (.foldl (fun s _ => .placeReq s _ _) _ s0)
  obtain ⟨t1, ht1, same, -⟩ := bounced t.id t h
  refine ⟨{ t1 with evicted := true, victim := false }, ?_, same.trans ⟨rfl, rfl, rfl, rfl, rfl, rfl, rfl, rfl⟩, rfl⟩
  rw [State.team?, State.saveGroup_teams, State.updCore_teams, ← State.team?, State.updTeam_team?_same, ht1, Option.map_some]

/-! ### The switch of a guest (R342) -/

/-- The state in which a context's switch has begun, none of its units taken yet. -/
def switchBegun (s : State) (f ctx : Nat) : State :=
  (s.setFunc f { s.funcSt f with switching := true, ctx := ctx, units := 0 }).updCtx ctx (fun c => { c with switching := true })

theorem switchBegun_mgmt (s : State) (f ctx : Nat) :
    (switchBegun s f ctx).mgmt = (s.setFunc f { s.funcSt f with switching := true, ctx := ctx, units := 0 }).mgmt := State.updCtx_mgmt _ _ _

@[simp] theorem switchBegun_funcSt (s : State) (f ctx : Nat) :
    (switchBegun s f ctx).funcSt f = { s.funcSt f with switching := true, ctx := ctx, units := 0 } := by
  rw [State.funcSt_congr (congrArg MgmtSt.func (switchBegun_mgmt s f ctx)), State.funcSt_setFunc_same]

@[simp] theorem switchBegun_team? (s : State) (f ctx u : Nat) : (switchBegun s f ctx).team? u = s.team? u := by
  rw [State.team?, switchBegun, State.updCtx_teams]
  rfl

@[simp] theorem switchBegun_switchUnit (s : State) (f ctx : Nat) : (switchBegun s f ctx).switchUnit ctx = s.switchUnit ctx :=
  State.switchUnit_congr (State.updCtx_teams _ _ _) (State.updCtx_launches _ _ _) ctx

theorem switchBegun_ctx? {s : State} {f ctx : Nat} {c : Ctx} (hc : s.ctx? ctx = some c) : (switchBegun s f ctx).ctx? ctx = some { c with switching := true } := by
  rw [switchBegun, State.updCtx_ctx?_same, State.setFunc_ctx?, hc, Option.map_some]

/-- VFSWITCH is taken with START set, where the function runs and switches nothing. -/
theorem execVfswitchWrite_taken {s : State} {v : DWord} {c : Ctx} (hc : s.ctx? (dw v 15 0) = some c) (start : v.getLsbD 63 = true)
    (run : (s.funcSt c.func).preempted = false) (idle : (s.funcSt c.func).switching = false) :
    execVfswitchWrite v s = .next ((switchBegun s c.func (dw v 15 0)).switchNext c.func) := by
  simp only [execVfswitchWrite, hc, start, run, idle, Bool.not_true, Bool.false_eq_true, if_false, switchBegun]

/-- VFSWITCH taken: the context is being switched off, its first unit told to stop; without a unit the switch has ended. -/
theorem gives_vfswitchWrite {s : State} {v : DWord} {c : Ctx} (hc : s.ctx? (dw v 15 0) = some c) (start : v.getLsbD 63 = true)
    (run : (s.funcSt c.func).preempted = false) (idle : (s.funcSt c.func).switching = false) :
    Gives (.vfswitchWrite v) s (fun s' => s'.ctx? (dw v 15 0) = some { c with switching := true } ∧
      (s.switchUnit (dw v 15 0) = none → s'.funcSt c.func = { s.funcSt c.func with switching := false, ctx := dw v 15 0, units := 0 }) ∧
      ∀ t, s.switchUnit (dw v 15 0) = some t → s.team? t.id = some t →
        s'.funcSt c.func = { s.funcSt c.func with switching := true, ctx := dw v 15 0, units := 0 } ∧ s'.team? t.id = some { t with victim := true }) := by
  refine ⟨_, execVfswitchWrite_taken hc start run idle, ?_, ?_, ?_⟩
  · rw [State.ctx?, State.switchNext_ctxs]
    exact switchBegun_ctx? hc
  · intro none
    rw [State.switchNext_of_none (by simpa using none)]
    simp
  · intro t unit ht
    rw [State.switchNext_of_some (t := t) (by simpa using unit)]
    simp [ht]

/-- SWITCH_UNIT_COMMIT of a unit that is ready (R342): it is saved and counted; where the function has been pre-empted meanwhile the cursor is saved. -/
theorem gives_switchUnitCommit {s : State} {ctx : Nat} {c : Ctx} {t : Team} (hc : s.ctx? ctx = some c) (runs : s.switchRuns ctx = true)
    (unit : s.switchUnit ctx = some t) (ht : s.team? t.id = some t) (victim : t.victim = true) (ready : s.evictReady t = true) :
    Gives (.switchUnitCommit ctx) s (fun s' => (s'.funcSt c.func).units = (s.funcSt c.func).units + 1 ∧ (s'.funcSt c.func).ctx = ctx ∧
      ((s.funcSt c.func).preempted = true → (s'.funcSt c.func).switching = true ∧ (s'.funcSt c.func).active = true) ∧
      ∃ t', s'.team? t.id = some t' ∧ t'.evicted = true ∧ SameRegisters t t') := by
  obtain ⟨switching, -, ofCtx⟩ := (State.switchRuns_iff hc).mp runs
  obtain ⟨t1, ht1, same1, evicted⟩ := evictNow_team? ht
  -- what comes after the unit is saved leaves it as it is
  have saved (s' : State) (h : KeepsRegisters (s.evictNow t) s') : ∃ t', s'.team? t.id = some t' ∧ t'.evicted = true ∧ SameRegisters t t' := by
    obtain ⟨t2, ht2, same2, same⟩ := h t.id t1 ht1
    exact ⟨t2, ht2, same.trans evicted, same1.trans same2⟩
  rw [Gives, exec_switchUnitCommit]
  simp only [execSwitchUnitCommit, hc, runs, unit, victim, ready, Bool.not_true, Bool.false_eq_true, if_false, if_true]
  refine ⟨_, rfl, ?_⟩
  split
  case isTrue preempted =>
    refine ⟨?_, ?_, fun _ => ?_, saved _ (.trans (.setFunc _ _ _) (.evictFunc _ _))⟩
    · simp
    · simp [ofCtx]
    · simp [switching]
  case isFalse preempted =>
    refine ⟨?_, ?_, fun h => absurd h preempted, saved _ (.trans (.setFunc _ _ _) (.switchNext _ _))⟩
    · simp
    · simp [ofCtx]

/-! ### A function pre-empted and restored (R342) -/

/-- FUNC_PREEMPT taken: a switch that is under way goes on; without one every team of the function on the device is told to stop. -/
theorem gives_funcPreempt {s : State} {f : Nat} (nonzero : f ≠ 0) (small : f ≤ 16) (run : (s.funcSt f).preempted = false) :
    Gives (.funcPreempt f) s (fun s' => s'.funcSt f = { s.funcSt f with preempted := true } ∧
      ((s.funcSt f).switching = true → s'.teams = s.teams) ∧
      ((s.funcSt f).switching = false → ∀ u t c, s.team? u = some t → s.ctx? (s.ctxOf t.launch) = some c →
        s'.team? u = some (if c.func = f ∧ t.evicted = false ∧ t.status ≠ .ended then { t with victim := true } else t))) := by
  rw [Gives, exec_funcPreempt]
  have taken : (f == 0 || decide (16 < f) || (s.funcSt f).preempted) = false := by simp [nonzero, small, run]
  simp only [execFuncPreempt, taken, Bool.false_eq_true, if_false]
  refine ⟨_, rfl, ?_, ?_, ?_⟩
  · split <;> simp
  · intro switching
    simp [switching]
  · intro idle u t c ht hc
    have team (x : FuncSt) : ((s.setFunc f x).setFuncPre 0 f).team? u = some t := by simpa [State.team?] using ht
    have ofCtx (x : FuncSt) : ((s.setFunc f x).setFuncPre 0 f).ctx? (((s.setFunc f x).setFuncPre 0 f).ctxOf t.launch) = some c := by
      simpa [State.ctx?, State.ctxOf, State.launch?] using hc
    rw [if_neg (by simp [idle]), State.evictFunc, State.evictAll_team?, team]
    simp [ofCtx, and_assoc]

/-- FUNC_RESTORE taken: the rest of an interrupted switch counts as committed. -/
theorem gives_funcRestore {s : State} {f : Nat} (held : (s.funcSt f).preempted = true) (done : s.preempting f = false) :
    Gives (.funcRestore f) s (fun s' => s'.teams = s.teams ∧ s'.funcSt f =
      { s.funcSt f with switching := false, preempted := false, active := false, units := (s.funcSt f).units + (s.funcSt f).left, left := 0 }) := by
  rw [Gives, exec_funcRestore]
  simp only [execFuncRestore, held, done, Bool.not_true, Bool.or_false, Bool.false_eq_true, if_false]
  exact ⟨_, rfl, by simp, by simp⟩

end Sys2Proof.Claims
end

section
/-! Checkpoints (R360-R362): a logged line restored, run by run of one mark. -/

namespace Sys2Proof.Machine

/-! ### Data written by runs -/

/-- A write of two pieces that follow each other is the write of both. -/
theorem Memory.writeN_append (m : Memory) (a : Nat) (bs cs : List Byte) : Memory.writeN m a (bs ++ cs) = Memory.writeN (Memory.writeN m a bs) (a + bs.length) cs := by
  induction bs generalizing m a with
  | nil => rfl
  | cons b bs ih =>
    rw [List.cons_append, Memory.writeN, ih, Memory.writeN, List.length_cons]
    congr 1
    omega

/-- The runs of data that begins at an address begin there. -/
theorem markRuns_head {a b : Nat} {d : List (Byte × Bool)} {bs : List Byte} {m : Bool} {rs : List (Nat × List Byte × Bool)}
    (h : markRuns a d = (b, bs, m) :: rs) : b = a := by
  cases d with
  | nil => simp [markRuns] at h
  | cons e d =>
    simp only [markRuns] at h
    split at h
    · simp_all
    · split at h <;> simp_all

/-- The runs of some data, written one after another, are the data. -/
theorem writeN_markRuns (d : List (Byte × Bool)) (a : Nat) (mem : Memory) :
    (markRuns a d).foldl (fun m r => Memory.writeN m r.1 r.2.1) mem = Memory.writeN mem a (bytesOf d) := by
  induction d generalizing a mem with
  | nil => rfl
  | cons e d ih =>
    obtain ⟨b, m⟩ := e
    have rest := ih (a + 1) (Memory.write mem a b)
    simp only [markRuns]
    split
    case h_1 none =>
      rw [none] at rest
      exact rest
    case h_2 a' bs m' rs runs =>
      rw [runs, markRuns_head runs] at rest
      split
      · exact rest
      · exact (markRuns_head runs) ▸ rest

/-! ### A line restored -/

/-- Runs committed by no context: the contexts and the pending versions stand, the bytes are written. -/
theorem foldl_commitWrite (rs : List (Nat × List Byte × Bool)) (s : State) :
    let s' := rs.foldl (fun (s : State) r => s.commitWrite none r.1 r.2.1 r.2.2) s
    s'.ctxs = s.ctxs ∧ s'.mem.pend = s.mem.pend ∧ s'.mem.hbm.bytes = rs.foldl (fun m r => Memory.writeN m r.1 r.2.1) s.mem.hbm.bytes := by
  induction rs generalizing s with
  | nil => exact ⟨rfl, rfl, rfl⟩
  | cons r rs ih =>
    have step := ih (s.commitWrite none r.1 r.2.1 r.2.2)
    simp only [State.commitWrite_none_ctxs, State.commitWrite_none_mem] at step
    exact step

theorem State.invalidate_ctxs (s : State) (pa n : Nat) : (s.invalidate pa n).ctxs = s.ctxs := rfl
theorem State.invalidate_pend (s : State) (pa n : Nat) : (s.invalidate pa n).mem.pend = s.mem.pend := rfl
theorem State.invalidate_hbm (s : State) (pa n : Nat) : (s.invalidate pa n).mem.hbm = s.mem.hbm := rfl

/-- A logged line restored: the contexts and the pending versions stand, the line's bytes are those of the log. -/
theorem restoreLine_spec (s : State) (e : Nat × List Byte × List Nat) :
    (s.restoreLine e).ctxs = s.ctxs ∧ (s.restoreLine e).mem.pend = s.mem.pend ∧ (s.restoreLine e).mem.hbm.bytes = Memory.writeN s.mem.hbm.bytes e.1 e.2.1 := by
  unfold State.restoreLine
  extract_lets data
  have bytes : bytesOf data = e.2.1 := by simp [bytesOf, data, Function.comp_def]
  obtain ⟨ctxs, pend, hbm⟩ := foldl_commitWrite (markRuns e.1 data) s
  rw [State.invalidate_ctxs, State.invalidate_pend, State.invalidate_hbm]
  exact ⟨ctxs, pend, by rw [hbm, writeN_markRuns, bytes]⟩

/-- Lines restored one after another. -/
theorem foldl_restoreLine (log : List (Nat × List Byte × List Nat)) (s : State) :
    (log.foldl State.restoreLine s).ctxs = s.ctxs ∧ (log.foldl State.restoreLine s).mem.pend = s.mem.pend ∧
    (log.foldl State.restoreLine s).mem.hbm.bytes = log.foldl (fun m e => Memory.writeN m e.1 e.2.1) s.mem.hbm.bytes := by
  induction log generalizing s with
  | nil => exact ⟨rfl, rfl, rfl⟩
  | cons e log ih =>
    obtain ⟨ctxs, pend, bytes⟩ := restoreLine_spec s e
    obtain ⟨ctxs', pend', bytes'⟩ := ih (s.restoreLine e)
    exact ⟨ctxs'.trans ctxs, pend'.trans pend, by rw [List.foldl_cons, bytes', bytes, List.foldl_cons]⟩

/-- Whole lines written: a byte of no line reads as before. -/
theorem read_foldl_writeN_other (log : List (Nat × List Byte × List Nat)) (m : Memory) (a : Nat)
    (whole : ∀ e ∈ log, e.1 % 256 = 0 ∧ e.2.1.length = 256) (other : ∀ e ∈ log, e.1 ≠ a / 256 * 256) :
    Memory.read (log.foldl (fun m e => Memory.writeN m e.1 e.2.1) m) a = Memory.read m a := by
  induction log generalizing m with
  | nil => rfl
  | cons e log ih =>
    obtain ⟨line, length⟩ := whole e List.mem_cons_self
    have apart := other e List.mem_cons_self
    rw [List.foldl_cons, ih _ (fun x hx => whole x (List.mem_cons_of_mem _ hx)) (fun x hx => other x (List.mem_cons_of_mem _ hx)),
      Memory.read_writeN_other _ _ _ _ (by omega)]

/-- Whole lines written, each once: a byte of one reads as that line has it. -/
theorem read_foldl_writeN_same (log : List (Nat × List Byte × List Nat)) (m : Memory) (once : (log.map Prod.fst).Nodup)
    (whole : ∀ e ∈ log, e.1 % 256 = 0 ∧ e.2.1.length = 256) {e : Nat × List Byte × List Nat} (he : e ∈ log) {i : Nat} (hi : i < 256) :
    Memory.read (log.foldl (fun m e => Memory.writeN m e.1 e.2.1) m) (e.1 + i) = e.2.1.getD i 0 := by
  induction log generalizing m with
  | nil => simp at he
  | cons x log ih =>
    rw [List.map_cons, List.nodup_cons] at once
    have whole' (y : Nat × List Byte × List Nat) (hy : y ∈ log) := whole y (List.mem_cons_of_mem _ hy)
    rw [List.foldl_cons]
    rcases List.mem_cons.mp he with rfl | he'
    · obtain ⟨line, length⟩ := whole e List.mem_cons_self
      have once' (y : Nat × List Byte × List Nat) (hy : y ∈ log) : y.1 ≠ (e.1 + i) / 256 * 256 := by
        have : y.1 ≠ e.1 := fun h => once.1 (h ▸ List.mem_map_of_mem hy)
        omega
      rw [read_foldl_writeN_other log _ _ whole' once', Memory.read_writeN_same _ _ _ i (by omega), List.getD_eq_getElem]
    · exact ih _ once.2 whole' he'

/-! ### What a command leaves in CKCTL -/

/-- CKCTL alone is set. -/
theorem State.ckDone_eq (s : State) (op result ctx : Nat) :
    s.ckDone op result ctx = s.updMgmt (fun m => { m with ckCtl := BitVec.ofNat 64 (op * 2 ^ 61 + result * 2 ^ 59 + ctx % 65536) }) := rfl

@[simp] theorem State.ckDone_ctx? (s : State) (op result ctx k : Nat) : (s.ckDone op result ctx).ctx? k = s.ctx? k := by
  rw [State.ckDone_eq, State.ctx?, State.updMgmt_ctxs]
  rfl
@[simp] theorem State.ckDone_mem (s : State) (op result ctx : Nat) : (s.ckDone op result ctx).mem = s.mem := by
  rw [State.ckDone_eq, State.updMgmt_mem]

end Sys2Proof.Machine

namespace Sys2Proof.Claims
open Sys2Proof.Machine

/-- The management registers once a checkpoint command has ended. -/
def ckEnded (s : State) (ctx op result : Nat) : MgmtSt := { s.mgmt with ckCtl := BitVec.ofNat 64 (op * 2 ^ 61 + result * 2 ^ 59 + ctx % 65536) }

theorem ckDone_mgmt {s s1 : State} (h : s1.mgmt = s.mgmt) (op result ctx : Nat) : (s1.ckDone op result ctx).mgmt = ckEnded s ctx op result := by
  rw [State.ckDone_eq, State.updMgmt_mgmt, h, ckEnded]

/-- A command that sets the interval of a context, and nothing of memory. -/
theorem ckDone_updCtx {s : State} {ctx : Nat} {c : Ctx} (hc : s.ctx? ctx = some c) (f : Ctx → Ctx) (op result : Nat) :
    let s' := (s.updCtx ctx f).ckDone op result ctx
    s'.ctx? ctx = some (f c) ∧ s'.mgmt = ckEnded s ctx op result ∧ s'.mem = s.mem := by
  refine ⟨?_, ckDone_mgmt (State.updCtx_mgmt s ctx f) op result ctx, ?_⟩
  · rw [State.ckDone_ctx?, State.updCtx_ctx?_same, hc, Option.map_some]
  · rw [State.ckDone_mem, State.updCtx_mem]

/-- CK_OPEN (R360, R361). -/
theorem gives_ckOpen {s : State} {ctx : Nat} {c : Ctx} (hc : s.ctx? ctx = some c) : Gives (.ckOpen ctx) s (fun s' =>
    s'.ctx? ctx = some { c with ck := c.ck.fresh true } ∧ s'.mgmt = ckEnded s ctx 1 0 ∧ s'.mem = s.mem) := by
  rw [Gives, exec_ckOpen]
  simp only [execCkOpen, hc]
  exact ⟨_, rfl, ckDone_updCtx hc _ 1 0⟩

/-- CK_CLOSE with no interval open (R360). -/
theorem gives_ckClose_closed {s : State} {ctx : Nat} {c : Ctx} (hc : s.ctx? ctx = some c) (closed : c.ck.isOpen = false) :
    Gives (.ckClose ctx) s (fun s' => s' = { s with mgmt := ckEnded s ctx 3 3 }) := by
  rw [Gives, exec_ckClose]
  simp only [execCkClose, hc, closed, Bool.not_false, if_true]
  exact ⟨_, rfl, rfl⟩

/-- CK_CLOSE (R360, R361). -/
theorem gives_ckClose {s : State} {ctx : Nat} {c : Ctx} (hc : s.ctx? ctx = some c) (opened : c.ck.isOpen = true) : Gives (.ckClose ctx) s (fun s' =>
    s'.ctx? ctx = some { c with ck := c.ck.fresh false } ∧ s'.mgmt = ckEnded s ctx 3 0 ∧ s'.mem = s.mem) := by
  rw [Gives, exec_ckClose]
  simp only [execCkClose, hc, opened, Bool.not_true, Bool.false_eq_true, if_false]
  exact ⟨_, rfl, ckDone_updCtx hc _ 3 0⟩

/-- CK_ROLLBACK refused (R362): result 1 while the context runs, 3 with no interval open, 2 where the log has overflowed. -/
theorem gives_ckRollback_refused {s : State} {ctx : Nat} {c : Ctx} (hc : s.ctx? ctx = some c) {result : Nat}
    (h : (c.halted = false ∧ result = 1) ∨ (c.halted = true ∧ c.ck.isOpen = false ∧ result = 3) ∨
      (c.halted = true ∧ c.ck.isOpen = true ∧ c.ck.overflowed = true ∧ result = 2)) :
    Gives (.ckRollback ctx) s (fun s' => s' = { s with mgmt := ckEnded s ctx 2 result }) := by
  refine ⟨s.ckDone 2 result ctx, ?_, rfl⟩
  rw [exec_ckRollback]
  rcases h with ⟨runs, rfl⟩ | ⟨halted, closed, rfl⟩ | ⟨halted, opened, full, rfl⟩
  · simp [execCkRollback, hc, runs]
  · simp [execCkRollback, hc, halted, closed]
  · simp [execCkRollback, hc, halted, opened, full]

/-- CK_ROLLBACK (R362): the context's pending versions go, every logged line reads as it was logged, and every other byte as before. -/
theorem gives_ckRollback {s : State} {ctx : Nat} {c : Ctx} (hc : s.ctx? ctx = some c) (halted : c.halted = true) (opened : c.ck.isOpen = true)
    (room : c.ck.overflowed = false) (once : (c.ck.log.map Prod.fst).Nodup) (whole : ∀ e ∈ c.ck.log, e.1 % 256 = 0 ∧ e.2.1.length = 256) :
    Gives (.ckRollback ctx) s (fun s' => s'.mgmt.ckCtl = (ckEnded s ctx 2 0).ckCtl ∧ (∃ c', s'.ctx? ctx = some c' ∧ c'.ck.isOpen = true ∧ c'.ck.log = []) ∧
      (∀ p, p ∈ s'.mem.pend ↔ p ∈ s.mem.pend ∧ s.ctxOf p.launch ≠ ctx) ∧
      (∀ e ∈ c.ck.log, ∀ i, i < 256 → s'.mem.hbm.bytes.read (e.1 + i) = e.2.1.getD i 0) ∧
      ∀ a, (∀ e ∈ c.ck.log, e.1 ≠ a / 256 * 256) → s'.mem.hbm.bytes.read a = s.mem.hbm.bytes.read a) := by
  rw [Gives, exec_ckRollback]
  simp only [execCkRollback, hc, halted, opened, room, Bool.not_true, Bool.false_eq_true, if_false]
  generalize hs1 : State.updMem s _ = s1
  have ctxs1 : s1.ctxs = s.ctxs := by rw [← hs1, State.updMem_ctxs]
  have pend1 : s1.mem.pend = s.mem.pend.filter (fun p => s.ctxOf p.launch != ctx) := by rw [← hs1, State.updMem_mem]
  have bytes1 : s1.mem.hbm.bytes = s.mem.hbm.bytes := by rw [← hs1, State.updMem_mem]
  obtain ⟨ctxs2, pend2, bytes2⟩ := foldl_restoreLine c.ck.log s1
  generalize c.ck.log.foldl State.restoreLine s1 = s2 at ctxs2 pend2 bytes2 ⊢
  have ctx2 : s2.ctx? ctx = some c := by rw [State.ctx?, ctxs2, ctxs1]; exact hc
  refine ⟨_, rfl, ?_, ⟨{ c with ck := c.ck.fresh true }, ?_, rfl, rfl⟩, ?_, ?_, ?_⟩
  · rw [State.ckDone_eq, State.updMgmt_mgmt, ckEnded]
  · rw [State.ckDone_ctx?, State.updCtx_ctx?_same, ctx2, Option.map_some]
  · intro p
    rw [State.ckDone_mem, State.updCtx_mem, pend2, pend1]
    simp
  · intro e he i hi
    rw [State.ckDone_mem, State.updCtx_mem, bytes2]
    exact read_foldl_writeN_same c.ck.log _ once whole he hi
  · intro a other
    rw [State.ckDone_mem, State.updCtx_mem, bytes2, bytes1]
    exact read_foldl_writeN_other c.ck.log _ a whole other

end Sys2Proof.Claims
end

section
/-! Management registers written (R9): the bits that are not reserved, limits clamped, and where each register is kept. -/

namespace Sys2Proof.Machine

/-! ### Fields of a word -/

theorem dw_testBit (x : DWord) (hi lo j : Nat) : (dw x hi lo).testBit j = (decide (j < hi - lo + 1) && x.getLsbD (lo + j)) := by
  rw [dw, bitsN, Nat.testBit_mod_two_pow, Nat.testBit_div_two_pow, BitVec.testBit_toNat, Nat.add_comm j lo]

theorem dw_lt (x : DWord) (hi lo : Nat) : dw x hi lo < 2 ^ (hi - lo + 1) := Nat.mod_lt _ (Nat.two_pow_pos _)

/-- Whether fields (high, low) stand below a bit one under the other. -/
def fieldsBelow : Nat → List (Nat × Nat) → Bool
  | _, [] => true
  | b, (hi, lo) :: fs => decide (hi < b) && decide (lo ≤ hi) && fieldsBelow lo fs

theorem regFields_below (r : MReg) : fieldsBelow 64 (regFields r) = true := by cases r <;> rfl

/-- The fields of a value, each in its place. -/
def inPlace (v : DWord) (fs : List (Nat × Nat)) : Nat := (fs.map (fun f => dw v f.1 f.2 * 2 ^ f.2)).sum

theorem unreserved_eq (r : MReg) (v : DWord) : unreserved r v = BitVec.ofNat 64 (inPlace v (regFields r)) := by
  rw [unreserved, inPlace, List.sum_eq_foldl, List.foldl_map]

theorem inPlace_lt {b : Nat} {fs : List (Nat × Nat)} (v : DWord) (h : fieldsBelow b fs = true) : inPlace v fs < 2 ^ b := by
  induction fs generalizing b with
  | nil => exact Nat.two_pow_pos b
  | cons f fs ih =>
    obtain ⟨hi, lo⟩ := f
    simp only [fieldsBelow, Bool.and_eq_true, decide_eq_true_eq] at h
    obtain ⟨⟨below, order⟩, rest⟩ := h
    calc inPlace v ((hi, lo) :: fs) = dw v hi lo * 2 ^ lo + inPlace v fs := rfl
      _ < dw v hi lo * 2 ^ lo + 2 ^ lo := Nat.add_lt_add_left (ih rest) _
      _ = (dw v hi lo + 1) * 2 ^ lo := (Nat.succ_mul _ _).symm
      _ ≤ 2 ^ (hi - lo + 1) * 2 ^ lo := Nat.mul_le_mul_right _ (dw_lt v hi lo)
      _ = 2 ^ (hi + 1) := by rw [← Nat.pow_add]; congr 1; omega
      _ ≤ 2 ^ b := Nat.pow_le_pow_right (by decide) below

theorem lt_of_fieldsBelow {b : Nat} {fs : List (Nat × Nat)} (h : fieldsBelow b fs = true) {e : Nat × Nat} (he : e ∈ fs) : e.1 < b := by
  induction fs generalizing b with
  | nil => simp at he
  | cons f fs ih =>
    simp only [fieldsBelow, Bool.and_eq_true, decide_eq_true_eq] at h
    obtain ⟨⟨below, order⟩, rest⟩ := h
    rcases List.mem_cons.mp he with rfl | he
    · exact below
    · have := ih rest he
      omega

/-- Of a value's fields in their places a bit is the value's where it lies in a field, else 0. -/
theorem inPlace_testBit {b : Nat} {fs : List (Nat × Nat)} (v : DWord) (h : fieldsBelow b fs = true) (i : Nat) :
    (inPlace v fs).testBit i = (v.getLsbD i && fs.any (fun e => decide (e.2 ≤ i) && decide (i ≤ e.1))) := by
  induction fs generalizing b with
  | nil => simp [inPlace]
  | cons f fs ih =>
    obtain ⟨hi, lo⟩ := f
    simp only [fieldsBelow, Bool.and_eq_true, decide_eq_true_eq] at h
    obtain ⟨⟨below, order⟩, rest⟩ := h
    have split : inPlace v ((hi, lo) :: fs) = 2 ^ lo * dw v hi lo + inPlace v fs := by rw [Nat.mul_comm]; rfl
    rw [split, Nat.testBit_two_pow_mul_add _ (inPlace_lt v rest), List.any_cons]
    by_cases hlo : i < lo
    · rw [if_pos hlo, ih rest, decide_eq_false (by omega : ¬ lo ≤ i), Bool.false_and, Bool.false_or]
    · have none : fs.any (fun e => decide (e.2 ≤ i) && decide (i ≤ e.1)) = false := by
        refine List.any_eq_false.mpr (fun e he => ?_)
        have := lt_of_fieldsBelow rest he
        simp
        omega
      have width : decide (i - lo < hi - lo + 1) = decide (i ≤ hi) := by
        rw [decide_eq_decide]
        omega
      rw [if_neg hlo, dw_testBit, width, none, decide_eq_true (by omega : lo ≤ i), show lo + (i - lo) = i by omega, Bool.true_and, Bool.or_false, Bool.and_comm]

/-- A register keeps of a value the bits that are not reserved. -/
theorem unreserved_getLsbD (r : MReg) (v : DWord) (i : Nat) :
    (unreserved r v).getLsbD i = (v.getLsbD i && (regFields r).any (fun e => decide (e.2 ≤ i) && decide (i ≤ e.1))) := by
  rw [unreserved_eq, BitVec.getLsbD_ofNat, inPlace_testBit v (regFields_below r)]
  by_cases hi : i < 64
  · simp [hi]
  · simp [hi, BitVec.getLsbD_of_ge v i (by omega)]

/-- A part of a field that is not reserved reads as it was written. -/
theorem dw_unreserved {r : MReg} {h l : Nat} (field : (h, l) ∈ regFields r) (v : DWord) {hi lo : Nat} (order : lo ≤ hi) (low : l ≤ lo) (high : hi ≤ h) :
    dw (unreserved r v) hi lo = dw v hi lo := by
  refine Nat.eq_of_testBit_eq (fun j => ?_)
  rw [dw_testBit, dw_testBit, unreserved_getLsbD]
  by_cases hj : j < hi - lo + 1
  · have inField : (regFields r).any (fun e => decide (e.2 ≤ lo + j) && decide (lo + j ≤ e.1)) = true :=
      List.any_eq_true.mpr ⟨(h, l), field, by simp; omega⟩
    rw [inField, Bool.and_true]
  · simp [hj]

/-- A register with one field, from bit 0, holds that field. -/
theorem unreserved_toNat {r : MReg} {hi : Nat} (field : regFields r = [(hi, 0)]) (v : DWord) : (unreserved r v).toNat = dw v hi 0 := by
  have below := regFields_below r
  have value : inPlace v [(hi, 0)] = dw v hi 0 := by simp [inPlace]
  rw [field] at below
  rw [unreserved_eq, field, BitVec.toNat_ofNat, value, Nat.mod_eq_of_lt]
  exact value ▸ inPlace_lt v below

theorem dw_all (v : DWord) : dw v 63 0 = v.toNat := by
  simp only [dw, bitsN, Nat.pow_zero, Nat.div_one]
  exact Nat.mod_eq_of_lt v.isLt

/-! ### Registers as they are kept -/

@[simp] theorem State.setReg_ctx? (s : State) (r : MReg) (v : DWord) (k : Nat) : (s.setReg r v).ctx? k = s.ctx? k := rfl
@[simp] theorem State.setReg_mem (s : State) (r : MReg) (v : DWord) : (s.setReg r v).mem = s.mem := rfl
@[simp] theorem State.setReg_teams (s : State) (r : MReg) (v : DWord) : (s.setReg r v).teams = s.teams := rfl

/-- A limit from 64 to 4,096 is read back. -/
theorem State.holdLimit_setReg (s : State) (c : Fin 6) (n : Nat) : (s.setReg (.holdLim c) (BitVec.ofNat 64 (clampHold n))).holdLimit c = clampHold n := by
  have high : clampHold n ≤ 4096 := by unfold clampHold; omega
  rw [State.holdLimit, State.setReg_reg_same, dw, bitsN, BitVec.toNat_ofNat]
  omega

end Sys2Proof.Machine

namespace Sys2Proof.Claims
open Sys2Proof.Machine

/-- A write that stores a value in a register and does nothing else. -/
theorem gives_setReg {s : State} {r : MReg} {v y : DWord} (h : execRegisterWrite r v s = .next (s.setReg r y)) :
    Gives (.registerWrite r v) s (fun s' => s'.reg r = y ∧ { s' with mgmt := { s'.mgmt with regs := s.mgmt.regs } } = s) :=
  ⟨s.setReg r y, h, State.setReg_reg_same s r y, rfl⟩

/-- An update of a context changes neither memory nor a team. -/
theorem updCtx_spec {s s1 : State} {ctx : Nat} {c : Ctx} (hc : s1.ctx? ctx = some c) (mem : s1.mem = s.mem) (teams : s1.teams = s.teams) (f : Ctx → Ctx) :
    (s1.updCtx ctx f).ctx? ctx = some (f c) ∧ (s1.updCtx ctx f).mem = s.mem ∧ (s1.updCtx ctx f).teams = s.teams :=
  ⟨by rw [State.updCtx_ctx?_same, hc, Option.map_some], (State.updCtx_mem _ _ _).trans mem, (State.updCtx_teams _ _ _).trans teams⟩

/-- HOLDLIM (R285). -/
theorem gives_holdLim (s : State) (c : Fin 6) (v : DWord) : Gives (.registerWrite (.holdLim c) v) s (fun s' =>
    s'.holdLimit c = max 64 (min 4096 (dw v 12 0)) ∧ s'.mem = s.mem ∧ s'.teams = s.teams) := by
  refine ⟨_, rfl, ?_, rfl, rfl⟩
  rw [State.holdLimit_setReg, unreserved_toNat (r := .holdLim c) rfl, clampHold]

/-- FYLNK (R372): the window clamped to 64 to 1,024. -/
theorem gives_fyLnk (s : State) (p : Fin 8) (v : DWord) : Gives (.registerWrite (.fyLnk p) v) s (fun s' =>
    s'.reg (.fyLnk p) = BitVec.ofNat 64 (dw v 47 32 * 2 ^ 32 + max 64 (min 1024 (dw v 10 0))) ∧ { s' with mgmt := { s'.mgmt with regs := s.mgmt.regs } } = s) := by
  have timeout : dw (unreserved (.fyLnk p) v) 47 32 = dw v 47 32 := dw_unreserved (h := 47) (l := 32) (by simp [regFields]) v (by decide) (by decide) (by decide)
  have window : dw (unreserved (.fyLnk p) v) 10 0 = dw v 10 0 := dw_unreserved (h := 10) (l := 0) (by simp [regFields]) v (by decide) (by decide) (by decide)
  rw [← timeout, ← window]
  exact gives_setReg rfl

/-- DBGCTL (R9): extending the measurement leaves the contexts. -/
theorem gives_dbgCtl {s : State} {ctx : Nat} {c : Ctx} (hc : s.ctx? ctx = some c) (v : DWord) : Gives (.registerWrite (.dbgCtl ctx) v) s (fun s' =>
    s'.ctx? ctx = some { c with dbg := unreserved (.dbgCtl ctx) v } ∧ s'.mem = s.mem ∧ s'.teams = s.teams) := by
  rw [Gives, exec_registerWrite]
  simp only [execRegisterWrite, hc]
  refine ⟨_, rfl, ?_⟩
  split
  · exact updCtx_spec hc rfl rfl _
  · exact updCtx_spec hc rfl rfl _

/-- CKLOG (R360) names its context in bits 63 to 48. -/
theorem gives_ckLog {s : State} {ctx : Nat} {c : Ctx} (hc : s.ctx? ctx = some c) {v : DWord} (names : dw v 63 48 = ctx) :
    Gives (.registerWrite .ckLog v) s (fun s' =>
      s'.ctx? ctx = some { c with ck := { c.ck with offset := dw v 47 32, size := dw v 31 16, en := v.getLsbD 0 } } ∧ s'.mem = s.mem ∧ s'.teams = s.teams) := by
  have field {hi lo : Nat} (order : lo ≤ hi) (low : 16 ≤ lo) (high : hi ≤ 63) : dw (unreserved .ckLog v) hi lo = dw v hi lo :=
    dw_unreserved (h := 63) (l := 16) (by simp [regFields]) v order low high
  have enabled : (unreserved .ckLog v).getLsbD 0 = v.getLsbD 0 := by
    rw [unreserved_getLsbD, show (regFields .ckLog).any _ = true from rfl, Bool.and_true]
  rw [← names, ← field (hi := 63) (lo := 48) (by decide) (by decide) (by decide)] at hc ⊢
  rw [← field (hi := 47) (lo := 32) (by decide) (by decide) (by decide), ← field (hi := 31) (lo := 16) (by decide) (by decide) (by decide), ← enabled]
  exact ⟨_, rfl, updCtx_spec ((State.setReg_ctx? s _ _ _).trans hc) (State.setReg_mem s _ _) (State.setReg_teams s _ _) _⟩

/-- L2VERCFG (R280) takes 2 to 8 ways while no context is registered. -/
theorem gives_l2VerCfg {s : State} {v : DWord} (low : 2 ≤ (unreserved .l2VerCfg v).toNat) (high : (unreserved .l2VerCfg v).toNat ≤ 8) (idle : s.ctxs = []) :
    Gives (.registerWrite .l2VerCfg v) s (fun s' =>
      s'.reg .l2VerCfg = unreserved .l2VerCfg v ∧ { s' with mgmt := { s'.mgmt with regs := s.mgmt.regs } } = s) := by
  refine gives_setReg ?_
  have taken : (decide ((unreserved .l2VerCfg v).toNat < 2) || decide (8 < (unreserved .l2VerCfg v).toNat) || !s.ctxs.isEmpty) = false := by
    simp [Nat.not_lt.mpr low, high, idle]
  simp only [execRegisterWrite, taken, Bool.false_eq_true, if_false]

theorem exec_l2VerCfg_refused {s : State} {v : DWord} (h : (unreserved .l2VerCfg v).toNat < 2 ∨ 8 < (unreserved .l2VerCfg v).toNat ∨ s.ctxs ≠ []) :
    exec (.registerWrite .l2VerCfg v) s = .next s := by
  have refused : (decide ((unreserved .l2VerCfg v).toNat < 2) || decide (8 < (unreserved .l2VerCfg v).toNat) || !s.ctxs.isEmpty) = true := by
    simpa [or_assoc] using h
  rw [exec_registerWrite]
  simp only [execRegisterWrite, refused, if_true]

/-! ### Writes and events that change nothing -/

/-- VFSWITCH without START, or of a function that is switching (R342). -/
theorem exec_vfswitchWrite_ignored {s : State} {v : DWord} {c : Ctx} (hc : s.ctx? (dw v 15 0) = some c)
    (h : v.getLsbD 63 = false ∨ (v.getLsbD 63 = true ∧ (s.funcSt c.func).preempted = false ∧ (s.funcSt c.func).switching = true)) :
    exec (.vfswitchWrite v) s = .next s := by
  rw [exec_vfswitchWrite]
  rcases h with off | ⟨start, run, busy⟩
  · simp only [execVfswitchWrite, hc, off, Bool.not_false, if_true]
  · simp only [execVfswitchWrite, hc, start, run, busy, Bool.not_true, Bool.false_eq_true, if_false, if_true]

/-- VFSWITCH of a function that has been pre-empted is ignored and counted (R342). -/
theorem gives_vfswitchWrite_counted {s : State} {v : DWord} {c : Ctx} (hc : s.ctx? (dw v 15 0) = some c) (start : v.getLsbD 63 = true)
    (held : (s.funcSt c.func).preempted = true) : Gives (.vfswitchWrite v) s (fun s' => Counted s s' 7) := by
  refine ⟨s.countError 7, ?_, ?_, rfl⟩
  · rw [exec_vfswitchWrite]
    simp only [execVfswitchWrite, hc, start, held, Bool.not_true, Bool.false_eq_true, if_false, if_true]
  · rw [State.countError, State.updMgmt_mgmt, NMap.getD_set_same]

/-- A unit commits only while its switch runs, and only once it can be saved (R342). -/
theorem exec_switchUnitCommit_waits {s : State} {ctx : Nat} {c : Ctx} (hc : s.ctx? ctx = some c)
    (h : s.switchRuns ctx = false ∨ ∃ t, s.switchRuns ctx = true ∧ s.switchUnit ctx = some t ∧ t.victim = true ∧ s.evictReady t = false) :
    exec (.switchUnitCommit ctx) s = .next s := by
  rw [exec_switchUnitCommit]
  rcases h with idle | ⟨t, runs, unit, victim, waits⟩
  · simp only [execSwitchUnitCommit, hc, idle, Bool.not_false, if_true]
  · simp only [execSwitchUnitCommit, hc, runs, unit, victim, waits, Bool.not_true, Bool.false_eq_true, if_false]

/-- FUNC_PREEMPT of no guest, or of one that has been pre-empted (R342). -/
theorem exec_funcPreempt_ignored {s : State} {f : Nat} (h : f = 0 ∨ 16 < f ∨ (s.funcSt f).preempted = true) : exec (.funcPreempt f) s = .next s := by
  rw [exec_funcPreempt, execFuncPreempt, if_pos (by simpa [or_assoc] using h)]

/-- FUNC_RESTORE of a function that runs, or that is still being pre-empted (R342). -/
theorem exec_funcRestore_ignored {s : State} {f : Nat} (h : (s.funcSt f).preempted = false ∨ s.preempting f = true) : exec (.funcRestore f) s = .next s := by
  rw [exec_funcRestore, execFuncRestore, if_pos (by simpa using h)]

/-- The registers that keep what is written to them and have no other effect. -/
theorem gives_plainRegister (s : State) (v : DWord) (n16 : Fin 16) (n64 : Fin 64) (n4 : Fin 4) (die : Fin 2) {r : MReg}
    (h : r ∈ [MReg.xlinvAddr, .fyWin n16, .fyCtr die, .fyE2e, .fyRtBase, .mctBase, .mdJoin n64, .mdList n64, .mdAckTo, .scrubCfg n4, .errLog n4]) :
    Gives (.registerWrite r v) s (fun s' => s'.reg r = unreserved r v ∧ { s' with mgmt := { s'.mgmt with regs := s.mgmt.regs } } = s) := by
  refine gives_setReg ?_
  simp only [List.mem_cons, List.not_mem_nil, or_false] at h
  rcases h with rfl | rfl | rfl | rfl | rfl | rfl | rfl | rfl | rfl | rfl | rfl <;> rfl

/-- The registers of a context (R9, R80, R252, R360). -/
theorem gives_ctxRegister {s : State} {ctx : Nat} {c : Ctx} (hc : s.ctx? ctx = some c) (v : DWord) (die : Fin 2) :
    let gives (r : MReg) (c' : Ctx) : Prop := Gives (.registerWrite r v) s (fun s' => s'.ctx? ctx = some c' ∧ s'.mem = s.mem ∧ s'.teams = s.teams)
    gives (.crBase ctx) { c with crBase := unreserved (.crBase ctx) v } ∧ gives (.crHead ctx) { c with crHead := v.toNat } ∧
    gives (.crTag ctx) { c with crTag := v.toNat } ∧ gives (.cjRange ctx die) { c with cjRange := NMap.set 0 c.cjRange die.val (unreserved (.cjRange ctx die) v) } := by
  have head : (unreserved (.crHead ctx) v).toNat = v.toNat := (unreserved_toNat rfl v).trans (dw_all v)
  have tag : (unreserved (.crTag ctx) v).toNat = v.toNat := (unreserved_toNat rfl v).trans (dw_all v)
  refine ⟨⟨_, rfl, updCtx_spec hc rfl rfl _⟩, ?_, ?_, ⟨_, rfl, updCtx_spec hc rfl rfl _⟩⟩
  · rw [← head]
    exact ⟨_, rfl, updCtx_spec hc rfl rfl _⟩
  · rw [← tag]
    exact ⟨_, rfl, updCtx_spec hc rfl rfl _⟩

/-- PGRHEAD (R346). -/
theorem gives_pgrHead (s : State) (v : DWord) : Gives (.registerWrite .pgrHead v) s (fun s' => s' = { s with front := { s.front with pgrHead := v.toNat } }) := by
  rw [← dw_all, ← unreserved_toNat (r := .pgrHead) rfl]
  exact ⟨_, rfl, rfl⟩

/-- A function's level floor (R64). -/
theorem gives_levelFloor (s : State) (g : Fin 17) (v : DWord) :
    Gives (.registerWrite (.levelFloor g) v) s (fun s' => NMap.getD s'.front.floor g.val 0 = dw v 1 0 ∧ { s' with front := s.front } = s) := by
  refine ⟨_, rfl, ?_, rfl⟩
  rw [← unreserved_toNat (r := .levelFloor g) rfl, State.updFront_front, NMap.getD_set_same]

/-- Settles O57: the switch of a guest and its units, functions pre-empted, restored and reset, checkpoints, registers. -/
theorem functionEvents : Obligations.FunctionEvents := by
  unfold Obligations.FunctionEvents
  intro s f ctx v x
  refine ⟨fun c hc => ⟨?_, gives_vfswitchWrite_counted hc, ?_, gives_vfswitchWrite hc⟩, fun c hc => ⟨?_, fun t runs unit ht victim => ⟨?_, ?_⟩⟩,
    ⟨exec_funcPreempt_ignored, gives_funcPreempt, exec_funcRestore_ignored, gives_funcRestore, gives_functionLevelReset s f⟩, ?_⟩
  · exact fun off => exec_vfswitchWrite_ignored hc (.inl off)
  · exact fun start run busy => exec_vfswitchWrite_ignored hc (.inr ⟨start, run, busy⟩)
  · exact fun idle => exec_switchUnitCommit_waits hc (.inl idle)
  · exact fun waits => exec_switchUnitCommit_waits hc (.inr ⟨t, runs, unit, victim, waits⟩)
  · exact gives_switchUnitCommit hc runs unit ht victim
  intro ctl
  refine ⟨fun c hc => ⟨gives_ckOpen hc, gives_ckClose_closed hc, gives_ckClose hc, ?_, ?_, ?_, gives_ckRollback hc⟩, ?_⟩
  · exact fun runs => gives_ckRollback_refused hc (.inl ⟨runs, rfl⟩)
  · exact fun halted closed => gives_ckRollback_refused hc (.inr (.inl ⟨halted, closed, rfl⟩))
  · exact fun halted opened full => gives_ckRollback_refused hc (.inr (.inr ⟨halted, opened, full, rfl⟩))
  intro kept
  refine ⟨fun r i _ => unreserved_getLsbD r v i, fun n16 n64 n4 die r => gives_plainRegister s v n16 n64 n4 die, gives_l2VerCfg, exec_l2VerCfg_refused,
    fun c => gives_holdLim s c v, fun p => gives_fyLnk s p v, fun c die hc => ?_, ⟨_, rfl, rfl⟩, gives_pgrHead s v, fun g => gives_levelFloor s g v⟩
  obtain ⟨base, head, tag, range⟩ := gives_ctxRegister hc v die
  exact ⟨base, head, tag, gives_dbgCtl hc v, range, gives_ckLog hc⟩

end Sys2Proof.Claims
end

section
/-! What every instruction of a fragment checks as it issues (R34, R118, R131, R336). -/

namespace Sys2Proof.Machine

/-! ### The frame of every instruction -/

/-- Every instruction of a fragment runs in the one frame, around a body of its own. -/
theorem exec_eq_run {i : Instr} (h : i.isEvent = false) (s : State) : ∃ body, exec i s = run i s body := by
  unfold exec
  cases i <;> cases h <;> exact ⟨_, rfl⟩

variable {s : State} {iss : Issue} {i : Instr} (body : Issue → State → Eff)

/-- A fault that the decode checks find is taken (R131). -/
theorem run_of_dynFault {c : Nat} (issue : issueOf s = some iss) (bad : dynFault iss i = some c) :
    run i s body = .next (takeFault s iss.tid iss.entry c 0 0 0) := by
  simp [run, issue, bad]

/-- A register that is still to be written is waited for (R34). -/
theorem run_of_pending (issue : issueOf s = some iss) (legal : dynFault iss i = none) (pending : regsPending s iss i = true) :
    run i s body = .next (block s iss .pending) := by
  simp [run, issue, legal, pending]

/-- A third error of the datapath is counted and faults (R336). -/
theorem run_of_upsets (issue : issueOf s = some iss) (legal : dynFault iss i = none) (clear : regsPending s iss i = false) (third : 3 ≤ s.upsets) :
    run i s body = .next (takeFault ({ s with upsets := 0 }.countError 2) iss.tid iss.entry 9 0 0 0) := by
  simp [run, issue, legal, clear, third]

/-- An odd register where a pair is needed is found first (R118, R131). -/
theorem dynFault_of_odd (odd : i.spans.any (spanOdd iss.ty) = true) : dynFault iss i = some 1 := by
  simp only [dynFault, odd, if_true]

theorem dynFault_of_out (even : i.spans.any (spanOdd iss.ty) = false) (out : i.spans.any (spanOut iss.ty iss.team.k) = true) :
    dynFault iss i = some 2 := by
  simp only [dynFault, even, out, Bool.false_eq_true, if_false, if_true]

end Sys2Proof.Machine

namespace Sys2Proof.Claims
open Sys2Proof.Machine

/-- Settles O37: what the frame of every instruction does before its body. -/
theorem issueChecks : Obligations.IssueChecks := by
  unfold Obligations.IssueChecks
  intro i s iss instruction issue
  obtain ⟨body, frame⟩ := exec_eq_run instruction s
  rw [frame]
  refine ⟨fun odd => ?_, fun even out => ?_, fun legal pending => ?_, fun legal clear third => ?_⟩
  · exact run_of_dynFault body issue (dynFault_of_odd odd)
  · exact run_of_dynFault body issue (dynFault_of_out even out)
  · exact run_of_pending body issue legal pending
  · exact ⟨{ s with upsets := 0 }.countError 2, rfl, rfl, rfl, run_of_upsets body issue legal clear third⟩

end Sys2Proof.Claims
end

section
/-! Fragments at their joins (R30, R32): where a fragment parks, and what the last one to arrive leaves. -/

namespace Sys2Proof.Machine

/-! ### Parts of a rising map -/

theorem NMap.above_filter {α : Type} (p : Nat × α → Bool) (m : NMap α) {b : Nat} (h : NMap.above b m = true) : NMap.above b (m.filter p) = true := by
  induction m generalizing b with
  | nil => rfl
  | cons e m ih =>
    simp only [NMap.above, Bool.and_eq_true, decide_eq_true_eq] at h
    by_cases he : p e = true
    · simp [he, NMap.above, h.1, ih h.2]
    · simpa [he] using NMap.above_mono _ (ih h.2) (by omega)

/-- A key of the part of a rising map whose values have a property. -/
theorem NMap.look_filter {α : Type} (p : α → Bool) (m : NMap α) {b : Nat} (h : NMap.above b m = true) (x : Nat) :
    NMap.look (m.filter (fun e => p e.2)) x = (NMap.look m x).filter p := by
  induction m generalizing b with
  | nil => rfl
  | cons e m ih =>
    obtain ⟨k, v⟩ := e
    simp only [NMap.above, Bool.and_eq_true, decide_eq_true_eq] at h
    by_cases hk : k = x
    · subst hk
      have rest : NMap.look (m.filter (fun e => p e.2)) k = none := NMap.look_eq_none_of_above _ (NMap.above_filter _ m h.2) (Nat.lt_succ_self k)
      by_cases hv : p v = true <;> simp [NMap.look, Option.filter_some, hv, rest]
    · by_cases hv : p v = true <;> simp [NMap.look, hv, hk, ih h.2]

/-- The part of a rising map that has two keys. -/
theorem NMap.filter_eq_pair {α : Type} {p : α → Bool} {m : NMap α} {a c : Nat} {x y : α} (h : NMap.above 0 m = true) (hac : a < c)
    (ha : NMap.look m a = some x) (hc : NMap.look m c = some y) (px : p x = true) (py : p y = true)
    (others : ∀ k v, k ≠ a → k ≠ c → NMap.look m k = some v → p v = false) : m.filter (fun e => p e.2) = [(a, x), (c, y)] := by
  have pair : NMap.above 0 [(a, x), (c, y)] = true := by simp [NMap.above, hac]
  refine NMap.ext_of_above _ _ (NMap.above_filter _ m h) pair (fun k => ?_)
  rw [NMap.look_filter p m h]
  by_cases hka : k = a
  · simp [hka, ha, px, NMap.look]
  · by_cases hkc : k = c
    · simp [hkc, hc, py, NMap.look, Nat.ne_of_lt hac]
    · have unlisted : NMap.look [(a, x), (c, y)] k = none := by simp [NMap.look, Ne.symm hka, Ne.symm hkc]
      cases hv : NMap.look m k with
      | none => simp [unlisted]
      | some v => simp [unlisted, others k v hka hkc hv]

/-! ### Serial records of other fragments -/

theorem Team.readySt_of_none {t : Team} {e : Nat} (h : topSerial t e = none) : t.readySt e = .ready := by simp [Team.readySt, h]

/-- A fragment without serial records has none to hand over. -/
theorem serial_handedOver {t : Team} {k : Nat} (h : topSerial t k = none) (e : Nat) :
    t.serial.map (fun x => if k == x.entry then { x with entry := e } else x) = t.serial := by
  have others : ∀ r ∈ t.serial, ¬ (r.entry == k) = true := List.find?_eq_none.mp h
  refine (List.map_congr_left fun r hr => ?_).trans (List.map_id _)
  have hk : ¬ (k == r.entry) = true := fun hk => others r hr (beq_iff_eq.mpr (beq_iff_eq.mp hk).symm)
  rw [if_neg hk, id]

/-! ### Arriving at a join -/

/-- The team whose fragment parks at its join. -/
def Team.park (t : Team) (e : Nat) (f : Fragment) (r : Join) : Team :=
  { t.setFrag e { f with st := .parked, clause := none } with joins := NMap.put t.joins f.join { r with arrived := r.arrived + 1 } }

/-- A fragment whose PC has reached its join parks there, and the join is tested. -/
theorem Team.settle_parks {t t' : Team} {e : Nat} {f : Fragment} {r : Join} {o : Option Nat} (n : Nat) (hf : t.frag? e = some f) (hm : f.mask ≠ 0)
    (hs : topSerial t e = none) (hj : NMap.look t.joins f.join = some r) (there : f.pc = r.addr) (stands : f.st ≠ .parked)
    (tested : (t.park e f r).joinTest f.join = (t', o)) : Team.settle (n + 1) t e = o.elim t' (Team.settle n t') := by
  have lanes : (f.mask == 0) = false := beq_eq_false_iff_ne.mpr hm
  have parks : (f.pc == r.addr && f.st != .parked) = true := by simp [there, stands]
  unfold Team.settle
  simp only [hf, hs, lanes, hj, parks, Option.filter_none, Bool.false_eq_true, if_false, if_true]
  split
  case h_1 fused e' test =>
    cases tested.symm.trans test
    rfl
  case h_2 waits test =>
    cases tested.symm.trans test
    rfl

/-- A join that waits for more fragments. -/
theorem Team.joinTest_waits {t : Team} {j : Nat} {r : Join} (hj : NMap.look t.joins j = some r) (some' : r.arrived ≠ 0) (waits : r.arrived ≠ r.expected) :
    t.joinTest j = (t, none) := by
  simp [Team.joinTest, hj, some', waits]

/-- The fragment that goes on from a join, in the place of one of two that are parked there. -/
def Fragment.fuse (f g : Fragment) (r : Join) (st : FragSt) : Fragment :=
  { f with st := st, pc := r.addr, join := r.outer, sig := 0, clause := none, latch := .none, mask := f.mask ||| g.mask, age := max f.age g.age }

/-- Whether a fragment is parked at a join. -/
def Fragment.parkedAt (j : Nat) (f : Fragment) : Bool := f.join == j && f.st == .parked

/-- The team whose two fragments parked at a join have been fused in the lower entry. -/
def Team.fuse (t : Team) (j e : Nat) (f g : Fragment) (r : Join) : Team :=
  { t with frags := NMap.put (t.frags.filter (fun x => !x.2.parkedAt j)) e (f.fuse g r .ready), joins := NMap.del t.joins j }

/-- A join at which both fragments that it expects are parked fuses them. -/
theorem Team.joinTest_fuses {t : Team} {j e k : Nat} {f g : Fragment} {r : Join} (hj : NMap.look t.joins j = some r) (some' : r.arrived ≠ 0)
    (all : r.arrived = r.expected) (two : t.frags.filter (fun x => x.2.parkedAt j) = [(e, f), (k, g)]) (he : topSerial t e = none) (hk : topSerial t k = none) :
    t.joinTest j = (t.fuse j e f g r, some e) := by
  have expected : r.expected ≠ 0 := all ▸ some'
  have ready : t.readySt e = .ready := Team.readySt_of_none he
  simp only [Fragment.parkedAt] at two
  simp only [Team.joinTest, hj, all, two, List.any_cons, List.any_nil, Bool.or_false, serial_handedOver hk e, List.foldl_cons, List.foldl_nil]
  simp [expected, Team.fuse, Fragment.fuse, Fragment.parkedAt, ready]

@[simp] theorem Team.fuse_frag?_same (t : Team) (j e : Nat) (f g : Fragment) (r : Join) : (t.fuse j e f g r).frag? e = some (f.fuse g r .ready) :=
  NMap.look_put_same _ e _

/-- Every other fragment stays unless it was parked at the join. -/
theorem Team.fuse_frag?_other {t : Team} (rising : NMap.above 0 t.frags = true) (j : Nat) {e x : Nat} (f g : Fragment) (r : Join) (hx : x ≠ e) :
    (t.fuse j e f g r).frag? x = (t.frag? x).filter (fun f => !f.parkedAt j) :=
  (NMap.look_put_other _ _ hx).trans (NMap.look_filter (fun f : Fragment => !f.parkedAt j) t.frags rising x)

/-- A fragment that is the last of two to arrive at its join is fused with the other, and the fused one, which has no join any more, stays there. -/
theorem Team.settle_fuses {t : Team} {e a c : Nat} {f x y : Fragment} {r : Join} (n : Nat) (hf : t.frag? e = some f) (hm : f.mask ≠ 0)
    (hs : topSerial t e = none) (hj : NMap.look t.joins f.join = some r) (there : f.pc = r.addr) (stands : f.st ≠ .parked)
    (all : r.arrived + 1 = r.expected) (two : (t.park e f r).frags.filter (fun x => x.2.parkedAt f.join) = [(a, x), (c, y)])
    (ha : topSerial t a = none) (hc : topSerial t c = none) (lanes : x.mask ||| y.mask ≠ 0)
    (outer : NMap.look t.joins r.outer = none) (inner : r.outer ≠ f.join) : Team.settle (n + 1) t e = (t.park e f r).fuse f.join a x y r := by
  have parked : NMap.look (t.park e f r).joins f.join = some { r with arrived := r.arrived + 1 } := NMap.look_put_same _ _ _
  have test := Team.joinTest_fuses parked (Nat.succ_ne_zero _) all two ha hc
  have serial : topSerial ((t.park e f r).fuse f.join a x y r) a = none := ha
  have noJoin : NMap.look ((t.park e f r).fuse f.join a x y r).joins r.outer = none :=
    (NMap.look_del_other _ inner).trans ((NMap.look_put_other _ _ inner).trans outer)
  refine (Team.settle_parks n hf hm hs hj there stands test).trans ?_
  refine Team.settle_still n _ a (x.fuse y r .ready) (Team.fuse_frag?_same _ _ _ _ _ _) lanes (fun q hq => ?_) (fun _ q hq => ?_)
  · exact absurd (serial.symm.trans hq) (Option.some_ne_none q).symm
  · exact absurd (noJoin.symm.trans hq) (Option.some_ne_none q).symm

/-! ### Moving to a join -/

/-- The fragment f moved to an address (R113, R143). -/
def Fragment.movedTo (f : Fragment) (pc : Nat) : Fragment :=
  { f with pc := pc, sig := 0, clause := none, st := .ready, latch := .none, starve := 0, yielded := f.yielded || f.yields }

theorem Team.goto_eq {t : Team} {e : Nat} {f : Fragment} (hf : t.frag? e = some f) (hs : topSerial t e = none) (pc : Nat) :
    t.goto e pc = Team.settle settleFuel (t.setFrag e (f.movedTo pc)) e := by
  unfold Team.goto
  rw [hf, Team.readySt_of_none hs]
  rfl

theorem Team.setFrag_setFrag (t : Team) (e : Nat) (f g : Fragment) : (t.setFrag e f).setFrag e g = t.setFrag e g := by
  simp only [Team.setFrag, NMap.put_put]

/-- A fragment that moves to a place that is not its join's only moves. -/
theorem Team.goto_elsewhere {t : Team} {e pc : Nat} {f : Fragment} (hf : t.frag? e = some f) (hm : f.mask ≠ 0) (hs : topSerial t e = none)
    (elsewhere : ∀ r, NMap.look t.joins f.join = some r → pc ≠ r.addr) : t.goto e pc = t.setFrag e (f.movedTo pc) := by
  refine (Team.goto_still t e pc f hf hm (fun r hr => ?_) (fun _ => elsewhere)).trans ?_
  · exact absurd (hs.symm.trans hr) (Option.some_ne_none r).symm
  · rw [Team.readySt_of_none hs]
    rfl

theorem Fragment.movedTo_stands (f : Fragment) (pc : Nat) : (f.movedTo pc).st ≠ .parked := by simp [Fragment.movedTo]

theorem Team.setFrag_park (t : Team) (e : Nat) (g f : Fragment) (r : Join) : (t.setFrag e g).park e f r = t.park e f r := by
  rw [Team.park, Team.setFrag_setFrag]
  rfl

/-- A fragment that moves to its join while others are still to arrive parks there. -/
theorem Team.goto_parks {t : Team} {e : Nat} {f : Fragment} {r : Join} (hf : t.frag? e = some f) (hm : f.mask ≠ 0) (hs : topSerial t e = none)
    (hj : NMap.look t.joins f.join = some r) (waits : r.arrived + 1 ≠ r.expected) : t.goto e r.addr = t.park e (f.movedTo r.addr) r := by
  have parked : NMap.look (t.park e (f.movedTo r.addr) r).joins f.join = some { r with arrived := r.arrived + 1 } := NMap.look_put_same _ _ _
  have test := Team.joinTest_waits parked (Nat.succ_ne_zero _) waits
  rw [← Team.setFrag_park t e (f.movedTo r.addr)] at test ⊢
  rw [Team.goto_eq hf hs]
  exact Team.settle_parks (f := f.movedTo r.addr) 199 (Team.setFrag_frag?_same _ _ _) hm hs hj rfl (f.movedTo_stands _) test

/-- A fragment that moves to its join as the last of two: x and y, in entries a and c, are parked there then, and are fused. -/
theorem Team.goto_fuses {t : Team} {e a c : Nat} {f x y : Fragment} {r : Join} (hf : t.frag? e = some f) (hm : f.mask ≠ 0) (hs : topSerial t e = none)
    (hj : NMap.look t.joins f.join = some r) (all : r.arrived + 1 = r.expected) (rising : NMap.above 0 t.frags = true) (hac : a < c)
    (hx : (t.park e (f.movedTo r.addr) r).frag? a = some x) (hy : (t.park e (f.movedTo r.addr) r).frag? c = some y)
    (px : x.parkedAt f.join = true) (py : y.parkedAt f.join = true)
    (others : ∀ k v, k ≠ a → k ≠ c → (t.park e (f.movedTo r.addr) r).frag? k = some v → v.parkedAt f.join = false)
    (ha : topSerial t a = none) (hc : topSerial t c = none) (lanes : x.mask ||| y.mask ≠ 0)
    (outer : NMap.look t.joins r.outer = none) (inner : r.outer ≠ f.join) : t.goto e r.addr = (t.park e (f.movedTo r.addr) r).fuse f.join a x y r := by
  have two : (t.park e (f.movedTo r.addr) r).frags.filter (fun x => x.2.parkedAt f.join) = [(a, x), (c, y)] :=
    NMap.filter_eq_pair (NMap.above_put t.frags _ rising (Nat.zero_le e)) hac hx hy px py others
  rw [← Team.setFrag_park t e (f.movedTo r.addr)] at two ⊢
  rw [Team.goto_eq hf hs]
  exact Team.settle_fuses 199 (Team.setFrag_frag?_same _ _ _) hm hs hj rfl (f.movedTo_stands _) all two ha hc lanes outer inner

end Sys2Proof.Machine

namespace Sys2Proof.Claims
open Sys2Proof.Machine

/-- What the fusion at a join leaves of a team in which the fragments x of entry a and y of entry c, and no others, were parked there. -/
theorem fuse_leaves {t : Team} {j a c : Nat} {x y : Fragment} (r : Join) (rising : NMap.above 0 t.frags = true) (hac : a < c)
    (hy : t.frag? c = some y) (py : y.parkedAt j = true) (others : ∀ k v, k ≠ a → k ≠ c → t.frag? k = some v → v.parkedAt j = false) :
    (t.fuse j a x y r).frag? a = some (x.fuse y r .ready) ∧ (t.fuse j a x y r).frag? c = none ∧ NMap.look (t.fuse j a x y r).joins j = none ∧
      ∀ k, k ≠ a → k ≠ c → (t.fuse j a x y r).frag? k = t.frag? k := by
  refine ⟨Team.fuse_frag?_same _ _ _ _ _ _, ?_, NMap.look_del_same _ _, fun k ka kc => ?_⟩
  · rw [Team.fuse_frag?_other rising j x y r (Nat.ne_of_gt hac), hy, Option.filter_some, py]
    rfl
  · rw [Team.fuse_frag?_other rising j x y r ka]
    cases hv : t.frag? k with
    | none => rfl
    | some v => rw [Option.filter_some, others k v ka kc hv]; rfl

/-- The last of two fragments to move to their join: the lower entry goes on for both, without a join where that one had no outer join. -/
theorem goto_last_leaves {t : Team} {e k : Nat} {f g : Fragment} {r : Join} (hf : t.frag? e = some f) (hm : f.mask ≠ 0) (hs : topSerial t e = none)
    (hj : NMap.look t.joins f.join = some r) (all : r.arrived + 1 = r.expected) (outer : NMap.look t.joins r.outer = none) (inner : r.outer ≠ f.join)
    (hg : t.frag? k = some g) (hke : k ≠ e) (pk : g.parkedAt f.join = true)
    (others : ∀ x v, x ≠ e → x ≠ k → t.frag? x = some v → v.parkedAt f.join = false) (rising : NMap.above 0 t.frags = true) (hsk : topSerial t k = none) :
    (t.goto e r.addr).frag? (min e k) = some { (if e < k then f.movedTo r.addr else g) with
      st := .ready, pc := r.addr, join := r.outer, sig := 0, clause := none, latch := .none, mask := f.mask ||| g.mask, age := max f.age g.age } ∧
    (t.goto e r.addr).frag? (max e k) = none ∧ NMap.look (t.goto e r.addr).joins f.join = none ∧
    ∀ x, x ≠ e → x ≠ k → (t.goto e r.addr).frag? x = t.frag? x := by
  have kept (x : Nat) (hx : x ≠ e) : (t.park e (f.movedTo r.addr) r).frag? x = t.frag? x := Team.setFrag_frag?_other t _ hx
  have rising' : NMap.above 0 (t.park e (f.movedTo r.addr) r).frags = true := NMap.above_put _ _ rising (Nat.zero_le _)
  have he' : (t.park e (f.movedTo r.addr) r).frag? e = some { f.movedTo r.addr with st := .parked, clause := none } := Team.setFrag_frag?_same t e _
  have hk' := (kept k hke).trans hg
  have pe : Fragment.parkedAt f.join { f.movedTo r.addr with st := .parked, clause := none } = true := by simp [Fragment.parkedAt, Fragment.movedTo]
  have alone (x : Nat) (v : Fragment) (xe : x ≠ e) (xk : x ≠ k) (hv : (t.park e (f.movedTo r.addr) r).frag? x = some v) : v.parkedAt f.join = false :=
    others x v xe xk ((kept x xe).symm.trans hv)
  have lanes : f.mask ||| g.mask ≠ 0 := fun h => hm (BitVec.or_eq_zero_iff.mp h).1
  rcases Nat.lt_or_gt_of_ne hke with ke | ek
  · have alone' := fun x v xk xe => alone x v xe xk
    have fused := Team.goto_fuses hf hm hs hj all rising ke hk' he' pk pe alone' hsk hs (BitVec.or_comm f.mask g.mask ▸ lanes) outer inner
    obtain ⟨low, high, join, rest⟩ := fuse_leaves r rising' ke he' pe alone'
    rw [Nat.min_eq_right (Nat.le_of_lt ke), Nat.max_eq_left (Nat.le_of_lt ke), if_neg (Nat.lt_asymm ke), BitVec.or_comm f.mask, Nat.max_comm f.age, fused]
    exact ⟨low, high, join, fun x xe xk => (rest x xk xe).trans (kept x xe)⟩
  · have fused := Team.goto_fuses hf hm hs hj all rising ek he' hk' pe pk alone hs hsk lanes outer inner
    obtain ⟨low, high, join, rest⟩ := fuse_leaves r rising' ek hk' pk alone
    rw [Nat.min_eq_left (Nat.le_of_lt ek), Nat.max_eq_right (Nat.le_of_lt ek), if_pos ek, fused]
    exact ⟨low, high, join, fun x xe xk => (rest x xe xk).trans (kept x xe)⟩

/-- Settles O44: moving off a join, parking at it, and the fusion of two fragments by the last one. -/
theorem joinResults : Obligations.JoinResults := by
  unfold Obligations.JoinResults
  intro t e f pc hf hm hs there
  refine ⟨fun r hj off => ?_, fun hj => ?_, fun r hj at' waits => ?_, ?_⟩
  · exact Team.goto_elsewhere hf hm hs (fun q hq => by rw [Option.some.inj (hq.symm.trans hj)]; exact off.symm)
  · exact Team.goto_elsewhere hf hm hs (fun q hq => absurd (hj.symm.trans hq) (Option.some_ne_none q).symm)
  · subst at'
    exact Team.goto_parks hf hm hs hj waits
  · rintro r k g hj rfl all outer noOuter inner hg hke gjoin gpark others - rising hsk
    have pk : g.parkedAt f.join = true := by simp [Fragment.parkedAt, gjoin, gpark]
    have alone (x : Nat) (v : Fragment) (xe : x ≠ e) (xk : x ≠ k) (hv : t.frag? x = some v) : v.parkedAt f.join = false := by
      simpa [Fragment.parkedAt] using others (x, v) (NMap.mem_of_look hv) xe xk
    obtain ⟨low, high, join, rest⟩ := goto_last_leaves hf hm hs hj all (outer ▸ noOuter) (fun h => inner (h.symm.trans outer)) hg hke pk alone rising hsk
    rw [outer] at low
    exact ⟨low, high, join, rest, Team.goto_quiet _ _ _⟩

end Sys2Proof.Claims
end

section
/-! What happens around every instruction (R28, R60, R111, R113): the fragment's place, the quarter held, and time that passes. -/

namespace Sys2Proof.Machine

/-! ### Time while nothing issues -/

@[simp] theorem State.keepWords_clk (s : State) (w : Writer) (ws : List (Nat × Word × Word)) : (s.keepWords w ws).clk = s.clk := by
  unfold State.keepWords; split <;> rfl

theorem State.hostWrite_clk (s : State) (w : Writer) (a : Nat) (data : List Byte) : (s.hostWrite w a data).clk = s.clk := State.keepWords_clk _ _ _

/-- Posted writes leave in no time. -/
@[simp] theorem State.postedOut_clk (link : Nat) (s : State) : (s.postedOut link).clk = s.clk := by
  unfold State.postedOut
  extract_lets ws
  split
  · rfl
  · exact foldl_keeps State.clk (fun s w => State.hostWrite_clk s _ _ _) _ _

/-- The least of some distances to times after now, and of a bound. -/
theorem foldl_min_sub (l : List Nat) (now m : Nat) (later : ∀ b ∈ l, now < b) (hm : 0 < m) :
    0 < l.foldl (fun n b => min n (b - now)) m ∧ l.foldl (fun n b => min n (b - now)) m ≤ m ∧
      ∀ b ∈ l, l.foldl (fun n b => min n (b - now)) m ≤ b - now := by
  induction l generalizing m with
  | nil => simp [hm]
  | cons b l ih =>
    have hb : now < b := later b List.mem_cons_self
    obtain ⟨pos, bound, each⟩ := ih (min m (b - now)) (fun c hc => later c (List.mem_cons_of_mem b hc)) (by omega)
    rw [List.foldl_cons]
    refine ⟨pos, by omega, fun c hc => ?_⟩
    rcases List.mem_cons.mp hc with rfl | hc
    · omega
    · exact each c hc

/-- Time goes on, and not beyond the cycle in which a quarter whose datapath is held may issue (R60). -/
theorem idle_clk (s : State) : s.clk < (idle s).clk ∧ ∀ q ∈ s.runningQuarters, s.clk < s.busyUntil q → (idle s).clk ≤ s.busyUntil q := by
  unfold idle
  extract_lets free n rode s1
  obtain ⟨pos, -, each⟩ := foldl_min_sub free s.clk (Config.elapsed s.free + 1) (fun b hb => by simpa using (List.mem_filter.mp hb).2) (Nat.succ_pos _)
  have clk : (((s1.pass n).postedOut 0).postedOut 1).clk = s.clk + n := by simp [s1]
  rw [clk]
  refine ⟨Nat.lt_add_of_pos_right pos, fun q hq held => ?_⟩
  have bound : n ≤ s.busyUntil q - s.clk := each _ (List.mem_filter.mpr ⟨List.mem_map_of_mem hq, decide_eq_true held⟩)
  omega

/-! ### The fragment's place and the quarter -/

theorem SameOutside.refl (s : State) : SameOutside s s := by constructor <;> rfl

theorem SameOutside.updTeam (s : State) (tid : Nat) (f : Team → Team) : SameOutside s (s.updTeam tid f) := by
  unfold State.updTeam
  split
  · constructor <;> rfl
  · exact .refl s

/-- s' is s but for the place of iss's fragment. -/
structure Placed (iss : Issue) (s s' : State) : Prop where
  outside : SameOutside s s'
  free    : s'.free = s.free
  clk     : s'.clk = s.clk
  cores   : s'.cores = s.cores
  others  : ∀ u, u ≠ iss.tid → s'.team? u = s.team? u
  quiet   : ∀ u, (s'.team? u).map Team.quiet = (s.team? u).map Team.quiet

theorem Placed.refl (iss : Issue) (s : State) : Placed iss s s := ⟨.refl s, rfl, rfl, rfl, fun _ _ => rfl, fun _ => rfl⟩

/-- The fragment goes on behind its word or to the next clause, and its team is as it was otherwise. -/
theorem finish_placed (s : State) (iss : Issue) (words : Nat) (ends : Bool) : Placed iss s (finish s iss words ends) := by
  obtain ⟨f, quiet, eq⟩ := finish_eq iss words ends
  rw [eq]
  refine ⟨.updTeam s _ f, State.updTeam_free s _ f, State.updTeam_clk s _ f, State.updTeam_cores s _ f, fun u hu => State.updTeam_team?_other s f hu, fun u => ?_⟩
  by_cases hu : u = iss.tid
  · rw [hu, State.updTeam_team?_same, Option.map_map, show Team.quiet ∘ f = Team.quiet from funext quiet.quiet]
  · rw [State.updTeam_team?_other s f hu]

/-- What an instruction word leaves of the machine once its fragment is placed: its quarter is held, nothing else is changed (R28). -/
theorem Placed.occupy {iss : Issue} {s s' : State} (h : Placed iss s s') (i : Instr) :
    SameOutside s (s'.occupy iss i) ∧ (s'.occupy iss i).free = s.free ∧ (s'.occupy iss i).clk = s.clk ∧
    (∀ c, c ≠ iss.team.core → (s'.occupy iss i).coreSt c = s.coreSt c) ∧
    (∃ x, (s'.occupy iss i).coreSt iss.team.core = { s.coreSt iss.team.core with busy := NMap.put (s.coreSt iss.team.core).busy iss.team.quarter x } ∧
      s.clk + wordCycles iss i ≤ x ∧ ((s.coreSt iss.team.core).throttled = false → x = s.clk + wordCycles iss i)) ∧
    (∀ u, s.team? u = none → (s'.occupy iss i).team? u = none) ∧
    ∀ u t, s.team? u = some t → ∃ t', (s'.occupy iss i).team? u = some t' ∧ t'.quiet = t.quiet ∧
      (u ≠ iss.tid ∨ s'.occupy iss i = s.occupy iss i → t' = t) := by
  obtain ⟨outside, free, clk, cores, others, quiet⟩ := h
  have core (c : Nat) : s'.coreSt c = s.coreSt c := by rw [State.coreSt, cores, State.coreSt]
  let held : Nat := s.clk + wordCycles iss i + if (s.coreSt iss.team.core).throttled then Config.choice s.free else 0
  refine ⟨{ outside with }, free, clk, fun c hc => ?_, ⟨held, ?_, ?_, ?_⟩, fun u hu => ?_, fun u t ht => ?_⟩
  · rw [State.occupy, State.updCore_coreSt_other _ _ hc, core]
  · rw [State.occupy, State.updCore_coreSt_same, core, clk, free]
  · exact Nat.le_add_right _ _
  · intro throttled
    simp [held, throttled]
  · simpa [hu] using quiet u
  · obtain ⟨t', ht', same⟩ := Option.map_eq_some_iff.mp ((quiet u).trans (congrArg _ ht))
    refine ⟨t', ht', same, fun other => ?_⟩
    have kept : s'.team? u = s.team? u := by
      rcases other with other | moved
      · exact others u other
      · rw [← State.occupy_team? s' iss i, moved, State.occupy_team?]
    exact Option.some.inj (ht'.symm.trans (kept.trans ht))

/-! ### Where the fragment stands -/

/-- A fragment whose clause has words left goes on behind this one. -/
theorem finish_within {s : State} {iss : Issue} {t : Team} {f : Fragment} {words : Nat} (ht : s.team? iss.tid = some t) (hf : t.frag? iss.entry = some f)
    (within : iss.frag.pc + 4 * words < iss.cl.hdr + 4 * (iss.cl.len + 1)) : (finish s iss words false).team? iss.tid =
      some (t.setFrag iss.entry { f with pc := iss.frag.pc + 4 * words, st := t.readySt iss.entry, latch := .none, starve := 0 }) := by
  rw [finish, State.updTeam_team?_same, ht, Option.map_some]
  simp [hf, Nat.not_le.mpr within]

/-- A fragment at the end of its clause, with no join and no serial record, stands at the header that follows. -/
theorem finish_behind {s : State} {iss : Issue} {t : Team} {f : Fragment} {words : Nat} {ends : Bool} (ht : s.team? iss.tid = some t)
    (hf : t.frag? iss.entry = some f) (ended : ends = true ∨ iss.cl.hdr + 4 * (iss.cl.len + 1) ≤ iss.frag.pc + 4 * words) (hs : topSerial t iss.entry = none)
    (hj : NMap.look t.joins f.join = none) (hm : f.mask ≠ 0) : (finish s iss words ends).team? iss.tid = some (t.setFrag iss.entry { f with
      pc := iss.cl.hdr + 4 * (iss.cl.len + 1), clause := none, st := .ready, latch := .none, starve := 0, yielded := f.yielded || iss.cl.yield }) := by
  have ends' : (ends || decide (iss.cl.hdr + 4 * (iss.cl.len + 1) ≤ iss.frag.pc + 4 * words)) = true := by simpa using ended
  have ready : t.readySt iss.entry = .ready := by simp [Team.readySt, hs]
  rw [finish, State.updTeam_team?_same, ht, Option.map_some, hf]
  simp only [ends', if_true, ready]
  refine congrArg some (Team.settle_still _ _ _ _ (Team.setFrag_frag?_same _ _ _) hm (fun r hr => ?_) (fun _ r hr => ?_))
  · exact absurd (hs.symm.trans hr) (Option.some_ne_none r).symm
  · exact absurd (hj.symm.trans hr) (Option.some_ne_none r).symm

end Sys2Proof.Machine

namespace Sys2Proof.Claims
open Sys2Proof.Machine

/-- Settles O43: the fragment is placed and its quarter held; time passes; where the fragment stands. -/
theorem aroundInstructions : Obligations.AroundInstructions := by
  unfold Obligations.AroundInstructions
  intro s' iss i n
  refine ⟨fun s'' ways => ?_, idle_clk, fun t f ht hf => ⟨fun within => ?_, fun hs hj hm s'' ways => ?_⟩⟩
  · rcases ways with rfl | rfl | rfl
    · exact (finish_placed s' iss i.words false).occupy i
    · exact (finish_placed s' iss i.words true).occupy i
    · exact (Placed.refl iss s').occupy i
  · exact ⟨_, finish_within ht hf within, rfl, rfl, rfl⟩
  · rcases ways with rfl | ⟨rfl, ended⟩
    · exact finish_behind ht hf (.inl rfl) hs hj hm
    · exact finish_behind ht hf (.inr ended) hs hj hm

end Sys2Proof.Claims
end

section
/-! Targets of branches as machine words (R139, R142), and fragments that split or go serial (R31, R35). -/

namespace Sys2Proof.Machine
open Sys2Proof.Claims

/-! ### Addresses -/

/-- Sign extension as a machine word reads it. -/
theorem sext_eq_toInt (x n : Nat) (hn : 0 < n) : sext x n = (BitVec.ofNat n x).toInt := by
  obtain ⟨m, rfl⟩ : ∃ m, n = m + 1 := ⟨n - 1, by omega⟩
  have double : 2 ^ (m + 1) = 2 * 2 ^ m := by rw [Nat.pow_succ, Nat.mul_comm]
  rw [BitVec.toInt_eq_toNat_cond, BitVec.toNat_ofNat, sext]
  simp only [Nat.add_sub_cancel]
  by_cases h : 2 ^ m ≤ x % 2 ^ (m + 1)
  · rw [if_pos h, if_neg (by omega)]
  · rw [if_neg h, if_pos (by omega)]

/-- The header's address and 4 times a signed offset, modulo 2^64. -/
theorem wrapI_hdr_add (hdr x n : Nat) (hn : 0 < n) :
    wrapI ((hdr : Int) + 4 * sext x n) 64 = (BitVec.ofNat 64 hdr + 4 * (BitVec.ofNat n x).signExtend 64).toNat := by
  have sum : BitVec.ofInt 64 ((hdr : Int) + 4 * sext x n) = BitVec.ofNat 64 hdr + 4 * (BitVec.ofNat n x).signExtend 64 := by
    rw [BitVec.ofInt_add, BitVec.ofInt_mul, sext_eq_toInt x n hn]
    rfl
  rw [← sum, BitVec.toNat_ofInt]
  rfl

theorem teamReg_lt (iss : Issue) (r : Reg) : teamReg iss false 0 r < 2 ^ 64 := by
  cases r with
  | v n => exact Nat.lt_trans (iss.team.v n.val 0).isLt (by decide)
  | s n => exact (iss.team.s n.val).isLt
  | q _ => exact Nat.two_pow_pos 64

theorem teamReg_eq_plainSrc (iss : Issue) (r : Reg) : teamReg iss false 0 r = plainSrc iss (.reg r) := by
  cases r <;> rfl

/-- The signed offsets of BRC (R142), to the target and to the join. -/
def branchOffset (iss : Issue) (target : Bool) : Src → Int
  | .reg r => sext (if target then teamReg iss false 0 r / 2 ^ 32 else teamReg iss false 0 r) 32
  | .lit w => sext (if target then w.toNat / 2 ^ 16 else w.toNat) 16

theorem wrapI_branchOffset (iss : Issue) (b : Src) (target : Bool) :
    wrapI ((iss.cl.hdr : Int) + 4 * branchOffset iss target b) 64 = branchWord iss b target := by
  cases b with
  | lit w =>
    rw [branchOffset, wrapI_hdr_add _ _ _ (by decide), branchWord]
    cases target <;> simp [BitVec.extractLsb', Nat.shiftRight_eq_div_pow]
  | reg r =>
    have word : (BitVec.ofNat 64 (teamReg iss false 0 r)).toNat = teamReg iss false 0 r := Nat.mod_eq_of_lt (teamReg_lt iss r)
    rw [branchOffset, wrapI_hdr_add _ _ _ (by decide), branchWord, ← teamReg_eq_plainSrc]
    cases target <;> simp [BitVec.extractLsb', Nat.shiftRight_eq_div_pow, -BitVec.toNat_ofNat, word]

/-- The lanes that take a conditional branch. -/
theorem passing_eq_maskOf (iss : Issue) (m : LaneMask) (pa : Fin 8) (neg : Bool) :
    passing iss m pa neg = maskOf ((List.range 1024).filter (fun l => m.getLsbD l && guarded iss pa neg l)) := by
  refine BitVec.eq_of_getLsbD_eq (fun l hl => ?_)
  rw [maskOf_getLsbD _ _ hl]
  cases neg <;> simp [passing, guarded, Team.p, hl]

/-! ### What a conditional branch does with its fragment (R142) -/

/-- BRC with the lanes that take it, its target and its join. -/
def brcEff (iss : Issue) (s : State) (taken : LaneMask) (target join : Nat) : Eff :=
  if taken == 0 then .ends s
  else if taken == iss.act then transfer iss s target
  else if 2 ^ 57 ≤ target || 2 ^ 57 ≤ join then .stop 4 0 0 0
  else if target % 4 != 0 || join % 4 != 0 then .stop 3 0 0 0
  else splitFrag iss s taken target join

theorem exec_brc_of_issues {neg : Bool} {pa : Fin 8} {b : Src} {s : State} {iss : Issue} (h : Issues s iss (.brc neg pa b)) :
    exec (.brc neg pa b) s = .next (conclude s iss (.brc neg pa b) (brcEff iss (hashed s iss (.brc neg pa b))
      (maskOf ((List.range 1024).filter (fun l => iss.act.getLsbD l && guarded iss pa neg l))) (branchWord iss b true) (branchWord iss b false))) := by
  rw [exec_brc, execBrc, run_of_issues h, ← passing_eq_maskOf, ← wrapI_branchOffset, ← wrapI_branchOffset]
  cases b <;> rfl

/-- The cases of a transfer of control (R139). -/
theorem transfersTo_of_exec {i : Instr} {s s' : State} {iss : Issue} {target : Nat} (h : exec i s = .next (conclude s iss i (transfer iss s' target))) :
    TransfersTo i s iss s' target := by
  refine ⟨fun far => ?_, fun near odd => ?_, fun near even => ?_⟩
  · rw [h, transfer, if_pos far]
    rfl
  · rw [h, transfer, if_neg (Nat.not_le.mpr near), if_pos (bne_iff_ne.mpr odd)]
    rfl
  · rw [h, transfer, if_neg (Nat.not_le.mpr near), if_neg (by simp [even])]
    rfl

/-- A branch that some lanes take and others do not, to a target and a join that are addresses of words. -/
theorem brcEff_splits {iss : Issue} {s : State} {taken : LaneMask} {target join : Nat} (some' : taken ≠ 0) (notAll : taken ≠ iss.act) (htarget : target < 2 ^ 57)
    (hjoin : join < 2 ^ 57) (targetWord : target % 4 = 0) (joinWord : join % 4 = 0) : brcEff iss s taken target join = splitFrag iss s taken target join := by
  rw [brcEff, if_neg (by simpa using some'), if_neg (by simpa using notAll), if_neg (by simpa using And.intro htarget hjoin), if_neg (by simp [targetWord, joinWord])]

/-! ### The split (R31) -/

/-- One side of a split: its lanes and its place, under the new join. -/
def Fragment.side (f : Fragment) (j pc : Nat) (mask : LaneMask) (yielded : Bool) : Fragment :=
  { f with join := j, sig := 0, clause := none, st := .ready, latch := .none, starve := 0, mask := mask, pc := pc, yielded := yielded }

/-- The team after a split: the fragment itself goes on with the lanes that do not take the branch, entry e is the side that takes it. -/
def Team.split (iss : Issue) (t : Team) (f : Fragment) (e j target join : Nat) (taken : LaneMask) : Team :=
  ({ t with joins := NMap.put t.joins j { addr := join, expected := 2, arrived := 0, outer := f.join } }.setFrag iss.entry
    (f.side j (nextClause iss) (f.mask &&& ~~~taken) (f.yielded || iss.cl.yield))).setFrag e (f.side j target taken f.yielded)

/-- The first of eight places that is free. -/
theorem find?_range_eight {α : Type} (look : Nat → Option α) {n : Nat} (hn : n < 8) (first : ∀ k, k ≤ n → (look k).isNone = decide (k = n)) :
    (List.range 8).find? (fun k => (look k).isNone) = some n := by
  refine List.find?_range_eq_some.mpr ⟨by simpa using first n le_rfl, List.mem_range.mpr hn, fun k hk => ?_⟩
  rw [first k (Nat.le_of_lt hk), decide_eq_false (Nat.ne_of_lt hk)]
  rfl

theorem find?_range_eight_full {α : Type} (look : Nat → Option α) (full : ∀ k, k < 8 → (look k).isSome) :
    (List.range 8).find? (fun k => (look k).isNone) = none := by
  refine List.find?_range_eq_none.mpr (fun k hk => ?_)
  simp [Option.isNone_eq_false_iff.mpr (full k hk)]

theorem Team.split_frag?_own (t : Team) {iss : Issue} (f : Fragment) {e : Nat} (j target join : Nat) (taken : LaneMask) (new : iss.entry ≠ e) :
    (t.split iss f e j target join taken).frag? iss.entry = some (f.side j (nextClause iss) (f.mask &&& ~~~taken) (f.yielded || iss.cl.yield)) :=
  (Team.setFrag_frag?_other _ _ new).trans (Team.setFrag_frag?_same _ _ _)

theorem Team.split_frag?_new (t : Team) (iss : Issue) (f : Fragment) (e j target join : Nat) (taken : LaneMask) :
    (t.split iss f e j target join taken).frag? e = some (f.side j target taken f.yielded) := Team.setFrag_frag?_same _ _ _

theorem Team.split_frag?_other (t : Team) {iss : Issue} (f : Fragment) {e k : Nat} (j target join : Nat) (taken : LaneMask) (ke : k ≠ e) (ko : k ≠ iss.entry) :
    (t.split iss f e j target join taken).frag? k = t.frag? k :=
  (Team.setFrag_frag?_other _ _ ke).trans (Team.setFrag_frag?_other _ _ ko)

theorem Team.split_join (t : Team) (iss : Issue) (f : Fragment) (e j target join : Nat) (taken : LaneMask) :
    NMap.look (t.split iss f e j target join taken).joins j = some { addr := join, expected := 2, arrived := 0, outer := f.join } := NMap.look_put_same _ _ _

theorem Team.split_joins_other (t : Team) (iss : Issue) (f : Fragment) (e target join : Nat) (taken : LaneMask) {j k : Nat} (hk : k ≠ j) :
    NMap.look (t.split iss f e j target join taken).joins k = NMap.look t.joins k := NMap.look_put_other _ _ hk

theorem Team.split_quiet (t : Team) (iss : Issue) (f : Fragment) (e j target join : Nat) (taken : LaneMask) :
    (t.split iss f e j target join taken).quiet = t.quiet := rfl

/-- Where neither side stands at the join yet, both sides stand where they are put. -/
theorem Team.settle_split {iss : Issue} {t : Team} {f : Fragment} {e j target join : Nat} {taken : LaneMask} (n : Nat) (new : iss.entry ≠ e)
    (hs : topSerial t iss.entry = none) (he : topSerial t e = none) (ahead : target ≠ join) (behind : nextClause iss ≠ join) (some' : taken ≠ 0)
    (rest : f.mask &&& ~~~taken ≠ 0) :
    Team.settle n (Team.settle n (t.split iss f e j target join taken) iss.entry) e = t.split iss f e j target join taken := by
  have own := t.split_frag?_own f j target join taken new
  have other := t.split_frag?_new iss f e j target join taken
  have opened := t.split_join iss f e j target join taken
  rw [Team.settle_still n _ iss.entry _ own rest (fun r hr => absurd (hs.symm.trans hr) (Option.some_ne_none r).symm),
    Team.settle_still n _ e _ other some' (fun r hr => absurd (he.symm.trans hr) (Option.some_ne_none r).symm)]
  · exact fun _ r hr there => absurd (there.trans (congrArg Join.addr (Option.some.inj (opened.symm.trans hr)).symm)) ahead
  · exact fun _ r hr there => absurd (there.trans (congrArg Join.addr (Option.some.inj (opened.symm.trans hr)).symm)) behind

/-- With an entry and a join free, the fragment splits. -/
theorem splitFrag_split {iss : Issue} {s : State} {t : Team} {f : Fragment} {e j target join : Nat} {taken : LaneMask} (ht : s.team? iss.tid = some t)
    (hf : t.frag? iss.entry = some f) (he : (List.range 8).find? (fun e => (t.frag? e).isNone) = some e)
    (hj : (List.range 8).find? (fun j => (NMap.look t.joins j).isNone) = some j) (new : iss.entry ≠ e) (hs : topSerial t iss.entry = none)
    (hse : topSerial t e = none) (ahead : target ≠ join) (behind : nextClause iss ≠ join) (some' : taken ≠ 0) (rest : f.mask &&& ~~~taken ≠ 0) :
    splitFrag iss s taken target join = .moved (s.updTeam iss.tid (fun _ => t.split iss f e j target join taken)) := by
  have ready : t.readySt iss.entry = .ready := by simp [Team.readySt, hs]
  rw [← Team.settle_split settleFuel new hs hse ahead behind some' rest]
  simp only [splitFrag, ht, Option.getD_some, hf, he, hj, ready]
  rfl

/-! ### Serial mode (R35) -/

/-- The team in serial mode: the lanes that do not take the branch wait in a record, the fragment goes on with the others. -/
def Team.goSerial (iss : Issue) (t : Team) (f : Fragment) (target join : Nat) (taken : LaneMask) : Team :=
  { t with serial := { entry := iss.entry, join := f.join, lanes := f.mask &&& ~~~taken, addr := nextClause iss, reconv := join, side := false } :: t.serial }.setFrag
    iss.entry { f with mask := taken, pc := target, sig := 0, clause := none, st := .serial, latch := .none, starve := 0, yielded := f.yielded || iss.cl.yield }

/-- With no entry free and all 64 records in use, serial mode faults. -/
theorem splitFrag_full {iss : Issue} {s : State} {t : Team} {target join : Nat} {taken : LaneMask} (ht : s.team? iss.tid = some t)
    (he : (List.range 8).find? (fun e => (t.frag? e).isNone) = none) (full : 64 ≤ t.serial.length) : splitFrag iss s taken target join = .stop 5 0 0 0 := by
  simp only [splitFrag, ht, Option.getD_some, he, full, if_true]

/-- With no entry free, the fragment enters serial mode; its lanes that take the branch do not stand at the join yet. -/
theorem splitFrag_serial {iss : Issue} {s : State} {t : Team} {f : Fragment} {target join : Nat} {taken : LaneMask} (ht : s.team? iss.tid = some t)
    (hf : t.frag? iss.entry = some f) (he : (List.range 8).find? (fun e => (t.frag? e).isNone) = none) (room : t.serial.length < 64)
    (ahead : target ≠ join) (some' : taken ≠ 0) :
    splitFrag iss s taken target join = .moved (s.updTeam iss.tid (fun _ => t.goSerial iss f target join taken)) := by
  have top : topSerial (t.goSerial iss f target join taken) iss.entry
      = some { entry := iss.entry, join := f.join, lanes := f.mask &&& ~~~taken, addr := nextClause iss, reconv := join, side := false } :=
    List.find?_cons_of_pos (beq_self_eq_true _)
  have still : Team.settle settleFuel (t.goSerial iss f target join taken) iss.entry = t.goSerial iss f target join taken := by
    refine Team.settle_still _ _ _ _ (Team.setFrag_frag?_same _ _ _) some' (fun r hr _ => ?_) (fun outside => absurd rfl (outside _ top))
    rw [← Option.some.inj (top.symm.trans hr)]
    exact ahead
  rw [← still]
  simp only [splitFrag, ht, Option.getD_some, hf, he, Nat.not_le.mpr room, if_false]
  rfl

/-! ### The fragment that branches -/

variable {s : State} {iss : Issue} {i : Instr}

theorem Issues.frag (h : Issues s iss i) : iss.team.frag? iss.entry = some iss.frag := (issueOf_some h.issue).2.2.1

/-- The active lanes are lanes of the fragment (R128). -/
theorem Issues.act_eq (h : Issues s iss i) : iss.act = iss.frag.mask &&& guardMask iss.team iss.cl.mood := by
  obtain ⟨-, -, -, -, eq⟩ := issueOf_some h.issue
  exact congrArg Issue.act eq

/-- Where some active lanes do not take a branch, the fragment has lanes left. -/
theorem Issues.rest_ne_zero (h : Issues s iss i) {pa : Fin 8} {neg : Bool} (notAll : passing iss iss.act pa neg ≠ iss.act) :
    iss.frag.mask &&& ~~~passing iss iss.act pa neg ≠ 0 := by
  intro none
  refine notAll (BitVec.eq_of_getLsbD_eq fun l hl => ?_)
  have lane : (iss.frag.mask &&& ~~~passing iss iss.act pa neg).getLsbD l = false := by rw [none]; exact BitVec.getLsbD_zero
  have active : iss.act.getLsbD l = (iss.frag.mask.getLsbD l && (guardMask iss.team iss.cl.mood).getLsbD l) := by rw [h.act_eq, BitVec.getLsbD_and]
  simp only [BitVec.getLsbD_and, BitVec.getLsbD_not, hl, decide_true, Bool.true_and] at lane
  have sub : (passing iss iss.act pa neg).getLsbD l = true → iss.act.getLsbD l = true :=
    fun hp => (Bool.and_eq_true_iff.mp ((BitVec.getLsbD_and ..).symm.trans hp)).1
  revert lane active sub
  cases iss.frag.mask.getLsbD l <;> cases iss.act.getLsbD l <;> cases (passing iss iss.act pa neg).getLsbD l <;> simp

theorem Issues.hashed_team? (h : Issues s iss i) : (hashed s iss i).team? iss.tid = some (hashTeam iss i iss.team) := by
  rw [Machine.hashed_team?, h.team, Option.map_some]

/-- Hashing a word and another change of a team leave the rest of the machine. -/
theorem SameOutside.hashed_updTeam (s : State) (iss : Issue) (i : Instr) (tid : Nat) (f : Team → Team) : SameOutside s ((hashed s iss i).updTeam tid f) := by
  constructor <;> simp

theorem hashTeam_joins (iss : Issue) (i : Instr) (t : Team) : (hashTeam iss i t).joins = t.joins := by
  unfold hashTeam
  split
  · rfl
  · rfl
  · split <;> rfl

theorem hashTeam_serial (iss : Issue) (i : Instr) (t : Team) : (hashTeam iss i t).serial = t.serial := by
  unfold hashTeam
  split
  · rfl
  · rfl
  · split <;> rfl

theorem hashTeam_topSerial (iss : Issue) (i : Instr) (t : Team) (e : Nat) : topSerial (hashTeam iss i t) e = topSerial t e := by
  rw [topSerial, hashTeam_serial, topSerial]

/-- Hashing a word changes the signature of the fragment alone. -/
theorem hashTeam_frags {t : Team} {f : Fragment} (hf : t.frag? iss.entry = some f) : ∃ g, (hashTeam iss i t).frag? iss.entry = some { f with sig := g } ∧
    ∀ k, k ≠ iss.entry → (hashTeam iss i t).frag? k = t.frag? k := by
  unfold hashTeam
  split
  · exact ⟨f.sig, hf, fun _ _ => rfl⟩
  · exact ⟨f.sig, hf, fun _ _ => rfl⟩
  · rw [hf]
    exact ⟨_, Team.setFrag_frag?_same _ _ _, fun k hk => Team.setFrag_frag?_other _ _ hk⟩

/-- Hashing a word frees no entry and takes none. -/
theorem hashTeam_isNone {t : Team} {f : Fragment} (hf : t.frag? iss.entry = some f) (k : Nat) :
    ((hashTeam iss i t).frag? k).isNone = (t.frag? k).isNone := by
  obtain ⟨g, own, others⟩ := hashTeam_frags (i := i) hf
  by_cases hk : k = iss.entry
  · rw [hk, own, hf]
    rfl
  · rw [others k hk]

end Sys2Proof.Machine

namespace Sys2Proof.Claims
open Sys2Proof.Machine

variable {s : State} {iss : Issue} {i : Instr} {taken : LaneMask} {target join : Nat}

/-- What a split leaves (R31): the fragment and entry e under the new join j, and everything else as it was. -/
theorem split_leaves (h : Issues s iss i) {e j : Nat} (first : ∀ k, k ≤ e → (iss.team.frag? k).isNone = decide (k = e))
    (firstJoin : ∀ k, k ≤ j → (NMap.look iss.team.joins k).isNone = decide (k = j)) (he : e < 8) (hj : j < 8) (new : iss.entry ≠ e)
    (hs : topSerial iss.team iss.entry = none) (hse : topSerial iss.team e = none) (ahead : target ≠ join) (behind : nextClause iss ≠ join)
    (some' : taken ≠ 0) (rest : iss.frag.mask &&& ~~~taken ≠ 0) :
    ∃ s' t', splitFrag iss (hashed s iss i) taken target join = .moved s' ∧ s'.team? iss.tid = some t' ∧ SameOutside s s' ∧ t'.quiet = iss.team.quiet ∧
      (∀ f, t'.frag? iss.entry = some f → f.pc = nextClause iss ∧ f.mask = iss.frag.mask &&& ~~~taken ∧ f.join = j ∧ f.st = .ready ∧ f.clause = none ∧ f.sig = 0) ∧
      (∀ f, t'.frag? e = some f → f.pc = target ∧ f.mask = taken ∧ f.join = j ∧ f.st = .ready ∧ f.clause = none ∧ f.sig = 0) ∧
      (t'.frag? iss.entry).isSome ∧ (t'.frag? e).isSome ∧ NMap.look t'.joins j = some { addr := join, expected := 2, arrived := 0, outer := iss.frag.join } ∧
      (∀ k, k ≠ e → k ≠ iss.entry → t'.frag? k = iss.team.frag? k) ∧ ∀ k, k ≠ j → NMap.look t'.joins k = NMap.look iss.team.joins k := by
  obtain ⟨g, own, others⟩ := hashTeam_frags (i := i) h.frag
  have entry := find?_range_eight (hashTeam iss i iss.team).frag? he (fun k hk => (hashTeam_isNone h.frag k).trans (first k hk))
  have joins := find?_range_eight (NMap.look (hashTeam iss i iss.team).joins) hj (by rw [hashTeam_joins]; exact firstJoin)
  have moved := splitFrag_split (s := hashed s iss i) (target := target) (join := join) h.hashed_team? own entry joins new
    ((hashTeam_topSerial ..).trans hs) ((hashTeam_topSerial ..).trans hse) ahead behind some' rest
  refine ⟨_, (hashTeam iss i iss.team).split iss { iss.frag with sig := g } e j target join taken, moved, ?_, .hashed_updTeam s iss i _ _, ?_, ?_, ?_, ?_, ?_,
    ?_, fun k ke ko => ?_, fun k hk => ?_⟩
  · rw [State.updTeam_team?_same, h.hashed_team?, Option.map_some]
  · rw [Team.split_quiet, hashTeam_quiet]
  · intro f hf
    rw [Team.split_frag?_own _ _ _ _ _ _ new, Option.some.injEq] at hf
    subst hf
    exact ⟨rfl, rfl, rfl, rfl, rfl, rfl⟩
  · intro f hf
    rw [Team.split_frag?_new, Option.some.injEq] at hf
    subst hf
    exact ⟨rfl, rfl, rfl, rfl, rfl, rfl⟩
  · rw [Team.split_frag?_own _ _ _ _ _ _ new, Option.isSome_some]
  · rw [Team.split_frag?_new, Option.isSome_some]
  · rw [Team.split_join]
  · rw [Team.split_frag?_other _ _ _ _ _ _ ke ko, others k ko]
  · rw [Team.split_joins_other _ _ _ _ _ _ _ hk, hashTeam_joins]

/-- What serial mode leaves (R35): one record more, the fragment at the target with the lanes that take the branch. -/
theorem serial_leaves (h : Issues s iss i) (full : ∀ k, k < 8 → (iss.team.frag? k).isSome) (room : iss.team.serial.length < 64) (ahead : target ≠ join)
    (some' : taken ≠ 0) :
    ∃ s' t', splitFrag iss (hashed s iss i) taken target join = .moved s' ∧ s'.team? iss.tid = some t' ∧ SameOutside s s' ∧ t'.quiet = iss.team.quiet ∧
      t'.serial = { entry := iss.entry, join := iss.frag.join, lanes := iss.frag.mask &&& ~~~taken, addr := nextClause iss, reconv := join, side := false } :: iss.team.serial ∧
      (∃ f, t'.frag? iss.entry = some f ∧ f.pc = target ∧ f.mask = taken ∧ f.join = iss.frag.join ∧ f.st = .serial ∧ f.clause = none ∧ f.sig = 0) ∧
      (∀ k, k ≠ iss.entry → t'.frag? k = iss.team.frag? k) ∧ t'.joins = iss.team.joins := by
  obtain ⟨g, own, others⟩ := hashTeam_frags (i := i) h.frag
  have entries := find?_range_eight_full (hashTeam iss i iss.team).frag? (fun k hk => by
    rw [← Option.isNone_eq_false_iff, hashTeam_isNone h.frag, Option.isNone_eq_false_iff]
    exact full k hk)
  have moved := splitFrag_serial (s := hashed s iss i) (target := target) h.hashed_team? own entries (by rwa [hashTeam_serial]) ahead some'
  refine ⟨_, (hashTeam iss i iss.team).goSerial iss { iss.frag with sig := g } target join taken, moved, ?_, .hashed_updTeam s iss i _ _,
    hashTeam_quiet iss i iss.team, ?_, ⟨_, Team.setFrag_frag?_same _ _ _, rfl, rfl, rfl, rfl, rfl, rfl⟩,
    fun k hk => (Team.setFrag_frag?_other _ _ hk).trans (others k hk), hashTeam_joins iss i iss.team⟩
  · rw [State.updTeam_team?_same, h.hashed_team?, Option.map_some]
  · rw [← hashTeam_serial iss i iss.team]
    rfl

/-- Settles O13: the cases of a conditional branch one by one. -/
theorem conditionalBranchResults : Obligations.ConditionalBranchResults := by
  unfold Obligations.ConditionalBranchResults
  intro neg pa b s iss h target join taken next t
  have run := exec_brc_of_issues h
  have rest : taken ≠ iss.act → iss.frag.mask &&& ~~~taken ≠ 0 := fun notAll => by
    rw [show taken = _ from (passing_eq_maskOf iss iss.act pa neg).symm] at notAll ⊢
    exact h.rest_ne_zero notAll
  refine ⟨fun none => ?_, fun some' all => ?_, fun some' notAll far => ?_, fun some' notAll htarget hjoin odd => ?_,
    fun some' notAll htarget hjoin targetWord joinWord => ?_⟩
  · rw [run, brcEff, if_pos (beq_iff_eq.mpr none)]
    rfl
  · refine transfersTo_of_exec ?_
    rw [run, brcEff, if_neg (by simpa using some'), if_pos (beq_iff_eq.mpr all)]
  · rw [run, brcEff, if_neg (by simpa using some'), if_neg (by simpa using notAll), if_pos (by simpa using far)]
    rfl
  · rw [run, brcEff, if_neg (by simpa using some'), if_neg (by simpa using notAll), if_neg (by simpa using And.intro htarget hjoin), if_pos (by simpa using odd)]
    rfl
  rw [brcEff_splits some' notAll htarget hjoin targetWord joinWord] at run
  refine ⟨fun e j first firstJoin he hj new hs hse ahead behind => ?_, fun full records => ?_, fun full room ahead => ?_⟩
  · obtain ⟨s', t', moved, leaves⟩ := split_leaves h first firstJoin he hj new hs hse ahead behind some' (rest notAll)
    exact ⟨s', t', by rw [run, moved]; rfl, leaves⟩
  · have entries := find?_range_eight_full (hashTeam iss (.brc neg pa b) iss.team).frag? (fun k hk => by
      rw [← Option.isNone_eq_false_iff, hashTeam_isNone h.frag, Option.isNone_eq_false_iff]
      exact full k hk)
    rw [run, splitFrag_full h.hashed_team? entries (by rwa [hashTeam_serial])]
    rfl
  · obtain ⟨s', t', moved, leaves⟩ := serial_leaves h full room ahead some'
    exact ⟨s', t', by rw [run, moved]; rfl, leaves⟩

end Sys2Proof.Claims
end

section
/-! Teams as they outlast the end of another and their own (R42, R141): of a team that is there, settling memory, passing locks, starting copies and
completing barriers change only its counts, ports and marks and the latches of its fragments. -/

namespace Sys2Proof.Machine

/-! ### Operations that leave every team -/

@[simp] theorem State.keepWords_teams (s : State) (w : Writer) (ws : List (Nat × Word × Word)) : (s.keepWords w ws).teams = s.teams := by
  unfold State.keepWords; split <;> rfl

@[simp] theorem State.hostWrite_teams (s : State) (w : Writer) (a : Nat) (data : List Byte) : (s.hostWrite w a data).teams = s.teams :=
  State.keepWords_teams _ _ _

@[simp] theorem State.ringWrite_teams (s : State) (c : Ctx) (r : List Byte) : (s.ringWrite c r).teams = s.teams :=
  (State.updCtx_teams _ _ _).trans (State.hostWrite_teams _ _ _ _)

@[simp] theorem State.countError_teams (s : State) (k : Nat) : (s.countError k).teams = s.teams := rfl

@[simp] theorem State.record_teams (s : State) (ctx : Nat) (r : List Byte) (team : Nat) : (s.record ctx r team).teams = s.teams := by
  unfold State.record
  split
  · rfl
  · split_ifs <;> simp

@[simp] theorem State.event_teams (s : State) (ctx kind core slot low d0 d1 : Nat) : (s.event ctx kind core slot low d0 d1).teams = s.teams :=
  State.record_teams _ _ _ _

@[simp] theorem State.logLine_teams (s : State) (w : Writer) (pa : Nat) : (s.logLine w pa).teams = s.teams := by
  unfold State.logLine
  split
  · rfl
  · split
    · rfl
    · dsimp only
      split_ifs <;> simp

@[simp] theorem State.commitWrite_teams (s : State) (w : Writer) (pa : Nat) (data : List Byte) (tag : Bool) : (s.commitWrite w pa data tag).teams = s.teams := by
  simp [State.commitWrite]

@[simp] theorem State.invalidate_teams (s : State) (pa n : Nat) : (s.invalidate pa n).teams = s.teams := rfl

@[simp] theorem State.homeWrite_teams (s : State) (w : Writer) (pa : Nat) (data : List Byte) (tag : Bool) : (s.homeWrite w pa data tag).teams = s.teams := by
  unfold State.homeWrite
  split
  · rfl
  · simp

theorem chooseBytes_teams (offer : State → Nat → List (Writer × PByte)) (g : Nat) (s : State) : (chooseBytes offer g s).2.teams = s.teams := by
  unfold chooseBytes
  refine foldl_keeps (fun p : List (Nat × Writer × PByte) × State => p.2.teams) (fun p i => ?_) _ _
  dsimp only
  split <;> rfl

@[simp] theorem State.settleGranule_teams (offer : State → Nat → List (Writer × PByte)) (s : State) (g : Nat) : (s.settleGranule offer g).teams = s.teams := by
  unfold State.settleGranule
  have chosen := chooseBytes_teams offer g s
  generalize chooseBytes offer g s = p at chosen ⊢
  obtain ⟨got, s1⟩ := p
  have logged : (got.foldl (fun s x => s.logLine x.2.1 x.1) s1).teams = s.teams := (foldl_keeps State.teams (fun s _ => State.logLine_teams s _ _) got s1).trans chosen
  cases got with
  | nil => exact logged
  | cons x xs =>
    refine (State.invalidate_teams _ _ _).trans (Eq.trans ?_ logged)
    dsimp only
    split
    · exact State.commitWrite_teams _ _ _ _ _
    · exact foldl_keeps State.teams (fun s _ => State.commitWrite_teams s _ _ _ _) _ _

@[simp] theorem State.settle_teams (s : State) (sel : Pend → Nat → Bool) (selp : PeerPend → Nat → Bool) : (s.settle sel selp).teams = s.teams :=
  foldl_keeps State.teams (State.settleGranule_teams _) _ s

@[simp] theorem State.applyPartial_teams (s : State) (p : Partial) : (s.applyPartial p).teams = s.teams := by
  unfold State.applyPartial
  split
  · rfl
  · exact foldl_keeps State.teams (fun s _ => State.homeWrite_teams s _ _ _ _) _ s

/-! ### The relation -/

/-- A team without what memory, locks, copies and barriers may change of it: counts, ports, marks, the latches of its fragments. -/
def Team.lasting (t : Team) : Team :=
  { t with
    frags := t.frags.map (fun e => (e.1, { e.2 with latch := .none }))
    flags := [], ports := [], paths := [], early := false, acq := 0, lockOut := false }

/-- Every team is there as it was, but for those parts of it. -/
def TeamsLast (s s' : State) : Prop := ∀ u, (s'.team? u).map Team.lasting = (s.team? u).map Team.lasting

theorem TeamsLast.trans {s s' s'' : State} (h : TeamsLast s s') (h' : TeamsLast s' s'') : TeamsLast s s'' := fun u => (h' u).trans (h u)

theorem TeamsLast.of_teams {s s' : State} (h : s'.teams = s.teams) : TeamsLast s s' := fun u => by rw [State.team?, h, State.team?]

theorem TeamsLast.refl (s : State) : TeamsLast s s := .of_teams rfl

theorem TeamsLast.foldl {α : Type} {f : State → α → State} (h : ∀ s x, TeamsLast s (f s x)) (l : List α) (s : State) : TeamsLast s (l.foldl f s) := by
  induction l generalizing s with
  | nil => exact .refl s
  | cons x l ih => exact (h s x).trans (ih _)

theorem TeamsLast.ite {s a b : State} (c : Prop) [Decidable c] (ha : TeamsLast s a) (hb : TeamsLast s b) : TeamsLast s (if c then a else b) := by
  split
  · exact ha
  · exact hb

theorem TeamsLast.updTeam (s : State) (t : Nat) {f : Team → Team} (h : ∀ x, (f x).lasting = x.lasting) : TeamsLast s (s.updTeam t f) := by
  intro u
  by_cases hu : u = t
  · rw [hu, State.updTeam_team?_same, Option.map_map, show Team.lasting ∘ f = Team.lasting from funext h]
  · rw [State.updTeam_team?_other s f hu]

/-- A change of every team. -/
theorem TeamsLast.map {s s' : State} {f : Team → Team} (hs : s'.teams = s.teams.map (fun e => (e.1, f e.2))) (h : ∀ x, (f x).lasting = x.lasting) :
    TeamsLast s s' := by
  intro u
  rw [State.team?, hs, NMap.look_mapVal, Option.map_map, show Team.lasting ∘ f = Team.lasting from funext h, State.team?]

/-- A change of fragments that leaves all but their latches. -/
theorem Team.lasting_mapFrags (t : Team) {f : Nat × Fragment → Nat × Fragment}
    (h : ∀ e, ((f e).1, { (f e).2 with latch := .none }) = (e.1, { e.2 with latch := Latch.none })) : { t with frags := t.frags.map f }.lasting = t.lasting := by
  unfold Team.lasting
  rw [List.map_map]
  exact congrArg (fun fs => ({ t with frags := fs, flags := [], ports := [], paths := [], early := false, acq := 0, lockOut := false } : Team))
    (List.map_congr_left fun e _ => h e)

/-! ### Memory settled -/

theorem TeamsLast.updMem (s : State) (f : MemSt → MemSt) : TeamsLast s (s.updMem f) := .of_teams rfl

theorem TeamsLast.markEarly (s : State) (sel : Pend → Nat → Bool) : TeamsLast s (s.markEarly sel) :=
  .foldl (fun s _ => .ite _ (.updTeam s _ (f := fun t => { t with early := true }) (fun _ => rfl)) (.refl s)) _ s

theorem TeamsLast.mergeLine (s : State) (line : Nat) : TeamsLast s (s.mergeLine line) := .trans (.markEarly s _) (.of_teams (State.settle_teams _ _ _))

theorem TeamsLast.combine (s : State) (sector : Nat) : TeamsLast s (s.combine sector) := by
  unfold State.combine
  extract_lets mine s1
  have h1 : TeamsLast s s1 := .mergeLine s _
  exact .ite _ (.refl s) (h1.trans (.foldl (fun s p => .of_teams (State.applyPartial_teams s p)) mine s1))

theorem TeamsLast.claimLine (s : State) (line : Nat) : TeamsLast s (s.claimLine line) :=
  .trans (.foldl (fun s i => .combine s (line / 64 + i)) (List.range 4) s) (.mergeLine _ line)

/-! ### Locks, copies, phases and barriers -/

theorem TeamsLast.retire (s : State) (t : Nat) : TeamsLast s (s.retire t) := .updTeam s t (fun _ => rfl)

theorem TeamsLast.freeWaiter (s : State) (t : Nat) : TeamsLast s (s.freeWaiter t) := by
  unfold State.freeWaiter
  split
  · exact .refl s
  · exact .of_teams rfl

theorem TeamsLast.lockStatus (s : State) (team status : Nat) : TeamsLast s (s.lockStatus team status) := by
  refine .trans (.trans (.of_teams rfl) (.updTeam (s.dropLockReq team) team (fun t => ?_))) (.retire _ team)
  refine Team.lasting_mapFrags { t with lockOut := false } (fun e => ?_)
  dsimp only
  split <;> rfl

theorem TeamsLast.passLock (s : State) (k : LineLock) (data : Store) : TeamsLast s (s.passLock k data) := by
  unfold State.passLock
  extract_lets w home order
  have homes (s : State) : TeamsLast s (home s) :=
    .foldl (fun s i => .ite _ (.refl s) (.of_teams (State.homeWrite_teams s w _ _ _))) (List.range 32) s
  clear_value home
  split
  case h_1 => exact .trans (.of_teams rfl) (homes _)
  case h_2 =>
    extract_lets away k' s1 s2
    have h2 : TeamsLast s s2 := (homes s).trans (.of_teams rfl)
    refine .ite _ h2 (h2.trans ?_)
    exact .trans (.trans (.freeWaiter s2 _) (.lockStatus _ _ 0)) (.of_teams rfl)

theorem TeamsLast.letGo (s : State) (t : Nat) : TeamsLast s (s.letGo t) := .ite _ (.refl s) (.foldl (fun s k => .passLock s k k.copy) _ s)

theorem TeamsLast.withdrawWaits (s : State) (t : Nat) : TeamsLast s (s.withdrawWaits t) := by
  unfold State.withdrawWaits
  extract_lets s1 s2
  have h2 : TeamsLast s s2 := .trans (.freeWaiter s t) (.of_teams rfl)
  exact h2.trans (.foldl (fun s k => .passLock s k k.check) _ s2)

theorem TeamsLast.ownSegs (s : State) (op : Nat) (segs : List Seg) : TeamsLast s (s.ownSegs op segs) :=
  .foldl (fun s _ => .ite _ (.refl s) (.trans (.ite _ (.claimLine s _) (.refl s)) (.updMem _ _))) _ s

theorem TeamsLast.copyTest (s : State) (launch num h : Nat) : TeamsLast s (s.copyTest launch num h) := by
  unfold State.copyTest
  split
  · exact .refl s
  · split
    · exact .refl s
    · refine .ite _ ?_ (.refl s)
      split
      case h_1 id s0 fresh =>
        extract_lets srt first op0 op s1 s2
        have h0 : s0.teams = s.teams := (Prod.mk.inj fresh).2 ▸ rfl
        have h1 : TeamsLast s s1 := .of_teams h0
        have h2 : TeamsLast s1 s2 := .ownSegs s1 _ _
        exact h1.trans (h2.trans (.of_teams rfl))

theorem TeamsLast.phaseTest (s : State) (launch core : Nat) : TeamsLast s (s.phaseTest launch core) := by
  unfold State.phaseTest
  split
  · exact .refl s
  · split
    · exact .refl s
    · exact .ite _ (.of_teams (State.updLaunch_teams _ _ _)) (.refl s)

theorem TeamsLast.barTest (s : State) (key : Nat) (sel : Team → Bool) : TeamsLast s (s.barTest key sel) := by
  unfold State.barTest
  extract_lets ts seq
  refine .ite _ (.map (f := fun t => if sel t && t.status != .ended then
    { t with acq := seq, frags := t.frags.map (fun e => (e.1, { e.2 with latch := .done 0 })) } else t) ?_ (fun t => ?_)) (.refl s)
  · refine List.map_congr_left (fun e _ => ?_)
    dsimp only
    split <;> rfl
  · split
    · exact Team.lasting_mapFrags { t with acq := seq } (fun _ => rfl)
    · rfl

theorem TeamsLast.barriers (s : State) (launch group : Nat) : TeamsLast s (s.barriers launch group) := .trans (.barTest s 3 _) (.barTest _ 4 _)

/-! ### The end of a team -/

theorem TeamsLast.team? {s s' : State} (h : TeamsLast s s') {u : Nat} {t : Team} (ht : s.team? u = some t) :
    ∃ t', s'.team? u = some t' ∧ t'.lasting = t.lasting := by
  have hu := h u
  rw [ht, Option.map_some, Option.map_eq_some_iff] at hu
  exact hu

/-- A team that ends is there as it was, but that it has ended. -/
theorem State.endTeam_team? {s : State} {tid : Nat} {t : Team} (ht : s.team? tid = some t) :
    ∃ t', (s.endTeam tid).team? tid = some t' ∧ t'.lasting = { t with status := .ended }.lasting := by
  unfold State.endTeam
  split
  case h_1 none => exact absurd (none.symm.trans ht) (by simp)
  case h_2 t0 ht0 =>
    obtain rfl : t0 = t := Option.some.inj (ht0.symm.trans ht)
    extract_lets s1 s2 s3 s4 s5
    have h2 : TeamsLast s s2 := .trans (.letGo s tid) (.withdrawWaits s1 tid)
    obtain ⟨t2, ht2, same2⟩ := h2.team? ht
    have ht3 : s3.team? tid = some { t2 with status := .ended, lockOut := false } := by rw [State.updTeam_team?_same, ht2, Option.map_some]
    have h4 : TeamsLast s3 s4 := .of_teams rfl
    have h5 : TeamsLast s4 s5 := .foldl (fun s h => .copyTest s t0.launch t0.group h) _ s4
    have last := h4.trans <| h5.trans <| .trans (.phaseTest s5 t0.launch t0.core) (.barriers _ t0.launch t0.group)
    obtain ⟨t', ht', same⟩ := last.team? ht3
    exact ⟨t', ht', same.trans (congrArg (fun t : Team => { t with status := .ended }) same2)⟩

/-- What teams that are alike in what lasts have in common. -/
theorem Team.of_lasting {t t' : Team} (h : t'.lasting = t.lasting) :
    t'.status = t.status ∧ t'.joins = t.joins ∧ t'.serial = t.serial ∧ (t.frags = [] → t'.frags = []) := by
  refine ⟨(congrArg Team.status h :), (congrArg Team.joins h :), (congrArg Team.serial h :), fun none => ?_⟩
  have frags : t'.lasting.frags = [] := by rw [h, Team.lasting, none, List.map_nil]
  exact List.map_eq_nil_iff.mp frags

/-- A running team without a fragment ends. -/
theorem State.endIfEmpty_team? {s : State} {tid : Nat} {t : Team} (ht : s.team? tid = some t) (none : t.frags = []) (running : t.status = .running) :
    ∃ t', (s.endIfEmpty tid).team? tid = some t' ∧ t'.lasting = { t with status := .ended }.lasting := by
  have ends : (t.frags.isEmpty && t.status == .running) = true := by simp [none, running]
  simp only [State.endIfEmpty, ht, ends, if_true]
  exact State.endTeam_team? ht

/-! ### A fragment changed -/

theorem State.updFrag_team? {s : State} {tid e : Nat} {t : Team} {f : Fragment} (g : Fragment → Fragment) (ht : s.team? tid = some t) (hf : t.frag? e = some f) :
    (s.updFrag tid e g).team? tid = some (t.setFrag e (g f)) := by
  rw [State.updFrag, State.updTeam_team?_same, ht, Option.map_some, hf]

/-- A change of a team's only fragment. -/
theorem Team.setFrag_only {t : Team} {e : Nat} {f : Fragment} (only : t.frags = [(e, f)]) (g : Fragment) : (t.setFrag e g).frags = [(e, g)] := by
  rw [Team.setFrag, only]
  exact if_pos rfl

theorem Team.frag?_only {t : Team} {e : Nat} {f : Fragment} (only : t.frags = [(e, f)]) : t.frag? e = some f := by
  rw [Team.frag?, only]
  exact if_pos rfl

theorem hashTeam_only {iss : Issue} (i : Instr) {t : Team} {f : Fragment} (only : t.frags = [(iss.entry, f)]) :
    ∃ g, (hashTeam iss i t).frags = [(iss.entry, { f with sig := g })] := by
  unfold hashTeam
  split
  · exact ⟨f.sig, only⟩
  · exact ⟨f.sig, only⟩
  · rw [Team.frag?_only only]
    exact ⟨_, Team.setFrag_only only _⟩

theorem hashTeam_status (iss : Issue) (i : Instr) (t : Team) : (hashTeam iss i t).status = t.status :=
  (congrArg Team.status (hashTeam_quiet iss i t) :)

/-! ### The last lane leaves -/

/-- At a join of a team without fragments nothing goes on. -/
theorem Team.joinTest_of_empty {t : Team} (none : t.frags = []) (j : Nat) : (t.joinTest j).1.frags = [] ∧ (t.joinTest j).2 = Option.none := by
  unfold Team.joinTest
  split
  · exact ⟨none, rfl⟩
  · split
    · simp [Team.closeJoin, none]
    · split
      · simp [none]
      · exact ⟨none, rfl⟩

/-- The only fragment of a team without serial records is gone when its last lane has left. -/
theorem Team.settle_last (n : Nat) {t : Team} {e : Nat} {f : Fragment} (only : t.frags = [(e, f)]) (empty : f.mask = 0) (serial : t.serial = []) :
    (Team.settle (n + 1) t e).frags = [] := by
  have hf : t.frag? e = some f := Team.frag?_only only
  have top : topSerial t e = none := by rw [topSerial, serial]; rfl
  have lanes : (f.mask == 0) = true := beq_iff_eq.mpr empty
  have gone : NMap.del t.frags e = [] := by rw [only]; exact if_pos rfl
  have dropped : (t.dropFrag e f).frags = [] := by simp [Team.dropFrag, gone]
  unfold Team.settle
  simp only [hf, top, lanes, Option.filter_none, if_true]
  split
  case h_1 => exact dropped
  case h_2 r _ =>
    have left : ({ t.dropFrag e f with joins := NMap.put (t.dropFrag e f).joins f.join { r with expected := r.expected - 1 } } : Team).frags = [] := dropped
    obtain ⟨frags, onward⟩ := Team.joinTest_of_empty left f.join
    split
    case h_1 test => rw [test] at onward; cases onward
    case h_2 test => rw [test] at frags; exact frags

end Sys2Proof.Machine

namespace Sys2Proof.Claims
open Sys2Proof.Machine

variable {s : State} {iss : Issue}

/-- The address or value of a control instruction's source. -/
theorem ctlSrc_eq_plainSrc (iss : Issue) (b : Src) : ctlSrc iss b = plainSrc iss b := by
  cases b with
  | lit w => rfl
  | reg r => exact teamReg_eq_plainSrc iss r

/-! ### EXIT and STOP (R141) -/

/-- EXIT of some lanes of the fragment. -/
theorem exec_exit_some (h : Issues s iss .exit) (active : iss.act ≠ 0) (left : iss.frag.mask &&& ~~~iss.act ≠ 0) : exec .exit s =
    .next (endsClause ((hashed s iss .exit).updFrag iss.tid iss.entry (fun f => { f with mask := iss.frag.mask &&& ~~~iss.act })) iss .exit) := by
  rw [exec_exit, execExit, run_of_issues h]
  simp only [iss.active active, beq_eq_false_iff_ne.mpr left, Bool.false_eq_true, if_false]
  rfl

/-- EXIT of the last lanes of a team ends it. -/
theorem exec_exit_last (h : Issues s iss .exit) (active : iss.act ≠ 0) (left : iss.frag.mask &&& ~~~iss.act = 0)
    (only : iss.team.frags = [(iss.entry, iss.frag)]) (serial : iss.team.serial = []) (running : iss.team.status = .running) :
    ∃ s' t', exec .exit s = .next (moves s' iss .exit) ∧ s'.team? iss.tid = some t' ∧ t'.status = .ended ∧ t'.frags = [] := by
  obtain ⟨g, hashedOnly⟩ := hashTeam_only .exit only
  -- the fragment without its lanes, and the team without its fragment
  have gone : ((hashed s iss .exit).updFrag iss.tid iss.entry (fun f => { f with mask := iss.frag.mask &&& ~~~iss.act })).team? iss.tid =
      some ((hashTeam iss .exit iss.team).setFrag iss.entry { iss.frag with sig := g, mask := iss.frag.mask &&& ~~~iss.act }) :=
    State.updFrag_team? _ h.hashed_team? (Team.frag?_only hashedOnly)
  have settled := (State.updTeam_team?_same _ _ fun t => Team.settle settleFuel t iss.entry).trans (congrArg (Option.map _) gone)
  have empty := Team.settle_last 199 (Team.setFrag_only hashedOnly { iss.frag with sig := g, mask := iss.frag.mask &&& ~~~iss.act }) left
    ((hashTeam_serial ..).trans serial)
  have status := (congrArg Team.status (Team.settle_quiet settleFuel ((hashTeam iss .exit iss.team).setFrag iss.entry
    { iss.frag with sig := g, mask := iss.frag.mask &&& ~~~iss.act }) iss.entry) :).trans ((hashTeam_status ..).trans running)
  obtain ⟨t1, ht1, last⟩ := State.endIfEmpty_team? settled empty status
  obtain ⟨t', ht', same⟩ := (TeamsLast.barriers _ iss.team.launch iss.team.group).team? ht1
  obtain ⟨ended, -, -, frags⟩ := Team.of_lasting (same.trans last)
  refine ⟨_, t', ?_, ht', ended, frags empty⟩
  rw [exec_exit, execExit, run_of_issues h]
  simp only [iss.active active, beq_iff_eq.mpr left, Bool.false_eq_true, if_false, if_true]
  rfl

/-- STOP with an active lane ends its team. -/
theorem exec_stop_active (h : Issues s iss .stop) (active : iss.act ≠ 0) (running : iss.team.status = .running) :
    ∃ s' t', exec .stop s = .next (moves s' iss .stop) ∧ s'.team? iss.tid = some t' ∧ t'.status = .ended ∧ t'.frags = [] ∧ t'.joins = [] ∧ t'.serial = [] := by
  have ht : ((hashed s iss .stop).updTeam iss.tid (fun t => { t with frags := [], joins := [], serial := [] })).team? iss.tid =
      some { hashTeam iss .stop iss.team with frags := [], joins := [], serial := [] } := by
    rw [State.updTeam_team?_same, h.hashed_team?, Option.map_some]
  have status : (hashTeam iss .stop iss.team).status = .running := (hashTeam_status ..).trans running
  obtain ⟨t', ht', last⟩ := State.endIfEmpty_team? ht rfl status
  obtain ⟨ended, joins, serials, frags⟩ := Team.of_lasting last
  refine ⟨_, t', ?_, ht', ended, frags rfl, joins, serials⟩
  rw [exec_stop, execStop, run_of_issues h]
  simp only [iss.active active, Bool.false_eq_true, if_false]
  rfl

/-- A signature mismatch with no restart label, or with both retries spent, is a fatal fault (R337). -/
theorem mismatch_spent (spent : ∀ l, s.launch? iss.team.launch = some l → l.restart = 0 ∨ 2 ≤ iss.team.retries) : mismatch s iss = .stop 8 0 0 0 := by
  unfold mismatch
  split
  · rfl
  case h_2 l hl =>
    refine if_neg ?_
    rcases spent l hl with noLabel | retried
    · simp [noLabel]
    · simp [Nat.not_lt.mpr retried]

/-- Settles O14, instruction by instruction. -/
theorem fragmentControlResults : Obligations.FragmentControlResults := by
  unfold Obligations.FragmentControlResults
  intro b s iss
  refine ⟨fun h => ?_, fun h => ?_, fun h serial join => ?_, fun h serial j join => ?_, fun h r serial => ?_, fun h idle => ?_, exec_exit_some, exec_exit_last,
    fun h idle => ?_, exec_stop_active, fun h matches' => ?_, fun h differs spent => ?_⟩
  · rw [exec_nop, execNop, run_of_issues h]
    rfl
  · rw [exec_yield, execYield, run_of_issues h]
    rfl
  · rw [exec_fuse, execFuse, run_of_issues h, serial, join]
    rfl
  · rw [exec_fuse, execFuse, run_of_issues h, serial, join]
    rfl
  · rw [exec_fuse, execFuse, run_of_issues h, serial]
    rfl
  · rw [exec_exit, execExit, run_of_issues h, if_pos (iss.idle idle)]
    rfl
  · rw [exec_stop, execStop, run_of_issues h, if_pos (iss.idle idle)]
    rfl
  · rw [exec_sigchk, execSigchk, run_of_issues h, ctlSrc_eq_plainSrc, if_pos (beq_iff_eq.mpr matches')]
    rfl
  · rw [exec_sigchk, execSigchk, run_of_issues h, ctlSrc_eq_plainSrc, if_neg (by simpa using differs), mismatch_spent (s := hashed s iss (.sigchk b)) spent]
    rfl

end Sys2Proof.Claims
end

section
/-! Why a launch that completes can change another (R53, R84, R353): the record of KIND 9 of its context is written to the call ring, and every launch in
progress keeps the old values of the words of host memory that a write changes. -/

namespace Sys2Proof.Claims
open Sys2Proof.Machine

/-- A context that has consumed poison (R352), with a call ring of 16 records at address 0 of host memory. -/
def poisonedCtx : Ctx := { Ctx.fresh 0 0 [] with check := BitVec.ofNat 64 (2 ^ 63), crBase := 4 }

/-- A launch of that context whose one group has ended, its DONECT enabled: counter 0 of die 0. -/
def doneLaunch : Launch := { Launch.ofRecord (leBytes 128 (2 ^ 15 * 2 ^ 576)) with id := 1, next := 1, ended := 1 }

/-- Another launch, in progress. -/
def otherLaunch : Launch := { Launch.ofRecord [] with id := 2 }

/-- The machine with these two launches. -/
def twoLaunches : State := { State.reset with launches := [(1, doneLaunch), (2, otherLaunch)], ctxs := [(0, poisonedCtx)] }

/-- The first launch has completed, with a counter to raise. -/
theorem doneLaunch_finished : twoLaunches.finished doneLaunch = true ∧ refOn doneLaunch.donect = true ∧
    twoLaunches.mem.ctr.tagged (refAddr doneLaunch.donect) 8 = false := by decide +kernel

/-- Its completion changes the other launch, which keeps the zeros that stood in the call ring. -/
theorem launchComplete_changes_otherLaunch : (match exec (.launchComplete 1) twoLaunches with
    | .next s' => decide (s'.launch? 2 = some otherLaunch)
    | .fault _ => true
    | .refused _ => true) = false := by decide +kernel

/-- Refutes O47: LAUNCH_COMPLETE does not leave every other launch as it was. Where the context has consumed poison, the record of KIND 9 changes words of
host memory, and the launches in progress keep the values that stood there. -/
theorem not_placementEvents : ¬ Obligations.PlacementEvents := by
  unfold Obligations.PlacementEvents
  intro h
  obtain ⟨-, -, -, -, -, -, -, complete, -⟩ := h twoLaunches 0 0 0 0 0
  obtain ⟨finished, enabled, untagged⟩ := doneLaunch_finished
  obtain ⟨s', done, -, others, -⟩ := (complete 1 doneLaunch rfl rfl).2 finished rfl enabled untagged
  have changed := launchComplete_changes_otherLaunch
  rw [done] at changed
  exact of_decide_eq_false changed (others 2 (by decide))

end Sys2Proof.Claims
end

section
/-! What device reset leaves (R303). -/

namespace Sys2Proof.Claims
open Sys2Proof.Machine

/-- Settles O42: every field is read off the reset state. -/
theorem resetState : Obligations.ResetState := by
  unfold Obligations.ResetState
  exact ⟨rfl, rfl, rfl, rfl, rfl, rfl, fun _ => ⟨rfl, rfl⟩, fun _ => rfl, rfl, rfl, fun _ => rfl, fun _ => rfl, rfl, rfl, fun _ => rfl, rfl, rfl⟩

end Sys2Proof.Claims
end

section
/-! What a step of the cores issues (R60, R111, R113, R131): words fetched and decoded, clauses opened, the fragment chosen. -/

namespace Sys2Proof.Machine

/-! ### Fetch -/

/-- A word that the launch does not keep is fetched as it stands. -/
theorem codeWord_of_not_kept {s : State} {launch key : Nat} (now : Word) (h : ∀ l, s.launch? launch = some l → NMap.look l.icache key = none) :
    codeWord s launch key now = (now, s) := by
  have kept : (s.launch? launch).bind (fun l => NMap.look l.icache key) = none := by
    rw [Option.bind_eq_none_iff]
    exact h
  rw [codeWord, kept]

/-- A fetch from local HBM (R111): the four bytes at the translated address, the lowest first. -/
theorem State.fetchWord_local {s s1 : State} {t : Team} {va pa : Nat} {h : Hit} (outside : isWindow va = false)
    (hit : s.translate (some t.core) (s.ctxOf t.launch) va .exec = (.hit h, s1)) (loc : hitLoc h = { space := 0, x := 0, y := 0, addr := pa })
    (fresh : ∀ l, s1.launch? t.launch = some l → NMap.look l.icache pa = none) :
    s.fetchWord t va = .word (BitVec.ofNat 32 (leNat (s1.mem.hbm.read pa 4))) s1 := by
  simp [State.fetchWord, outside, hit, loc, codeWord_of_not_kept _ fresh]

/-! ### The body word of an open clause -/

variable {s s1 s2 : State} {t : Team} {e pc : Nat} {c : Clause} {w lit : Word} {i : Instr}

/-- A word without a literal issues what it decodes to. -/
theorem bodyAttempt_one (fetch : s.fetchWord t pc = .word w s1) (one : wordsOf w = 1) (decoded : decodeWord w none = .ok i) :
    bodyAttempt s t e pc c = .issue i { s1 with issuing := some (t.id, e) } := by
  simp [bodyAttempt, fetch, one, decoded]

/-- A word with a literal in its clause issues what the two decode to. -/
theorem bodyAttempt_two (fetch : s.fetchWord t pc = .word w s1) (two : wordsOf w = 2) (within : pc + 4 < c.hdr + 4 * (c.len + 1))
    (literal : s1.fetchWord t (pc + 4) = .word lit s2) (decoded : decodeWord w (some lit) = .ok i) :
    bodyAttempt s t e pc c = .issue i { s2 with issuing := some (t.id, e) } := by
  simp [bodyAttempt, fetch, two, within, literal, decoded]

/-- A word that does not decode is an illegal encoding (R112, R325). -/
theorem bodyAttempt_illegal {x : DecodeError} (fetch : s.fetchWord t pc = .word w s1) (one : wordsOf w = 1) (rejected : decodeWord w none = .error x) :
    bodyAttempt s t e pc c = .only (takeFault s1 t.id e 1 0 0 0) := by
  simp [bodyAttempt, fetch, one, rejected]

/-- At a legal header whose waits are met the clause opens, and its first word is tried. -/
theorem headerAttempt_opens {f : Fragment} {h : Header} (fetch : s.fetchWord t f.pc = .word w s1) (legal : decodeHeader w = some h)
    (met : ∀ n, n < 12 → h.wait.getLsbD n = true → t.flag n = 0) :
    headerAttempt s t e f =
      let c : Clause := { hdr := f.pc, len := h.len, setA := h.setA, setB := h.setB, mood := t.mood h.msel.val, yield := h.yield }
      bodyAttempt (s1.updFrag t.id e (fun f => { f with pc := f.pc + 4, clause := some c })) t e (f.pc + 4) c := by
  have clear : (List.range 12).any (fun n => h.wait.getLsbD n && t.flag n != 0) = false := by
    rw [List.any_eq_false]
    intro n hn waits
    rw [Bool.and_eq_true, bne_iff_ne] at waits
    exact waits.2 (met n (List.mem_range.mp hn) waits.1)
  simp [headerAttempt, fetch, legal, clear]

/-! ### What a fragment can do -/

/-- A fragment that may be tried: it waits for nothing, and its team is resident and runs. -/
structure MayIssue (s : State) (tid e : Nat) (t : Team) (f : Fragment) : Prop where
  team : s.team? tid = some t
  frag : t.frag? e = some f
  resident : t.evicted = false
  running : t.status = .running
  apart : f.st ≠ .parked
  free : f.latch = .none ∨ ∃ v, f.latch = .done v

variable {tid : Nat} {f : Fragment}

theorem MayIssue.attempt_in_clause (h : MayIssue s tid e t f) (inClause : f.clause = some c) : attempt s tid e = bodyAttempt s t e f.pc c := by
  obtain ⟨team, frag, resident, running, apart, free⟩ := h
  rcases free with latch | ⟨v, latch⟩ <;> simp [attempt, team, frag, resident, running, apart, latch, inClause]

/-- A victim of pre-emption opens no further clause. -/
theorem MayIssue.attempt_at_header (h : MayIssue s tid e t f) (atHeader : f.clause = none) (kept : t.victim = false) :
    attempt s tid e = headerAttempt s t e f := by
  obtain ⟨team, frag, resident, running, apart, free⟩ := h
  rcases free with latch | ⟨v, latch⟩ <;> simp [attempt, team, frag, resident, running, apart, latch, atHeader, kept]

/-! ### The step -/

theorem coresStep_one {s : State} {q : Nat} (only : s.quarters = [q]) : coresStep s = tryQuarters [q] s := by
  rw [coresStep, only]

/-- Which of several quarters is tried first is a free choice (log 1). -/
theorem coresStep_many {s : State} (many : 2 ≤ s.quarters.length) :
    coresStep s = tryQuarters (s.quarters.drop (Config.choice s.free % s.quarters.length) ++ s.quarters.take (Config.choice s.free % s.quarters.length))
      { s with free := s.free + 1 } := by
  unfold coresStep
  split
  · next none => simp [none] at many
  · next one => simp [one] at many
  · rfl

/-- The state from which a fragment that would issue from s1 does: unless it keeps the quarter, the quarter's yields end (R60). -/
def issueState (q : Nat) (holder : Option (Nat × Nat)) (c : Cand) (s1 : State) : State :=
  if holder = some (c.tid, c.entry) ∧ c.frag.clause.isSome then s1 else s1.clearYields q

/-- The first fragment of a quarter that issues and does not only wait is the one that moves. -/
theorem tryFrags_next {q : Nat} {holder : Option (Nat × Nat)} {c : Cand} {cs : List Cand} {s s1 s3 : State} {i : Instr}
    (would : attempt s c.tid c.entry = .issue i s1) (done : exec i (issueState q holder c s1) = .next s3) (goes : s3.onlyWaits c.tid c.entry c.frag.latch = false) :
    tryFrags q holder (c :: cs) s = (some (.next (s3.keepQuarter q c.tid c.entry)), s) := by
  simp only [issueState] at done
  simp [tryFrags, would, done, goes]

theorem tryFrags_fault {q : Nat} {holder : Option (Nat × Nat)} {c : Cand} {cs : List Cand} {s s1 : State} {i : Instr} {f : Fault}
    (would : attempt s c.tid c.entry = .issue i s1) (stops : exec i (issueState q holder c s1) = .fault f) :
    tryFrags q holder (c :: cs) s = (some (.fault f), s) := by
  simp only [issueState] at stops
  simp [tryFrags, would, stops]

/-- A quarter one of whose fragments has moved is the one whose outcome counts. -/
theorem tryQuarters_first {q : Nat} {qs : List Nat} {s s1 : State} {o : Host.Outcome State Fault Refusal} {holder : Option (Nat × Nat)}
    (keeps : holder = NMap.look (s.coreSt (q / 4)).holder (q % 4)) (moved : tryFrags q holder (issueOrder holder (s.quarterFrags q)) s = (some o, s1)) :
    tryQuarters (q :: qs) s = (some o, s1) := by
  subst keeps
  simp only [tryQuarters, moved]

/-- Where the cores can move on their turn, their move is the step. -/
theorem step_of_cores {s s1 : State} {o : Host.Outcome State Fault Refusal} (ready : s.booting = false) (quiet : s.agenda = []) (up : s.boot.failed = none)
    (turn : s.turn = .cores) (moved : coresStep s = (some o, s1)) : step s = withTurn .engines o := by
  simp [step, ready, quiet, up, sidesStep, turn, moved]

end Sys2Proof.Machine

namespace Sys2Proof.Claims
open Sys2Proof.Machine

/-- Settles O35: fetch, the two places where a fragment stands, and the choice of the quarter and of its first fragment. -/
theorem stepRunsDecoded : Obligations.StepRunsDecoded := by
  unfold Obligations.StepRunsDecoded
  refine ⟨fun s t va h s1 pa => State.fetchWord_local, fun s tid e t f team frag resident running apart free => ?_, ?_⟩
  · have may : MayIssue s tid e t f := ⟨team, frag, resident, running, apart, free⟩
    refine ⟨fun c w s1 inClause fetch => ?_, ?_⟩
    · rw [may.attempt_in_clause inClause]
      exact ⟨fun i => bodyAttempt_one fetch, fun i lit s2 => bodyAttempt_two fetch, fun x => bodyAttempt_illegal fetch⟩
    · intro w h s1 atHeader kept fetch legal met c s2 v i s3 word one decoded
      rw [may.attempt_at_header atHeader kept, headerAttempt_opens fetch legal met]
      exact bodyAttempt_one word one decoded
  · intro s q qs c cs i s1 ready quiet up turn n s0 k order holder ranked would s2
    have cores : coresStep s = tryQuarters (q :: qs) s0 := by
      by_cases many : 2 ≤ n
      · simp only [k, s0, many, if_true] at order ⊢
        rw [coresStep_many many, order]
      · simp only [k, many, if_false, List.drop_zero, List.take_zero, List.append_nil] at order
        obtain rfl : qs = [] := by
          refine List.length_eq_zero_iff.mp ?_
          simp only [n, order, List.length_cons] at many
          omega
        simp only [s0, many, if_false]
        exact coresStep_one order
    refine ⟨fun s3 done goes => ?_, fun f stops => ?_⟩
    · have moved := tryFrags_next (cs := cs) would done goes
      rw [← ranked] at moved
      exact step_of_cores ready quiet up turn (cores.trans (tryQuarters_first rfl moved))
    · have moved := tryFrags_fault (cs := cs) would stops
      rw [← ranked] at moved
      exact step_of_cores ready quiet up turn (cores.trans (tryQuarters_first rfl moved))

end Sys2Proof.Claims
end

section
/-! What memory leaves alone: writes, settling, translation and the reads of the front end change no slot, group, pair and Conjunction slot, and no
launch but the words that it may still see. -/

namespace Sys2Proof.Machine

/-! ### The relation -/

/-- Slots, groups, pairs and Conjunction slots stand as they were, and the launches are the same ones. -/
structure Untouched (s s' : State) : Prop where
  slots : s'.slots = s.slots
  groups : s'.groups = s.groups
  pairs : s'.pairs = s.pairs
  conj : s'.conj = s.conj
  launches : ∀ k, (s'.launch? k).map Launch.id = (s.launch? k).map Launch.id

theorem Untouched.refl (s : State) : Untouched s s := ⟨rfl, rfl, rfl, rfl, fun _ => rfl⟩

theorem Untouched.trans {s s' s'' : State} (h : Untouched s s') (h' : Untouched s' s'') : Untouched s s'' :=
  ⟨h'.slots.trans h.slots, h'.groups.trans h.groups, h'.pairs.trans h.pairs, h'.conj.trans h.conj, fun k => (h'.launches k).trans (h.launches k)⟩

theorem Untouched.foldl {α : Type} {f : State → α → State} (h : ∀ s x, Untouched s (f s x)) (l : List α) (s : State) : Untouched s (l.foldl f s) := by
  induction l generalizing s with
  | nil => exact .refl s
  | cons x l ih => exact (h s x).trans (ih _)

theorem Untouched.ite {s a b : State} (c : Prop) [Decidable c] (ha : Untouched s a) (hb : Untouched s b) : Untouched s (if c then a else b) := by
  split
  · exact ha
  · exact hb

/-! ### Parts of the state other than these -/

theorem Untouched.updMem (s : State) (f : MemSt → MemSt) : Untouched s (s.updMem f) := ⟨rfl, rfl, rfl, rfl, fun _ => rfl⟩
theorem Untouched.updMgmt (s : State) (f : MgmtSt → MgmtSt) : Untouched s (s.updMgmt f) := ⟨rfl, rfl, rfl, rfl, fun _ => rfl⟩
theorem Untouched.setFree (s : State) (n : Nat) : Untouched s { s with free := n } := ⟨rfl, rfl, rfl, rfl, fun _ => rfl⟩
theorem Untouched.setCores (s : State) (c : NMap CoreSt) : Untouched s { s with cores := c } := ⟨rfl, rfl, rfl, rfl, fun _ => rfl⟩

theorem Untouched.updTeam (s : State) (t : Nat) (f : Team → Team) : Untouched s (s.updTeam t f) := by
  refine ⟨?_, ?_, ?_, ?_, fun k => ?_⟩ <;> simp [State.launch?]

theorem Untouched.updCtx (s : State) (c : Nat) (f : Ctx → Ctx) : Untouched s (s.updCtx c f) := by
  refine ⟨?_, ?_, ?_, ?_, fun k => ?_⟩ <;> simp [State.launch?]

/-! ### Records and memory -/

@[simp] theorem Launch.keepWord_id (w : Writer) (l : Launch) (x : Nat × Word × Word) : (Launch.keepWord w l x).id = l.id := by
  unfold Launch.keepWord
  dsimp only
  split_ifs <;> rfl

theorem Untouched.keepWords (s : State) (w : Writer) (ws : List (Nat × Word × Word)) : Untouched s (s.keepWords w ws) := by
  refine .ite _ (.refl s) ⟨rfl, rfl, rfl, rfl, fun k => ?_⟩
  have same (l : Launch) : (ws.foldl (Launch.keepWord w) l).id = l.id := foldl_keeps Launch.id (Launch.keepWord_id w) ws l
  have kept := NMap.look_mapVal s.launches (fun l => ws.foldl (Launch.keepWord w) l) k
  simp only [State.launch?]
  rw [kept, Option.map_map, show Launch.id ∘ (fun l => ws.foldl (Launch.keepWord w) l) = Launch.id from funext same]

theorem Untouched.hostWrite (s : State) (w : Writer) (a : Nat) (data : List Byte) : Untouched s (s.hostWrite w a data) :=
  (Untouched.updMem s _).trans (.keepWords _ w _)

theorem Untouched.ringWrite (s : State) (c : Ctx) (r : List Byte) : Untouched s (s.ringWrite c r) := by
  unfold State.ringWrite
  extract_lets a s1 s2
  have h1 : Untouched s s1 := .hostWrite s none a r
  have h2 : Untouched s1 s2 := .updCtx s1 c.num _
  exact h1.trans (h2.trans (.updMgmt s2 _))

theorem Untouched.countError (s : State) (k : Nat) : Untouched s (s.countError k) := .updMgmt s _

theorem Untouched.record (s : State) (ctx : Nat) (r : List Byte) (team : Nat) : Untouched s (s.record ctx r team) := by
  unfold State.record
  split
  · exact .countError s 0
  · exact .ite _ (.ringWrite s _ r) (.ite _ (.updCtx s ctx _) (.trans (.updCtx s ctx _) (.countError _ 1)))

theorem Untouched.event (s : State) (ctx kind core slot low d0 d1 : Nat) : Untouched s (s.event ctx kind core slot low d0 d1) := .record s ctx _ 0

theorem Untouched.logLine (s : State) (w : Writer) (pa : Nat) : Untouched s (s.logLine w pa) := by
  unfold State.logLine
  split
  · exact .refl s
  · split
    · exact .refl s
    · refine .ite _ (.refl s) (.ite _ (.refl s) (.ite _ ?_ (.updCtx s _ _)))
      exact .trans (.updCtx s _ _) (.event _ _ _ _ _ _ _ _)

theorem Untouched.commitWrite (s : State) (w : Writer) (pa : Nat) (data : List Byte) (tag : Bool) : Untouched s (s.commitWrite w pa data tag) := by
  unfold State.commitWrite
  extract_lets s1 s2
  have h1 : Untouched s s1 := .trans (.logLine s w pa) (.logLine _ w _)
  have h2 : Untouched s1 s2 := .updMem s1 _
  exact h1.trans (h2.trans (.keepWords s2 w _))

theorem Untouched.invalidate (s : State) (pa n : Nat) : Untouched s (s.invalidate pa n) := (Untouched.updMem s _).trans (.setCores _ _)

theorem Untouched.homeWrite (s : State) (w : Writer) (pa : Nat) (data : List Byte) (tag : Bool) : Untouched s (s.homeWrite w pa data tag) := by
  unfold State.homeWrite
  extract_lets s1
  have h1 : Untouched s s1 := .trans (.commitWrite s w pa data tag) (.invalidate _ _ _)
  exact .ite _ (.refl s) (h1.trans (.updMem s1 _))

theorem Untouched.writeReadix (s : State) (x : Slot) : Untouched s (s.writeReadix x) := .homeWrite s none _ _ false

/-! ### Pending versions settled -/

theorem Untouched.chooseBytes (offer : State → Nat → List (Writer × PByte)) (g : Nat) (s : State) : Untouched s (chooseBytes offer g s).2 := by
  unfold Machine.chooseBytes
  induction List.range 8 using List.reverseRecOn with
  | nil => exact .refl s
  | append_singleton l i ih =>
    rw [List.foldl_concat]
    dsimp only
    split
    · exact ih
    · exact ih
    · exact ih.trans (.setFree _ _)

theorem Untouched.settleGranule (offer : State → Nat → List (Writer × PByte)) (s : State) (g : Nat) : Untouched s (s.settleGranule offer g) := by
  unfold State.settleGranule
  have chosen := Untouched.chooseBytes offer g s
  generalize Machine.chooseBytes offer g s = p at chosen ⊢
  obtain ⟨got, s1⟩ := p
  have logged : Untouched s (got.foldl (fun s x => s.logLine x.2.1 x.1) s1) := chosen.trans (.foldl (fun s _ => .logLine s _ _) got s1)
  cases got with
  | nil => exact logged
  | cons x xs => exact (logged.trans (.ite _ (.commitWrite _ _ _ _ _) (.foldl (fun s _ => .commitWrite s _ _ _ _) _ _))).trans (.invalidate _ _ _)

theorem Untouched.settle (s : State) (sel : Pend → Nat → Bool) (selp : PeerPend → Nat → Bool) : Untouched s (s.settle sel selp) := by
  unfold State.settle
  extract_lets keys peerKeys s1
  have h1 : Untouched s s1 := .foldl (.settleGranule _) _ s
  exact h1.trans (.updMem s1 _)

theorem Untouched.mergeLine (s : State) (line : Nat) : Untouched s (s.mergeLine line) :=
  .trans (.foldl (fun s _ => .ite _ (.updTeam s _ _) (.refl s)) _ s) (.settle _ _ _)

theorem Untouched.applyPartial (s : State) (p : Partial) : Untouched s (s.applyPartial p) := by
  unfold State.applyPartial
  split
  · exact .refl s
  · exact .foldl (fun s _ => .homeWrite s _ _ _ _) _ s

theorem Untouched.combine (s : State) (sector : Nat) : Untouched s (s.combine sector) := by
  unfold State.combine
  extract_lets mine s1
  have h1 : Untouched s s1 := .trans (.mergeLine s _) (.updMem _ _)
  exact .ite _ (.refl s) (h1.trans (.foldl .applyPartial mine s1))

theorem Untouched.combineLine (s : State) (line : Nat) : Untouched s (s.combineLine line) := .foldl (fun s _ => .combine s _) _ s

theorem Untouched.claimLine (s : State) (line : Nat) : Untouched s (s.claimLine line) := .trans (.combineLine s line) (.mergeLine _ line)

/-! ### Translation by an agent without caches -/

theorem Untouched.logError (s : State) (level : Fin 4) (kind unit ctx addr : Nat) : Untouched s (s.logError level kind unit ctx addr) := by
  unfold State.logError
  extract_lets v tail corrected cnt cnt' s1 rec' a s2
  have h1 : Untouched s s1 := .updMgmt s _
  have h2 : Untouched s1 s2 := .trans (.homeWrite s1 none a rec' false) (.updMgmt _ _)
  exact .ite _ h1 (h1.trans (h2.trans (.setFree s2 _)))

theorem Untouched.readEntry (s : State) (ctx e : Nat) : Untouched s (s.readEntry ctx e).2 := by
  unfold State.readEntry
  extract_lets s1
  have h1 : Untouched s s1 := .combine s _
  split
  · exact h1.trans (.logError s1 _ _ _ _ _)
  · exact h1

theorem Untouched.walk (ctx va : Nat) (level table : Nat) (s : State) : Untouched s (State.walk ctx va level table s).2 := by
  induction level generalizing table s with
  | zero => exact .readEntry s ctx _
  | succ level ih =>
    unfold State.walk
    have read := Untouched.readEntry s ctx (table + 8 * (va / 2 ^ (12 + 9 * (level + 1)) % 512))
    dsimp only
    split_ifs
    · exact read
    · exact read.trans (ih _ _)
    · exact read

theorem Untouched.setAD {s s' : State} {e : Nat} {x y : DWord} {write : Bool} (h : s.setAD e x write = some (y, s')) : Untouched s s' := by
  unfold State.setAD at h
  extract_lets want s1 now at h
  have claimed : Untouched s s1 := .claimLine s _
  split_ifs at h
  · obtain ⟨rfl, rfl⟩ := Prod.mk.inj (Option.some.inj h)
    exact .refl s
  · obtain ⟨rfl, rfl⟩ := Prod.mk.inj (Option.some.inj h)
    exact claimed.trans (.homeWrite s1 none e _ false)

theorem Untouched.takeLeaf {s s' : State} {need : Need} {va pasid : Nat} {f : DWord × Nat × Nat} {r : Xlat × Option Tlb}
    (h : s.takeLeaf need va pasid f = some (r, s')) : Untouched s s' := by
  unfold State.takeLeaf at h
  obtain ⟨x, e, level⟩ := f
  dsimp only at h
  split_ifs at h
  · exact (Prod.mk.inj (Option.some.inj h)).2 ▸ .refl s
  · exact (Prod.mk.inj (Option.some.inj h)).2 ▸ .refl s
  · split at h
    · cases h
    · next y s1 set => exact (Prod.mk.inj (Option.some.inj h)).2 ▸ .setAD set

theorem Untouched.walkFor (s : State) (c : Ctx) (need : Need) (va : Nat) : Untouched s (s.walkFor c need va).2 := by
  unfold State.walkFor
  have walked := Untouched.walk c.num va 4 c.tblRoot s
  split
  · next s1 none => rwa [none] at walked
  · next f s1 found =>
    rw [found] at walked
    cases taken : s1.takeLeaf need va c.pasid f with
    | none => exact walked
    | some r => exact walked.trans (.takeLeaf taken)

theorem Untouched.translate (s : State) (ctx va : Nat) (need : Need) : Untouched s (s.translate none ctx va need).2 := by
  unfold State.translate
  split
  · exact .refl s
  · exact .walkFor s _ need va

/-! ### Reads of the front end -/

theorem Untouched.drainLink (s : State) (link : Nat) : Untouched s (s.drainLink link) := by
  unfold State.drainLink
  extract_lets ws s1
  have h1 : Untouched s s1 := .foldl (fun s _ => .hostWrite s _ _ _) ws s
  exact h1.trans (.updMem s1 _)

theorem Untouched.drainHost (s : State) (die : Nat) : Untouched s (s.drainHost die) := by
  unfold State.drainHost
  extract_lets s1 o
  have h1 : Untouched s s1 := .ite _ (.drainLink s die) (.refl s)
  exact .ite _ (h1.trans (.drainLink s1 o)) h1

theorem Untouched.freeBytes (s : State) (n : Nat) : Untouched s (s.freeBytes n).2 := by
  induction n with
  | zero => exact .refl s
  | succ n ih => exact ih.trans (.setFree _ _)

theorem Untouched.frontGo (ctx fuel va n : Nat) (s : State) : Untouched s (frontGo ctx fuel va n s).2 := by
  induction fuel generalizing va n s with
  | zero => exact .refl s
  | succ fuel ih =>
    have reached := Untouched.translate s ctx va .read
    unfold Machine.frontGo
    split_ifs
    · exact .refl s
    · exact .refl s
    · extract_lets m
      split
      · next s1 miss => rwa [miss] at reached
      · next s1 bad => rwa [bad] at reached
      · next s1 bad => rwa [bad] at reached
      · next h s1 hit =>
        rw [hit] at reached
        extract_lets l settled drained got
        have read (d : List Byte) (s2 : State) (data : got = some (d, s2)) : Untouched s1 s2 := by
          simp only [got] at data
          split_ifs at data
          · exact (Prod.mk.inj (Option.some.inj data)).2 ▸ .foldl .combineLine _ s1
          · exact (Prod.mk.inj (Option.some.inj data)).2 ▸ .trans (.drainHost s1 0) (.drainHost _ 1)
          · have free := Untouched.freeBytes s1 m
            rwa [Option.some.inj data] at free
        clear_value got
        split_ifs
        · exact reached
        · split
          · exact reached
          · next d s2 =>
            have rest := (reached.trans (read d s2 rfl)).trans (ih (va + m) (n - m) s2)
            split
            · next ds s3 more => rwa [more] at rest
            · exact rest

theorem Untouched.frontRead (s : State) (ctx va n : Nat) : Untouched s (s.frontRead ctx va n).2 := .frontGo ctx _ va n s

/-! ### The checks of a record (R54) -/

theorem Untouched.checkRest (s : State) (c : Ctx) (r : List Byte) : Untouched s (s.checkRest c r).2 := by
  unfold State.checkRest
  extract_lets l
  have args := Untouched.frontRead s c.num l.argSrc l.argLen
  split
  · next s1 bad => rwa [bad] at args
  · next va s1 miss => rwa [miss] at args
  · next s1 waits => rwa [waits] at args
  · next d s1 data =>
    rw [data] at args
    have image := args.trans (Untouched.frontRead s1 c.num l.phSrc 64)
    split
    · next s2 bad => rwa [bad] at image
    · next s2 waits => rwa [waits] at image
    · next va s2 miss => rwa [miss] at image
    · next d2 s2 data =>
      rw [data] at image
      split <;> exact image

theorem Untouched.checkRecord (s : State) (x : Slot) : Untouched s (s.checkRecord x).2 := by
  unfold State.checkRecord
  split_ifs
  · exact .refl s
  · exact .refl s
  · exact .refl s
  · split
    · exact .refl s
    · next c _ =>
      have read := Untouched.frontRead s c.num (x.ringBase + 128 * (x.readix % 2 ^ x.ringLog)) 128
      split
      · next s1 bad => rwa [bad] at read
      · next va s1 miss => rwa [miss] at read
      · next s1 waits => rwa [waits] at read
      · next r s1 data =>
        rw [data] at read
        split
        · exact read
        · exact read.trans (.checkRest s1 c r)

end Sys2Proof.Machine
end

section
/-! Queues and slots (R46-R54): what a doorbell, a map, an unmap, a fetch, a check and a release leave. -/

namespace Sys2Proof.Machine

/-! ### Dwords written at their home -/

@[simp] theorem State.homeWrite_none_hbm (s : State) (pa : Nat) (data : List Byte) (tag : Bool) :
    (s.homeWrite none pa data tag).mem.hbm = s.mem.hbm.write pa data tag := by
  unfold State.homeWrite
  cases data with
  | nil => rfl
  | cons b bs => exact congrArg MemSt.hbm (State.commitWrite_none_mem s pa (b :: bs) tag)

theorem Store.dword_write_leBytes (m : Store) (a x : Nat) (tag : Bool) : ((m.write a (leBytes 8 x) tag).dword a).toNat = x % 2 ^ 64 := by
  have read := Store.read_write m a (leBytes 8 x) tag
  rw [leBytes_length] at read
  rw [Store.dword, read, leNat_leBytes, BitVec.toNat_ofNat]
  exact Nat.mod_mod _ _

theorem Store.bytes_write_outside (m : Store) (a x : Nat) (tag : Bool) {c : Nat} (h : c < a ∨ a + 8 ≤ c) :
    (m.write a (leBytes 8 x) tag).bytes.read c = m.bytes.read c :=
  Store.byte_write_other m a (leBytes 8 x) tag c (by rwa [leBytes_length])

/-- READIX as it is written back (R50). -/
theorem State.writeReadix_dword (s : State) (x : Slot) : ((s.writeReadix x).mem.hbm.dword (x.map + 16)).toNat = x.readix % 2 ^ 64 := by
  rw [State.writeReadix, State.homeWrite_none_hbm, Store.dword_write_leBytes]

/-! ### Slots after a record's checks -/

@[simp] theorem State.updCtx_slot (s : State) (c : Nat) (f : Ctx → Ctx) (k : Nat) : (s.updCtx c f).slot k = s.slot k :=
  congrArg (fun m => NMap.getD m k Slot.reset) (State.updCtx_slots s c f)

@[simp] theorem State.homeWrite_none_ctr (s : State) (pa : Nat) (data : List Byte) (tag : Bool) : (s.homeWrite none pa data tag).mem.ctr = s.mem.ctr := by
  unfold State.homeWrite
  cases data with
  | nil => rfl
  | cons b bs =>
    change (s.commitWrite none pa (b :: bs) tag).mem.ctr = s.mem.ctr
    rw [State.commitWrite_none_mem]

/-- Dependences are tested on counters alone (R52). -/
theorem State.depsMet_congr {s s' : State} (h : s'.mem.ctr = s.mem.ctr) (r : List Byte) : s'.depsMet r = s.depsMet r := by
  simp only [State.depsMet, State.counter, h]
  rfl

/-- A record just held is tested at once. -/
theorem State.depTest_slot {s : State} {n : Nat} (held : (s.slot n).st = .held) (waits : (s.slot n).hold = false) :
    (s.depTest n).slot n = { s.slot n with hold := s.depsMet (s.slot n).record } := by
  unfold State.depTest
  extract_lets x
  cases met : s.depsMet x.record with
  | false =>
    have same : { s.slot n with hold := false } = s.slot n := by rw [← waits]
    simp [x, waits, same]
  | true => simp [x, held, waits]

@[simp] theorem State.depTest_mem (s : State) (n : Nat) : (s.depTest n).mem = s.mem := by
  unfold State.depTest
  dsimp only
  split <;> rfl

theorem State.stopSlot_slot (s : State) (n c : Nat) : (s.stopSlot n c).slot n = { s.slot n with st := .stopped } := by
  unfold State.stopSlot
  extract_lets x s1
  have stopped : s1.slot n = { s.slot n with st := .stopped } := by
    have same : (s.homeWrite none (x.map + 32) [BitVec.ofNat 8 c] false).slot n = s.slot n :=
      congrArg (fun m => NMap.getD m n Slot.reset) (State.homeWrite_none_slots _ _ _ _)
    rw [State.updSlot_slot_same, same]
  split
  · have kept := (Untouched.event s1 x.ctxNum 6 0 0 c x.map n).slots
    rw [State.slot, kept]
    exact stopped
  · exact stopped

/-- Records go to the call ring in host memory. -/
@[simp] theorem State.hostWrite_hbm (s : State) (w : Writer) (a : Nat) (data : List Byte) : (s.hostWrite w a data).mem.hbm = s.mem.hbm := by
  rw [State.hostWrite, State.keepWords_mem]
  rfl

@[simp] theorem State.ringWrite_hbm (s : State) (c : Ctx) (r : List Byte) : (s.ringWrite c r).mem.hbm = s.mem.hbm := by
  simp [State.ringWrite, State.raiseVector]

@[simp] theorem State.record_hbm (s : State) (ctx : Nat) (r : List Byte) (team : Nat) : (s.record ctx r team).mem.hbm = s.mem.hbm := by
  unfold State.record
  split
  · rfl
  · split_ifs <;> simp [State.countError]

/-- The cause stands in the descriptor of the stopped slot (R50). -/
theorem State.stopSlot_cause (s : State) (n c : Nat) : (s.stopSlot n c).mem.hbm.bytes.read ((s.slot n).map + 32) = BitVec.ofNat 8 c := by
  have written : ((s.mem.hbm.write ((s.slot n).map + 32) [BitVec.ofNat 8 c] false).bytes.read ((s.slot n).map + 32)) = BitVec.ofNat 8 c :=
    Memory.read_writeN_same s.mem.hbm.bytes ((s.slot n).map + 32) [BitVec.ofNat 8 c] 0 (Nat.zero_lt_one)
  unfold State.stopSlot
  extract_lets x s1
  have hbm : s1.mem.hbm = s.mem.hbm.write ((s.slot n).map + 32) [BitVec.ofNat 8 c] false := State.homeWrite_none_hbm _ _ _ _
  split
  · rw [State.event, State.record_hbm, hbm, written]
  · rw [hbm, written]

/-! ### A line claimed where nothing is pending -/

theorem State.combine_of_no_partial {s : State} (h : s.mem.parts = []) (sector : Nat) : s.combine sector = s := by
  have none : (List.range 256).filterMap (fun c => s.mem.parts.find? (fun p => p.core == c && p.sector == sector)) = [] := by
    simp [h]
  simp only [State.combine, none, List.isEmpty_nil, if_true]

theorem State.mergeLine_of_no_version {s : State} (pend : s.mem.pend = []) (peers : s.mem.peerPend = []) (line : Nat) : s.mergeLine line = s := by
  have kept : { s.mem with pend := [], peerPend := [] } = s.mem := by rw [← pend, ← peers]
  simp [State.mergeLine, State.markEarly, State.settle, pend, peers, pendKeys, granulesOf, State.updMem, kept]

end Sys2Proof.Machine

namespace Sys2Proof.Claims
open Sys2Proof.Machine

theorem NothingPending.claimLine {s : State} (h : NothingPending s) (line : Nat) : s.claimLine line = s := by
  have combined : s.combineLine line = s := by
    unfold State.combineLine
    induction List.range 4 with
    | nil => rfl
    | cons i l ih => rw [List.foldl_cons, State.combine_of_no_partial h.parts, ih]
  rw [State.claimLine, combined, State.mergeLine_of_no_version h.pend h.peers]

/-! ### Doorbells (R47, R49) -/

theorem notifyWrite_missing {s : State} {desc : Nat} (v : DWord) (missing : paExists (desc + 24) = false ∨ paExists (desc + 24 + 7) = false) :
    exec (.notifyWrite desc v) s = .fault (.noSuchAddress (desc + 24)) := by
  rcases missing with h | h <;> simp [execNotifyWrite, h]

variable {s : State} {desc : Nat} {v : DWord}

/-- Behind a held line a doorbell waits, once. -/
theorem gives_notifyWrite_held (first : paExists (desc + 24) = true) (last : paExists (desc + 24 + 7) = true)
    (held : (s.lockAt (desc + 24)).isSome ∨ (s.ownerAt (desc + 24)).isSome) (new : (desc, v) ∉ s.front.notifies) :
    Gives (.notifyWrite desc v) s (fun s' => s'.front.notifies = s.front.notifies ++ [(desc, v)] ∧ s'.mem = s.mem) := by
  refine ⟨s.updFront (fun f => { f with notifies := f.notifies ++ [(desc, v)] }), ?_, rfl, rfl⟩
  have held' : ((s.lockAt (desc + 24)).isSome || (s.ownerAt (desc + 24)).isSome) = true := by simpa using held
  simp [execNotifyWrite, first, last, held', new]

/-- At a free line WAKE is raised to the maximum, and no other byte changes. -/
theorem gives_notifyWrite_free (first : paExists (desc + 24) = true) (last : paExists (desc + 24 + 7) = true)
    (unlocked : s.lockAt (desc + 24) = none) (unowned : s.ownerAt (desc + 24) = none) (nothing : NothingPending s) :
    Gives (.notifyWrite desc v) s (fun s' => (s'.mem.hbm.dword (desc + 24)).toNat = max v.toNat (s.mem.hbm.dword (desc + 24)).toNat ∧
      ∀ c, c < desc + 24 ∨ desc + 24 + 8 ≤ c → s'.mem.hbm.bytes.read c = s.mem.hbm.bytes.read c) := by
  refine ⟨(s.updFront (fun f => { f with notifies := f.notifies.filter (fun e => e != (desc, v)) })).homeWrite none (desc + 24)
    (leBytes 8 (max v.toNat (s.mem.hbm.dword (desc + 24)).toNat)) false, ?_, ?_, fun c outside => ?_⟩
  · simp [execNotifyWrite, first, last, unlocked, unowned, nothing.claimLine, State.wakeOf]
  · have bound : max v.toNat (s.mem.hbm.dword (desc + 24)).toNat < 2 ^ 64 := by
      have := v.isLt
      have := (s.mem.hbm.dword (desc + 24)).isLt
      omega
    rw [State.homeWrite_none_hbm, Store.dword_write_leBytes, Nat.mod_eq_of_lt bound]
  · rw [State.homeWrite_none_hbm, Store.bytes_write_outside _ _ _ _ outside]
    rfl

/-! ### Slots mapped and unmapped (R50, R64) -/

/-- The queue at an address as a map reads it into a slot. -/
def mappedSlot (s : State) (n a : Nat) : Slot :=
  { Slot.reset with st := .idle, map := a, desc := s.mem.hbm.read a 64, readix := recBits (s.mem.hbm.read a 64) 191 128, owner := (s.slot n).owner
                    prev := s.lastLaunch a }

section
variable {n : Fin 64} {addr : DWord} {a : Nat} (at' : dw addr 56 6 * 64 = a) (given : a ≠ 0) (open' : (s.slot n.val).st = .free ∨ (s.slot n.val).st = .stopped)
include at' given open'

theorem slotMap_missing (missing : paExists a = false) : exec (.slotMap n addr) s = .fault (.noSuchAddress a) := by
  have taken : ((s.slot n.val).st == .free || (s.slot n.val).st == .stopped) = true := by simpa using open'
  simp [execSlotMap, at', given, taken, missing]

/-- A queue of another function than the slot's owner is not mapped. -/
theorem slotMap_there (first : paExists a = true) (last : paExists (a + 63) = true) : exec (.slotMap n addr) s =
    if recBits (s.mem.hbm.read a 64) 75 71 ≠ (s.slot n.val).owner then .next s
    else .next ((s.updSlot n.val (fun _ => mappedSlot s n.val a)).updCtx (mappedSlot s n.val a).ctxNum (fun c => { c with func := (mappedSlot s n.val a).func })) := by
  have taken : ((s.slot n.val).st == .free || (s.slot n.val).st == .stopped) = true := by simpa using open'
  simp [execSlotMap, at', given, taken, first, last, Slot.func, mappedSlot]

theorem gives_slotMap (first : paExists a = true) (last : paExists (a + 63) = true) (own : recBits (s.mem.hbm.read a 64) 75 71 = (s.slot n.val).owner) :
    Gives (.slotMap n addr) s (fun s' => s'.slot n.val = mappedSlot s n.val a ∧ (∀ k, k ≠ n.val → s'.slot k = s.slot k) ∧ s'.mem = s.mem) :=
  ⟨_, (slotMap_there at' given open' first last).trans (if_neg (not_not.mpr own)), (State.updCtx_slot _ _ _ _).trans (State.updSlot_slot_same s n.val _),
    fun _ hk => (State.updCtx_slot _ _ _ _).trans (State.updSlot_slot_other s _ hk), State.updCtx_mem _ _ _⟩

end

theorem gives_slotUnmap_free {n : Fin 64} (h : (s.slot n.val).st = .idle ∨ (s.slot n.val).st = .fetch ∨ (s.slot n.val).st = .held ∨ (s.slot n.val).st = .stopped) :
    Gives (.slotUnmap n) s (fun s' => s'.slot n.val = { Slot.reset with owner := (s.slot n.val).owner } ∧
      (s'.mem.hbm.dword ((s.slot n.val).map + 16)).toNat = (s.slot n.val).readix % 2 ^ 64 ∧ ∀ k, k ≠ n.val → s'.slot k = s.slot k) := by
  refine ⟨s.freeSlot n.val, ?_, ?_, State.writeReadix_dword s _, fun k hk => ?_⟩
  · rcases h with h | h | h | h <;> simp [execSlotUnmap, h]
  · rw [State.freeSlot_slot, if_pos rfl]
  · rw [State.freeSlot_slot, if_neg hk]

/-- A slot changed alone. -/
theorem gives_updSlot {i : Instr} {n : Nat} {f : Slot → Slot} (h : exec i s = .next (s.updSlot n f)) :
    Gives i s (fun s' => s'.slot n = f (s.slot n) ∧ (∀ k, k ≠ n → s'.slot k = s.slot k) ∧ s'.mem = s.mem ∧ s'.teams = s.teams) :=
  ⟨_, h, State.updSlot_slot_same s n f, fun _ hk => State.updSlot_slot_other s f hk, rfl, rfl⟩

/-! ### Records checked (R54) -/

section
variable {n : Fin 64} (fetch : (s.slot n.val).st = .fetch) (on : s.frontOn = true)
include fetch on

/-- A record that passes is held, with READIX raised and written back; it is released once its dependences are met (R52). -/
theorem gives_recordCheck_good {r : List Byte} {s1 : State} (good : s.checkRecord (s.slot n.val) = (.good r, s1)) : Gives (.recordCheck n) s (fun s' =>
    s'.slot n.val = { s.slot n.val with st := .held, readix := (s.slot n.val).readix + 1, record := r, hold := s1.depsMet r } ∧
    (s'.mem.hbm.dword ((s.slot n.val).map + 16)).toNat = ((s.slot n.val).readix + 1) % 2 ^ 64) := by
  let y : Slot := { s.slot n.val with st := .held, readix := (s.slot n.val).readix + 1, record := r, hold := false }
  have ran : exec (.recordCheck n) s = .next (((s1.writeReadix y).updSlot n.val (fun _ => y)).depTest n.val) := by
    simp [execRecordCheck, fetch, on, good, y]
  have here : ((s1.writeReadix y).updSlot n.val (fun _ => y)).slot n.val = y := State.updSlot_slot_same _ _ _
  have deps : ((s1.writeReadix y).updSlot n.val (fun _ => y)).depsMet r = s1.depsMet r := State.depsMet_congr (State.homeWrite_none_ctr s1 _ _ _) r
  refine ⟨_, ran, ?_, ?_⟩
  · rw [State.depTest_slot (by rw [here]) (by rw [here]), here, deps]
  · rw [State.depTest_mem]
    exact State.writeReadix_dword s1 y

/-- A record that fails stops its slot with the cause, which is written to the descriptor. -/
theorem gives_recordCheck_stop {c : Nat} {s1 : State} (stop : s.checkRecord (s.slot n.val) = (.stop c, s1)) : Gives (.recordCheck n) s (fun s' =>
    s'.slot n.val = { s.slot n.val with st := .stopped } ∧ s'.mem.hbm.bytes.read ((s.slot n.val).map + 32) = BitVec.ofNat 8 c) := by
  have ran : exec (.recordCheck n) s = .next (s1.stopSlot n.val c) := by
    simp [execRecordCheck, fetch, on, stop]
  have same : s1.slot n.val = s.slot n.val := by
    have kept := (Untouched.checkRecord s (s.slot n.val)).slots
    rw [stop] at kept
    exact congrArg (fun m => NMap.getD m n.val Slot.reset) kept
  rw [← same]
  exact ⟨_, ran, State.stopSlot_slot s1 n.val c, State.stopSlot_cause s1 n.val c⟩

theorem recordCheck_miss {va : Nat} {s1 : State} (miss : s.checkRecord (s.slot n.val) = (.miss va, s1)) :
    exec (.recordCheck n) s = .next (s1.pageMiss (s.slot n.val).ctxNum va 0) := by
  simp [execRecordCheck, fetch, on, miss]

end

/-! ### Records released (R50, R52, R53) -/

/-- A held record whose dependences are met starts a launch of its queue's level and with the next number. -/
theorem gives_recordRelease {n : Fin 64} (held : (s.slot n.val).st = .held) (met : (s.slot n.val).hold = true) (on : s.frontOn = true)
    (free : s.ctxHeld (s.slot n.val).ctxNum = false) (turn : (Launch.ofRecord (s.slot n.val).record).ordered = true → s.launch? (s.slot n.val).prev = none)
    (single : s.mdOn n.val = false) : Gives (.recordRelease n) s (fun s' => ∃ l,
      s'.launch? s.nextId = some l ∧ s'.nextId = s.nextId + 1 ∧ l.id = s.nextId ∧ l.record = (s.slot n.val).record ∧ l.slot = n.val ∧
      l.ctx = (s.slot n.val).ctxNum ∧ l.func = (s.slot n.val).func ∧ l.level = (s.slot n.val).prio ∧
      s'.levelOf l = max (s.slot n.val).prio (NMap.getD s.front.floor (s.slot n.val).func 0) ∧ l.next = 0 ∧ l.ended = 0 ∧ l.phase = 0 ∧ l.md = none ∧
      s'.slot n.val = { s.slot n.val with st := .dispatch, launch := s.nextId, prev := s.nextId, mdMsg := (s.slot n.val).mdMsg - 1 } ∧
      ∀ k, k ≠ n.val → s'.slot k = s.slot k) := by
  have ordered : ((Launch.ofRecord (s.slot n.val).record).ordered && (s.launch? (s.slot n.val).prev).isSome) = false := by
    cases ho : (Launch.ofRecord (s.slot n.val).record).ordered with
    | false => rfl
    | true => simp [turn ho]
  have alone : s.mdStart n.val = none := by simp [State.mdStart, single]
  let l : Launch := { Launch.ofRecord (s.slot n.val).record with
    id := s.nextId, slot := n.val, ctx := (s.slot n.val).ctxNum, func := (s.slot n.val).func, level := (s.slot n.val).prio, queue := (s.slot n.val).map
    waitSince := s.clk, md := none }
  let s1 : State := { s with nextId := s.nextId + 1 }
  let s2 := (s1.updSlot n.val (fun x => { x with st := .dispatch, launch := s.nextId, prev := s.nextId, mdMsg := x.mdMsg - 1 })).updCtx
    (s.slot n.val).ctxNum (fun c => { c with func := (s.slot n.val).func })
  have ran : exec (.recordRelease n) s = .next { s2 with launches := NMap.put s.launches s.nextId l } := by
    simp only [exec_recordRelease, execRecordRelease, held, met, on, free, ordered, single, alone]
    rfl
  have front : s2.front = s.front := State.updCtx_front _ _ _
  have next : s2.nextId = s.nextId + 1 := State.updCtx_nextId _ _ _
  refine ⟨_, ran, l, NMap.look_put_same _ _ _, next, rfl, rfl, rfl, rfl, rfl, rfl, ?_, rfl, rfl, rfl, rfl, ?_, fun k hk => ?_⟩
  · simp only [State.levelOf, front]
    rfl
  · exact (State.updCtx_slot _ _ _ _).trans (State.updSlot_slot_same s1 n.val _)
  · exact (State.updCtx_slot _ _ _ _).trans (State.updSlot_slot_other s1 _ hk)

/-- Settles O46, event by event. -/
theorem queueEvents : Obligations.QueueEvents := by
  unfold Obligations.QueueEvents
  intro s n x others
  refine ⟨?_, ?_, gives_slotUnmap_free, fun h => ?_, fun idle on ahead => ?_, fun idle behind => ?_,
    fun fetch on => ⟨fun r s1 => gives_recordCheck_good fetch on, fun c s1 => gives_recordCheck_stop fetch on, fun va s1 => recordCheck_miss fetch on⟩,
    gives_recordRelease, ?_⟩
  · intro desc v a
    exact ⟨notifyWrite_missing v, gives_notifyWrite_held, gives_notifyWrite_free⟩
  · intro addr a d given open'
    refine ⟨slotMap_missing rfl given open', fun first last foreign => ?_, fun first last own => ?_⟩
    · rw [slotMap_there rfl given open' first last, if_pos foreign]
    · obtain ⟨s', done, slot, others', mem⟩ := gives_slotMap rfl given open' first last own
      exact ⟨s', done, by rw [slot]; rfl, by rw [slot]; rfl, by rw [slot]; rfl, by rw [slot]; rfl, by rw [slot]; rfl, others', mem⟩
  · have dispatch : (s.slot n.val).st = .dispatch := h
    obtain ⟨s', done, slot, others', mem, -⟩ := gives_updSlot (s := s) (i := .slotUnmap n) (n := n.val) (f := fun x => { x with st := .unmapping })
      (by simp [execSlotUnmap, dispatch])
    exact ⟨s', done, slot, others', mem⟩
  · obtain ⟨s', done, slot, others', -, -⟩ := gives_updSlot (s := s) (i := .recordFetch n) (n := n.val) (f := fun x => { x with st := .fetch })
      (by simp [execRecordFetch, idle, on, State.wakeOf, ahead, x])
    exact ⟨s', done, slot, others'⟩
  · have still : ¬ x.readix < s.wakeOf x.map := Nat.not_lt.mpr behind
    simp [execRecordFetch, still, x]
  · intro v f
    refine ⟨fun high => if_pos high, fun low => ?_⟩
    have ran : exec (.slotOwnerWrite n v) s = .next (s.updSlot n.val (fun x => { x with owner := f })) := if_neg (Nat.not_lt.mpr low)
    exact gives_updSlot ran

end Sys2Proof.Claims
end

section
/-! Outcomes (R46, R50, R77): an instruction answers a next state on every branch of its meaning, and so does an event, but for the three that take an address
of local HBM from the host. -/

namespace Sys2Proof.Machine

/-- The machine goes on. -/
def Goes (o : Host.Outcome State Fault Refusal) : Prop := ∃ s', o = .next s'

theorem Goes.next (s : State) : Goes (.next s) := ⟨s, rfl⟩

theorem Goes.ite {a b : Host.Outcome State Fault Refusal} (c : Prop) [Decidable c] (ha : Goes a) (hb : Goes b) : Goes (if c then a else b) := by
  split
  · exact ha
  · exact hb

/-- The frame of an instruction answers a next state whatever its body does. -/
theorem Goes.run (i : Instr) (s : State) (body : Issue → State → Eff) : Goes (run i s body) := by
  unfold Machine.run
  dsimp only
  (repeat' split) <;> exact .next _

/-! ### Reset -/

@[simp] theorem Goes.deviceReset (s : State) : Goes (execDeviceReset s) := by
  unfold execDeviceReset
  dsimp only
  (repeat' split) <;> exact .next _

/-! ### The front end -/

@[simp] theorem Goes.slotUnmap (n : Fin 64) (s : State) : Goes (execSlotUnmap n s) := by
  unfold execSlotUnmap
  split <;> exact .next _

@[simp] theorem Goes.recordFetch (n : Fin 64) (s : State) : Goes (execRecordFetch n s) := .ite _ (.next _) (.next _)

@[simp] theorem Goes.recordCheck (n : Fin 64) (s : State) : Goes (execRecordCheck n s) := by
  unfold execRecordCheck
  dsimp only
  (repeat' split) <;> exact .next _

@[simp] theorem Goes.recordRelease (n : Fin 64) (s : State) : Goes (execRecordRelease n s) := .ite _ (.next _) (.next _)

/-! ### Groups, gangs and teams -/

@[simp] theorem Goes.groupPlace (die : Fin 2) (s : State) : Goes (execGroupPlace die s) := by
  unfold execGroupPlace
  split <;> exact .next _

@[simp] theorem Goes.gangPlace (die : Fin 2) (s : State) : Goes (execGangPlace die s) := by
  unfold execGangPlace
  split <;> exact .next _

@[simp] theorem Goes.affinityWiden (n : Fin 64) (s : State) : Goes (execAffinityWiden n s) := by
  unfold execAffinityWiden
  dsimp only
  (repeat' split) <;> exact .next _

@[simp] theorem Goes.preempt (n : Fin 64) (s : State) : Goes (execPreempt n s) := by
  unfold execPreempt
  dsimp only
  (repeat' split) <;> exact .next _

@[simp] theorem Goes.teamEvict (team : Nat) (s : State) : Goes (execTeamEvict team s) := by
  unfold execTeamEvict
  dsimp only
  (repeat' split) <;> exact .next _

@[simp] theorem Goes.teamRestore (team : Nat) (s : State) : Goes (execTeamRestore team s) := by
  unfold execTeamRestore
  dsimp only
  (repeat' split) <;> exact .next _

@[simp] theorem Goes.teamRetire (team : Nat) (s : State) : Goes (execTeamRetire team s) := by
  unfold execTeamRetire
  dsimp only
  (repeat' split) <;> exact .next _

@[simp] theorem Goes.launchComplete (launch : Nat) (s : State) : Goes (execLaunchComplete launch s) := by
  unfold execLaunchComplete
  (repeat' split) <;> exact .next _

/-! ### Watchdogs, clocks and owners -/

@[simp] theorem Goes.watchdogExpire (ctx : Nat) (s : State) : Goes (execWatchdogExpire ctx s) := by
  unfold execWatchdogExpire
  dsimp only
  (repeat' split) <;> exact .next _

@[simp] theorem Goes.clockThrottle (core : Fin 256) (s : State) : Goes (execClockThrottle core s) := .next _
@[simp] theorem Goes.slotOwnerWrite (n : Fin 64) (v : DWord) (s : State) : Goes (execSlotOwnerWrite n v s) := .ite _ (.next _) (.next _)

/-! ### Translations and pages -/

@[simp] theorem Goes.xlinvPage (keepG : Bool) (ctx : Nat) (s : State) : Goes (execXlinvPage keepG ctx s) := .ite _ (.next _) (.next _)
@[simp] theorem Goes.xlinvContext (keepG : Bool) (ctx : Nat) (s : State) : Goes (execXlinvContext keepG ctx s) := .ite _ (.next _) (.next _)
@[simp] theorem Goes.xlinvAll (keepG : Bool) (s : State) : Goes (execXlinvAll keepG s) := .ite _ (.next _) (.next _)

@[simp] theorem Goes.xlinvDone (s : State) : Goes (execXlinvDone s) := by
  unfold execXlinvDone
  (repeat' split) <;> exact .next _

@[simp] theorem Goes.translationWalk (req : Nat) (s : State) : Goes (execTranslationWalk req s) := by
  unfold execTranslationWalk
  (repeat' split) <;> exact .next _

@[simp] theorem Goes.pageRequestWrite (s : State) : Goes (execPageRequestWrite s) := by
  unfold execPageRequestWrite
  split <;> exact .next _

@[simp] theorem Goes.pgrdoneFilled (seq : Nat) (s : State) : Goes (execPgrdoneFilled seq s) := by
  unfold execPgrdoneFilled
  split <;> exact .next _

theorem Goes.pageFailed (seq cause : Nat) (s : State) : Goes (Machine.pageFailed seq cause s) := by
  unfold Machine.pageFailed
  dsimp only
  (repeat' split) <;> exact .next _

@[simp] theorem Goes.pgrdoneTranslationFault (seq : Nat) (s : State) : Goes (execPgrdoneTranslationFault seq s) := .pageFailed seq 12 s
@[simp] theorem Goes.pgrdoneProtectionFault (seq : Nat) (s : State) : Goes (execPgrdoneProtectionFault seq s) := .pageFailed seq 13 s

/-! ### Requests at their homes -/

@[simp] theorem Goes.memoryResponse (req : Nat) (data : Marked) (status : Nat) (s : State) : Goes (execMemoryResponse req data status s) := by
  unfold execMemoryResponse
  dsimp only
  (repeat' split) <;> exact .next _

@[simp] theorem Goes.holdLimitBounce (req : Nat) (s : State) : Goes (execHoldLimitBounce req s) := by
  unfold execHoldLimitBounce
  dsimp only
  (repeat' split) <;> exact .next _

@[simp] theorem Goes.parenthesisReissue (req : Nat) (s : State) : Goes (execParenthesisReissue req s) := by
  unfold execParenthesisReissue
  dsimp only
  (repeat' split) <;> exact .next _

@[simp] theorem Goes.backoffExpire (req : Nat) (s : State) : Goes (execBackoffExpire req s) := by
  unfold execBackoffExpire
  dsimp only
  (repeat' split) <;> exact .next _

theorem Goes.homeServe (kind : ReqOp → Bool) (req : Nat) (s : State) : Goes (Machine.homeServe kind req s) := by
  unfold Machine.homeServe
  (repeat' split) <;> exact .next _

@[simp] theorem Goes.homeLoad (req : Nat) (s : State) : Goes (execHomeLoad req s) := .homeServe _ req s
@[simp] theorem Goes.writeNotice (req : Nat) (s : State) : Goes (execWriteNotice req s) := .homeServe _ req s
@[simp] theorem Goes.sectorFlush (core : Fin 256) (sector : Nat) (s : State) : Goes (execSectorFlush core sector s) := .next _
@[simp] theorem Goes.homeSyncStore (req : Nat) (s : State) : Goes (execHomeSyncStore req s) := .homeServe _ req s
@[simp] theorem Goes.homeAtomic (req : Nat) (s : State) : Goes (execHomeAtomic req s) := .homeServe _ req s
@[simp] theorem Goes.homeReduction (req : Nat) (s : State) : Goes (execHomeReduction req s) := .homeServe _ req s
@[simp] theorem Goes.recall (core : Fin 256) (sector : Nat) (s : State) : Goes (execRecall core sector s) := .next _
@[simp] theorem Goes.writeUpdate (upd core : Nat) (s : State) : Goes (execWriteUpdate upd core s) := .ite _ (.next _) (.next _)

@[simp] theorem Goes.updateSwitch (upd : Nat) (s : State) : Goes (execUpdateSwitch upd s) := by
  unfold execUpdateSwitch
  (repeat' split) <;> exact .next _

@[simp] theorem Goes.missFill (slice line : Nat) (s : State) : Goes (execMissFill slice line s) := .ite _ (.next _) (.next _)

/-! ### Phases and locks -/

@[simp] theorem Goes.arrival (core : Fin 256) (slot : Fin 64) (phase : Nat) (s : State) : Goes (execArrival core slot phase s) := .next _

@[simp] theorem Goes.phaseRaise (launch core : Nat) (s : State) : Goes (execPhaseRaise launch core s) := by
  unfold execPhaseRaise
  (repeat' split) <;> exact .next _

@[simp] theorem Goes.phaseCommit (launch : Nat) (s : State) : Goes (execPhaseCommit launch s) := by
  unfold execPhaseCommit
  (repeat' split) <;> exact .next _

@[simp] theorem Goes.commitBroadcast (launch : Nat) (die : Fin 2) (s : State) : Goes (execCommitBroadcast launch die s) := by
  unfold execCommitBroadcast
  (repeat' split) <;> exact .next _

@[simp] theorem Goes.peerCommitMessage (src : Nat) (what : PeerPhase) (s : State) : Goes (execPeerCommitMessage src what s) := .next _
@[simp] theorem Goes.peerDiscardMessage (src task : Nat) (s : State) : Goes (execPeerDiscardMessage src task s) := .next _

@[simp] theorem Goes.lockTimeout (team : Nat) (s : State) : Goes (execLockTimeout team s) := by
  unfold execLockTimeout
  dsimp only
  (repeat' split) <;> exact .next _

@[simp] theorem Goes.absenceTimerExpire (line : Nat) (s : State) : Goes (execAbsenceTimerExpire line s) := by
  unfold execAbsenceTimerExpire
  (repeat' split) <;> exact .next _

@[simp] theorem Goes.deadlockProbe (team : Nat) (s : State) : Goes (execDeadlockProbe team s) := by
  unfold execDeadlockProbe
  dsimp only
  (repeat' split) <;> exact .next _

/-! ### Engines -/

@[simp] theorem Goes.engineOpStart (op : Nat) (s : State) : Goes (execEngineOpStart op s) := by
  unfold execEngineOpStart
  (repeat' split) <;> exact .next _

@[simp] theorem Goes.engineOpComplete (op : Nat) (s : State) : Goes (execEngineOpComplete op s) := by
  unfold execEngineOpComplete
  (repeat' split) <;> exact .next _

@[simp] theorem Goes.sparsityEntryArrive (pair : Fin 128) (entry : List Byte) (s : State) : Goes (execSparsityEntryArrive pair entry s) := .ite _ (.next _) (.next _)

@[simp] theorem Goes.matrixQueryCommand (team : Nat) (s : State) : Goes (execMatrixQueryCommand team s) := by
  unfold execMatrixQueryCommand
  (repeat' split) <;> exact .next _

@[simp] theorem Goes.matrixBadCommand (team : Nat) (s : State) : Goes (execMatrixBadCommand team s) := by
  unfold execMatrixBadCommand
  (repeat' split) <;> exact .next _

@[simp] theorem Goes.copyLineLand (op : Nat) (s : State) : Goes (execCopyLineLand op s) := by
  unfold execCopyLineLand
  dsimp only
  (repeat' split) <;> exact .next _

@[simp] theorem Goes.copyFull (group : Nat) (handle : Fin 8) (s : State) : Goes (execCopyFull group handle s) := by
  unfold execCopyFull
  dsimp only
  (repeat' split) <;> exact .next _

@[simp] theorem Goes.handleDrainDone (group : Nat) (handle : Fin 8) (s : State) : Goes (execHandleDrainDone group handle s) := by
  unfold execHandleDrainDone
  dsimp only
  (repeat' split) <;> exact .next _

theorem Goes.copyCommand (s : State) (team : Nat) (mine : Nat → Bool) (k : Team → Nat → State → State) : Goes (Machine.copyCommand s team mine k) := by
  unfold Machine.copyCommand
  (repeat' split) <;> exact .next _

@[simp] theorem Goes.copyCancel (team : Nat) (s : State) : Goes (execCopyCancel team s) := .copyCommand s team _ _
@[simp] theorem Goes.copyProgress (team : Nat) (s : State) : Goes (execCopyProgress team s) := .copyCommand s team _ _
@[simp] theorem Goes.copyBadCommand (team : Nat) (s : State) : Goes (execCopyBadCommand team s) := .copyCommand s team _ _

theorem Goes.conjCommand (s : State) (team : Nat) (query : Bool) : Goes (Machine.conjCommand s team query) := by
  unfold Machine.conjCommand
  dsimp only
  (repeat' split) <;> exact .next _

@[simp] theorem Goes.conjunctionQueryCommand (team : Nat) (s : State) : Goes (execConjunctionQueryCommand team s) := .conjCommand s team true
@[simp] theorem Goes.conjunctionBadCommand (team : Nat) (s : State) : Goes (execConjunctionBadCommand team s) := .conjCommand s team false

theorem Goes.fabricCommand (s : State) (team : Nat) (query : Bool) : Goes (Machine.fabricCommand s team query) := by
  unfold Machine.fabricCommand
  (repeat' split) <;> exact .next _

@[simp] theorem Goes.fabricQueryCommand (team : Nat) (s : State) : Goes (execFabricQueryCommand team s) := .fabricCommand s team true
@[simp] theorem Goes.fabricBadCommand (team : Nat) (s : State) : Goes (execFabricBadCommand team s) := .fabricCommand s team false

/-! ### The fabric and the Conjunction Engines -/

@[simp] theorem Goes.packetForm (transfer : Nat) (s : State) : Goes (execPacketForm transfer s) := by
  unfold execPacketForm
  (repeat' split) <;> exact .next _

@[simp] theorem Goes.fyoloInbound (r : InboundReq) (s : State) : Goes (execFyoloInbound r s) := by
  unfold execFyoloInbound
  (repeat' split) <;> exact .next _

@[simp] theorem Goes.packetAck (transfer packet status : Nat) (data : Marked) (s : State) : Goes (execPacketAck transfer packet status data s) := by
  unfold execPacketAck
  (repeat' split) <;> exact .next _

@[simp] theorem Goes.multicastForward (mc : Nat) (s : State) : Goes (execMulticastForward mc s) := by
  unfold execMulticastForward
  dsimp only
  (repeat' split) <;> exact .next _

@[simp] theorem Goes.flitReceive (port : Fin 8) (seq : Nat) (ok : Bool) (s : State) : Goes (execFlitReceive port seq ok s) := .next _
@[simp] theorem Goes.linkAck (port : Fin 8) (seq : Nat) (s : State) : Goes (execLinkAck port seq s) := .ite _ (.next _) (.next _)
@[simp] theorem Goes.linkNak (port : Fin 8) (seq : Nat) (s : State) : Goes (execLinkNak port seq s) := .ite _ (.next _) (.next _)
@[simp] theorem Goes.acktoExpire (port : Fin 8) (s : State) : Goes (execAcktoExpire port s) := .ite _ (.next _) (.next _)
@[simp] theorem Goes.laneLoss (port : Fin 8) (lane : Nat) (s : State) : Goes (execLaneLoss port lane s) := .ite _ (.next _) (.ite _ (.next _) (.next _))
@[simp] theorem Goes.retrainDone (port : Fin 8) (s : State) : Goes (execRetrainDone port s) := .ite _ (.next _) (.next _)

@[simp] theorem Goes.endToEndTimeout (transfer packet : Nat) (s : State) : Goes (execEndToEndTimeout transfer packet s) := by
  unfold execEndToEndTimeout
  dsimp only
  (repeat' split) <;> exact .next _

@[simp] theorem Goes.fyselfWrite (v : DWord) (s : State) : Goes (execFyselfWrite v s) := .ite _ (.next _) (.ite _ (.next _) (.next _))
@[simp] theorem Goes.fyrtinvWrite (v : DWord) (s : State) : Goes (execFyrtinvWrite v s) := .ite _ (.next _) (.next _)

@[simp] theorem Goes.conjunctionRoundIssue (die : Fin 2) (s : State) : Goes (execConjunctionRoundIssue die s) := by
  unfold execConjunctionRoundIssue
  (repeat' split) <;> exact .next _

@[simp] theorem Goes.conjunctionRoundComplete (round status : Nat) (data : Marked) (s : State) : Goes (execConjunctionRoundComplete round status data s) := by
  unfold execConjunctionRoundComplete
  (repeat' split) <;> exact .next _

/-! ### The host, contexts and functions -/

@[simp] theorem Goes.callReplyWrite (ctx : Nat) (value : DWord) (s : State) : Goes (execCallReplyWrite ctx value s) := by
  unfold execCallReplyWrite
  (repeat' split) <;> exact .next _

@[simp] theorem Goes.faultRecordDrain (ctx : Nat) (s : State) : Goes (execFaultRecordDrain ctx s) := by
  unfold execFaultRecordDrain
  (repeat' split) <;> exact .next _

@[simp] theorem Goes.teamRestart (team : Nat) (s : State) : Goes (execTeamRestart team s) := by
  unfold execTeamRestart
  (repeat' split) <;> exact .next _

@[simp] theorem Goes.mxresetWrite (v : DWord) (s : State) : Goes (execMxresetWrite v s) := .ite _ (.next _) (.next _)
@[simp] theorem Goes.matrixResetError (pair : Fin 128) (s : State) : Goes (execMatrixResetError pair s) := .next _

@[simp] theorem Goes.matrixResetDone (pair : Fin 128) (s : State) : Goes (execMatrixResetDone pair s) := by
  unfold execMatrixResetDone
  dsimp only
  (repeat' split) <;> exact .next _

@[simp] theorem Goes.ctxResume (ctx : Nat) (s : State) : Goes (execCtxResume ctx s) := by
  unfold execCtxResume
  (repeat' split) <;> exact .next _

@[simp] theorem Goes.ctxDestroy (ctx : Nat) (s : State) : Goes (execCtxDestroy ctx s) := by
  unfold execCtxDestroy
  split <;> exact .next _

@[simp] theorem Goes.vfswitchWrite (v : DWord) (s : State) : Goes (execVfswitchWrite v s) := by
  unfold execVfswitchWrite
  dsimp only
  (repeat' split) <;> exact .next _

@[simp] theorem Goes.switchUnitCommit (ctx : Nat) (s : State) : Goes (execSwitchUnitCommit ctx s) := by
  unfold execSwitchUnitCommit
  (repeat' split) <;> exact .next _

@[simp] theorem Goes.funcPreempt (f : Nat) (s : State) : Goes (execFuncPreempt f s) := .ite _ (.next _) (.next _)
@[simp] theorem Goes.funcRestore (f : Nat) (s : State) : Goes (execFuncRestore f s) := .ite _ (.next _) (.next _)

@[simp] theorem Goes.ckOpen (ctx : Nat) (s : State) : Goes (execCkOpen ctx s) := by
  unfold execCkOpen
  split <;> exact .next _

@[simp] theorem Goes.ckRollback (ctx : Nat) (s : State) : Goes (execCkRollback ctx s) := by
  unfold execCkRollback
  (repeat' split) <;> exact .next _

@[simp] theorem Goes.ckClose (ctx : Nat) (s : State) : Goes (execCkClose ctx s) := by
  unfold execCkClose
  (repeat' split) <;> exact .next _

/-! ### Service, scrubbing and attestation -/

@[simp] theorem Goes.svcDrain (cls unit : Nat) (s : State) : Goes (execSvcDrain cls unit s) := by
  unfold execSvcDrain
  (repeat' split) <;> exact .next _

@[simp] theorem Goes.svcReturn (cls unit : Nat) (s : State) : Goes (execSvcReturn cls unit s) := by
  unfold execSvcReturn
  (repeat' split) <;> exact .next _

theorem Goes.onlyOut (s : State) (action cls unit : Nat) (act : State → State) : Goes (Machine.onlyOut s action cls unit act) := by
  unfold Machine.onlyOut
  (repeat' split) <;> exact .next _

@[simp] theorem Goes.svcRepair (cls unit : Nat) (s : State) : Goes (execSvcRepair cls unit s) := .onlyOut s 2 cls unit _
@[simp] theorem Goes.svcUpdate (cls : Nat) (what : UnitImage) (s : State) : Goes (execSvcUpdate cls what s) := .onlyOut s 3 cls what.unit _

@[simp] theorem Goes.unitEmpty (cls unit : Nat) (s : State) : Goes (execUnitEmpty cls unit s) := by
  unfold execUnitEmpty
  (repeat' split) <;> exact .next _

@[simp] theorem Goes.unitReady (cls unit : Nat) (s : State) : Goes (execUnitReady cls unit s) := .ite _ (.next _) (.next _)

@[simp] theorem Goes.scrubLine (target : ScrubTarget) (outcome : ScrubOutcome) (s : State) : Goes (execScrubLine target outcome s) := by
  unfold execScrubLine
  (repeat' split) <;> exact .next _

@[simp] theorem Goes.resync (v : DWord) (s : State) : Goes (execResync v s) := .ite _ (.next _) (.next _)
@[simp] theorem Goes.spdmGetVersion (s : State) : Goes (execSpdmGetVersion s) := .next _
@[simp] theorem Goes.spdmGetCapabilities (s : State) : Goes (execSpdmGetCapabilities s) := .next _
@[simp] theorem Goes.spdmNegotiateAlgorithms (s : State) : Goes (execSpdmNegotiateAlgorithms s) := .next _
@[simp] theorem Goes.spdmGetDigests (s : State) : Goes (execSpdmGetDigests s) := .next _
@[simp] theorem Goes.spdmGetCertificate (s : State) : Goes (execSpdmGetCertificate s) := .next _
@[simp] theorem Goes.spdmChallenge (nonce : List Byte) (s : State) : Goes (execSpdmChallenge nonce s) := .next _
@[simp] theorem Goes.spdmGetMeasurements (nonce : List Byte) (s : State) : Goes (execSpdmGetMeasurements nonce s) := .next _
@[simp] theorem Goes.spdmUnsupported (request : Byte) (s : State) : Goes (execSpdmUnsupported request s) := .next _

/-! ### The host links and launches across devices -/

@[simp] theorem Goes.functionLevelReset (f : Nat) (s : State) : Goes (execFunctionLevelReset f s) := .next _

@[simp] theorem Goes.hostCompletionError (req code : Nat) (s : State) : Goes (execHostCompletionError req code s) := by
  unfold execHostCompletionError
  (repeat' split) <;> exact .next _

@[simp] theorem Goes.hostLinkDown (die : Fin 2) (s : State) : Goes (execHostLinkDown die s) := .ite _ (.next _) (.next _)
@[simp] theorem Goes.mdLaunchMessage (slot : Fin 64) (dev : Nat) (s : State) : Goes (execMdLaunchMessage slot dev s) := .ite _ (.next _) (.next _)

@[simp] theorem Goes.mdAck (slot : Fin 64) (dev : Nat) (s : State) : Goes (execMdAck slot dev s) := by
  unfold execMdAck
  split <;> exact .next _

@[simp] theorem Goes.mdConfirm (slot : Fin 64) (s : State) : Goes (execMdConfirm slot s) := by
  unfold execMdConfirm
  split <;> exact .next _

@[simp] theorem Goes.mdAckTimeout (slot : Fin 64) (s : State) : Goes (execMdAckTimeout slot s) := by
  unfold execMdAckTimeout
  (repeat' split) <;> exact .next _

@[simp] theorem Goes.mdSelfAbortTimeout (slot : Fin 64) (s : State) : Goes (execMdSelfAbortTimeout slot s) := by
  unfold execMdSelfAbortTimeout
  (repeat' split) <;> exact .next _

@[simp] theorem Goes.mdAbort (slot : Fin 64) (s : State) : Goes (execMdAbort slot s) := by
  unfold execMdAbort
  dsimp only
  (repeat' split) <;> exact .next _

@[simp] theorem Goes.mdRaised (slot : Fin 64) (dev : Nat) (s : State) : Goes (execMdRaised slot dev s) := by
  unfold execMdRaised
  split <;> exact .next _

@[simp] theorem Goes.mdCommit (slot : Fin 64) (s : State) : Goes (execMdCommit slot s) := by
  unfold execMdCommit
  split <;> exact .next _

@[simp] theorem Goes.mdApplied (slot : Fin 64) (dev : Nat) (s : State) : Goes (execMdApplied slot dev s) := by
  unfold execMdApplied
  dsimp only
  (repeat' split) <;> exact .next _

@[simp] theorem Goes.mdRelease (slot : Fin 64) (s : State) : Goes (execMdRelease slot s) := by
  unfold execMdRelease
  split <;> exact .next _

/-! ### Registers and timers -/

@[simp] theorem Goes.registerWrite (r : MReg) (v : DWord) (s : State) : Goes (execRegisterWrite r v s) := by
  unfold execRegisterWrite
  (repeat' split) <;> exact .next _

@[simp] theorem Goes.replayStoreReissue (round : Nat) (s : State) : Goes (execReplayStoreReissue round s) := by
  unfold execReplayStoreReissue
  (repeat' split) <;> exact .next _

@[simp] theorem Goes.failedPathMarkExpire (port : Fin 8) (dev path : Nat) (s : State) : Goes (execFailedPathMarkExpire port dev path s) := by
  unfold execFailedPathMarkExpire
  dsimp only
  (repeat' split) <;> exact .next _

@[simp] theorem Goes.peerCommitAck (launch dev : Nat) (s : State) : Goes (execPeerCommitAck launch dev s) := by
  unfold execPeerCommitAck
  (repeat' split) <;> exact .next _

@[simp] theorem Goes.throttleEnd (core : Fin 256) (s : State) : Goes (execThrottleEnd core s) := .next _
@[simp] theorem Goes.hostLinkUp (die : Fin 2) (s : State) : Goes (execHostLinkUp die s) := .ite _ (.next _) (.next _)

/-! ### The three events that can stop the machine (log 24) -/

/-- An event that takes an address of local HBM from the host. -/
def takesAddress : Instr → Bool
  | .notifyWrite _ _ | .slotMap _ _ | .ctxdescWrite _ _ => true
  | _ => false

/-- An outcome is a next state, or the stop at an address a with a byte of what is there that does not exist. -/
def GoesOrStops (o : Host.Outcome State Fault Refusal) (a last : Nat) : Prop :=
  Goes o ∨ o = .fault (.noSuchAddress a) ∧ (paExists a = false ∨ paExists last = false)

theorem GoesOrStops.checked {o : Host.Outcome State Fault Refusal} (a last : Nat) (there : Goes o) :
    GoesOrStops (if !paExists a || !paExists last then .fault (.noSuchAddress a) else o) a last := by
  split
  · next missing => exact .inr ⟨rfl, by simpa using missing⟩
  · exact .inl there

theorem notifyWrite_outcome (desc : Nat) (v : DWord) (s : State) : GoesOrStops (execNotifyWrite desc v s) (desc + 24) (desc + 24 + 7) :=
  .checked _ _ (.ite _ (.ite _ (.next _) (.next _)) (.next _))

theorem slotMap_outcome (n : Fin 64) (addr : DWord) (s : State) : GoesOrStops (execSlotMap n addr s) (dw addr 56 6 * 64) (dw addr 56 6 * 64 + 63) := by
  unfold execSlotMap
  extract_lets a x d y
  split
  · exact .inl (.next s)
  · exact .checked _ _ (.ite _ (.next _) (.next _))

theorem ctxdescWrite_outcome (addr : DWord) (ctx : Nat) (s : State) :
    GoesOrStops (execCtxdescWrite addr ctx s) (dw addr 56 6 * 64) (dw addr 56 6 * 64 + 63) := by
  unfold execCtxdescWrite
  extract_lets a
  split
  · exact .inl (.next s)
  · refine .checked _ _ ?_
    split <;> exact .next _

/-! ### Every instruction and every event -/

/-- Of the events only those three can do otherwise. -/
theorem exec_goes (i : Instr) (s : State) (other : takesAddress i = false) : Goes (exec i s) := by
  cases event : i.isEvent with
  | false =>
    obtain ⟨body, frame⟩ := exec_eq_run event s
    exact frame ▸ .run i s body
  | true => cases i <;> cases event <;> cases other <;> simp

end Sys2Proof.Machine

namespace Sys2Proof.Claims
open Sys2Proof.Machine

/-- An outcome is a next state, or the stop at an address that one of the three events was given. -/
theorem exec_outcome (i : Instr) (s : State) : Goes (exec i s) ∨ ∃ a, exec i s = .fault (.noSuchAddress a) ∧
    (paExists a = false ∨ paExists (a + 7) = false ∨ paExists (a + 63) = false) ∧
    ((∃ d x, i = .notifyWrite d x ∧ a = d + 24) ∨ (∃ n x, i = .slotMap n x) ∨ ∃ c x, i = .ctxdescWrite c x) := by
  cases given : takesAddress i with
  | false => exact .inl (exec_goes i s given)
  | true =>
    cases i <;> cases given
    case true.notifyWrite.refl desc v =>
      exact (notifyWrite_outcome desc v s).imp_right fun ⟨stop, missing⟩ => ⟨_, stop, missing.imp_right .inl, .inl ⟨desc, v, rfl, rfl⟩⟩
    case true.slotMap.refl n addr =>
      exact (slotMap_outcome n addr s).imp_right fun ⟨stop, missing⟩ => ⟨_, stop, missing.imp_right .inr, .inr (.inl ⟨n, addr, rfl⟩)⟩
    case true.ctxdescWrite.refl addr ctx =>
      exact (ctxdescWrite_outcome addr ctx s).imp_right fun ⟨stop, missing⟩ => ⟨_, stop, missing.imp_right .inr, .inr (.inr ⟨addr, ctx, rfl⟩)⟩

/-- Settles O36: the outcomes of every instruction and event, and the frame of those of a fragment. -/
theorem onlyMissingMemoryStops : Obligations.OnlyMissingMemoryStops := by
  unfold Obligations.OnlyMissingMemoryStops
  intro i s
  refine ⟨fun r refused => ?_, fun f fault => ?_, fun instruction => ?_⟩
  · rcases exec_outcome i s with ⟨s', done⟩ | ⟨a, stop, -⟩
    · cases done.symm.trans refused
    · cases stop.symm.trans refused
  · rcases exec_outcome i s with ⟨s', done⟩ | ⟨a, stop, missing, given⟩
    · cases done.symm.trans fault
    · cases stop.symm.trans fault
      exact ⟨a, rfl, missing, given⟩
  · obtain ⟨body, frame⟩ := exec_eq_run instruction s
    exact frame ▸ Goes.run i s body

end Sys2Proof.Claims
end

section
/-! What remains when teams end (R141, R327, R341): groups stand where they stood, the launches are the same ones, no Conjunction slot has changed, and no team
is lost. -/

namespace Sys2Proof.Machine

/-! ### Groups, launches and Conjunction slots -/

/-- Which group a group is, and its core. -/
def Group.place (g : Group) : Nat × Nat × Nat := (g.launch, g.num, g.core)

/-- Groups and launches are the same ones, and the Conjunction slots stand as they were. -/
structure Remains (s s' : State) : Prop where
  groups : s'.groups.map Group.place = s.groups.map Group.place
  conj : s'.conj = s.conj
  launches : ∀ k, (s'.launch? k).map Launch.id = (s.launch? k).map Launch.id

theorem Remains.refl (s : State) : Remains s s := ⟨rfl, rfl, fun _ => rfl⟩

theorem Remains.trans {s s' s'' : State} (h : Remains s s') (h' : Remains s' s'') : Remains s s'' :=
  ⟨h'.groups.trans h.groups, h'.conj.trans h.conj, fun k => (h'.launches k).trans (h.launches k)⟩

theorem Remains.of_untouched {s s' : State} (h : Untouched s s') : Remains s s' := ⟨congrArg (List.map Group.place) h.groups, h.conj, h.launches⟩

/-- An operation that leaves the three fields. -/
theorem Remains.of_eq {s s' : State} (groups : s'.groups = s.groups) (conj : s'.conj = s.conj) (launches : s'.launches = s.launches) : Remains s s' :=
  ⟨congrArg (List.map Group.place) groups, conj, fun k => by simp only [State.launch?, launches]⟩

theorem Remains.foldl {α : Type} {f : State → α → State} (h : ∀ s x, Remains s (f s x)) (l : List α) (s : State) : Remains s (l.foldl f s) := by
  induction l generalizing s with
  | nil => exact .refl s
  | cons x l ih => exact (h s x).trans (ih _)

theorem Remains.ite {s a b : State} (c : Prop) [Decidable c] (ha : Remains s a) (hb : Remains s b) : Remains s (if c then a else b) := by
  split
  · exact ha
  · exact hb

theorem Remains.updTeam (s : State) (t : Nat) (f : Team → Team) : Remains s (s.updTeam t f) := .of_untouched (.updTeam s t f)
theorem Remains.updMem (s : State) (f : MemSt → MemSt) : Remains s (s.updMem f) := .of_untouched (.updMem s f)
theorem Remains.updCore (s : State) (c : Nat) (f : CoreSt → CoreSt) : Remains s (s.updCore c f) := .of_eq rfl rfl rfl
theorem Remains.updPair (s : State) (p : Nat) (f : PairSt → PairSt) : Remains s (s.updPair p f) := .of_eq rfl rfl rfl
theorem Remains.updSlot (s : State) (n : Nat) (f : Slot → Slot) : Remains s (s.updSlot n f) := .of_eq rfl rfl rfl

theorem Remains.updLaunch (s : State) (l : Nat) {f : Launch → Launch} (h : ∀ x, (f x).id = x.id) : Remains s (s.updLaunch l f) := by
  refine ⟨by rw [State.updLaunch_groups], State.updLaunch_conj s l f, fun k => ?_⟩
  by_cases hk : k = l
  · rw [hk, State.updLaunch_launch?_same, Option.map_map, show Launch.id ∘ f = Launch.id from funext h]
  · rw [State.updLaunch_launch?_other s f hk]

theorem Remains.updGroup (s : State) (l g : Nat) {f : Group → Group} (h : ∀ x, (f x).place = x.place) : Remains s (s.updGroup l g f) := by
  refine ⟨?_, rfl, fun _ => rfl⟩
  rw [State.updGroup, List.map_map]
  refine List.map_congr_left (fun x _ => ?_)
  dsimp only [Function.comp]
  split
  · exact h x
  · rfl

/-! ### Locks, copies, phases and barriers -/

theorem Remains.retire (s : State) (t : Nat) : Remains s (s.retire t) := .updTeam s t _

theorem Remains.freeWaiter (s : State) (t : Nat) : Remains s (s.freeWaiter t) := by
  unfold State.freeWaiter
  split
  · exact .refl s
  · exact .updCore s _ _

theorem Remains.dropLockReq (s : State) (t : Nat) : Remains s (s.dropLockReq t) := .of_eq rfl rfl rfl

theorem Remains.lockStatus (s : State) (team status : Nat) : Remains s (s.lockStatus team status) :=
  .trans (.trans (.dropLockReq s team) (.updTeam _ team _)) (.retire _ team)

theorem Remains.passLock (s : State) (k : LineLock) (data : Store) : Remains s (s.passLock k data) := by
  unfold State.passLock
  extract_lets w home order
  have homes (s : State) : Remains s (home s) := .foldl (fun s i => .ite _ (.refl s) (.of_untouched (.homeWrite s w _ _ _))) (List.range 32) s
  clear_value home
  split
  case h_1 => exact .trans (.updMem s _) (homes _)
  case h_2 =>
    extract_lets away k' s1 s2
    have h2 : Remains s s2 := (homes s).trans (.of_eq rfl rfl rfl)
    refine .ite _ h2 (h2.trans ?_)
    exact .trans (.trans (.freeWaiter s2 _) (.lockStatus _ _ 0)) (.of_eq rfl rfl rfl)

theorem Remains.letGo (s : State) (t : Nat) : Remains s (s.letGo t) := .ite _ (.refl s) (.foldl (fun s k => .passLock s k k.copy) _ s)

theorem Remains.withdrawWaits (s : State) (t : Nat) : Remains s (s.withdrawWaits t) := by
  unfold State.withdrawWaits
  extract_lets s1 s2
  have h2 : Remains s s2 := .trans (.freeWaiter s t) (.of_eq rfl rfl rfl)
  exact h2.trans (.foldl (fun s k => .passLock s k k.check) _ s2)

theorem Remains.slicesOff (s : State) (cs : List Slice) : Remains s (s.slicesOff cs) := .foldl (fun s (c : Slice) => .retire s c.team) cs s

theorem Remains.cancelCopy (s : State) (g : Group) (h : Nat) : Remains s (s.cancelCopy g h) := by
  unfold State.cancelCopy
  split
  · exact .refl s
  · refine .ite _ ?_ (.refl s)
    extract_lets waits s1 x' s2
    have h1 : Remains s s1 := .foldl (fun s (c : Slice) => .updTeam s c.team _) _ s
    have h2 : Remains s1 s2 := .trans (.updGroup s1 _ _ (f := fun g => { g with handles := NMap.put g.handles h x' }) (fun _ => rfl)) (.slicesOff _ _)
    exact h1.trans (h2.trans (.of_eq rfl rfl rfl))

theorem Remains.withdrawSlices (s : State) (t : Team) : Remains s (s.withdrawSlices t) := by
  unfold State.withdrawSlices
  split
  · exact .refl s
  · exact .foldl (fun s _ => .cancelCopy s _ _) _ s

theorem Remains.stopTeam (s : State) (t : Team) (status : TeamSt) : Remains s (s.stopTeam t status).2 := by
  unfold State.stopTeam
  extract_lets told s1 s2 held s3 s4 s5 s6
  have h1 : Remains s s1 := .updTeam s _ _
  have h2 : Remains s1 s2 := .withdrawSlices s1 t
  have h3 : Remains s2 s3 := .trans (.withdrawWaits s2 t.id) (.updTeam _ _ _)
  have h4 : Remains s3 s4 := .foldl (fun s k => .passLock s k k.check) held s3
  have h5 : Remains s4 s5 := .of_eq rfl rfl rfl
  exact h1.trans <| h2.trans <| h3.trans <| h4.trans <| h5.trans <| .trans (.retire s5 t.id) (.ite _ (.refl s6) (.of_eq rfl rfl rfl))

theorem Remains.ownSegs (s : State) (op : Nat) (segs : List Seg) : Remains s (s.ownSegs op segs) :=
  .foldl (fun s _ => .ite _ (.refl s) (.trans (.ite _ (.of_untouched (.claimLine s _)) (.refl s)) (.updMem _ _))) _ s

theorem Remains.copyTest (s : State) (launch num h : Nat) : Remains s (s.copyTest launch num h) := by
  unfold State.copyTest
  split
  · exact .refl s
  · split
    · exact .refl s
    · refine .ite _ ?_ (.refl s)
      split
      case h_1 id s0 fresh =>
        extract_lets srt first op0 op s1 s2
        have h0 : Remains s s0 := (Prod.mk.inj fresh).2 ▸ .of_eq rfl rfl rfl
        have h1 : Remains s0 s1 := .updGroup s0 launch num (fun _ => rfl)
        exact h0.trans <| h1.trans <| .trans (.ownSegs s1 _ _) (.updPair s2 _ _)

theorem Remains.phaseTest (s : State) (launch core : Nat) : Remains s (s.phaseTest launch core) := by
  unfold State.phaseTest
  split
  · exact .refl s
  · split
    · exact .refl s
    · exact .ite _ (.trans (.updMem s _) (.updLaunch _ _ (fun _ => rfl))) (.refl s)

theorem Remains.barTest (s : State) (key : Nat) (sel : Team → Bool) : Remains s (s.barTest key sel) := .ite _ (.of_eq rfl rfl rfl) (.refl s)

theorem Remains.barriers (s : State) (launch group : Nat) : Remains s (s.barriers launch group) := .trans (.barTest s 3 _) (.barTest _ 4 _)

/-! ### Teams and launches ended -/

theorem Remains.endTeam (s : State) (tid : Nat) : Remains s (s.endTeam tid) := by
  unfold State.endTeam
  split
  · exact .refl s
  case h_2 t _ =>
    extract_lets s1 s2 s3 s4 s5
    have h2 : Remains s s2 := .trans (.letGo s tid) (.withdrawWaits s1 tid)
    have h4 : Remains s2 s4 := .trans (.updTeam s2 tid _) (.updGroup s3 _ _ (fun _ => rfl))
    have h5 : Remains s4 s5 := .foldl (fun s h => .copyTest s t.launch t.group h) _ s4
    exact h2.trans <| h4.trans <| h5.trans <| .trans (.phaseTest s5 _ _) (.barriers _ _ _)

theorem Remains.killTeam (s : State) (t : Team) : Remains s (s.killTeam t) := by
  unfold State.killTeam
  refine .ite _ (.refl s) ?_
  split
  case h_1 locks s0 hs =>
    extract_lets stray s1
    have h0 : Remains s s0 := by simpa [hs] using Remains.stopTeam s t .stopped
    have h1 : Remains s0 s1 := .of_eq rfl rfl rfl
    exact h0.trans <| h1.trans <| .trans (.updTeam s1 t.id _) (.endTeam _ t.id)

theorem Remains.freeSlot (s : State) (n : Nat) : Remains s (s.freeSlot n) := by
  unfold State.freeSlot
  exact .trans (.of_untouched (.writeReadix s (s.slot n))) (.updSlot _ n _)

theorem Remains.slotPlaced (s : State) (n : Nat) : Remains s (s.slotPlaced n) := by
  unfold State.slotPlaced
  split
  · exact .refl s
  · refine .ite _ (.refl s) ?_
    split
    · exact .updSlot s n _
    · exact .freeSlot s n
    · exact .refl s

theorem Remains.killLaunch (s : State) (l : Launch) : Remains s (s.killLaunch l) := by
  unfold State.killLaunch
  extract_lets s1 s2
  have h1 : Remains s s1 := .trans (.foldl .killTeam _ s) (.foldl (fun s _ => .updCore s _ _) _ _)
  have h2 : Remains s1 s2 := .updLaunch s1 l.id (fun _ => rfl)
  exact h1.trans (h2.trans (.slotPlaced s2 l.slot))

/-! ### Teams that last -/

theorem TeamsLast.releaseKey (s : State) (launch num key value : Nat) : TeamsLast s (s.releaseKey launch num key value) := by
  refine .map (f := fun t => if t.launch == launch && t.group == num then
    { t with frags := t.frags.map (fun e => if e.2.latch == .waiting key then (e.1, { e.2 with latch := .done value }) else e) } else t) ?_ (fun t => ?_)
  · refine List.map_congr_left (fun e _ => ?_)
    dsimp only
    split <;> rfl
  · split
    · refine Team.lasting_mapFrags t (fun e => ?_)
      split <;> rfl
    · rfl

theorem TeamsLast.sliceDone (s : State) (h status bytes : Nat) (c : Slice) : TeamsLast s (s.sliceDone h status bytes c) := by
  refine .updTeam s c.team (fun t => ?_)
  dsimp only
  split_ifs <;> rfl

theorem TeamsLast.cancelCopy (s : State) (g : Group) (h : Nat) : TeamsLast s (s.cancelCopy g h) := by
  unfold State.cancelCopy
  split
  · exact .refl s
  · refine .ite _ ?_ (.refl s)
    extract_lets waits s1 x' s2
    have h1 : TeamsLast s s1 := .foldl (fun s c => .sliceDone s h 2 0 c) _ s
    have h2 : TeamsLast s1 s2 := .foldl (fun s (c : Slice) => .retire s c.team) _ (s1.updGroup g.launch g.num _)
    exact h1.trans (h2.trans (.trans (.releaseKey s2 _ _ _ _) (.releaseKey _ _ _ _ _)))

theorem TeamsLast.withdrawSlices (s : State) (t : Team) : TeamsLast s (s.withdrawSlices t) := by
  unfold State.withdrawSlices
  split
  · exact .refl s
  · exact .foldl (fun s _ => .cancelCopy s _ _) _ s

theorem TeamsLast.freeSlot (s : State) (n : Nat) : TeamsLast s (s.freeSlot n) := .of_teams (State.homeWrite_teams s none _ _ false)

theorem TeamsLast.updCore (s : State) (c : Nat) (f : CoreSt → CoreSt) : TeamsLast s (s.updCore c f) := .of_teams rfl

theorem TeamsLast.freeGang (s : State) (launch : Nat) : TeamsLast s (s.freeGang launch) := .foldl (fun s _ => .updCore s _ _) _ s

theorem TeamsLast.slotPlaced (s : State) (n : Nat) : TeamsLast s (s.slotPlaced n) := by
  unfold State.slotPlaced
  split
  · exact .refl s
  · refine .ite _ (.refl s) ?_
    split
    · exact .of_teams rfl
    · exact .freeSlot s n
    · exact .refl s

/-! ### Teams through the end of one of them -/

/-- Every team is still there, of the same launch, and one that has ended stays so. -/
def TeamsOutlast (s s' : State) : Prop := ∀ u t, s.team? u = some t →
  ∃ t', s'.team? u = some t' ∧ t'.id = t.id ∧ t'.launch = t.launch ∧ (t.status = .ended → t'.status = .ended)

theorem TeamsOutlast.refl (s : State) : TeamsOutlast s s := fun _ t ht => ⟨t, ht, rfl, rfl, id⟩

theorem TeamsOutlast.trans {s s' s'' : State} (h : TeamsOutlast s s') (h' : TeamsOutlast s' s'') : TeamsOutlast s s'' := by
  intro u t ht
  obtain ⟨t1, ht1, id1, launch1, ended1⟩ := h u t ht
  obtain ⟨t2, ht2, id2, launch2, ended2⟩ := h' u t1 ht1
  exact ⟨t2, ht2, id2.trans id1, launch2.trans launch1, fun e => ended2 (ended1 e)⟩

theorem TeamsOutlast.of_last {s s' : State} (h : TeamsLast s s') : TeamsOutlast s s' := by
  intro u t ht
  obtain ⟨t', ht', same⟩ := h.team? ht
  exact ⟨t', ht', (congrArg Team.id same :), (congrArg Team.launch same :), fun e => (congrArg Team.status same :).trans e⟩

theorem TeamsOutlast.foldl {α : Type} {f : State → α → State} (h : ∀ s x, TeamsOutlast s (f s x)) (l : List α) (s : State) :
    TeamsOutlast s (l.foldl f s) := by
  induction l generalizing s with
  | nil => exact .refl s
  | cons x l ih => exact (h s x).trans (ih _)

/-- Stopping a team changes the status of no other. -/
theorem State.stopTeam_team? (s : State) (t : Team) (status : TeamSt) {u : Nat} {x : Team} (hx : s.team? u = some x) :
    ∃ x', (s.stopTeam t status).2.team? u = some x' ∧ x'.id = x.id ∧ x'.launch = x.launch ∧ (u ≠ t.id → x'.status = x.status) := by
  unfold State.stopTeam
  extract_lets told s1 s2 held s3 s4 s5 s6
  have first : ∃ x1, s1.team? u = some x1 ∧ x1.id = x.id ∧ x1.launch = x.launch ∧ (u ≠ t.id → x1.status = x.status) := by
    by_cases hu : u = t.id
    · subst hu
      exact ⟨_, (State.updTeam_team?_same s t.id _).trans (congrArg (Option.map _) hx), rfl, rfl, fun other => absurd rfl other⟩
    · exact ⟨x, (State.updTeam_team?_other s _ hu).trans hx, rfl, rfl, fun _ => rfl⟩
  obtain ⟨x1, hx1, id, launch, same⟩ := first
  have h2 : TeamsLast s1 s2 := .withdrawSlices s1 t
  have h3 : TeamsLast s2 s3 := .trans (.withdrawWaits s2 t.id) (.updTeam _ _ (fun _ => rfl))
  have h4 : TeamsLast s3 s4 := .foldl (fun s k => .passLock s k k.check) held s3
  have h6 : TeamsLast s4 s6 := .retire s5 t.id
  have h7 : TeamsLast s6 (s6.rollback t) := .ite _ (.refl s6) (.of_teams rfl)
  obtain ⟨x', hx', last⟩ := (h2.trans <| h3.trans <| h4.trans <| h6.trans h7).team? hx1
  exact ⟨x', hx', (congrArg Team.id last :).trans id, (congrArg Team.launch last :).trans launch, fun other => (congrArg Team.status last :).trans (same other)⟩

/-- The end of a team leaves every other as it was but for what lasts. -/
theorem State.endTeam_team?_other (s : State) (tid : Nat) {u : Nat} (hu : u ≠ tid) :
    ((s.endTeam tid).team? u).map Team.lasting = (s.team? u).map Team.lasting := by
  unfold State.endTeam
  split
  · rfl
  case h_2 t _ =>
    extract_lets s1 s2 s3 s4 s5
    have h2 : TeamsLast s s2 := .trans (.letGo s tid) (.withdrawWaits s1 tid)
    have h3 : s3.team? u = s2.team? u := State.updTeam_team?_other s2 _ hu
    have h5 : TeamsLast s4 s5 := .foldl (fun s h => .copyTest s t.launch t.group h) _ s4
    have last : TeamsLast s4 _ := h5.trans <| .trans (.phaseTest s5 t.launch t.core) (.barriers _ t.launch t.group)
    exact (last u).trans ((congrArg (Option.map Team.lasting) h3).trans (h2 u))

theorem TeamsOutlast.endTeam (s : State) (tid : Nat) : TeamsOutlast s (s.endTeam tid) := by
  intro u t ht
  by_cases hu : u = tid
  · subst hu
    obtain ⟨t', ht', last⟩ := State.endTeam_team? ht
    exact ⟨t', ht', (congrArg Team.id last :), (congrArg Team.launch last :), fun _ => (congrArg Team.status last :)⟩
  · have same := State.endTeam_team?_other s tid hu
    rw [ht, Option.map_some, Option.map_eq_some_iff] at same
    obtain ⟨t', ht', last⟩ := same
    exact ⟨t', ht', (congrArg Team.id last :), (congrArg Team.launch last :), fun e => (congrArg Team.status last :).trans e⟩

/-- A team without what it was doing. -/
def Team.cleared (t : Team) : Team :=
  { t with frags := [], joins := [], serial := [], record := none, savedReply := none, restartPending := false, victim := false }

/-- A team that is killed where it has not ended yet has ended; every team outlasts it. -/
theorem State.killTeam_team? (s : State) (t : Team) {u : Nat} {x : Team} (hx : s.team? u = some x) :
    ∃ x', (s.killTeam t).team? u = some x' ∧ x'.id = x.id ∧ x'.launch = x.launch ∧ (x.status = .ended → x'.status = .ended) ∧
      (u = t.id → t.status ≠ .ended → x'.status = .ended) := by
  unfold State.killTeam
  split
  case isTrue ended => exact ⟨x, hx, rfl, rfl, id, fun _ alive => absurd (beq_iff_eq.mp ended) alive⟩
  case isFalse alive =>
    split
    case h_1 locks s0 stopped =>
      obtain ⟨x0, hx0, id0, launch0, same0⟩ := State.stopTeam_team? s t .stopped hx
      rw [stopped] at hx0
      extract_lets stray s1
      by_cases hu : u = t.id
      · have cleared := (State.updTeam_team?_same s1 u Team.cleared).trans (congrArg (Option.map _) hx0)
        obtain ⟨x', hx', last⟩ := State.endTeam_team? cleared
        have ended : x'.status = .ended := (congrArg Team.status last :)
        exact ⟨x', hu ▸ hx', (congrArg Team.id last :).trans id0, (congrArg Team.launch last :).trans launch0, fun _ => ended, fun _ _ => ended⟩
      · obtain ⟨x', hx', id', launch', ended'⟩ := TeamsOutlast.endTeam (s1.updTeam t.id _) t.id u x0 ((State.updTeam_team?_other s1 _ hu).trans hx0)
        exact ⟨x', hx', id'.trans id0, launch'.trans launch0, fun e => ended' ((same0 hu).trans e), fun own => absurd own hu⟩

theorem TeamsOutlast.killTeam (s : State) (t : Team) : TeamsOutlast s (s.killTeam t) := by
  intro u x hx
  obtain ⟨x', hx', id, launch, ended, -⟩ := State.killTeam_team? s t hx
  exact ⟨x', hx', id, launch, ended⟩

/-- What a fold's step for one of its elements brings about where something holds that every step keeps, and every step keeps itself, holds in the end. -/
theorem foldl_reaches {α β : Type} {f : β → α → β} {P Q : β → Prop} (keepsP : ∀ b x, P b → P (f b x)) (keepsQ : ∀ b x, Q b → Q (f b x))
    {l : List α} {x : α} (hx : x ∈ l) (reach : ∀ b, Q b → P (f b x)) {b : β} (hb : Q b) : P (l.foldl f b) := by
  have stays (l : List α) (b : β) (h : P b) : P (l.foldl f b) := by
    induction l generalizing b with
    | nil => exact h
    | cons y l ih => exact ih _ (keepsP b y h)
  induction l generalizing b with
  | nil => cases hx
  | cons y l ih =>
    rcases List.mem_cons.mp hx with rfl | rest
    · exact stays l _ (reach b hb)
    · exact ih rest (keepsQ b y hb)

/-- A team that is there, under its own number and of a launch. -/
def State.hasTeam (s : State) (u launch : Nat) : Prop := ∃ t, s.team? u = some t ∧ t.id = u ∧ t.launch = launch

/-- A team that is there and has ended. -/
def State.hasEnded (s : State) (u : Nat) : Prop := ∃ t, s.team? u = some t ∧ t.status = .ended

theorem TeamsOutlast.hasTeam {s s' : State} (h : TeamsOutlast s s') {u launch : Nat} (there : s.hasTeam u launch) : s'.hasTeam u launch := by
  obtain ⟨t, ht, id, same⟩ := there
  obtain ⟨t', ht', id', launch', -⟩ := h u t ht
  exact ⟨t', ht', id'.trans id, launch'.trans same⟩

theorem TeamsOutlast.hasEnded {s s' : State} (h : TeamsOutlast s s') {u : Nat} (there : s.hasEnded u) : s'.hasEnded u := by
  obtain ⟨t, ht, ended⟩ := there
  obtain ⟨t', ht', -, -, ended'⟩ := h u t ht
  exact ⟨t', ht', ended' ended⟩

/-- Killing the teams of a launch ends them all. -/
theorem State.killTeams_hasEnded {s : State} {u launch : Nat} (there : s.hasTeam u launch) :
    ((s.teamList.filter (fun t => t.launch == launch)).foldl State.killTeam s).hasEnded u := by
  obtain ⟨t, ht, id, same⟩ := there
  have listed : t ∈ s.teamList.filter (fun t => t.launch == launch) :=
    List.mem_filter.mpr ⟨List.mem_map.mpr ⟨(u, t), NMap.mem_of_look ht, rfl⟩, beq_iff_eq.mpr same⟩
  by_cases ended : t.status = .ended
  · exact (TeamsOutlast.foldl .killTeam _ s).hasEnded ⟨t, ht, ended⟩
  · refine foldl_reaches (Q := fun s => s.hasTeam u launch) (fun s x => (TeamsOutlast.killTeam s x).hasEnded) (fun s x => (TeamsOutlast.killTeam s x).hasTeam)
      listed (fun s ⟨x, hx, _, _⟩ => ?_) ⟨t, ht, id, same⟩
    obtain ⟨x', hx', -, -, -, killed⟩ := State.killTeam_team? s t hx
    exact ⟨x', hx', killed id.symm ended⟩

/-- What follows the teams' end in the end of a launch. -/
theorem TeamsLast.killLaunch_rest (s : State) (l : Launch) :
    TeamsLast ((s.teamList.filter (fun t => t.launch == l.id)).foldl State.killTeam s) (s.killLaunch l) := by
  unfold State.killLaunch
  extract_lets s1 s2
  have h1 : TeamsLast ((s.teamList.filter (fun t => t.launch == l.id)).foldl State.killTeam s) s1 := .freeGang _ l.id
  have h2 : TeamsLast s1 s2 := .of_teams (State.updLaunch_teams s1 l.id _)
  exact h1.trans (h2.trans (.slotPlaced s2 l.slot))

theorem TeamsOutlast.killLaunch (s : State) (l : Launch) : TeamsOutlast s (s.killLaunch l) :=
  .trans (.foldl .killTeam _ s) (.of_last (.killLaunch_rest s l))

theorem State.killLaunch_hasEnded {s : State} {l : Launch} {u : Nat} (there : s.hasTeam u l.id) : (s.killLaunch l).hasEnded u :=
  (TeamsOutlast.of_last (.killLaunch_rest s l)).hasEnded (State.killTeams_hasEnded there)

end Sys2Proof.Machine
end

section
/-! A context destroyed (R341): its teams end, its armed Conjunction slots are cancelled, what its groups own of their pairs is released, its slots are
unmapped. -/

namespace Sys2Proof.Machine

/-! ### Conjunction slots cancelled (R249) -/

/-- No slot stands armed under a key for a context. -/
def State.unarmed (s : State) (ctx key : Nat) : Prop := ∀ y, NMap.look s.conj.slots key = some y → y.ctx = ctx → y.st ≠ .armed

theorem State.unarmed_congr {s s' : State} (h : s'.conj = s.conj) {ctx key : Nat} (unarmed : s.unarmed ctx key) : s'.unarmed ctx key := by
  rwa [State.unarmed, h]

/-- A slot set to something that is not armed, and the others as they were. -/
theorem State.setCj_unarmed {s : State} {key : Nat} {x : CjSlot} (h : x.st ≠ .armed) {ctx k : Nat} (unarmed : k = key ∨ s.unarmed ctx k) :
    (s.setCj key x).unarmed ctx k := by
  intro y hy mine
  simp only [State.setCj, State.updConj] at hy
  by_cases hk : k = key
  · subst hk
    split at hy
    · simp at hy
    · obtain rfl : x = y := by simpa using hy
      exact h
  · refine unarmed.resolve_left hk y ?_ mine
    split at hy
    · rwa [NMap.look_del_other _ hk] at hy
    · rwa [NMap.look_put_other _ _ hk] at hy

theorem CjSlot.settled_ne_armed {x : CjSlot} (h : x.st = .closing) : x.settled.st ≠ .armed := by
  unfold CjSlot.settled
  split <;> simp [h]

/-- A cancelled slot is not armed, and no other is armed by it. -/
theorem State.cjCancel_unarmed (s : State) (key : Nat) {ctx k : Nat} (unarmed : k = key ∨ s.unarmed ctx k) : (s.cjCancel key).2.unarmed ctx k := by
  have other (same : (s.cjCancel key).2 = s) (gone : ∀ y, NMap.look s.conj.slots key = some y → y.st ≠ .armed) : (s.cjCancel key).2.unarmed ctx k := by
    rw [same]
    rcases unarmed with rfl | unarmed
    · exact fun y hy _ => gone y hy
    · exact unarmed
  unfold State.cjCancel at other ⊢
  cases hx : NMap.look s.conj.slots key with
  | none => exact (by simpa [hx] using other)
  | some x =>
    simp only [hx] at other ⊢
    cases st : x.st with
    | armed => exact State.setCj_unarmed (CjSlot.settled_ne_armed rfl) unarmed
    | firing => exact State.setCj_unarmed (by simp) unarmed
    | closing => exact (by simpa [st] using other)
    | free => exact (by simpa [st] using other)

/-! ### What a group owns of its pair (R211) -/

/-- Nothing of the pair is the group's. -/
structure PairSt.Free (p : PairSt) (g : Nat) : Prop where
  tiles : ∀ e ∈ p.tileOwner, e.2 ≠ g
  bufs : ∀ e ∈ p.bufOwner, e.2 ≠ g
  side : p.sideOwner ≠ some g
  spq : p.spqOwner ≠ some g

theorem NMap.look_ne_of_mem_ne {m : NMap Nat} {g : Nat} (h : ∀ e ∈ m, e.2 ≠ g) (k : Nat) : NMap.look m k ≠ some g :=
  fun found => h _ (NMap.mem_of_look found) rfl

theorem PairSt.Free.owner_ne {p : PairSt} {g : Nat} (h : p.Free g) (r : Nat) : p.owner r ≠ some g := by
  unfold PairSt.owner
  split_ifs
  · exact NMap.look_ne_of_mem_ne h.tiles r
  · exact NMap.look_ne_of_mem_ne h.bufs _
  · exact h.side
  · exact h.spq
  · simp

theorem PairSt.release_free (p : PairSt) (g : Nat) : (p.release g).Free g where
  tiles e he := by simpa using (List.mem_filter.mp he).2
  bufs e he := by simpa using (List.mem_filter.mp he).2
  side := by unfold PairSt.release; grind
  spq := by unfold PairSt.release; grind

theorem PairSt.Free.release {p : PairSt} {k : Nat} (h : p.Free k) (g : Nat) : (p.release g).Free k where
  tiles e he := h.tiles e (List.mem_filter.mp he).1
  bufs e he := h.bufs e (List.mem_filter.mp he).1
  side := by have := h.side; unfold PairSt.release; grind
  spq := by have := h.spq; unfold PairSt.release; grind

/-- A group lets go of all it owns of its pair. -/
def State.releaseGroup (s : State) (g : Group) : State := s.updPair (corePair g.core) (fun p => p.release (groupKey g.launch g.num))

theorem State.pairSt_congr {s s' : State} (h : s'.pairs = s.pairs) (p : Nat) : s'.pairSt p = s.pairSt p := by rw [State.pairSt, h, State.pairSt]

theorem State.releaseGroup_free (s : State) (g : Group) : ((s.releaseGroup g).pairSt (corePair g.core)).Free (groupKey g.launch g.num) := by
  rw [State.releaseGroup, State.updPair_pairSt_same]
  exact PairSt.release_free _ _

theorem State.releaseGroup_keeps_free (s : State) (g : Group) {p k : Nat} (h : (s.pairSt p).Free k) : ((s.releaseGroup g).pairSt p).Free k := by
  rw [State.releaseGroup]
  by_cases hp : p = corePair g.core
  · rw [hp, State.updPair_pairSt_same]
    exact PairSt.Free.release (hp ▸ h) _
  · rwa [State.updPair_pairSt_other s _ hp]

theorem State.releaseGroup_teams (s : State) (g : Group) : (s.releaseGroup g).teams = s.teams := rfl
theorem State.releaseGroup_conj (s : State) (g : Group) : (s.releaseGroup g).conj = s.conj := rfl

/-- Groups that let go one after another own nothing of their pairs. -/
theorem State.releaseGroups_free {gs : List Group} {g : Group} (hg : g ∈ gs) (s : State) :
    ((gs.foldl State.releaseGroup s).pairSt (corePair g.core)).Free (groupKey g.launch g.num) :=
  foldl_reaches (Q := fun _ => True) (fun s x => State.releaseGroup_keeps_free s x) (fun _ _ => id) hg (fun s _ => s.releaseGroup_free g) trivial

/-! ### The launches of a context -/

/-- A launch of a list ended where it is still there. -/
def State.killListed (s : State) (l : Launch) : State := match s.launch? l.id with | some x => s.killLaunch x | none => s

theorem Remains.killListed (s : State) (l : Launch) : Remains s (s.killListed l) := by
  unfold State.killListed
  split
  · exact .killLaunch s _
  · exact .refl s

theorem TeamsOutlast.killListed (s : State) (l : Launch) : TeamsOutlast s (s.killListed l) := by
  unfold State.killListed
  split
  · exact .killLaunch s _
  · exact .refl s

/-- The teams of the listed launches have ended. -/
theorem State.killListed_hasEnded {ls : List Launch} {l : Launch} (hl : l ∈ ls) {s : State} {u : Nat} (there : s.hasTeam u l.id)
    (same : (s.launch? l.id).map Launch.id = some l.id) : (ls.foldl State.killListed s).hasEnded u := by
  refine foldl_reaches (Q := fun s => s.hasTeam u l.id ∧ (s.launch? l.id).map Launch.id = some l.id) (fun s x => (TeamsOutlast.killListed s x).hasEnded)
    (fun s x ⟨team, launch⟩ => ⟨(TeamsOutlast.killListed s x).hasTeam team, ((Remains.killListed s x).launches l.id).trans launch⟩) hl ?_ ⟨there, same⟩
  rintro s ⟨team, launch⟩
  obtain ⟨x, hx, id⟩ := Option.map_eq_some_iff.mp launch
  rw [State.killListed, hx]
  exact State.killLaunch_hasEnded (id.symm ▸ team)

theorem State.slot_congr {s s' : State} (h : s'.slots = s.slots) (n : Nat) : s'.slot n = s.slot n := by rw [State.slot, h, State.slot]

/-! ### What the end of a context does (R341) -/

theorem State.cjCancel_teams (s : State) (key : Nat) : (s.cjCancel key).2.teams = s.teams := by
  unfold State.cjCancel
  split
  · rfl
  · split <;> rfl

theorem State.cjCancel_groups (s : State) (key : Nat) : (s.cjCancel key).2.groups = s.groups := by
  unfold State.cjCancel
  split
  · rfl
  · split <;> rfl

theorem State.freeSlot_conj (s : State) (n : Nat) : (s.freeSlot n).conj = s.conj := (Remains.freeSlot s n).conj

theorem State.freeSlot_pairs (s : State) (n : Nat) : (s.freeSlot n).pairs = s.pairs := (Untouched.writeReadix s (s.slot n)).pairs

/-- A context destroyed leaves the descriptors of the others. -/
theorem State.destroy_ctx?_other (s : State) (ctx : Nat) {k : Nat} (hk : k ≠ ctx) {d : Ctx} (hd : s.ctx? k = some d) :
    ∃ d', (s.destroy ctx).ctx? k = some d' ∧ d'.desc = d.desc := by
  obtain ⟨s', stands, destroyed⟩ := Stands.destroy s ctx
  have same := stands.ctxs k
  rw [hd, Option.map_some, Option.map_eq_some_iff] at same
  obtain ⟨d', hd', core⟩ := same
  refine ⟨d', ?_, (congrArg Ctx.desc core :)⟩
  rw [destroyed, State.ctx?, NMap.look_del_other _ hk]
  exact hd'

/-- A context destroyed: its teams have ended. -/
theorem State.destroy_hasEnded {s : State} {ctx u : Nat} {t : Team} {l : Launch} (ht : s.team? u = some t) (id : t.id = u)
    (hl : s.launch? t.launch = some l) (same : l.id = t.launch) (mine : l.ctx = ctx) : (s.destroy ctx).hasEnded u := by
  unfold State.destroy
  extract_lets ls s1 s2 unbind s3 s4 slots s5 ends s6
  have listed : l ∈ ls := List.mem_filter.mpr ⟨List.mem_map.mpr ⟨_, NMap.mem_of_look hl, rfl⟩, beq_iff_eq.mpr mine⟩
  have h1 : s1.hasEnded u := State.killListed_hasEnded listed ⟨t, ht, id, same.symm⟩ (by rw [same, hl, Option.map_some, same])
  have h2 : s2.teams = s1.teams := foldl_keeps State.teams State.cjCancel_teams _ s1
  have h4 : s4.teams = s3.teams := foldl_keeps State.teams State.releaseGroup_teams _ s3
  have h5 : TeamsLast s4 s5 := .foldl .freeSlot slots s4
  have last : TeamsLast s1 { s6 with ctxs := NMap.del s6.ctxs ctx } := .trans (.of_teams (h4.trans h2)) (h5.trans (.of_teams rfl))
  exact (TeamsOutlast.of_last last).hasEnded h1

/-- A context destroyed: no Conjunction slot is armed for it. -/
theorem State.destroy_unarmed (s : State) (ctx k : Nat) : (s.destroy ctx).unarmed ctx k := by
  unfold State.destroy
  extract_lets ls s1 s2 unbind s3 s4 slots s5 ends s6
  have h1 : s1.conj = s.conj := (Remains.foldl .killListed ls s).conj
  have h2 : s2.unarmed ctx k := by
    have keeps (s : State) (j : Nat) : s.unarmed ctx k → (s.cjCancel j).2.unarmed ctx k := fun h => State.cjCancel_unarmed s j (.inr h)
    by_cases listed : k ∈ (s.conj.slots.filter (fun e => e.2.ctx == ctx)).map Prod.fst
    · exact foldl_reaches (Q := fun _ => True) keeps (fun _ _ => id) listed (fun s _ => State.cjCancel_unarmed s k (.inl rfl)) trivial
    · have start : s1.unarmed ctx k := by
        intro y hy mine
        rw [h1] at hy
        exact absurd (List.mem_map_of_mem (List.mem_filter.mpr ⟨NMap.mem_of_look hy, by simpa using mine⟩)) listed
      exact List.foldlRecOn _ (motive := fun s : State => s.unarmed ctx k) _ start (fun s h j _ => keeps s j h)
  have h4 : s4.conj = s3.conj := foldl_keeps State.conj State.releaseGroup_conj _ s3
  have h5 : s5.conj = s4.conj := foldl_keeps State.conj State.freeSlot_conj slots s4
  clear_value s2 s4 s5
  exact State.unarmed_congr (s := s2) (h5.trans h4) h2

/-- A context destroyed: no slot is mapped for it. -/
theorem State.destroy_slot (s : State) (ctx : Nat) {n : Nat} (hn : n < 64) : ((s.destroy ctx).slot n).st = .free ∨ ((s.destroy ctx).slot n).ctxNum ≠ ctx := by
  unfold State.destroy
  extract_lets ls s1 s2 unbind s3 s4 slots s5 ends s6
  have freed : n ∈ slots → (s5.slot n).st = .free := (State.foldl_freeSlot_slot slots s4 n).1
  have kept : n ∉ slots → s5.slot n = s4.slot n := (State.foldl_freeSlot_slot slots s4 n).2
  have unmapped : n ∉ slots → (s4.slot n).st = .free ∨ (s4.slot n).ctxNum ≠ ctx := by simp [slots, hn, imp_iff_not_or]
  clear_value s4 s5 slots
  rw [State.slot_congr (s' := { s6 with ctxs := NMap.del s6.ctxs ctx }) (s := s5) rfl n]
  by_cases listed : n ∈ slots
  · exact .inl (freed listed)
  · rw [kept listed]
    exact unmapped listed

/-- A context destroyed: its groups own nothing of their pairs. -/
theorem State.destroy_free {s : State} {ctx : Nat} {g : Group} (hg : g ∈ s.groups) (mine : s.ctxOf g.launch = ctx) :
    ((s.destroy ctx).pairSt (corePair g.core)).Free (groupKey g.launch g.num) := by
  unfold State.destroy
  extract_lets ls s1 s2 unbind s3 s4 slots s5 ends s6
  have place (g : Group) : (unbind g).place = g.place := by
    dsimp only [unbind]
    split <;> rfl
  have h1 : s1.groups.map Group.place = s.groups.map Group.place := (Remains.foldl .killListed ls s).groups
  have h2 : s2.groups = s1.groups := foldl_keeps State.groups State.cjCancel_groups _ s1
  have h3 : s3.groups.map Group.place = s.groups.map Group.place := by
    rw [← h1, ← h2, List.map_map, show Group.place ∘ unbind = Group.place from funext place]
  obtain ⟨g', hg', same⟩ : ∃ g' ∈ s3.groups, g'.place = g.place := List.mem_map.mp (h3 ▸ List.mem_map_of_mem hg)
  obtain ⟨launch, num, core⟩ : g'.launch = g.launch ∧ g'.num = g.num ∧ g'.core = g.core := by simpa [Group.place] using same
  have h4 : (s4.pairSt (corePair g'.core)).Free (groupKey g'.launch g'.num) :=
    State.releaseGroups_free (List.mem_filter.mpr ⟨hg', by simpa [launch] using mine⟩) s3
  have h5 : s5.pairs = s4.pairs := foldl_keeps State.pairs State.freeSlot_pairs slots s4
  rw [State.pairSt_congr (s' := { s6 with ctxs := NMap.del s6.ctxs ctx }) (s := s4) h5, ← core, ← launch, ← num]
  exact h4

end Sys2Proof.Machine
end

section
/-! What the host answers (R254, R332, R333), and records that waited for a place in the ring (R331). -/

namespace Sys2Proof.Machine

/-! ### Restart (R333) -/

/-- Of the state of a team only the team changes. -/
theorem State.updTeam_rest (s : State) (t : Nat) (f : Team → Team) : { s.updTeam t f with teams := [] } = { s with teams := [] } := by
  unfold State.updTeam
  split <;> rfl

theorem State.updTeam_team? {s : State} {u : Nat} {t : Team} (f : Team → Team) (ht : s.team? u = some t) : (s.updTeam u f).team? u = some (f t) := by
  rw [State.updTeam_team?_same, ht, Option.map_some]

theorem restartTeam_mem (s : State) (tid : Nat) : (restartTeam s tid).mem = s.mem := by
  unfold restartTeam
  split
  · rfl
  · split
    · rfl
    · exact State.updTeam_mem _ _ _

theorem Team.setPort_port_same (t : Team) (p : Nat) (x : Port) : (t.setPort p x).port p = x := NMap.getD_set_same _ t.ports p x

theorem Team.setPort_port_other (t : Team) {p q : Nat} (x : Port) (h : q ≠ p) : (t.setPort p x).port q = t.port q :=
  NMap.getD_set_other _ _ t.ports x h

/-- What a reply does with the team that asked (R254, R332). -/
def State.replied (s : State) (t : Team) (value : DWord) : Host.Outcome State Fault Refusal :=
  match t.status with
  | .parked => .next (s.updTeam t.id (fun t => { t.setPort 5 { t.port 5 with q := (t.port 5).q ++ [value] } with status := .running, record := none }))
  | .halted => .next (s.updTeam t.id (fun t => { t with status := .running, record := none }))
  | .stopped => if t.evicted then .next (s.updTeam t.id (fun t => { t with savedReply := some value.toNat })) else .next (s.faultReply t value.toNat)
  | .running => .next (s.countError 5)
  | .ended => .next (s.countError 5)

/-- Whether a team waits for the answer to the record that CRRTAG names. -/
def State.asks (s : State) (ctx : Nat) (c : Ctx) (t : Team) : Bool := s.ctxOf t.launch == ctx && t.record == some c.crTag && t.status != .ended

theorem exec_callReplyWrite_asked {s : State} {ctx : Nat} {v : DWord} {c : Ctx} {t : Team} (hc : s.ctx? ctx = some c)
    (ask : s.teamList.find? (s.asks ctx c) = some t) : exec (.callReplyWrite ctx v) s = s.replied t v := by
  rw [exec_callReplyWrite]
  simp only [execCallReplyWrite, hc]
  split
  case h_1 silent => exact absurd (silent.symm.trans ask) (by simp)
  case h_2 t' found =>
    obtain rfl : t' = t := Option.some.inj (found.symm.trans ask)
    rfl

/-- A team ended by a reply. -/
theorem State.stopLanes_team? {s : State} {u : Nat} {t : Team} (ht : s.team? u = some t) :
    ∃ t', (s.stopLanes u).team? u = some t' ∧ t'.status = .ended ∧ t'.frags = [] := by
  unfold State.stopLanes
  obtain ⟨t', ht', last⟩ := State.endTeam_team? (State.updTeam_team?
    (fun t => { t with frags := [], joins := [], serial := [], record := none, savedReply := none, restartPending := false }) ht)
  obtain ⟨status, -, -, frags⟩ := Team.of_lasting last
  exact ⟨t', ht', status, frags rfl⟩

end Sys2Proof.Machine

namespace Sys2Proof.Claims
open Sys2Proof.Machine

theorem Counted.countError (s : State) (k : Nat) : Counted s (s.countError k) k := by
  refine ⟨?_, rfl⟩
  rw [State.countError, State.updMgmt_mgmt, NMap.getD_set_same]

theorem restartTeam_restarted {s : State} {tid : Nat} {t : Team} {l : Launch} (ht : s.team? tid = some t) (hl : s.launch? t.launch = some l) :
    ∃ t', (restartTeam s tid).team? tid = some t' ∧ Restarted l t t' := by
  simp only [restartTeam, ht, hl]
  exact ⟨_, State.updTeam_team? _ ht, rfl, ⟨_, rfl, rfl, rfl, rfl, rfl, rfl, rfl⟩, rfl, rfl, rfl, rfl, rfl, rfl, rfl, rfl, rfl, rfl, rfl, rfl, rfl, rfl, rfl,
    rfl, rfl, rfl, rfl, rfl⟩

/-! ### Replies -/

/-- A reply that no team waits for is counted. -/
theorem gives_callReplyWrite_unasked {s : State} {ctx : Nat} {v : DWord} (h : ∀ c, s.ctx? ctx = some c → s.teamList.find? (s.asks ctx c) = none) :
    Gives (.callReplyWrite ctx v) s (fun s' => Counted s s' 5) := by
  refine ⟨s.countError 5, ?_, .countError s 5⟩
  rw [exec_callReplyWrite]
  cases hc : s.ctx? ctx with
  | none => simp only [execCallReplyWrite, hc]
  | some c =>
    simp only [execCallReplyWrite, hc]
    split
    case h_1 => rfl
    case h_2 t found => exact absurd (found.symm.trans (h c hc)) (by simp)

section
variable {s : State} {ctx : Nat} {v : DWord} {c : Ctx} {t : Team}

theorem gives_callReplyWrite_running (hc : s.ctx? ctx = some c) (ask : s.teamList.find? (s.asks ctx c) = some t) (st : t.status = .running) :
    Gives (.callReplyWrite ctx v) s (fun s' => Counted s s' 5) :=
  ⟨s.countError 5, by rw [exec_callReplyWrite_asked hc ask, State.replied, st], .countError s 5⟩

/-- A parked team finds the answer in its port 5. -/
theorem gives_callReplyWrite_parked (hc : s.ctx? ctx = some c) (ask : s.teamList.find? (s.asks ctx c) = some t) (ht : s.team? t.id = some t)
    (st : t.status = .parked) : Gives (.callReplyWrite ctx v) s (fun s' => (∃ t', s'.team? t.id = some t' ∧ t'.status = .running ∧ t'.record = none ∧
      SameRegisters t t' ∧ t'.frags = t.frags ∧ (t'.port 5).q = (t.port 5).q ++ [v] ∧ ∀ p, p ≠ 5 → t'.port p = t.port p) ∧
      { s' with teams := [] } = { s with teams := [] }) := by
  refine ⟨_, by rw [exec_callReplyWrite_asked hc ask, State.replied, st], ⟨_, State.updTeam_team? _ ht, rfl, rfl, ?_, rfl, ?_, ?_⟩, State.updTeam_rest s _ _⟩
  · exact ⟨rfl, rfl, rfl, rfl, rfl, rfl, rfl, rfl⟩
  · exact congrArg Port.q (Team.setPort_port_same t 5 _)
  · exact fun p hp => Team.setPort_port_other t _ hp

theorem gives_callReplyWrite_halted (hc : s.ctx? ctx = some c) (ask : s.teamList.find? (s.asks ctx c) = some t) (ht : s.team? t.id = some t)
    (st : t.status = .halted) : Gives (.callReplyWrite ctx v) s (fun s' => s'.team? t.id = some { t with status := .running, record := none } ∧
      { s' with teams := [] } = { s with teams := [] }) :=
  ⟨_, by rw [exec_callReplyWrite_asked hc ask, State.replied, st], State.updTeam_team? _ ht, State.updTeam_rest s _ _⟩

/-- A Stopped team that is saved keeps the answer until it is back (R343). -/
theorem gives_callReplyWrite_saved (hc : s.ctx? ctx = some c) (ask : s.teamList.find? (s.asks ctx c) = some t) (ht : s.team? t.id = some t)
    (st : t.status = .stopped) (saved : t.evicted = true) :
    Gives (.callReplyWrite ctx v) s (fun s' => s'.team? t.id = some { t with savedReply := some v.toNat }) :=
  ⟨_, by rw [exec_callReplyWrite_asked hc ask, State.replied, st]; exact if_pos saved, State.updTeam_team? _ ht⟩

theorem exec_callReplyWrite_stopped (hc : s.ctx? ctx = some c) (ask : s.teamList.find? (s.asks ctx c) = some t) (st : t.status = .stopped)
    (here : t.evicted = false) : exec (.callReplyWrite ctx v) s = .next (s.faultReply t v.toNat) := by
  rw [exec_callReplyWrite_asked hc ask, State.replied, st]
  exact if_neg (by simp [here])

/-- 0 ends a Stopped team, and so does 1 where its launch has no restart label. -/
theorem State.faultReply_stops {l : Launch} (hl : s.launch? t.launch = some l) (h : v = 0 ∨ (v = 1 ∧ l.restart = 0)) :
    s.faultReply t v.toNat = s.stopLanes t.id := by
  rcases h with rfl | ⟨rfl, none⟩
  · rfl
  · simp [State.faultReply, hl, none]

theorem State.faultReply_restarts {l : Launch} (hl : s.launch? t.launch = some l) (ht : s.team? t.id = some t) (label : l.restart ≠ 0) :
    s.faultReply t (1 : DWord).toNat = if s.settledTeam t then restartTeam s t.id else s.updTeam t.id (fun t => { t with restartPending := true }) := by
  simp [State.faultReply, State.restartWhenSettled, hl, ht, label]

theorem State.faultReply_ignored (h0 : v ≠ 0) (h1 : v ≠ 1) : s.faultReply t v.toNat = s := by
  have n0 : v.toNat ≠ 0 := fun h => h0 (BitVec.eq_of_toNat_eq h)
  have n1 : v.toNat ≠ 1 := fun h => h1 (BitVec.eq_of_toNat_eq h)
  simp [State.faultReply, n0, n1]

end

/-- A restart that waits for the team's operations (R333). -/
theorem gives_teamRestart {s : State} {team : Nat} {t : Team} {l : Launch} (ht : s.team? team = some t) (hl : s.launch? t.launch = some l)
    (pending : t.restartPending = true) (here : t.evicted = false) (settled : s.settledTeam t = true) :
    Gives (.teamRestart team) s (fun s' => s'.mem = s.mem ∧ ∃ t', s'.team? team = some t' ∧ Restarted l t t') := by
  refine ⟨restartTeam s team, ?_, restartTeam_mem s team, restartTeam_restarted ht hl⟩
  rw [exec_teamRestart]
  simp [execTeamRestart, ht, pending, here, settled]

theorem exec_teamRestart_waits {s : State} {team : Nat} {t : Team} (ht : s.team? team = some t)
    (h : t.restartPending = false ∨ t.evicted = true ∨ s.settledTeam t = false) : exec (.teamRestart team) s = .next s := by
  rw [exec_teamRestart]
  rcases h with h | h | h <;> simp [execTeamRestart, ht, h]

/-! ### Buffered records (R331) -/

theorem exec_faultRecordDrain_waits {s : State} {ctx : Nat} {c : Ctx} (hc : s.ctx? ctx = some c)
    (h : c.buffer = [] ∨ c.ringRoom = false ∨ s.hostReach = false) : exec (.faultRecordDrain ctx) s = .next s := by
  rw [exec_faultRecordDrain]
  simp only [execFaultRecordDrain, hc]
  split
  · rfl
  · rename_i buffered
    rcases h with none | full | away
    · simp [none] at buffered
    · simp [full]
    · simp [away]

/-- A record in the ring is read there as it was written (R252). -/
theorem State.ringWrite_host (s : State) (c : Ctx) (r : List Byte) :
    (s.ringWrite c r).mem.host = s.mem.host.write (dw c.crBase 59 12 * 4096 + 64 * (c.crTail % 2 ^ dw c.crBase 4 0)) r false := by
  simp [State.ringWrite, State.raiseVector, State.hostWrite]

theorem State.ringWrite_vectors (s : State) (c : Ctx) (r : List Byte) :
    (s.ringWrite c r).mgmt.vectors = s.mgmt.vectors ++ [(c.func, dw c.crBase 11 5)] := by
  have kept (w : Writer) (a : Nat) : (s.hostWrite w a r).mgmt = s.mgmt := by
    unfold State.hostWrite State.keepWords
    dsimp only
    split <;> rfl
  simp [State.ringWrite, State.raiseVector, kept]

theorem State.ringWrite_ctx? {s : State} {ctx : Nat} {c : Ctx} (hc : s.ctx? ctx = some c) (num : c.num = ctx) (r : List Byte) :
    (s.ringWrite c r).ctx? ctx = some { c with crTail := c.crTail + 1 } := by
  have kept (w : Writer) (a : Nat) : (s.hostWrite w a r).ctx? ctx = some c := by
    rw [State.ctx?, State.hostWrite, State.keepWords_ctxs]
    exact hc
  unfold State.ringWrite
  extract_lets a s1 s2
  have h2 : s2.ctx? ctx = some { c with crTail := c.crTail + 1 } := by
    rw [show s2 = s1.updCtx ctx _ from by rw [← num], State.updCtx_ctx?_same, kept, Option.map_some]
  exact h2

/-- The oldest buffered record goes to the ring, and the team that it is about gets its number. -/
theorem gives_faultRecordDrain {s : State} {ctx : Nat} {c : Ctx} (hc : s.ctx? ctx = some c) (num : c.num = ctx) {who : Nat} {r : List Byte}
    {rest : List (Nat × List Byte)} (buffered : c.buffer = (who, r) :: rest) (room : c.ringRoom = true) (reach : s.hostReach = true) (len : r.length = 64) :
    Gives (.faultRecordDrain ctx) s (fun s' =>
      s'.mem.host.read (dw c.crBase 59 12 * 4096 + 64 * (c.crTail % 2 ^ dw c.crBase 4 0)) 64 = r ∧ s'.mem.hbm = s.mem.hbm ∧
      s'.ctx? ctx = some { c with buffer := rest, crTail := c.crTail + 1 } ∧ s'.mgmt.vectors = s.mgmt.vectors ++ [(c.func, dw c.crBase 11 5)] ∧
      ∀ u t, s.team? u = some t → s'.team? u = some (if u = who ∧ t.record = none ∧ (t.status = .parked ∨ t.status = .halted ∨ t.status = .stopped)
        then { t with record := some c.crTail } else t)) := by
  have goes : (!c.ringRoom || !s.hostReach) = false := by simp [room, reach]
  refine ⟨_, by rw [exec_faultRecordDrain]; simp only [execFaultRecordDrain, hc, buffered, goes, Bool.false_eq_true, if_false]; rfl, ?_, ?_, ?_, ?_, ?_⟩
  · rw [State.updTeam_mem, State.updCtx_mem, State.ringWrite_host, ← len]
    exact Store.read_write _ _ r false
  · rw [State.updTeam_mem, State.updCtx_mem, State.ringWrite_hbm]
  · rw [State.ctx?, State.updTeam_ctxs, ← State.ctx?, State.updCtx_ctx?_same, State.ringWrite_ctx? hc num, Option.map_some]
  · rw [State.updTeam_mgmt, State.updCtx_mgmt, State.ringWrite_vectors]
  · intro u t ht
    have kept : ((s.ringWrite c r).updCtx ctx (fun c => { c with buffer := rest })).team? u = some t := by
      rw [State.team?, State.updCtx_teams, State.ringWrite_teams]
      exact ht
    by_cases hu : u = who
    · subst hu
      rw [State.updTeam_team? _ kept]
      simp [or_assoc]
    · rw [State.updTeam_team?_other _ _ hu, kept, if_neg (fun h => hu h.1)]

end Sys2Proof.Claims
end

section
/-! Contexts resumed and destroyed (R341). -/

namespace Sys2Proof.Machine

/-! ### What CTX_RESUME changes (R65) -/

theorem State.watchdog_congr {s s' : State} (h : s'.cores = s.cores) (ctx : Nat) : s'.watchdog ctx = s.watchdog ctx := by
  rw [State.watchdog, h, State.watchdog]

/-- No core counts for a context whose watchdog has been armed to 0. -/
theorem State.armWatchdog_watchdog (s : State) (ctx : Nat) : (s.armWatchdog ctx).watchdog ctx = 0 := by
  refine List.foldlRecOn _ (motive := fun m => m = 0) _ rfl (fun m hm e he => ?_)
  obtain ⟨⟨k, c⟩, -, kept⟩ := List.mem_filterMap.mp he
  dsimp only at kept
  split at kept
  · cases kept
  · obtain rfl := Option.some.inj kept
    rw [hm, NMap.getD, NMap.look_del_same]
    rfl

/-- CTXCTL alone is set. -/
theorem State.setCtxCtl_eq (s : State) (op ctx : Nat) :
    s.setCtxCtl op ctx = s.updMgmt (fun m => { m with ctxCtl := BitVec.ofNat 64 (op * 2 ^ 61 + ctx % 65536) }) := rfl

@[simp] theorem State.setCtxCtl_ctxs (s : State) (op ctx : Nat) : (s.setCtxCtl op ctx).ctxs = s.ctxs := by rw [State.setCtxCtl_eq, State.updMgmt_ctxs]
@[simp] theorem State.setCtxCtl_cores (s : State) (op ctx : Nat) : (s.setCtxCtl op ctx).cores = s.cores := by rw [State.setCtxCtl_eq, State.updMgmt_cores]
@[simp] theorem State.setCtxCtl_mem (s : State) (op ctx : Nat) : (s.setCtxCtl op ctx).mem = s.mem := by rw [State.setCtxCtl_eq, State.updMgmt_mem]
@[simp] theorem State.setCtxCtl_teams (s : State) (op ctx : Nat) : (s.setCtxCtl op ctx).teams = s.teams := by rw [State.setCtxCtl_eq, State.updMgmt_teams]
@[simp] theorem State.setCtxCtl_launches (s : State) (op ctx : Nat) : (s.setCtxCtl op ctx).launches = s.launches := by
  rw [State.setCtxCtl_eq, State.updMgmt_launches]
@[simp] theorem State.setCtxCtl_conj (s : State) (op ctx : Nat) : (s.setCtxCtl op ctx).conj = s.conj := by rw [State.setCtxCtl_eq, State.updMgmt_conj]
@[simp] theorem State.setCtxCtl_slots (s : State) (op ctx : Nat) : (s.setCtxCtl op ctx).slots = s.slots := by rw [State.setCtxCtl_eq, State.updMgmt_slots]
@[simp] theorem State.setCtxCtl_pairs (s : State) (op ctx : Nat) : (s.setCtxCtl op ctx).pairs = s.pairs := by rw [State.setCtxCtl_eq, State.updMgmt_pairs]
@[simp] theorem State.setCtxCtl_ctxCtl (s : State) (op ctx : Nat) :
    (s.setCtxCtl op ctx).mgmt.ctxCtl = BitVec.ofNat 64 (op * 2 ^ 61 + ctx % 65536) := by rw [State.setCtxCtl_eq, State.updMgmt_mgmt]

theorem State.ctx?_congr {s s' : State} (h : s'.ctxs = s.ctxs) (k : Nat) : s'.ctx? k = s.ctx? k := by rw [State.ctx?, h, State.ctx?]
theorem State.team?_congr {s s' : State} (h : s'.teams = s.teams) (u : Nat) : s'.team? u = s.team? u := by rw [State.team?, h, State.team?]

/-- A team of the context is told to stop no longer. -/
def State.spareTeam (s : State) (ctx : Nat) (t : Team) : Team := if s.ctxOf t.launch = ctx then { t with victim := false } else t

theorem State.spare_team? (s : State) (ctx : Nat) {u : Nat} {t : Team} (ht : s.team? u = some t) : (s.spare ctx).team? u = some (s.spareTeam ctx t) := by
  have teams : (s.spare ctx).teams = s.teams.map (fun e => (e.1, s.spareTeam ctx e.2)) := by
    refine List.map_congr_left (fun e _ => ?_)
    simp only [beq_iff_eq, State.spareTeam]
    split <;> rfl
  rw [State.team?, teams, NMap.look_mapVal, ← State.team?, ht, Option.map_some]

theorem State.ctxOf_congr {s s' : State} (h : s'.launches = s.launches) (l : Nat) : s'.ctxOf l = s.ctxOf l := by
  simp only [State.ctxOf, State.launch?, h]

/-- A context halted or switched off goes on, its watchdog at 0. -/
def State.resumed (s : State) (ctx : Nat) : State :=
  ((s.armWatchdog ctx).updCtx ctx (fun c => { c with halted := false, switching := false })).setCtxCtl 1 ctx

theorem State.resumed_ctx? {s : State} {ctx : Nat} {c : Ctx} (hc : s.ctx? ctx = some c) :
    (s.resumed ctx).ctx? ctx = some { c with halted := false, switching := false } := by
  rw [State.resumed, State.ctx?, State.setCtxCtl_ctxs, ← State.ctx?, State.updCtx_ctx?_same, show (s.armWatchdog ctx).ctx? ctx = some c from hc,
    Option.map_some]

theorem State.resumed_watchdog (s : State) (ctx : Nat) : (s.resumed ctx).watchdog ctx = 0 := by
  rw [State.watchdog_congr (s := s.armWatchdog ctx) (by rw [State.resumed, State.setCtxCtl_cores, State.updCtx_cores]), State.armWatchdog_watchdog]

theorem State.resumed_mem (s : State) (ctx : Nat) : (s.resumed ctx).mem = s.mem := by
  rw [State.resumed, State.setCtxCtl_mem, State.updCtx_mem]
  rfl

theorem State.resumed_teams (s : State) (ctx : Nat) : (s.resumed ctx).teams = s.teams := by
  rw [State.resumed, State.setCtxCtl_teams, State.updCtx_teams]
  rfl

theorem State.resumed_launches (s : State) (ctx : Nat) : (s.resumed ctx).launches = s.launches := by
  rw [State.resumed, State.setCtxCtl_launches, State.updCtx_launches]
  rfl

end Sys2Proof.Machine

namespace Sys2Proof.Claims
open Sys2Proof.Machine

theorem exec_ctxResume_ignored {s : State} {ctx : Nat} {c : Ctx} (hc : s.ctx? ctx = some c)
    (h : (c.halted = false ∧ c.switching = false) ∨ s.switchRuns ctx = true) : exec (.ctxResume ctx) s = .next s := by
  rw [exec_ctxResume]
  simp only [execCtxResume, hc]
  rcases h with ⟨going, on⟩ | runs
  · simp [going, on]
  · simp [runs]

/-- CTX_RESUME (R341): the context goes on, with its victims spared unless its function has been pre-empted. -/
theorem gives_ctxResume {s : State} {ctx : Nat} {c : Ctx} (hc : s.ctx? ctx = some c) (off : c.halted = true ∨ c.switching = true)
    (idle : s.switchRuns ctx = false) : Gives (.ctxResume ctx) s (fun s' =>
      s'.ctx? ctx = some { c with halted := false, switching := false } ∧ s'.watchdog ctx = 0 ∧ s'.mem = s.mem ∧
      s'.mgmt.ctxCtl = BitVec.ofNat 64 (2 ^ 61 + ctx % 65536) ∧
      ∀ u t, s.team? u = some t → s'.team? u = some (if s.preempted c.func = false ∧ s.ctxOf t.launch = ctx then { t with victim := false } else t)) := by
  have goes : (!(c.halted || c.switching) || s.switchRuns ctx) = false := by simpa [idle, or_iff_not_imp_left] using off
  have does : exec (.ctxResume ctx) s = .next (if s.preempted c.func then s.resumed ctx else (s.resumed ctx).spare ctx) := by
    rw [exec_ctxResume]
    simp only [execCtxResume, hc, goes, Bool.false_eq_true, if_false]
    rfl
  have ctl : (s.resumed ctx).mgmt.ctxCtl = BitVec.ofNat 64 (2 ^ 61 + ctx % 65536) := by rw [State.resumed, State.setCtxCtl_ctxCtl, Nat.one_mul]
  have team {u : Nat} {t : Team} (ht : s.team? u = some t) : (s.resumed ctx).team? u = some t := (State.team?_congr (s.resumed_teams ctx) u).trans ht
  refine ⟨_, does, ?_⟩
  cases held : s.preempted c.func with
  | true => exact ⟨State.resumed_ctx? hc, s.resumed_watchdog ctx, s.resumed_mem ctx, ctl, fun u t ht => by simpa using team ht⟩
  | false =>
    refine ⟨State.resumed_ctx? hc, s.resumed_watchdog ctx, s.resumed_mem ctx, ctl, fun u t ht => ?_⟩
    simpa [State.spareTeam, State.ctxOf_congr (s.resumed_launches ctx)] using State.spare_team? (s.resumed ctx) ctx (team ht)

/-- CTX_DESTROY (R341): the context and all that was its own are gone. -/
theorem gives_ctxDestroy {s : State} {ctx : Nat} {c : Ctx} (hc : s.ctx? ctx = some c) :
    Gives (.ctxDestroy ctx) s (fun s' => s'.ctx? ctx = none ∧ s'.mgmt.ctxCtl = BitVec.ofNat 64 (2 * 2 ^ 61 + ctx % 65536) ∧
      (∀ k d, k ≠ ctx → s.ctx? k = some d → ∃ d', s'.ctx? k = some d' ∧ d'.desc = d.desc) ∧
      (∀ u t l, s.team? u = some t → t.id = u → s.launch? t.launch = some l → l.id = t.launch → l.ctx = ctx → ∃ t', s'.team? u = some t' ∧ t'.status = .ended) ∧
      (∀ k y, NMap.look s'.conj.slots k = some y → y.ctx = ctx → y.st ≠ .armed) ∧
      (∀ n, n < 64 → (s'.slot n).st = .free ∨ (s'.slot n).ctxNum ≠ ctx) ∧
      ∀ g ∈ s.groups, s.ctxOf g.launch = ctx → ∀ r, r < 12 → (s'.pairSt (corePair g.core)).owner r ≠ some (groupKey g.launch g.num)) := by
  refine ⟨(s.destroy ctx).setCtxCtl 2 ctx, ?_, ?_⟩
  · rw [exec_ctxDestroy]
    simp only [execCtxDestroy, hc]
  simp only [State.ctx?_congr (State.setCtxCtl_ctxs _ _ _), State.team?_congr (State.setCtxCtl_teams _ _ _), State.slot_congr (State.setCtxCtl_slots _ _ _),
    State.pairSt_congr (State.setCtxCtl_pairs _ _ _), State.setCtxCtl_conj, State.setCtxCtl_ctxCtl]
  exact ⟨State.destroy_ctx?_same s ctx, trivial, fun k d hk hd => State.destroy_ctx?_other s ctx hk hd,
    fun u t l ht id hl same mine => State.destroy_hasEnded ht id hl same mine, State.destroy_unarmed s ctx, fun n hn => State.destroy_slot s ctx hn,
    fun g hg mine r _ => (State.destroy_free hg mine).owner_ne r⟩

/-- Events of a context that is not registered. -/
theorem exec_unregistered {s : State} {ctx : Nat} (none : s.ctx? ctx = none) :
    exec (.faultRecordDrain ctx) s = .next s ∧ exec (.ctxResume ctx) s = .next s ∧ exec (.ctxDestroy ctx) s = .next s := by
  refine ⟨?_, ?_, ?_⟩
  · rw [exec_faultRecordDrain]
    simp only [execFaultRecordDrain, none]
  · rw [exec_ctxResume]
    simp only [execCtxResume, none]
  · rw [exec_ctxDestroy]
    simp only [execCtxDestroy, none]

/-- Settles O56, event by event: a reply by the status of the team that asked; a record drained; a context resumed; and a context destroyed, phase by phase of
`State.destroy`, each phase leaving what the ones before it have brought about. -/
theorem hostCallEvents : Obligations.HostCallEvents := by
  unfold Obligations.HostCallEvents
  intro s ctx team v
  refine ⟨fun none => gives_callReplyWrite_unasked (fun c hc => absurd (none.symm.trans hc) (by simp)), fun c hc => ?_, fun t l ht hl => ?_, fun c hc num => ?_,
    exec_unregistered⟩
  · -- replies
    refine ⟨fun silent => gives_callReplyWrite_unasked (fun c' hc' => ?_), fun t ask ht => ⟨gives_callReplyWrite_running hc ask,
      gives_callReplyWrite_parked hc ask ht, gives_callReplyWrite_halted hc ask ht, gives_callReplyWrite_saved hc ask ht, fun st here l hl => ?_⟩⟩
    · obtain rfl : c = c' := Option.some.inj (hc.symm.trans hc')
      exact silent
    · have stopped := exec_callReplyWrite_stopped (v := v) hc ask st here
      refine ⟨fun ends => ⟨_, stopped, ?_⟩, fun one label settled => ⟨_, stopped, ?_⟩, fun one label waits => ⟨_, stopped, ?_⟩, fun h0 h1 => ?_⟩
      · rw [State.faultReply_stops hl ends]
        exact State.stopLanes_team? ht
      · rw [one, State.faultReply_restarts hl ht label, if_pos settled]
        exact restartTeam_restarted ht hl
      · rw [one, State.faultReply_restarts hl ht label, if_neg (by simp [waits])]
        exact State.updTeam_team? _ ht
      · rw [stopped, State.faultReply_ignored h0 h1]
  · -- restarts that waited
    exact ⟨gives_teamRestart ht hl, exec_teamRestart_waits ht⟩
  · -- buffered records, contexts resumed and destroyed
    exact ⟨exec_faultRecordDrain_waits hc, fun who r rest => gives_faultRecordDrain hc num, fun going on => exec_ctxResume_ignored hc (.inl ⟨going, on⟩),
      fun runs => exec_ctxResume_ignored hc (.inr runs), gives_ctxResume hc, gives_ctxDestroy hc⟩

end Sys2Proof.Claims
end

section
/-! Exact values that are integers (R12, R86): the arithmetic of whole values, and their narrowing to an integer type. -/

namespace Sys2Proof.Machine

/-! ### Integer types -/

theorem Ty.isFloat_of_isInt {t : Ty} (h : t.isInt = true) : t.isFloat = false := by
  cases t <;> cases h <;> rfl

theorem Ty.minI_le_maxI (t : Ty) : t.minI ≤ t.maxI := by
  cases t <;> decide

theorem clampI_eq (t : Ty) (x : Int) : clampI t x = max t.minI (min t.maxI x) := by
  have range := t.minI_le_maxI
  unfold clampI
  split_ifs <;> omega

/-! ### Whole values -/

/-- The exact value e is the integer x: a fraction over 1, whose zero may have either sign. -/
def EVal.IsInt (e : EVal) (x : Int) : Prop := ∃ s n, e = .fin s n 1 ∧ x = if s then -(n : Int) else n

theorem EVal.isInt_ofInt (x : Int) : (EVal.ofInt x).IsInt x :=
  ⟨decide (x < 0), x.natAbs, rfl, by split_ifs with h <;> simp at h <;> omega⟩

theorem EVal.IsInt.truncI {e : EVal} {x : Int} : e.IsInt x → e.truncI = x := by
  rintro ⟨s, n, rfl, rfl⟩
  simp [EVal.truncI]

theorem EVal.IsInt.neg {e : EVal} {x : Int} : e.IsInt x → e.neg.IsInt (-x) := by
  rintro ⟨s, n, rfl, rfl⟩
  exact ⟨!s, n, rfl, by cases s <;> simp⟩

theorem EVal.add_whole (mode : Mode) (s s' : Bool) (n n' : Nat) : EVal.add mode (.fin s n 1) (.fin s' n' 1) =
    if s = s' then .fin s (n + n') 1 else if n = n' then .fin (mode == .rdn) 0 1 else if n' < n then .fin s (n - n') 1 else .fin s' (n' - n) 1 := by
  simp [EVal.add]

/-- Whole values of one sign add their magnitudes; of two signs, the greater magnitude gives the sign, and equal ones a zero. -/
theorem EVal.IsInt.add {e e' : EVal} {x x' : Int} (mode : Mode) : e.IsInt x → e'.IsInt x' → (e.add mode e').IsInt (x + x') := by
  rintro ⟨s, n, rfl, rfl⟩ ⟨s', n', rfl, rfl⟩
  rw [EVal.add_whole]
  by_cases same : s = s'
  · subst same
    rw [if_pos rfl]
    exact ⟨s, n + n', rfl, by cases s <;> simp [add_comm]⟩
  · obtain rfl : s' = !s := Bool.eq_not.mpr (Ne.symm same)
    rw [if_neg same]
    rcases Nat.lt_trichotomy n n' with less | rfl | greater
    · rw [if_neg less.ne, if_neg less.asymm]
      exact ⟨!s, n' - n, rfl, by cases s <;> simp <;> omega⟩
    · rw [if_pos rfl]
      exact ⟨_, 0, rfl, by cases s <;> simp⟩
    · rw [if_neg greater.ne', if_pos greater]
      exact ⟨s, n - n', rfl, by cases s <;> simp <;> omega⟩

theorem EVal.IsInt.mul {e e' : EVal} {x x' : Int} : e.IsInt x → e'.IsInt x' → (e.mul e').IsInt (x * x') := by
  rintro ⟨s, n, rfl, rfl⟩ ⟨s', n', rfl, rfl⟩
  exact ⟨s != s', n * n', rfl, by cases s <;> cases s' <;> simp⟩

theorem EVal.IsInt.lt {e e' : EVal} {x x' : Int} : e.IsInt x → e'.IsInt x' → e.lt e' = decide (x < x') := by
  rintro ⟨s, n, rfl, rfl⟩ ⟨s', n', rfl, rfl⟩
  simp [EVal.lt]

theorem EVal.IsInt.isNan {e : EVal} {x : Int} : e.IsInt x → e.isNan = false := by
  rintro ⟨s, n, rfl, rfl⟩
  rfl

theorem EVal.IsInt.min {e e' : EVal} {x x' : Int} (h : e.IsInt x) (h' : e'.IsInt x') : (e.min e').IsInt (Min.min x x') := by
  simp only [EVal.min, h.isNan, h'.isNan, h.lt h', h'.lt h, Bool.false_eq_true, if_false, decide_eq_true_eq]
  split_ifs with less greater
  · rwa [min_eq_left less.le]
  · rwa [min_eq_right greater.le]
  · rwa [min_eq_left (not_lt.mp greater)]
  · rwa [min_eq_right (not_lt.mp less)]

/-! ### Elements read and results narrowed -/

theorem ev_isInt {iss : Issue} (h : iss.ty.isInt = true) (e : Nat) : (ev iss e).IsInt (intOfBits iss.ty.isS iss.ty.ew e) := by
  simp only [ev, valueOf, Ty.isFloat_of_isInt h, Bool.false_eq_true, if_false]
  exact EVal.isInt_ofInt _

/-- A whole result of an integer type is narrowed, and the generator left. -/
theorem toElem_int {iss : Issue} {e : EVal} {r : Int} (h : iss.ty.isInt = true) (g : Word) (whole : e.IsInt r) :
    toElem iss e g = (narrow iss.ty iss.sat r, g) := by
  simp only [toElem, Ty.isFloat_of_isInt h, Bool.false_eq_true, if_false, whole.truncI]

end Sys2Proof.Machine
end

section
/-! Round on what a format represents (R87, R91): a code's significand over its power of two gives that code back. -/

namespace Sys2Proof.Machine

/-! ### Fractions that are powers of two away from a whole number -/

theorem log2_mul_two_pow {n : Nat} (pos : n ≠ 0) (j : Nat) : Nat.log2 (n * 2 ^ j) = Nat.log2 n + j := by
  induction j with
  | zero => simp
  | succ j ih =>
    rw [pow_succ', mul_left_comm, Nat.log2_two_mul (by positivity), ih]
    rfl

/-- The floor of a logarithm is exact on a power of two: n / 2^k lies k binades below n. -/
theorem log2Frac_two_pow {n : Nat} (pos : n ≠ 0) (k : Nat) : log2Frac n (2 ^ k) = (Nat.log2 n : Int) - k := by
  have below : 2 ^ Nat.log2 n ≤ n := Nat.log2_self_le pos
  unfold log2Frac
  rw [Nat.log2_two_pow]
  dsimp only
  refine if_pos ?_
  split_ifs with up
  · refine decide_eq_true ?_
    rwa [← pow_add, show k + ((Nat.log2 n : Int) - k).toNat = Nat.log2 n by omega]
  · refine decide_eq_true ?_
    calc 2 ^ k = 2 ^ Nat.log2 n * 2 ^ (-((Nat.log2 n : Int) - k)).toNat := by
          rw [← pow_add]
          congr 1
          omega
      _ ≤ n * 2 ^ (-((Nat.log2 n : Int) - k)).toNat := Nat.mul_le_mul_right _ below

/-- A whole number scaled by 2^k lies k binades higher. -/
theorem log2Frac_scaleFrac {sig : Nat} (pos : sig ≠ 0) (k : Int) :
    log2Frac (scaleFrac sig 1 k).1 (scaleFrac sig 1 k).2 = (Nat.log2 sig : Int) + k := by
  unfold scaleFrac
  split_ifs with up
  · have whole := log2Frac_two_pow (n := sig * 2 ^ k.toNat) (by positivity) 0
    rw [pow_zero, log2_mul_two_pow pos] at whole
    dsimp only
    omega
  · rw [one_mul, log2Frac_two_pow pos]
    omega

/-- Scaled back, the whole number stands over a power of two that divides it. -/
theorem scaleFrac_scaleFrac_neg (sig : Nat) (k : Int) :
    ∃ j, scaleFrac (scaleFrac sig 1 k).1 (scaleFrac sig 1 k).2 (-k) = (sig * 2 ^ j, 2 ^ j) := by
  rcases lt_trichotomy k 0 with down | rfl | up
  · exact ⟨(-k).toNat, by simp [scaleFrac, down.not_ge, down.le]⟩
  · exact ⟨0, by simp [scaleFrac]⟩
  · exact ⟨k.toNat, by simp [scaleFrac, up.not_ge, up.le]⟩

theorem scaleFrac_num_ne_zero {sig : Nat} (pos : sig ≠ 0) (k : Int) : (scaleFrac sig 1 k).1 ≠ 0 := by
  unfold scaleFrac
  split_ifs
  · dsimp only
    positivity
  · exact pos

/-! ### The significand and the exponent of a code (R87) -/

/-- The exponent that counts in a magnitude's code: its field, or 1 for a subnormal and a zero. -/
def Fmt.expOf (f : Fmt) (m : Nat) : Nat := if m / 2 ^ f.fbits = 0 then 1 else m / 2 ^ f.fbits

/-- The significand, with its leading one where the value is normal. -/
def Fmt.sigOf (f : Fmt) (m : Nat) : Nat := if m / 2 ^ f.fbits = 0 then m % 2 ^ f.fbits else 2 ^ f.fbits + m % 2 ^ f.fbits

/-- The magnitude, as Fmt.value writes it: the significand, scaled by a power of two above or below the bar. -/
def Fmt.fracOf (f : Fmt) (m : Nat) : Nat × Nat := scaleFrac (f.sigOf m) 1 (f.expOf m - (f.bias + f.fbits : Nat))

theorem Fmt.value_finite {f : Fmt} {code m : Nat} (mag : code % 2 ^ (f.ebits + f.fbits) = m) (finite : m ≤ f.maxc) :
    f.value code = .fin (code / 2 ^ (f.ebits + f.fbits) % 2 == 1) (f.fracOf m).1 (f.fracOf m).2 := by
  have exponent : (if (m / 2 ^ f.fbits == 0) = true then 1 else m / 2 ^ f.fbits) = f.expOf m := by simp [expOf]
  have significand : (if (m / 2 ^ f.fbits == 0) = true then m % 2 ^ f.fbits else 2 ^ f.fbits + m % 2 ^ f.fbits) = f.sigOf m := by simp [sigOf]
  simp only [value, mag, if_neg finite.not_gt, exponent, significand, fracOf, scaleFrac]
  split_ifs with high up up
  · rw [show ((f.expOf m : Int) - (f.bias + f.fbits : Nat)).toNat = f.expOf m - (f.bias + f.fbits) by omega]
  · omega
  · omega
  · rw [one_mul, show (-((f.expOf m : Int) - (f.bias + f.fbits : Nat))).toNat = f.bias + f.fbits - f.expOf m by omega]

theorem Fmt.value_special {f : Fmt} {code m : Nat} (mag : code % 2 ^ (f.ebits + f.fbits) = m) (special : f.maxc < m) (number : f.value code ≠ .nan) :
    f.inf = true ∧ m = f.maxc + 1 ∧ f.value code = .inf (code / 2 ^ (f.ebits + f.fbits) % 2 == 1) := by
  simp only [value, mag, if_pos special] at number ⊢
  split_ifs at number ⊢ with infinite
  · simpa using infinite
  · exact absurd rfl number

/-- Consecutive codes are consecutive points of the grid: significand and exponent make up the code. -/
theorem Fmt.sigOf_add (f : Fmt) (m : Nat) : f.sigOf m + (f.expOf m - 1) * 2 ^ f.fbits = m := by
  have parts := Nat.div_add_mod' m (2 ^ f.fbits)
  unfold sigOf expOf
  split_ifs with sub
  · simpa [sub] using parts
  · rw [Nat.sub_one_mul]
    have := Nat.le_mul_of_pos_left (2 ^ f.fbits) (Nat.pos_of_ne_zero sub)
    omega

theorem Fmt.sigOf_ne_zero {f : Fmt} {m : Nat} (pos : m ≠ 0) : f.sigOf m ≠ 0 := by
  unfold sigOf
  split_ifs with sub
  · rwa [Nat.mod_eq_of_lt ((Nat.div_eq_zero_iff_lt (by positivity)).mp sub)]
  · positivity

theorem Fmt.fracOf_zero (f : Fmt) : (f.fracOf 0).1 = 0 := by
  unfold fracOf scaleFrac
  split_ifs <;> simp [sigOf]

theorem Fmt.fracOf_ne_zero {f : Fmt} {m : Nat} (pos : m ≠ 0) : (f.fracOf m).1 ≠ 0 := scaleFrac_num_ne_zero (Fmt.sigOf_ne_zero pos) _

/-- A subnormal has the least exponent and fewer bits of significand than a normal value, whose significand has them all. -/
theorem Fmt.log2_sigOf {f : Fmt} {m : Nat} (pos : m ≠ 0) :
    f.expOf m = 1 ∧ Nat.log2 (f.sigOf m) < f.fbits ∨ 1 ≤ f.expOf m ∧ Nat.log2 (f.sigOf m) = f.fbits := by
  have nonzero := f.sigOf_ne_zero pos
  have fraction : m % 2 ^ f.fbits < 2 ^ f.fbits := Nat.mod_lt _ (by positivity)
  unfold sigOf expOf at *
  split_ifs at nonzero ⊢ with sub
  · exact .inl ⟨rfl, (Nat.log2_lt nonzero).mpr fraction⟩
  · exact .inr ⟨Nat.pos_of_ne_zero sub, (Nat.log2_eq_iff nonzero).mpr ⟨by omega, by rw [pow_succ]; omega⟩⟩

/-- The exponent that Round works at, its value's own but not below that of the smallest normal value, is the exponent of the code. -/
theorem Fmt.round_exponent {f : Fmt} {m : Nat} (pos : m ≠ 0) :
    (if log2Frac (f.fracOf m).1 (f.fracOf m).2 < 1 - (f.bias : Int) then 1 - (f.bias : Int) else log2Frac (f.fracOf m).1 (f.fracOf m).2) =
      f.expOf m - f.bias := by
  rw [fracOf, log2Frac_scaleFrac (f.sigOf_ne_zero pos)]
  rcases f.log2_sigOf pos with sub | normal <;> split_ifs <;> omega

/-! ### Round (R91) -/

/-- On a point of the grid every mode picks that point. -/
theorem roundMag_of_exact {f : Fmt} {n d q c : Nat} {e : Int} (mode : Mode) (sat neg : Bool) (u : Word) (pos : 0 < c)
    (exponent : (if log2Frac n d < 1 - (f.bias : Int) then 1 - (f.bias : Int) else log2Frac n d) = e) (aligned : scaleFrac n d (f.fbits - e) = (q * c, c))
    (finite : q + (e - (1 - f.bias)).toNat * 2 ^ f.fbits ≤ f.maxc) :
    roundMag f mode sat false neg n d u = q + (e - (1 - f.bias)).toNat * 2 ^ f.fbits := by
  simp [roundMag, exponent, aligned, Nat.mul_div_cancel q pos, finite.not_gt, pos.ne, pickMag]

theorem roundMag_fracOf {f : Fmt} {m : Nat} (pos : m ≠ 0) (finite : m ≤ f.maxc) (mode : Mode) (sat neg : Bool) (u : Word) :
    roundMag f mode sat false neg (f.fracOf m).1 (f.fracOf m).2 u = m := by
  obtain ⟨j, back⟩ := scaleFrac_scaleFrac_neg (f.sigOf m) (f.expOf m - (f.bias + f.fbits : Nat))
  have grid : f.sigOf m + ((f.expOf m - f.bias : Int) - (1 - f.bias)).toNat * 2 ^ f.fbits = m := by
    rw [show ((f.expOf m - f.bias : Int) - (1 - f.bias)).toNat = f.expOf m - 1 by omega, f.sigOf_add]
  have aligned : scaleFrac (f.fracOf m).1 (f.fracOf m).2 (f.fbits - (f.expOf m - f.bias)) = (f.sigOf m * 2 ^ j, 2 ^ j) := by
    rw [← back, Fmt.fracOf]
    congr 1
    omega
  rw [roundMag_of_exact mode sat neg u (by positivity) (Fmt.round_exponent pos) aligned (grid.le.trans finite), grid]

/-- Sign and magnitude make up the code. -/
theorem Fmt.signBit_add {f : Fmt} {code : Nat} (h : code < 2 ^ (f.ebits + f.fbits + 1)) :
    f.signBit (code / 2 ^ (f.ebits + f.fbits) % 2 == 1) + code % 2 ^ (f.ebits + f.fbits) = code := by
  have parts := Nat.div_add_mod' code (2 ^ (f.ebits + f.fbits))
  have one : code / 2 ^ (f.ebits + f.fbits) < 2 := Nat.div_lt_of_lt_mul (by rwa [pow_succ] at h)
  unfold signBit
  interval_cases code / 2 ^ (f.ebits + f.fbits) <;> simpa using parts

theorem Ty.ew_of_isFloat {t : Ty} (h : t.isFloat = true) : t.ew = t.fmt.ebits + t.fmt.fbits + 1 := by
  cases t <;> cases h <;> rfl

theorem Ty.maxc_lt_nan (t : Ty) : t.fmt.maxc < t.fmt.nan := by
  cases t <;> decide

/-- A zero keeps the sign it is given (R91, step 3). -/
theorem roundF_zero (t : Ty) (mode : Mode) (sat ftz neg : Bool) (d : Nat) (g : Word) : (roundF t mode sat ftz (.fin neg 0 d) g).1 = t.fmt.signBit neg := rfl

theorem roundF_inf {t : Ty} (h : t.fmt.inf = true) (mode : Mode) (sat ftz neg : Bool) (g : Word) :
    (roundF t mode sat ftz (.inf neg) g).1 = t.fmt.signBit neg + (t.fmt.maxc + 1) := by
  simp [roundF, h, add_assoc]

theorem roundF_of_roundMag {t : Ty} {mode : Mode} {sat ftz neg : Bool} {n d m : Nat} (pos : n ≠ 0) (finite : m ≤ t.fmt.maxc)
    (mag : ∀ u, roundMag t.fmt mode sat ftz neg n d u = m) (g : Word) : (roundF t mode sat ftz (.fin neg n d) g).1 = t.fmt.signBit neg + m := by
  have number : m ≠ t.fmt.nan := (finite.trans_lt t.maxc_lt_nan).ne
  simp [roundF, pos, mag, number]

/-- Round returns the code of every value that is not a NaN (R91, steps 2 to 4). -/
theorem roundF_value {t : Ty} {code : Nat} (h : t.isFloat = true) (mode : Mode) (sat : Bool) (g : Word) (fits : code < 2 ^ t.ew)
    (number : t.fmt.value code ≠ .nan) : (roundF t mode sat false (t.fmt.value code) g).1 = code := by
  have parts := Fmt.signBit_add (by rwa [Ty.ew_of_isFloat h] at fits)
  generalize mag : code % 2 ^ (t.fmt.ebits + t.fmt.fbits) = m at parts
  rcases Nat.lt_or_ge t.fmt.maxc m with special | finite
  · obtain ⟨infinite, rfl, value⟩ := Fmt.value_special mag special number
    rwa [value, roundF_inf infinite]
  · rw [Fmt.value_finite mag finite]
    rcases Nat.eq_zero_or_pos m with rfl | pos
    · rwa [Fmt.fracOf_zero, roundF_zero]
    · rwa [roundF_of_roundMag (Fmt.fracOf_ne_zero pos.ne') finite (roundMag_fracOf pos.ne' finite mode sat _)]

end Sys2Proof.Machine
end

section
/-! Results narrowed and rounded (R86, R88, R91). -/

namespace Sys2Proof.Claims
open Sys2Proof.Machine

theorem rounded_int {iss : Issue} {f : Issue → EVal → EVal → EVal → EVal} {x y z : Nat} {r : Int} (h : iss.ty.isInt = true) (g : Word)
    (whole : (f iss (ev iss x) (ev iss y) (ev iss z)).IsInt r) : Rounded f iss x y z g = (narrow iss.ty iss.sat r, g) :=
  toElem_int h g whole

theorem valueOf_float {t : Ty} (h : t.isFloat = true) (code : Nat) : valueOf t false code = t.fmt.value code := by
  simp [valueOf, h]

/-- Settles O39: whole values are added, multiplied and compared as integers and then narrowed; Round finds a code's significand on its grid again. -/
theorem narrowingAndRounding : Obligations.NarrowingAndRounding := by
  unfold Obligations.NarrowingAndRounding
  refine ⟨fun iss x y z g h => ?_, fun t m sat g h => ⟨fun code fits number => ?_, ?_, fun neg d => ?_⟩⟩
  · intro w v lo hi out
    have value (e : Nat) : (ev iss e).IsInt (v e) := by
      simpa [v, w, intOfBits] using ev_isInt h e
    have narrowed (r : Int) : narrow iss.ty iss.sat r = out r := by
      simp [narrow, bitsOfInt, clampI_eq, Ty.minI, Ty.maxI, out, w, lo, hi]
    simp only [← narrowed]
    exact ⟨rounded_int h g ((value x).add _ (value y)), rounded_int h g ((value x).add _ (value y).neg), rounded_int h g ((value x).mul (value y)),
      rounded_int h g (((value x).mul (value y)).add _ (value z)), rounded_int h g ((value x).min (value y))⟩
  · rw [valueOf_float h] at number ⊢
    exact roundF_value h m sat g fits number
  · cases t <;> cases h <;> rfl
  · rw [roundF_zero, Ty.ew_of_isFloat h]
    rfl

end Sys2Proof.Claims
end

section
/-! The instruction words (R116-R118, R122, R123, R134): what each parser of a field can answer, and what it answers on the fields of an encoding; from these,
arm by arm of the decoder, that decoding and encoding are inverse to one another. Then the opcodes that no arm is for, and clause headers (R112). -/

namespace Sys2Proof

/-! ### Codes of fields -/

theorem regOf_eq_some {n : Nat} {r : Reg} : regOf n = some r ↔ n = r.code := by
  unfold regOf
  split_ifs <;> cases r <;> simp [Reg.code, Fin.ext_iff] <;> omega

section
variable {n : Nat}

theorem Cond.ofCode_eq_some {c : Cond} : Cond.ofCode n = some c ↔ n = c.code := by
  refine ⟨fun h => ?_, fun h => by cases h; cases c <;> rfl⟩
  unfold Cond.ofCode at h
  split at h <;> cases h <;> rfl

theorem VoteKind.ofCode_eq_some {c : VoteKind} : VoteKind.ofCode n = some c ↔ n = c.code := by
  refine ⟨fun h => ?_, fun h => by cases h; cases c <;> rfl⟩
  unfold VoteKind.ofCode at h
  split at h <;> cases h <;> rfl

theorem Special.ofCode_eq_some {c : Special} : Special.ofCode n = some c ↔ n = c.code := by
  refine ⟨fun h => ?_, fun h => by cases h; cases c <;> rfl⟩
  unfold Special.ofCode at h
  split at h <;> cases h <;> rfl

theorem PackSrc.ofCode_eq_some {c : PackSrc} : PackSrc.ofCode n = some c ↔ n = c.code := by
  refine ⟨fun h => ?_, fun h => by cases h; cases c <;> rfl⟩
  unfold PackSrc.ofCode at h
  split at h <;> cases h <;> rfl

theorem QuadX.ofCode_eq_some {c : QuadX} : QuadX.ofCode n = some c ↔ n = c.code := by
  refine ⟨fun h => ?_, fun h => by cases h; cases c <;> rfl⟩
  unfold QuadX.ofCode at h
  split at h <;> cases h <;> rfl

theorem ShflMode.ofCode_eq_some {c : ShflMode} : ShflMode.ofCode n = some c ↔ n = c.code := by
  refine ⟨fun h => ?_, fun h => by cases h; cases c <;> rfl⟩
  unfold ShflMode.ofCode at h
  split at h <;> cases h <;> rfl

theorem ScanMode.ofCode_eq_some {c : ScanMode} : ScanMode.ofCode n = some c ↔ n = c.code := by
  refine ⟨fun h => ?_, fun h => by cases h; cases c <;> rfl⟩
  unfold ScanMode.ofCode at h
  split at h <;> cases h <;> rfl

theorem RedxMode.ofCode_eq_some {c : RedxMode} : RedxMode.ofCode n = some c ↔ n = c.code := by
  refine ⟨fun h => ?_, fun h => by cases h; cases c <;> rfl⟩
  unfold RedxMode.ofCode at h
  split at h <;> cases h <;> rfl

theorem TshflMode.ofCode_eq_some {c : TshflMode} : TshflMode.ofCode n = some c ↔ n = c.code := by
  refine ⟨fun h => ?_, fun h => by cases h; cases c <;> rfl⟩
  unfold TshflMode.ofCode at h
  split at h <;> cases h <;> rfl

theorem LdClass.ofCode_eq_some {c : LdClass} : LdClass.ofCode n = some c ↔ n = c.code := by
  refine ⟨fun h => ?_, fun h => by cases h; cases c <;> rfl⟩
  unfold LdClass.ofCode at h
  split at h <;> cases h <;> rfl

theorem StClass.ofCode_eq_some {c : StClass} : StClass.ofCode n = some c ↔ n = c.code := by
  refine ⟨fun h => ?_, fun h => by cases h; cases c <;> rfl⟩
  unfold StClass.ofCode at h
  split at h <;> cases h <;> rfl

theorem AtOrder.ofCode_eq_some {c : AtOrder} : AtOrder.ofCode n = some c ↔ n = c.code := by
  refine ⟨fun h => ?_, fun h => by cases h; cases c <;> rfl⟩
  unfold AtOrder.ofCode at h
  split at h <;> cases h <;> rfl

theorem PfKind.ofCode_eq_some {c : PfKind} : PfKind.ofCode n = some c ↔ n = c.code := by
  refine ⟨fun h => ?_, fun h => by cases h; cases c <;> rfl⟩
  unfold PfKind.ofCode at h
  split at h <;> cases h <;> rfl

theorem PhField.ofCode_eq_some {c : PhField} : PhField.ofCode n = some c ↔ n = c.code := by
  refine ⟨fun h => ?_, fun h => by cases h; cases c <;> rfl⟩
  unfold PhField.ofCode at h
  split at h <;> cases h <;> rfl

theorem FenceKind.ofCode_eq_some {c : FenceKind} : FenceKind.ofCode n = some c ↔ n = c.code := by
  refine ⟨fun h => ?_, fun h => by cases h; cases c <;> rfl⟩
  unfold FenceKind.ofCode at h
  split at h <;> cases h <;> rfl

theorem Scope.ofCode_eq_some {c : Scope} : Scope.ofCode n = some c ↔ n = c.code := by
  refine ⟨fun h => ?_, fun h => by cases h; cases c <;> rfl⟩
  unfold Scope.ofCode at h
  split at h <;> cases h <;> rfl

end

/-! ### What the parsers of fields can answer

One rule per parser, as for weakest preconditions: what has to hold of the fields for every answer to satisfy P. -/

/-- With X = 1 the B field is zero and a literal word follows (R117). -/
def Fields.LitOk (f : Fields) : Prop := f.x = true → f.b = 0 ∧ f.lit.isSome

/-- Every answer of a parser satisfies P. -/
def Ensures {α : Type} (x : Except DecodeError α) (P : α → Prop) : Prop := ∀ a, x = .ok a → P a

section
variable {α β : Type} {P : α → Prop}

theorem ensures_pure (a : α) : Ensures (pure a) P ↔ P a := by
  simp [Ensures, pure, Except.pure]

theorem ensures_throw (e : DecodeError) : Ensures (throw e) P ↔ True := by
  simp [Ensures, throw, throwThe, MonadExceptOf.throw]

theorem ensures_bind (x : Except DecodeError β) (g : β → Except DecodeError α) :
    Ensures (x >>= g) P ↔ Ensures x (fun b => Ensures (g b) P) := by
  cases x <;> simp [Ensures, bind, Except.bind]

theorem ensures_ite (c : Prop) [Decidable c] (x y : Except DecodeError α) :
    Ensures (if c then x else y) P ↔ (c → Ensures x P) ∧ (¬c → Ensures y P) := by
  split <;> simp [*]

theorem ensures_enumK (o : Option α) : Ensures (enumK o) P ↔ ∀ a, o = some a → P a := by
  cases o <;> simp [enumK, ensures_pure, ensures_throw]

theorem ensures_enumC (o : Option α) : Ensures (enumC o) P ↔ ∀ a, o = some a → P a := by
  cases o <;> simp [enumC, ensures_pure, ensures_throw]

end

section
variable {P : Unit → Prop}

theorem ensures_zero (n : Nat) : Ensures (zero n) P ↔ (n = 0 → P ()) := by
  simp [zero, ensures_ite, ensures_pure, ensures_throw]

theorem ensures_cmIs (k : Nat) (f : Fields) : Ensures (cmIs k f) P ↔ (f.cm = k → P ()) := by
  simp [cmIs, ensures_ite, ensures_pure, ensures_throw]

theorem ensures_noLit (f : Fields) : Ensures (noLit f) P ↔ (f.x = false → P ()) := by
  simp [noLit, ensures_ite, ensures_pure, ensures_throw]

theorem ensures_litOk (f : Fields) : Ensures (litOk f) P ↔ (f.LitOk → P ()) := by
  unfold litOk Fields.LitOk
  cases f.x <;> simp [ensures_ite, ensures_pure, ensures_throw]

end

theorem ensures_regK {P : Reg → Prop} (k : Reg → Bool) (n : Nat) : Ensures (regK k n) P ↔ ∀ r, n = r.code → k r = true → P r := by
  unfold regK
  simp only [← regOf_eq_some]
  cases regOf n <;> simp [ensures_ite, ensures_pure, ensures_throw]

/-- Source b stands in the fields of a word: its literal follows, or its register is in the B field (R117). -/
structure Fields.Holds (f : Fields) (b : Src) : Prop where
  x    : f.x = b.isLit
  code : f.x = false → f.b = b.code
  lit  : (if f.x then f.lit else none) = b.litWord

theorem ensures_srcK {P : Src → Prop} (k : Reg → Bool) (f : Fields) : Ensures (srcK k f) P ↔ ∀ b, f.Holds b → b.ok k = true → P b := by
  have split_src : (∀ b, f.Holds b → b.ok k = true → P b) ↔
      (∀ r, f.x = false → f.b = r.code → k r = true → P (.reg r)) ∧ ∀ w, f.x = true → f.lit = some w → P (.lit w) := by
    constructor
    · refine fun p => ⟨fun r hx hb => p (.reg r) ⟨hx, fun _ => hb, by simp [hx, Src.litWord]⟩, fun w hx hw =>
        p (.lit w) ⟨hx, by simp [hx], by simp [hx, hw, Src.litWord]⟩ rfl⟩
    · rintro ⟨pr, pl⟩ (r | w) ⟨hx, hb, hw⟩ hk
      · exact pr r hx (hb hx) hk
      · exact pl w hx (by simpa [hx, Src.isLit, Src.litWord] using hw)
  rw [split_src]
  unfold srcK
  cases f.x
  · simp only [Bool.false_eq_true, if_false, ensures_bind, ensures_regK, ensures_pure]
    simp
  · cases f.lit <;> simp [ensures_pure, ensures_throw]

theorem ensures_finK {n : Nat} {P : Fin n → Prop} (x : Nat) : Ensures (finK n x) P ↔ ∀ y : Fin n, x = y.val → P y := by
  unfold finK
  split
  case isTrue h => exact (ensures_pure _).trans ⟨fun p y e => by simpa [e] using p, fun p => p ⟨x, h⟩ rfl⟩
  case isFalse h => exact (ensures_throw _).trans (iff_of_true trivial fun y e => absurd (e ▸ y.isLt) h)

theorem ensures_pdSub {P : Fin 8 → Prop} (d : Nat) : Ensures (pdSub d) P ↔ ∀ p : Fin 8, d / 16 = p.val → P p := ensures_finK _

theorem ensures_pdK {P : Fin 8 → Prop} (d : Nat) : Ensures (pdK d) P ↔ ∀ p : Fin 8, d = p.val * 16 → P p := by
  have split_d (p : Fin 8) : d = p.val * 16 ↔ d % 16 = 0 ∧ d / 16 = p.val := by omega
  simp [pdK, ensures_ite, ensures_finK, ensures_throw, split_d, imp_forall_iff]

section
variable {P : Bool → Prop} (f : Fields)

theorem ensures_cmN : Ensures (cmN f) P ↔ ∀ n : Bool, f.cm = 2 * n.toNat → P n := by
  unfold cmN
  split <;> simp_all [ensures_pure, ensures_throw]

theorem ensures_cmRel3 : Ensures (cmRel3 f) P ↔ ∀ n : Bool, f.cm = 3 * n.toNat → P n := by
  unfold cmRel3
  split <;> simp_all [ensures_pure, ensures_throw]

theorem ensures_cmCur : Ensures (cmCur f) P ↔ ∀ n : Bool, f.cm = n.toNat → P n := by
  unfold cmCur
  split <;> simp_all [ensures_pure, ensures_throw]

end

/-- The fields without a literal that does not belong to the word. -/
def Fields.own (f : Fields) : Fields := { f with lit := if f.x then f.lit else none }

theorem own_eq_mkF {op cm d a b : Nat} {f : Fields} (hx : f.x = false) :
    f.own = mkF op false cm d a b none ↔ f.op = op ∧ f.cm = cm ∧ f.d = d ∧ f.a = a ∧ f.b = b := by
  simp [mkF, Fields.own, hx]

theorem own_eq_mkF_src {op cm d a : Nat} {b : Src} {f : Fields} (hx : f.LitOk) (hb : f.Holds b) :
    f.own = mkF op b.isLit cm d a b.code b.litWord ↔ f.op = op ∧ f.cm = cm ∧ f.d = d ∧ f.a = a := by
  have code : f.b = b.code := by
    cases b with
    | reg r => exact hb.code hb.x
    | lit w => exact (hx hb.x).1
  simp [mkF, Fields.own, hb.x, ← hb.lit, code]

/-- The two bits of CM as the flag select and the status push (R115). -/
theorem cm_flags {f : Fields} (h : f.cm < 4) : f.cm = 2 * (cmHi f).toNat + (cmLo f).toNat ↔ True := by
  unfold cmHi cmLo
  rw [iff_true]
  interval_cases f.cm <;> rfl

/-- The instruction is one that the fields encode, and is well formed. -/
structure Fields.Names (f : Fields) (i : Instr) : Prop where
  wf      : i.wf = true
  noEvent : i.isEvent = false
  encodes : some f.own = encodeFields i

/-! ### The parsers on the fields of an encoding -/

/-- Each enumeration's code reads back. -/
theorem ofCode_code :
    (∀ c, Cond.ofCode (Cond.code c) = some c) ∧ (∀ c, VoteKind.ofCode (VoteKind.code c) = some c) ∧ (∀ c, Special.ofCode (Special.code c) = some c) ∧
    (∀ c, PackSrc.ofCode (PackSrc.code c) = some c) ∧ (∀ c, QuadX.ofCode (QuadX.code c) = some c) ∧ (∀ c, ShflMode.ofCode (ShflMode.code c) = some c) ∧
    (∀ c, ScanMode.ofCode (ScanMode.code c) = some c) ∧ (∀ c, RedxMode.ofCode (RedxMode.code c) = some c) ∧ (∀ c, TshflMode.ofCode (TshflMode.code c) = some c) ∧
    (∀ c, LdClass.ofCode (LdClass.code c) = some c) ∧ (∀ c, StClass.ofCode (StClass.code c) = some c) ∧ (∀ c, AtOrder.ofCode (AtOrder.code c) = some c) ∧
    (∀ c, PfKind.ofCode (PfKind.code c) = some c) ∧ (∀ c, PhField.ofCode (PhField.code c) = some c) ∧ (∀ c, FenceKind.ofCode (FenceKind.code c) = some c) ∧
    (∀ c, Scope.ofCode (Scope.code c) = some c) := by
  refine ⟨?_, ?_, ?_, ?_, ?_, ?_, ?_, ?_, ?_, ?_, ?_, ?_, ?_, ?_, ?_, ?_⟩ <;> intro c <;> cases c <;> rfl

theorem enumK_some {α : Type} (a : α) : enumK (some a) = pure a := rfl

theorem enumC_some {α : Type} (a : α) : enumC (some a) = pure a := rfl

theorem zero_zero : zero 0 = pure () := rfl

theorem regK_code {k : Reg → Bool} {r : Reg} (h : k r = true) : regK k r.code = pure r := by
  simp [regK, regOf_eq_some.2 rfl, h]

theorem finK_val {n : Nat} (y : Fin n) : finK n y.val = pure y := by
  simp [finK]

theorem pdK_mul (p : Fin 8) : pdK (p.val * 16) = pure p := by
  simp [pdK, finK_val]

/-- A predicate beside a sub-field reads back, and so does the sub-field. -/
theorem pdSub_add (p : Fin 8) {c : Nat} (h : c < 16) : pdSub (p.val * 16 + c) = pure p ∧ (p.val * 16 + c) % 16 = c := by
  rw [pdSub, show (p.val * 16 + c) / 16 = p.val by omega, finK_val]
  exact ⟨rfl, by omega⟩

theorem Cond.code_lt_sixteen (c : Cond) : c.code < 16 := c.code_lt.trans (by decide)

theorem VoteKind.code_lt_sixteen (k : VoteKind) : k.code < 16 := k.code_lt.trans (by decide)

section
variable (op cm d a b : Nat) (x : Bool) (lit : Option Word) (h l : Bool)

theorem mkF_cm : (mkF op x cm d a b lit).cm = cm := rfl
theorem mkF_d : (mkF op x cm d a b lit).d = d := rfl
theorem mkF_a : (mkF op x cm d a b lit).a = a := rfl
theorem mkF_b : (mkF op x cm d a b lit).b = b := rfl

theorem cmIs_mkF : cmIs cm (mkF op x cm d a b lit) = pure () := if_pos rfl

theorem noLit_mkF : noLit (mkF op false cm d a b lit) = pure () := rfl

theorem cmN_mkF : cmN (mkF op x (2 * h.toNat) d a b lit) = pure h := by
  cases h <;> rfl

theorem cmRel3_mkF : cmRel3 (mkF op x (3 * h.toNat) d a b lit) = pure h := by
  cases h <;> rfl

theorem cmCur_mkF : cmCur (mkF op x h.toNat d a b lit) = pure h := by
  cases h <;> rfl

theorem cmHi_mkF : cmHi (mkF op x (2 * h.toNat + l.toNat) d a b lit) = h := by
  cases h <;> cases l <;> simp [cmHi, mkF]

theorem cmLo_mkF : cmLo (mkF op x (2 * h.toNat + l.toNat) d a b lit) = l := by
  cases h <;> cases l <;> simp [cmLo, mkF]

end

section
variable (op cm d a : Nat) (b : Src)

theorem litOk_mkF : litOk (mkF op b.isLit cm d a b.code b.litWord) = pure () := by
  cases b <;> rfl

theorem srcK_mkF {k : Reg → Bool} (h : b.ok k = true) : srcK k (mkF op b.isLit cm d a b.code b.litWord) = pure b := by
  cases b with
  | reg r => exact congrArg (· >>= fun r => pure (Src.reg r)) (regK_code h)
  | lit w => rfl

end

/-- The parsers of an instruction's arm read its own fields back, one after another. -/
theorem decodeFields_of_encodeFields {i : Instr} {f : Fields} (wf : i.wf = true) (e : encodeFields i = some f) : decodeFields f = .ok i := by
  cases i
  all_goals cases e
  all_goals
    simp only [Instr.wf, Bool.and_eq_true] at wf
    change (_ >>= _ : Except DecodeError Instr) = _
    simp only [pure_bind, wf, zero_zero, regK_code, finK_val, pdK_mul, pdSub_add, cmIs_mkF, noLit_mkF, cmN_mkF, cmRel3_mkF, cmCur_mkF, cmHi_mkF, cmLo_mkF,
      litOk_mkF, srcK_mkF, mkF_cm, mkF_d, mkF_a, mkF_b, ofCode_code, enumK_some, enumC_some, Cond.code_lt_sixteen, VoteKind.code_lt_sixteen]
    rfl

/-- What an arm answers, its parsers have found in the fields, and nothing else stands there. -/
theorem ensures_decodeFields (f : Fields) (cm : f.cm < 4) : Ensures (decodeFields f) f.Names := by
  unfold decodeFields
  split
  -- CM chooses among PAND, POR, PXOR and PNOT, and between the two forms of MATCH; D between the two of SWR.
  case' h_20 | h_78 => split
  all_goals
    simp only [ensures_bind, ensures_pure, ensures_throw, ensures_enumK, ensures_enumC, ensures_zero, ensures_cmIs, ensures_noLit, ensures_litOk,
      ensures_regK, ensures_srcK, ensures_finK, ensures_pdSub, ensures_pdK, ensures_cmN, ensures_cmRel3, ensures_cmCur,
      Cond.ofCode_eq_some, VoteKind.ofCode_eq_some, Special.ofCode_eq_some, PackSrc.ofCode_eq_some, QuadX.ofCode_eq_some, ShflMode.ofCode_eq_some,
      ScanMode.ofCode_eq_some, RedxMode.ofCode_eq_some, TshflMode.ofCode_eq_some, LdClass.ofCode_eq_some, StClass.ofCode_eq_some, AtOrder.ofCode_eq_some,
      PfKind.ofCode_eq_some, PhField.ofCode_eq_some, FenceKind.ofCode_eq_some, Scope.ofCode_eq_some] <;> intros
  case' h_26 => split <;> simp only [ensures_pure, ensures_throw]
  all_goals
    refine ⟨by simp only [Instr.wf, Bool.and_self, *], rfl, ?_⟩
    simp [encodeFields, own_eq_mkF, own_eq_mkF_src, cm_flags, *]
  case h_19 | h_22 => omega

/-! ### The fields in the word (R116) -/

theorem word_splitWord (w : Word) (lit : Option Word) : (splitWord w lit).word = w := by
  have x_bit (n : Nat) : (n % 2 == 1).toNat = n % 2 := by
    rcases Nat.mod_two_eq_zero_or_one n with h | h <;> rw [h] <;> rfl
  apply BitVec.eq_of_toNat_eq
  have := w.isLt
  simp only [Fields.word, splitWord, bitsN, BitVec.toNat_ofNat, Nat.reduceSub, Nat.reduceAdd, pow_one, x_bit]
  omega

theorem splitWord_x (w : Word) (lit : Option Word) : (splitWord w lit).x = w.getLsbD 23 := by
  rw [BitVec.getLsbD, Nat.testBit_eq_decide_div_mod_eq]
  rfl

theorem splitWord_cm_lt (w : Word) (lit : Option Word) : (splitWord w lit).cm < 4 := Nat.mod_lt _ (by decide)

theorem encodeFields_isSome (i : Instr) : (encodeFields i).isSome = !i.isEvent := by
  cases i <;> rfl

theorem decodeWords_cons (w : Word) (lit : Option Word) : decodeWords (w :: lit.toList) = decodeWord w lit := by
  cases lit <;> rfl

theorem decodeWords_encode {i : Instr} (wf : i.wf = true) (ev : i.isEvent = false) : decodeWords (encode i) = .ok i := by
  obtain ⟨f, e⟩ : ∃ f, encodeFields i = some f := Option.isSome_iff_exists.1 (by rw [encodeFields_isSome, ev]; rfl)
  rw [encode, e]
  change decodeWords (f.word :: f.lit.toList) = _
  rw [decodeWords_cons, decodeWord, splitWord_encodeFields e, decodeFields_of_encodeFields wf e]

theorem encode_decodeWord {w : Word} {lit : Option Word} {i : Instr} (h : (splitWord w lit).Names i) :
    encode i = w :: (if w.getLsbD 23 then lit.toList else []) := by
  have own_lit : (splitWord w lit).own.lit.toList = if w.getLsbD 23 then lit.toList else [] := by
    rw [← splitWord_x w lit, Fields.own]
    cases (splitWord w lit).x <;> rfl
  rw [encode, ← h.encodes, ← own_lit]
  change (splitWord w lit).word :: _ = _
  rw [word_splitWord]

/-! ### Reserved opcodes (R129) -/

/-- No arm of the decoder is for a cell that R129 shows as reserved. -/
theorem decodeFields_reserved {f : Fields} (h : f.op ∈ [0x1C, 0x1D, 0x1E, 0x1F, 0x3D, 0x3E, 0x3F, 0x4F, 0x57, 0x63, 0x83, 0x84, 0x85, 0x86, 0x87, 0x94, 0x95,
    0x96, 0x97, 0x9D, 0x9E, 0x9F, 0xA6, 0xA7, 0xAB, 0xAC, 0xAD, 0xAE, 0xAF, 0xB7, 0xB8, 0xB9, 0xBA, 0xBB, 0xBC, 0xBD, 0xBE, 0xBF] ∨ 0xC0 ≤ f.op) :
    decodeFields f = .error .opcode := by
  unfold decodeFields
  split
  case h_155 => rfl
  all_goals
    rename_i op
    exact absurd (op ▸ h) (by decide)

theorem splitWord_op (w : Word) (lit : Option Word) : (splitWord w lit).op = w.toNat / 2 ^ 24 := by
  have := w.isLt
  exact Nat.mod_eq_of_lt (by omega)

/-! ### Clause headers (R112) -/

section
variable {w : Word}

theorem decodeHeader_eq_none_iff : decodeHeader w = none ↔
    bitsN w.toNat 31 28 = 0 ∨ bitsN w.toNat 4 0 ≠ 0 ∨ (12 ≤ bitsN w.toNat 15 12 ∧ bitsN w.toNat 15 12 ≤ 14) ∨
      (12 ≤ bitsN w.toNat 11 8 ∧ bitsN w.toNat 11 8 ≤ 14) ∨ (bitsN w.toNat 15 12 = bitsN w.toNat 11 8 ∧ bitsN w.toNat 15 12 < 12) := by
  simp only [decodeHeader, ite_eq_left_iff, reduceCtorEq, imp_false, not_not, Bool.or_eq_true, Bool.and_eq_true, beq_iff_eq, bne_iff_ne, decide_eq_true_eq,
    or_assoc]

theorem fields_of_decodeHeader {h : Header} (legal : decodeHeader w = some h) : h.len = bitsN w.toNat 31 28 ∧ h.wait.toNat = bitsN w.toNat 27 16 ∧
    h.setA = bitsN w.toNat 15 12 ∧ h.setB = bitsN w.toNat 11 8 ∧ h.msel.val = bitsN w.toNat 7 6 ∧ h.yield = (bitsN w.toNat 5 5 == 1) := by
  dsimp only [decodeHeader] at legal
  split at legal
  · cases legal
  · cases legal
    exact ⟨rfl, (BitVec.toNat_ofNat _ _).trans (Nat.mod_eq_of_lt (Nat.mod_lt _ (by decide))), rfl, rfl, rfl, rfl⟩

end

end Sys2Proof

namespace Sys2Proof.Machine

section
variable {s s1 : State} {t : Team} {e : Nat} {f : Fragment} {w : Word}

/-- An illegal header is an illegal encoding (R112, R325). -/
theorem headerAttempt_illegal (fetch : s.fetchWord t f.pc = .word w s1) (illegal : decodeHeader w = none) :
    headerAttempt s t e f = .only (takeFault s1 t.id e 1 0 0 0) := by
  simp [headerAttempt, fetch, illegal]

/-- A flag that is not 0 and is waited for holds the clause back. -/
theorem headerAttempt_waits {h : Header} {n : Nat} (fetch : s.fetchWord t f.pc = .word w s1) (legal : decodeHeader w = some h) (low : n < 12)
    (waits : h.wait.getLsbD n = true) (pending : t.flag n ≠ 0) : headerAttempt s t e f = .none := by
  have held : (List.range 12).any (fun n => h.wait.getLsbD n && t.flag n != 0) = true :=
    List.any_eq_true.2 ⟨n, List.mem_range.2 low, by simp [waits, pending]⟩
  simp [headerAttempt, fetch, legal, held]

end

end Sys2Proof.Machine

namespace Sys2Proof.Claims
open Sys2Proof.Machine

/-- Settles O31: both directions go arm by arm, by what the parsers answer. -/
theorem encodingRoundTrip : Obligations.EncodingRoundTrip := by
  unfold Obligations.EncodingRoundTrip
  refine ⟨fun i wf ev => decodeWords_encode wf ev, fun w lit i h => ?_⟩
  have names : (splitWord w lit).Names i := ensures_decodeFields _ (splitWord_cm_lt w lit) i h
  exact ⟨names.wf, names.noEvent, encode_decodeWord names⟩

/-- Settles O34: the word's opcode is none that an arm of the decoder is for. -/
theorem reservedOpcodes : Obligations.ReservedOpcodes := by
  unfold Obligations.ReservedOpcodes
  intro w lit h
  rw [← splitWord_op w lit] at h
  exact decodeFields_reserved h

/-- Settles O33: the decoder's test and fields of a header, and the two ways a fragment does not get past one. -/
theorem headerLegality : Obligations.HeaderLegality := by
  unfold Obligations.HeaderLegality
  refine ⟨fun w => ⟨decodeHeader_eq_none_iff, fun h legal => fields_of_decodeHeader legal⟩, ?_⟩
  intro s tid e t f w s1 team frag atHeader resident running kept apart latch fetch
  have may : MayIssue s tid e t f := ⟨team, frag, resident, running, apart, .inl latch⟩
  rw [may.attempt_at_header atHeader kept]
  exact ⟨headerAttempt_illegal fetch, fun h n legal low waits pending => headerAttempt_waits fetch legal low waits pending⟩

end Sys2Proof.Claims
end

section
/-! Comparisons (R123, R148, R149): CMP and PMOV write a predicate in the active lanes from two operands. -/

namespace Sys2Proof.Machine
open Claims

/-- The lanes in which a comparison of a and b holds. -/
def compareMask (s : State) (iss : Issue) (a : Reg) (b : Src) (val : Nat → Nat → Bool) : LaneMask :=
  maskOf ((lanesOf iss.act iss.team.n).filter
    (fun l => val (valA s iss iss.ty.width (some a) l) (valB s iss iss.ty.width (some a) (some b) l)))

/-- The body that CMP, under a type it accepts, and PMOV share. -/
def compareOp (s : State) (iss : Issue) (p : Fin 8) (a : Reg) (b : Src) (val : Nat → Nat → Bool) : Eff :=
  if iss.act == 0 then .done s
  else if iss.low.isSome && !portsReady s iss.team none (some a) (some b) then .wait .none s
  else .done (State.updTeam { popAll s iss (some a) (some b) with free := s.free + 1 } iss.tid
    (fun t => t.writeP p.val iss.act (compareMask s iss a b val)))

section
variable {s : State} {iss : Issue} {p : Fin 8} {a : Reg} {b : Src} {val : Nat → Nat → Bool}

theorem compareMask_getLsbD {l : Nat} (hl : l < 1024) (active : iss.act.getLsbD l = true) :
    (compareMask s iss a b val).getLsbD l =
      (decide (l < iss.team.n) && val (valA s iss iss.ty.width (some a) l) (valB s iss iss.ty.width (some a) (some b) l)) := by
  simp [compareMask, maskOf_getLsbD _ l hl, mem_lanesOf, active]

theorem compareOp_idle (idle : iss.act = 0) : compareOp s iss p a b val = .done s := by
  simp only [compareOp, iss.idle idle, if_true]

theorem compareOp_waits (active : iss.act ≠ 0) (low : iss.low.isSome) (busy : portsReady s iss.team none (some a) (some b) = false) :
    compareOp s iss p a b val = .wait .none s := by
  simp only [compareOp, iss.active active, low, busy, Bool.not_false, Bool.and_self, Bool.false_eq_true, if_false, if_true]

theorem compareOp_sets (team : ∃ t, s.team? iss.tid = some t) (active : iss.act ≠ 0)
    (ports : iss.low.isSome → portsReady s iss.team none (some a) (some b)) :
    ∃ s2, SetsPred { popAll s iss (some a) (some b) with free := s.free + 1 } iss p.val iss.act.getLsbD
        (fun l => decide (l < iss.team.n) && val (valA s iss iss.ty.width (some a) l) (valB s iss iss.ty.width (some a) (some b) l)) s2
      ∧ compareOp s iss p a b val = .done s2 := by
  obtain ⟨t, popped⟩ : ∃ t, State.team? { popAll s iss (some a) (some b) with free := s.free + 1 } iss.tid = some t := by
    rw [← Option.isSome_iff_exists]
    exact (popAll_keepsTeams s iss (some a) (some b) iss.tid).trans (Option.isSome_iff_exists.mpr team)
  have go : (iss.low.isSome && !portsReady s iss.team none (some a) (some b)) = false := by
    cases low : iss.low.isSome
    · rfl
    · rw [ports low]; rfl
  exact ⟨_, SetsPred_congr (setsPred_writeP _ iss p.val iss.act (compareMask s iss a b val) popped) (fun _ _ => rfl) fun l hl lane => compareMask_getLsbD hl lane,
    by simp only [compareOp, iss.active active, go, Bool.false_eq_true, if_false]⟩

end

/-- An instruction with that body completes as Compares says. -/
theorem compares_of_compareOp {i : Instr} {ok : Issue → Prop} {p : Fin 8} {a : Reg} {b : Src} {val : Issue → Nat → Nat → Bool}
    (runs : ∀ s iss, Issues s iss i → ok iss → exec i s = .next (conclude s iss i (compareOp (hashed s iss i) iss p a b (val iss)))) :
    Compares i ok p a b val := by
  intro s iss issues accepted
  rw [runs s iss issues accepted]
  refine ⟨fun idle => ?_, fun active ports => ?_, fun active low busy => ?_⟩
  · rw [compareOp_idle idle]; rfl
  · obtain ⟨s2, sets, done⟩ := compareOp_sets (s := hashed s iss i) (p := p) (a := a) (b := b) (val := val iss)
      ⟨hashTeam iss i iss.team, by simp [issues.team]⟩ active (by simpa using ports)
    rw [done]
    exact ⟨s2, by simpa [readState] using sets, rfl⟩
  · rw [compareOp_waits active low (by simpa using busy)]; rfl

end Sys2Proof.Machine

namespace Sys2Proof.Claims
open Sys2Proof.Machine

/-- Settles O7: CMP refuses q4x8 and else has the body of PMOV. -/
theorem compareResults : Obligations.CompareResults := by
  unfold Obligations.CompareResults
  refine fun p c a b => ⟨compares_of_compareOp fun s iss issues accepted => ?_, compares_of_compareOp fun s iss issues _ => ?_,
    fun s iss issues active refused => ?_⟩
  · have type : (iss.ty == .q4x8) = false := beq_eq_false_iff_ne.2 accepted
    rw [exec_cmp, execCmp, run_of_issues issues, compareOp]
    simp only [type, Bool.false_eq_true, if_false]
    rfl
  · rw [exec_pmov, execPmov, run_of_issues issues]
    rfl
  · have type : (iss.ty == .q4x8) = true := by simpa using refused
    rw [exec_cmp, execCmp, run_of_issues issues]
    simp only [iss.active active, type, Bool.false_eq_true, if_false, if_true]
    rfl

end Sys2Proof.Claims
end

section
/-! What the matrix engine and the converter check first (R132, R136, R208, R338): the lane, the core, a reset under way, the type. -/

namespace Sys2Proof.Machine
open Claims

section
variable {s : State} {iss : Issue} {ok : Bool} {k : Eff}

/-- The engine belongs to the even core of a pair (R208). -/
theorem matrixOpen_odd (odd : iss.team.core % 2 = 1) : matrixOpen s iss ok k = .stop 19 0 0 0 := by
  simp [matrixOpen, odd]

/-- While the engine is reset the instruction waits (R338). -/
theorem matrixOpen_reset (even : iss.team.core % 2 = 0) (resets : (s.pairSt (pairOf iss)).resetAt ≠ none) : matrixOpen s iss ok k = .wait .none s := by
  have some' : (s.pairSt (corePair iss.team.core)).resetAt.isSome = true := Option.isSome_iff_ne_none.2 resets
  simp [matrixOpen, even, some']

theorem matrixOpen_type (usable : MatrixUsable s iss) : matrixOpen s iss false k = .stop 6 0 0 0 := by
  obtain ⟨-, even, runs, kept⟩ := usable
  have idle : (s.pairSt (corePair iss.team.core)).resetAt.isSome = false := Option.isSome_eq_false_iff.2 (Option.isNone_iff_eq_none.2 runs)
  cases group : s.group? iss.team.launch iss.team.group with
  | none => simp [matrixOpen, even, idle, group]
  | some g => simp [matrixOpen, even, idle, group, kept g group]

end

theorem hashed_pairSt (s : State) (iss : Issue) (i : Instr) (p : Nat) : (hashed s iss i).pairSt p = s.pairSt p := by
  rw [State.pairSt, hashed_pairs, State.pairSt]

theorem matrixUsable_hashed {s : State} {iss : Issue} (usable : MatrixUsable s iss) (i : Instr) : MatrixUsable (hashed s iss i) iss := by
  obtain ⟨key, even, runs, kept⟩ := usable
  refine ⟨key, even, by rw [hashed_pairSt, runs], ?_⟩
  rwa [State.group?, hashed_groups]

/-- An instruction that opens the engine once it acts makes the engine's checks. -/
theorem matrixChecks_of_matrixOpen {i : Instr} {ok : Ty → Bool} {acts : Issue → Prop}
    (opens : ∀ s iss, Issues s iss i → acts iss → ∃ k, exec i s = .next (conclude s iss i (matrixOpen (hashed s iss i) iss (ok iss.ty) k))) :
    MatrixChecks i ok acts := by
  intro s iss issues active
  obtain ⟨k, runs⟩ := opens s iss issues active
  refine ⟨fun odd => ?_, fun even resets => ?_, fun usable refused => ?_⟩
  · rw [Traps, runs, matrixOpen_odd odd]; rfl
  · rw [Waits, runs, matrixOpen_reset even (by rwa [hashed_pairSt])]; rfl
  · rw [Traps, runs, refused, matrixOpen_type (matrixUsable_hashed usable i)]; rfl

/-- An instruction whose body is the gate does nothing without a lane, and makes the engine's checks with one. -/
theorem matrixGate_of_run {i : Instr} {ok : Ty → Bool} {k : Issue → State → Nat → Eff}
    (runs : ∀ s, exec i s = run i s (fun iss s => matrixGate s iss (ok iss.ty) (k iss s))) : MatrixGate i ok := by
  refine ⟨fun s iss issues none' => ?_, matrixChecks_of_matrixOpen fun s iss issues some' => ?_⟩
  · rw [Completes, runs, run_of_issues issues, matrixGate, none']; rfl
  · obtain ⟨l, low⟩ := Option.ne_none_iff_exists'.1 some'
    exact ⟨k iss (hashed s iss i) l, by rw [runs, run_of_issues issues, matrixGate, low]⟩

end Sys2Proof.Machine

namespace Sys2Proof.Claims
open Sys2Proof.Machine

/-- Settles O23: the body of each instruction is the gate; that of ACCRD opens the engine once a lane is active. -/
theorem matrixGates : Obligations.MatrixGates := by
  unfold Obligations.MatrixGates
  refine fun fb sq d a r b => ⟨matrixGate_of_run fun s => exec_bld s fb sq d a r, matrixGate_of_run fun s => exec_mma s fb sq d a r,
    matrixGate_of_run fun s => exec_mmas s fb sq d a r, matrixGate_of_run fun s => exec_accz s fb sq d, matrixGate_of_run fun s => exec_accld s fb sq d a b,
    matrixGate_of_run fun s => exec_accst s fb sq d a b, matrixGate_of_run fun s => exec_accwr s d a, fun s iss issues idle => ?_,
    matrixChecks_of_matrixOpen fun s iss issues active => ?_, matrixGate_of_run fun s => exec_spmld s fb sq d a b,
    matrixGate_of_run fun s => exec_qnt s fb sq d a b, matrixGate_of_run fun s => exec_dqnt s fb sq d a b⟩
  · rw [Completes, exec_accrd, execAccrd, run_of_issues issues]
    simp only [iss.idle idle, if_true]
    rfl
  · simp only [exec_accrd, execAccrd, run_of_issues issues, iss.active active, Bool.false_eq_true, if_false]
    exact ⟨_, rfl⟩

end Sys2Proof.Claims
end

section
/-! Why a load of the own scratchpad need not complete (R178, R214): an LD128 at an offset of 8 modulo 16 can reach over the end of a line, and the bytes in the
next line wait in the Parenthesis while an engine's operation owns that line. -/

namespace Sys2Proof.Claims
open Sys2Proof.Machine

/-- The clause of a fragment of one lane; its mood names the type s32. -/
def lineEndClause : Clause := { hdr := 2 ^ 38, len := 2, setA := 3, setB := 15, mood := 0, yield := false }

/-- The fragment, at its first word. -/
def lineEndFrag : Fragment :=
  { st := .ready, pc := 2 ^ 38 + 4, mask := 1, join := 15, age := 0, sig := 0, clause := some lineEndClause, latch := .none, yielded := false, starve := 0 }

/-- Its team; s1 holds the address of the last 8 bytes of the scratchpad's first line. -/
def lineEndTeam : Team := { Team.placed with frags := [(0, lineEndFrag)], scal := [(1, BitVec.ofNat 64 (winBase 1 + 248))] }

/-- Its launch, with a page of scratchpad. -/
def lineEndLaunch : Launch := { Launch.placed with record := leBytes 112 (leNat placedRecord + 2 ^ 172) }

/-- Its group. -/
def lineEndGroup : Group :=
  { launch := 1, num := 0, core := 0, off := 0, len := 0, scratch := Store.empty, shareLen := 0, share := Store.empty
    handles := [], endedTeams := [], lost := false, saved := false, kept := PairSt.reset }

/-- The key of the scratchpad's second line. -/
def secondLine : Nat := Loc.key { space := 1, x := 1, y := 0, addr := 256 }

/-- The machine in which that fragment issues, while an engine's operation owns the second line. -/
def lineEnd : State :=
  let s := State.reset.withFetchWord 32 0
  { s with issuing := some (1, 0), teams := [(1, lineEndTeam)], launches := [(1, lineEndLaunch)], mem := { s.mem with owned := [(secondLine, [1])] } }

/-- The load of 16 bytes from s1 on to v4 to v7. -/
def lineEndLoad : Instr := .ld128 .plain (.v 4) (.s 1) (.lit 0)

/-- The fragment as it issues. -/
def lineEndIssue : Issue := mkIssue lineEnd 1 0 lineEndTeam lineEndFrag lineEndClause

theorem lineEnd_issues : Issues lineEnd lineEndIssue lineEndLoad := ⟨rfl, by decide +kernel, by decide +kernel, rfl⟩

theorem lineEnd_settled : Settled lineEnd lineEndIssue lineEndLaunch lineEndGroup where
  key := rfl
  runs := rfl
  launch := rfl
  group := rfl
  single := rfl
  noLock := rfl
  noOver := rfl
  room _ := Nat.zero_lt_succ _
  none' _ h := nomatch h
  older _ h := nomatch h
  noCast := rfl

theorem lineEnd_inScratch : InScratch lineEnd lineEndIssue lineEndLaunch 248 16 := by
  unfold InScratch
  decide +kernel

/-- One request of the load stays outstanding. -/
theorem lineEndLoad_waits : (match exec lineEndLoad lineEnd with
    | .next s' => s'.reqs.isEmpty
    | .fault _ => true
    | .refused _ => true) = false := by decide +kernel

/-- Refutes O15: with an operand that reaches into a line that an engine's operation owns, LD128 leaves a request outstanding (R214), while the statement asks
that the line of the operand's first byte alone is free. -/
theorem not_loadResults : ¬ Obligations.LoadResults := by
  unfold Obligations.LoadResults
  intro h
  obtain ⟨-, -, -, -, load⟩ := h .plain (.v 4) (.s 1) (.lit 0)
  obtain ⟨s', -, done, ⟨-, -, rest, -⟩, -⟩ := (load lineEnd lineEndIssue lineEndLaunch lineEndGroup 0 248 lineEnd_issues lineEnd_settled (by decide +kernel)
    (by decide +kernel) lineEnd_inScratch (by decide +kernel)).1 4 rfl (by decide +kernel)
  have none' : s'.reqs = [] := congrArg State.reqs rest
  have waits := lineEndLoad_waits
  rw [lineEndLoad, done] at waits
  simp [goesOn, none'] at waits

end Sys2Proof.Claims
end

section
/-! Arithmetic and bitwise instructions (R135, R136, R160): each has the lane-wise frame for its body, under the types it accepts. -/

namespace Sys2Proof.Machine
open Claims

/-- An instruction whose ports are ready, or that pops none for want of a lane, does not wait (R121). -/
theorem notWaiting {low ready : Bool} (ports : low → ready) : (low && !ready) = false := by
  cases low
  · rfl
  · rw [ports rfl]; rfl

section
variable {s : State} {iss : Issue}

/-- A body that checks its type once a lane is active is its lane-wise frame where the check is passed: with no lane, both do nothing. -/
theorem typeChecked_laneOp {bad readD : Bool} {wa wb wd : Nat} {ext : Nat → Nat} {d : Reg} {a : Option Reg} {b : Option Src}
    {f : Nat → Nat → Nat → Nat → Word → Option Nat × Word} (passes : bad = false) :
    (if iss.act == 0 then .done s else if bad then .stop 6 0 0 0 else laneOp s iss readD wa wb wd ext d a b f) = laneOp s iss readD wa wb wd ext d a b f := by
  by_cases idle : iss.act = 0
  · rw [laneOp_idle idle, if_pos (iss.idle idle)]
  · simp only [iss.active idle, passes, Bool.false_eq_true, if_false]

variable {ok : Ty → Bool} {readD : Bool} {d a : Reg} {b : Option Src} {f : Nat → Nat → Nat → Word → Nat × Word}

/-- Under a type it accepts an arithmetic instruction is the lane-wise frame around its element (R135). -/
theorem arith_accepted (accepted : ok iss.ty = true) : arith iss s ok readD d a b f =
    laneOp s iss readD iss.ty.width iss.ty.width iss.ty.width (scalarExt iss.ty) d (some a) b
      (fun _ x y z g => (some (eachElem iss.ty f x y z g).1, (eachElem iss.ty f x y z g).2)) :=
  typeChecked_laneOp (by rw [accepted, Bool.not_true])

/-- Under another type it faults once a lane is active (R136). -/
theorem arith_refused (active : iss.act ≠ 0) (refused : ok iss.ty = false) : arith iss s ok readD d a b f = .stop 6 0 0 0 := by
  simp only [arith, iss.active active, refused, Bool.not_false, Bool.false_eq_true, if_false, if_true]

end

section
variable {i : Instr} {ok : Ty → Bool} {readD : Bool} {d a : Reg} {b : Option Src}

theorem elementwise_of_arith {f : Issue → Nat → Nat → Nat → Word → Nat × Word}
    (runs : ∀ s, exec i s = run i s (fun iss s => arith iss s ok readD d a b (f iss))) : Elementwise i ok readD d a b f :=
  laneWise_of_laneOp fun s iss issues accepted => by rw [runs, run_of_issues issues, arith_accepted accepted]

theorem typeFault_of_arith {f : Issue → Nat → Nat → Nat → Word → Nat × Word}
    (runs : ∀ s, exec i s = run i s (fun iss s => arith iss s ok readD d a b (f iss))) : TypeFault i ok := by
  intro s iss issues active refused
  rw [runs, run_of_issues issues, arith_refused active refused]
  rfl

theorem rawwise_of_bitOp {f : Ty → Nat → Nat → Nat → Nat} (runs : ∀ s, exec i s = run i s (fun iss s => bitOp iss s readD d a b (f iss.ty))) :
    Rawwise i readD d a b f :=
  laneWise_of_laneOp fun s iss issues _ => by rw [runs, run_of_issues issues, bitOp]

end

end Sys2Proof.Machine

namespace Sys2Proof.Claims
open Sys2Proof.Machine

/-- Settles O1: each instruction is an arithmetic one with its operation on the exact values. -/
theorem arithmeticResults : Obligations.ArithmeticResults := by
  unfold Obligations.ArithmeticResults
  exact fun d a b => ⟨elementwise_of_arith fun s => exec_add s d a b, elementwise_of_arith fun s => exec_sub s d a b, elementwise_of_arith fun s => exec_mul s d a b,
    elementwise_of_arith fun s => exec_fma s d a b, elementwise_of_arith fun s => exec_fms s d a b, elementwise_of_arith fun s => exec_fnma s d a b,
    elementwise_of_arith fun s => exec_min s d a b, elementwise_of_arith fun s => exec_max s d a b, elementwise_of_arith fun s => exec_clamp s d a b,
    elementwise_of_arith fun s => exec_abs s d a, elementwise_of_arith fun s => exec_neg s d a, elementwise_of_arith fun s => exec_mulhi s d a b⟩

/-- Settles O2: each instruction is an arithmetic one with the model's function on its elements. -/
theorem divisionAndElementaryResults : Obligations.DivisionAndElementaryResults := by
  unfold Obligations.DivisionAndElementaryResults
  exact fun d a b => ⟨elementwise_of_arith fun s => exec_div s d a b, elementwise_of_arith fun s => exec_rem s d a b, elementwise_of_arith fun s => exec_sqrt s d a,
    elementwise_of_arith fun s => exec_rsq s d a, elementwise_of_arith fun s => exec_rcp s d a, elementwise_of_arith fun s => exec_exp2 s d a,
    elementwise_of_arith fun s => exec_log2 s d a, elementwise_of_arith fun s => exec_sin s d a, elementwise_of_arith fun s => exec_cos s d a,
    elementwise_of_arith fun s => exec_tanh s d a, elementwise_of_arith fun s => exec_frc s d a, elementwise_of_arith fun s => exec_rnd s d a⟩

/-- Settles O4: each instruction works on the raw operands; LEA's base and result have 64 bits whatever the mood's type. -/
theorem bitwiseResults : Obligations.BitwiseResults := by
  unfold Obligations.BitwiseResults
  refine fun d a b => ⟨rawwise_of_bitOp fun s => exec_and s d a b, rawwise_of_bitOp fun s => exec_or s d a b, rawwise_of_bitOp fun s => exec_xor s d a b,
    rawwise_of_bitOp fun s => exec_not s d a, rawwise_of_bitOp fun s => exec_shl s d a b, rawwise_of_bitOp fun s => exec_shr s d a b,
    rawwise_of_bitOp fun s => exec_sar s d a b, rawwise_of_bitOp fun s => exec_rot s d a b, rawwise_of_bitOp fun s => exec_popc s d a,
    rawwise_of_bitOp fun s => exec_clz s d a, rawwise_of_bitOp fun s => exec_brev s d a, rawwise_of_bitOp fun s => exec_bfe s d a b,
    rawwise_of_bitOp fun s => exec_bfi s d a b, laneWise_of_laneOp fun s iss issues _ => ?_⟩
  rw [exec_lea, execLea, run_of_issues issues]

end Sys2Proof.Claims
end

section
/-! Conversions, packing and dot products (R157, R158, R159): the type check, then the lane-wise frame. -/

namespace Sys2Proof.Machine
open Claims

/-- The dot products are the lane-wise frame under a type they accept; the sum has the 32-bit type of the elements' kind (R159). -/
theorem dot_accepted {s : State} {iss : Issue} {ok : Ty → Bool} {d a : Reg} {b : Src} (accepted : ok iss.ty = true) : dot iss s ok d a b =
    laneOp s iss true 32 32 32 (scalarExt (if iss.ty.isFloat then .f32 else if iss.ty.isS then .s32 else .n32)) d (some a) (some b)
      (fun _ x y z g => (some (dotLane iss x y z g).1, (dotLane iss x y z g).2)) :=
  typeChecked_laneOp (by rw [accepted, Bool.not_true])

/-- CVT refuses b32 and q4x8 (R157). -/
theorem isInt_or_isFloat_of_plain {t : Ty} (plain : (tyArith t && t != .b32) = true) : ((t.isInt && t != .b32) || t.isFloat) = true := by
  simp only [tyArith, Bool.and_eq_true, Bool.or_eq_true] at plain ⊢
  obtain ⟨number, notBits⟩ := plain
  exact number.imp_left fun whole => ⟨whole, notBits⟩

end Sys2Proof.Machine

namespace Sys2Proof.Claims
open Sys2Proof.Machine

/-- Settles O3: each instruction passes its type check and is the lane-wise frame around its conversion or sum. -/
theorem conversionAndDotResults : Obligations.ConversionAndDotResults := by
  unfold Obligations.ConversionAndDotResults
  intro d a b e st src from' plain quads halves sum
  refine ⟨laneWise_of_laneOp fun s iss issues accepted => ?_, laneWise_of_laneOp fun s iss issues accepted => ?_, laneWise_of_laneOp fun s iss issues accepted => ?_,
    laneWise_of_laneOp fun s iss issues accepted => ?_, laneWise_of_laneOp fun s iss issues accepted => ?_⟩
  · obtain ⟨target, source⟩ := accepted
    rw [exec_cvt, execCvt, run_of_issues issues, typeChecked_laneOp (Bool.or_eq_false_iff.mpr
      ⟨congrArg not (isInt_or_isFloat_of_plain target), congrArg not (isInt_or_isFloat_of_plain source)⟩)]
  · have checked : (!halves iss.ty && !quads iss.ty) = false := by
      rcases accepted with half | quad
      · rw [half]; rfl
      · rw [quad, Bool.not_true, Bool.and_false]
    rw [exec_pack, execPack, run_of_issues issues, typeChecked_laneOp checked]
  · rw [exec_dot4, execDot4, run_of_issues issues, dot_accepted accepted]
  · rw [exec_dot2, execDot2, run_of_issues issues, dot_accepted accepted]
  · obtain ⟨number, narrow'⟩ := accepted
    rw [exec_unpack, execUnpack, run_of_issues issues, typeChecked_laneOp (by rw [number, decide_eq_true narrow']; rfl)]

end Sys2Proof.Claims
end

section
/-! Sums with carry (R163). -/

namespace Sys2Proof.Machine

theorem Ty.width_eq (t : Ty) : t.width = 32 ∨ t.width = 64 := by
  cases t <;> simp [Ty.width]

/-- An operand lies within the width it is read at. -/
theorem opdAt_lt {w : Nat} (width : w = 32 ∨ w = 64) (t : Team) (l : Nat) (o : Opd) : (opdAt t w l o).1 < 2 ^ w := by
  cases o with
  | all x tag => exact Nat.mod_lt _ (Nat.two_pow_pos w)
  | vec r =>
    have low := (t.v r l).isLt
    have high := (t.v (r + 1) l).isLt
    rcases width with rfl | rfl
    · exact low
    · simp only [opdAt, if_neg (show ¬ 64 = 32 by decide)]
      omega

/-- Operands are added as they are read. -/
theorem addCarry_operands (s : State) (iss : Issue) (a : Option Reg) (b : Option Src) (l : Nat) (c : Bool) :
    let e := valA s iss iss.ty.width a l + valB s iss iss.ty.width a b l + c.toNat
    addCarry iss.ty.width (valA s iss iss.ty.width a l) (valB s iss iss.ty.width a b l) c = (e % 2 ^ iss.ty.width, decide (2 ^ iss.ty.width ≤ e)) := by
  have inA : valA s iss iss.ty.width a l < 2 ^ iss.ty.width := opdAt_lt iss.ty.width_eq ..
  have inB : valB s iss iss.ty.width a b l < 2 ^ iss.ty.width := opdAt_lt iss.ty.width_eq ..
  simp only [addCarry, Nat.mod_eq_of_lt inA, Nat.mod_eq_of_lt inB]

/-- Once the operands are read the team is still there. -/
theorem Issues.readState_team? {s : State} {iss : Issue} {i : Instr} (h : Issues s iss i) (a : Option Reg) (b : Option Src) :
    ∃ t, (readState s iss i a b).team? iss.tid = some t :=
  Option.isSome_iff_exists.mp ((popAll_keepsTeams (hashed s iss i) iss a b iss.tid).trans (by rw [h.hashed_team?, Option.isSome_some]))

end Sys2Proof.Machine

namespace Sys2Proof.Claims
open Sys2Proof.Machine

/-- The lanes of ADDC with a carry out. -/
def carryOut (s : State) (iss : Issue) (d a : Reg) (b : Src) : List Nat :=
  (outLanes iss d).filter (fun l =>
    (addCarry iss.ty.width (valA s iss iss.ty.width (some a) l) (valB s iss iss.ty.width (some a) (some b) l) (iss.team.p 7 l)).2)

/-- The sum that ADDC writes in a lane. -/
def addcLane (iss : Issue) (l x y _z : Nat) (g : Word) : Option Nat × Word := (some (addCarry iss.ty.width x y (iss.team.p 7 l)).1, g)

/-- ADDC adds its carries to what the lane-wise frame answers. -/
theorem exec_addc_of_laneOp {s s2 : State} {iss : Issue} {d a : Reg} {b : Src} (issues : Issues s iss (.addc d a b)) (active : iss.act ≠ 0)
    (done : laneOp (hashed s iss (.addc d a b)) iss false iss.ty.width iss.ty.width iss.ty.width (scalarExt iss.ty) d (some a) (some b) (addcLane iss) = .done s2) :
    exec (.addc d a b) s =
      .next (goesOn (s2.updTeam iss.tid (fun t => t.writeP 7 (maskOf (outLanes iss d)) (maskOf (carryOut s iss d a b)))) iss (.addc d a b)) := by
  have hashedCarry : carryOut (hashed s iss (.addc d a b)) iss d a b = carryOut s iss d a b := by simp only [carryOut, valA_hashed, valB_hashed]
  rw [exec_addc, execAddc, run_of_issues issues, ← hashedCarry]
  unfold addcLane at done
  simp only [done, iss.active active, Bool.false_eq_true, if_false]
  rfl

/-- Settles O5: the lane-wise frame writes the sum, and p7 is written where that was computed. -/
theorem addWithCarry : Obligations.AddWithCarry := by
  unfold Obligations.AddWithCarry
  intro d a b s iss issues active ports
  dsimp only
  obtain ⟨s1, s2, steps, writes, done⟩ := laneOp_spec (hashed s iss (.addc d a b)) iss false iss.ty.width iss.ty.width iss.ty.width (scalarExt iss.ty) d
    (some a) (some b) (addcLane iss) ⟨_, issues.hashed_team?⟩ active (by simpa using ports)
  have stepped : Steps (readState s iss (.addc d a b) (some a) (some b)) iss (outLanes iss d) iss.team.g s1 := by simpa [readState, addcLane] using steps
  obtain ⟨t, ht⟩ := Option.isSome_iff_exists.mp ((writes.keepsTeams iss.tid).trans ((stepped.keepsTeams iss.tid).trans
    (Option.isSome_iff_exists.mpr (issues.readState_team? (some a) (some b)))))
  refine ⟨s1, s2, _, stepped, ?_, SetsPred_congr (setsPred_writeP s2 iss 7 _ (maskOf (carryOut s iss d a b)) ht) (fun l hl => maskOf_getLsbD _ l hl)
    (fun l hl lane => ?_), exec_addc_of_laneOp issues active done⟩
  · simpa only [valA_hashed, valB_hashed, tagA_hashed, tagB_hashed, addcLane, addCarry_operands, Bool.false_and, Bool.or_false] using writes
  · rw [maskOf_getLsbD _ l hl, decide_eq_true_eq] at lane
    simp only [maskOf_getLsbD _ l hl, carryOut, List.mem_filter, lane, addCarry_operands, decide_eq_true_eq, true_and]

end Sys2Proof.Claims
end

section
/-! Predicates as sets of lanes (R145, R149): a mask is none, or all, of the lanes of another. -/

namespace Sys2Proof.Machine
open Claims

/-! ### Masks lane by lane -/

theorem mask_beq (m n : LaneMask) : (m == n) = (List.range 1024).all (fun l => m.getLsbD l == n.getLsbD l) := by
  rw [Bool.eq_iff_iff]
  simp only [beq_iff_eq, List.all_eq_true, List.mem_range]
  exact ⟨fun h _ _ => h ▸ rfl, BitVec.eq_of_getLsbD_eq⟩

/-- No lane of a mask has a property that is a mask too. -/
theorem and_beq_zero (m n : LaneMask) : (m &&& n == 0) = (List.range 1024).all (fun l => !n.getLsbD l || !m.getLsbD l) := by
  rw [mask_beq]
  congr 1
  funext l
  cases h : n.getLsbD l <;> cases k : m.getLsbD l <;> simp [h, k]

/-- Every lane of a mask has it. -/
theorem and_beq_self (m n : LaneMask) : (m &&& n == n) = (List.range 1024).all (fun l => !n.getLsbD l || m.getLsbD l) := by
  rw [mask_beq]
  congr 1
  funext l
  cases h : n.getLsbD l <;> cases k : m.getLsbD l <;> simp [h, k]

/-- Some lane of a mask has it. -/
theorem and_bne_zero (m n : LaneMask) : (m &&& n != 0) = (List.range 1024).any (fun l => n.getLsbD l && m.getLsbD l) := by
  rw [bne, and_beq_zero, List.not_all_eq_any_not]
  congr 1
  funext l
  simp

/-! ### A predicate written from predicates -/

theorem hashTeam_pred (iss : Issue) (i : Instr) (t : Team) : (hashTeam iss i t).pred = t.pred := (congrArg Team.pred (hashTeam_quiet iss i t) :)

/-- An instruction that writes a mask to some lanes of a predicate. -/
theorem predWise_of_writeP {i : Instr} {p : Fin 8} {at' mask : Issue → LaneMask} {val : Issue → Nat → Bool}
    (runs : ∀ s iss, Issues s iss i → exec i s = .next (conclude s iss i (.done ((hashed s iss i).updTeam iss.tid (fun t => t.writeP p.val (at' iss) (mask iss))))))
    (lanes : ∀ iss l, l < 1024 → (mask iss).getLsbD l = val iss l) : PredWise i p at' val := fun s iss issues =>
  ⟨_, SetsPred_congr (setsPred_writeP _ iss p.val (at' iss) (mask iss) issues.hashed_team?) (fun _ _ => rfl) (fun l hl _ => lanes iss l hl), runs s iss issues⟩

/-- The predicate operations work on the predicates that the instruction finds (R39). -/
theorem predOp_hashed {s : State} {iss : Issue} {i : Instr} (issues : Issues s iss i) (p : Fin 8) (f : LaneMask → LaneMask → LaneMask) (x y : Nat) :
    predOp iss (hashed s iss i) p f x y =
      .done ((hashed s iss i).updTeam iss.tid (fun t => t.writeP p.val iss.act (f (NMap.getD iss.team.pred x 0) (NMap.getD iss.team.pred y 0)))) := by
  refine congrArg Eff.done (State.updTeam_congr _ _ fun t ht => ?_)
  obtain rfl : hashTeam iss i iss.team = t := Option.some.inj (issues.hashed_team?.symm.trans ht)
  rw [hashTeam_pred]

theorem predWise_of_predOp {i : Instr} {p x y : Fin 8} {f : LaneMask → LaneMask → LaneMask} {g : Bool → Bool → Bool}
    (runs : ∀ s, exec i s = run i s (fun iss s => predOp iss s p f x.val y.val))
    (lanes : ∀ m n l, l < 1024 → (f m n).getLsbD l = g (m.getLsbD l) (n.getLsbD l)) :
    PredWise i p (·.act) (fun iss l => g (iss.team.p x.val l) (iss.team.p y.val l)) :=
  predWise_of_writeP (fun s iss issues => by rw [runs, run_of_issues issues, predOp_hashed issues]) fun iss l hl => lanes _ _ l hl

/-- One truth value in every lane. -/
theorem uniform_getLsbD (r : Bool) {l : Nat} (hl : l < 1024) : (if r then BitVec.allOnes 1024 else 0 : LaneMask).getLsbD l = r := by
  cases r with
  | false => exact BitVec.getLsbD_zero
  | true => exact BitVec.getLsbD_allOnes.trans (decide_eq_true hl)

/-- What a VOTE comes to (R149). -/
def voted (iss : Issue) (k : VoteKind) (x : LaneMask) : Bool :=
  match k with
  | .any => x &&& iss.val != 0
  | .all => x &&& iss.val == iss.val
  | .uni => x &&& iss.val == 0 || x &&& iss.val == iss.val

theorem predWise_vote (p x : Fin 8) (k : VoteKind) {val : Issue → Bool} (vote : ∀ iss, voted iss k (NMap.getD iss.team.pred x.val 0) = val iss) :
    PredWise (.vote p k x) p (·.val) (fun iss _ => val iss) :=
  predWise_of_writeP (mask := fun iss => if voted iss k (NMap.getD iss.team.pred x.val 0) then BitVec.allOnes 1024 else 0)
    (fun s iss issues => by rw [exec_vote, execVote, run_of_issues issues]; cases k <;> rfl) fun iss l hl => by rw [uniform_getLsbD _ hl, vote]

end Sys2Proof.Machine

namespace Sys2Proof.Claims
open Sys2Proof.Machine

/-- ELECT writes the lowest lane that is no helper (R145). -/
theorem exec_elect_active {s : State} {iss : Issue} {p : Fin 8} (issues : Issues s iss (.elect p)) (active : iss.act ≠ 0) :
    exec (.elect p) s =
      .next (goesOn ((hashed s iss (.elect p)).updTeam iss.tid (fun t => t.writeP p.val iss.act (maskOf iss.low.toList))) iss (.elect p)) := by
  rw [exec_elect, execElect, run_of_issues issues]
  simp only [iss.active active, Bool.false_eq_true, if_false]
  rfl

/-- Settles O6: logic lane by lane; a vote by the lanes that pass among those that are no helpers; the elected lane. -/
theorem predicateResults : Obligations.PredicateResults := by
  unfold Obligations.PredicateResults
  refine fun p x y => ⟨predWise_of_predOp (g := and) (fun s => exec_pand s p x y) fun m n l _ => BitVec.getLsbD_and,
    predWise_of_predOp (g := or) (fun s => exec_por s p x y) fun m n l _ => BitVec.getLsbD_or, predWise_of_predOp (fun s => exec_pxor s p x y) fun m n l _ => ?_,
    predWise_of_predOp (y := x) (g := fun a _ => !a) (fun s => exec_pnot s p x) fun m n l hl => ?_, predWise_vote p x .any fun iss => and_bne_zero _ _,
    predWise_vote p x .all fun iss => and_beq_self _ _, predWise_vote p x .uni fun iss => ?_, fun s iss issues => ⟨fun idle => ?_, fun active => ?_⟩⟩
  · exact BitVec.getLsbD_xor
  · simp [hl]
  · rw [voted, and_beq_zero, and_beq_self, Bool.or_comm]
    rfl
  · rw [exec_elect, execElect, run_of_issues issues, if_pos (iss.idle idle)]
    rfl
  · refine ⟨_, SetsPred_congr (setsPred_writeP _ iss p.val iss.act (maskOf iss.low.toList) issues.hashed_team?) (fun _ _ => rfl) fun l hl _ => ?_,
      exec_elect_active issues active⟩
    rw [maskOf_getLsbD _ l hl]
    cases iss.low <;> simp [eq_comm, beq_eq_decide]

end Sys2Proof.Claims
end

section
/-! Selects, specials, moves and the signature read (R144, R147, R149, R150, R151): lane-wise instructions of every type. -/

namespace Sys2Proof.Machine
open Claims

/-- A special is read from what no word's signature changes (R125). -/
theorem special_hashed (s : State) (iss : Issue) (i : Instr) (sp : Special) (l : Nat) : special (hashed s iss i) iss sp l = special s iss sp l := by
  cases sp <;> simp [special, State.launch?, State.phaseOf, State.coreSt]

theorem litValue_of_width {t : Ty} (width : t.width = 32) (x : Word) : litValue t x = x.toNat := by
  unfold litValue
  split
  · cases width
  · cases width
  · rfl

/-- A literal under a 32-bit type as a scalar holds it (R151). -/
theorem moviExt_literal (t : Ty) (x : Word) : moviExt t x.toNat = if t = .s32 ∨ t = .s16x2 ∨ t = .s8x4 then (x.signExtend 64).toNat else x.toNat := by
  have extended : wrapI (sext x.toNat 32) 64 = (x.signExtend 64).toNat := by
    rw [sext_eq_toInt _ _ (by decide), BitVec.ofNat_toNat, BitVec.setWidth_eq]
    exact (BitVec.toNat_ofInt x.toInt).symm
  simp only [moviExt, extended, Nat.mod_eq_of_lt x.isLt, Bool.or_eq_true, beq_iff_eq, or_assoc]

end Sys2Proof.Machine

namespace Sys2Proof.Claims
open Sys2Proof.Machine

/-- Settles O8: each instruction is the lane-wise frame; a literal's value is known before it is read. -/
theorem selectSpecialAndMoveResults : Obligations.SelectSpecialAndMoveResults := by
  unfold Obligations.SelectSpecialAndMoveResults
  refine fun d a b p sp => ⟨laneWise_of_laneOp fun s iss issues _ => ?_, laneWise_of_laneOp fun s iss issues _ => ?_, laneWise_of_laneOp fun s iss issues _ => ?_,
    laneWise_of_laneOp fun s iss issues _ => ?_, laneWise_of_laneOp fun s iss issues _ => ?_,
    fun x => ⟨laneWise_of_laneOp fun s iss issues whole => ?_, laneWise_of_laneOp fun s iss issues scalar => ?_⟩⟩
  · rw [exec_ballot, execBallot, run_of_issues issues]
  · rw [exec_selp, execSelp, run_of_issues issues]
  · rw [exec_srd, execSrd, run_of_issues issues]
    simp only [special_hashed]
    cases d <;> rfl
  · rw [exec_mov, execMov, run_of_issues issues]
  · rw [exec_movi, execMovi, run_of_issues issues]
  · have wide : (decide (iss.ty.width = 64) || d.isV) = true := by simpa [or_comm] using whole
    rw [exec_movi, execMovi, run_of_issues issues]
    simp only [wide, if_true]
    rfl
  · obtain ⟨notVector, width⟩ := scalar
    have narrow' : (decide (iss.ty.width = 64) || d.isV) = false := by simp [notVector, width]
    have value : litValue iss.ty x % 2 ^ 32 = x.toNat := by rw [litValue_of_width width, Nat.mod_eq_of_lt x.isLt]
    rw [exec_movi, execMovi, run_of_issues issues, ← moviExt_literal, ← value]
    simp only [narrow', Bool.false_eq_true, if_false]
    rfl

end Sys2Proof.Claims
end

section
/-! Moods, signatures and generators written (R144, R147, R150). -/

namespace Sys2Proof.Machine
open Claims

/-- The count of free values and a team change apart from each other. -/
theorem State.updTeam_withFree (s : State) (n tid : Nat) (f : Team → Team) : State.updTeam { s with free := n } tid f = { s.updTeam tid f with free := n } := by
  have same : State.team? { s with free := n } tid = s.team? tid := rfl
  simp only [State.updTeam, same]
  cases s.team? tid <;> rfl

/-- Generators written to some lanes of a team. -/
theorem writeGens_lanes {s : State} {tid : Nat} {t : Team} {lanes : List Nat} (gen : Nat → Word) (ht : s.team? tid = some t) (some' : lanes ≠ [])
    (nodup : lanes.Nodup) : ∃ t', writeGens s tid (lanes.map (fun l => (l, gen l))) = s.updTeam tid (fun _ => t') ∧
      (∀ l, t'.g l = if l ∈ lanes then gen l else t.g l) ∧ { t' with gen := [] } = { t with gen := [] } := by
  obtain ⟨values, rest⟩ := foldl_setG lanes gen t nodup
  refine ⟨_, ?_, values, rest⟩
  rw [writeGens, if_neg (by simpa using some')]
  exact State.updTeam_congr s tid fun u hu => by rw [Option.some.inj (hu.symm.trans ht)]

/-- The generator that SWR writes is never 0 (R150). -/
theorem nonzeroGen (x : Nat) : (if BitVec.ofNat 32 x == 0 then 1 else BitVec.ofNat 32 x : Word) = if x % 2 ^ 32 = 0 then 1 else BitVec.ofNat 32 x := by
  have zero : BitVec.ofNat 32 x = 0 ↔ x % 2 ^ 32 = 0 := by simp [← BitVec.toNat_inj]
  simp only [beq_iff_eq, zero]

end Sys2Proof.Machine

namespace Sys2Proof.Claims
open Sys2Proof.Machine

section
variable {s : State} {iss : Issue} {b : Src}

/-- The value that MOOD writes, read in a lane (R147). -/
def moodValue (s : State) (iss : Issue) (b : Src) (l : Nat) : Nat :=
  match b with
  | .lit w => w.toNat
  | .reg _ => valB s iss iss.ty.width none (some b) l % 2 ^ 32

theorem exec_mood_of_low {m : Fin 4} {l : Nat} (issues : Issues s iss (.mood m b)) (low : iss.low = some l)
    (ports : portsReady s iss.team none none (some b)) :
    exec (.mood m b) s = .next (conclude s iss (.mood m b) (if moodBad (moodValue s iss b l) then .stop 7 l 0 0
      else .done ((popAll (hashed s iss (.mood m b)) iss none (some b)).updTeam iss.tid (fun t =>
        { t with moods := NMap.set 0 t.moods m.val (BitVec.ofNat 32 (moodValue s iss b l)) })))) := by
  rw [exec_mood, execMood, run_of_issues issues, low]
  simp only [portsReady_hashed, ports, Bool.not_true, Bool.false_eq_true, if_false, opdB_congr (hashed_cores s iss _) (hashed_free s iss _)]
  cases b <;> rfl

theorem exec_swrGen_active (issues : Issues s iss (.swrGen b)) (active : iss.act ≠ 0) (ports : iss.low.isSome → portsReady s iss.team none none (some b)) :
    exec (.swrGen b) s = .next (goesOn (writeGens { popAll (hashed s iss (.swrGen b)) iss none (some b) with free := s.free + 1 } iss.tid
      ((lanesOf iss.act iss.team.n).map (fun l => (l, let x := BitVec.ofNat 32 (valB s iss iss.ty.width none (some b) l); if x == 0 then 1 else x))))
        iss (.swrGen b)) := by
  rw [exec_swrGen, execSwrGen, run_of_issues issues]
  simp only [iss.active active, portsReady_hashed, notWaiting ports, Bool.false_eq_true, if_false, opdB_congr (hashed_cores s iss _) (hashed_free s iss _), hashed_free]
  rfl

end

/-- Settles O9: the mood and the signature read are lane-wise, what is written is read in the lowest lane, or for the generators in every active one. -/
theorem moodAndGeneratorResults : Obligations.MoodAndGeneratorResults := by
  unfold Obligations.MoodAndGeneratorResults
  refine fun d m b => ⟨laneWise_of_laneOp fun s iss issues _ => ?_, laneWise_of_laneOp fun s iss issues _ => ?_, fun s iss => ?_⟩
  · rw [exec_moodrd, execMoodrd, run_of_issues issues]
    rfl
  · rw [exec_sigrd, execSigrd, run_of_issues issues]
  intro pops src mood
  refine ⟨fun issues => ⟨fun idle => ?_, fun l low ports => ⟨fun bad => ?_, fun good => ?_⟩⟩, fun issues => ⟨fun idle => ?_, fun l low ports => ?_⟩,
    fun issues => ⟨fun idle => ?_, fun some' ports => ?_⟩⟩
  · rw [exec_mood, execMood, run_of_issues issues, idle]
    rfl
  · have bad : moodBad (moodValue s iss b l) = true := bad
    rw [exec_mood_of_low issues low ports, if_pos bad]
    rfl
  · have good : moodBad (moodValue s iss b l) = false := good
    rw [exec_mood_of_low issues low ports, good]
    rfl
  · rw [exec_swrSig, execSwrSig, run_of_issues issues, idle]
    rfl
  · rw [exec_swrSig, execSwrSig, run_of_issues issues, low]
    simp only [portsReady_hashed, ports, Bool.not_true, Bool.false_eq_true, if_false, opdB_congr (hashed_cores s iss _) (hashed_free s iss _)]
    rfl
  · rw [exec_swrGen, execSwrGen, run_of_issues issues, if_pos (iss.idle idle)]
    rfl
  · have active : iss.act ≠ 0 := fun idle => some' (by simp [lanesOf, idle])
    obtain ⟨t, ht⟩ := issues.readState_team? none (some b)
    obtain ⟨t', written, values, rest⟩ := writeGens_lanes (s := { pops (.swrGen b) with free := s.free + 1 })
      (fun l => let x := BitVec.ofNat 32 (src l); if x == 0 then 1 else x) ht some' (lanesOf_nodup _ _)
    refine ⟨t, t', ht, fun l _ => ?_, rest, ?_⟩
    · rw [values]
      simp only [mem_lanesOf, nonzeroGen]
    · rw [exec_swrGen_active issues active ports, ← State.updTeam_withFree, ← written]

end Sys2Proof.Claims
end

section
/-! Branches, calls and loops (R139, R141): where they go, and when they end their clause instead. -/

namespace Sys2Proof.Machine
open Claims

/-- The header's address and a signed offset, modulo 2^64. -/
theorem wrapI_add_sext (hdr x n : Nat) (pos : 0 < n) :
    wrapI ((hdr : Int) + sext x n) 64 = (BitVec.ofNat 64 hdr + (BitVec.ofNat n x).signExtend 64).toNat := by
  have sum : BitVec.ofInt 64 ((hdr : Int) + sext x n) = BitVec.ofNat 64 hdr + (BitVec.ofNat n x).signExtend 64 := by
    rw [BitVec.ofInt_add, sext_eq_toInt x n pos]
    rfl
  rw [← sum, BitVec.toNat_ofInt]
  rfl

theorem relTarget_eq_headerPlus (iss : Issue) (b : Src) : relTarget iss b = headerPlus iss b := by
  cases b with
  | lit w => rw [relTarget, wrapI_add_sext _ _ _ (by decide), BitVec.ofNat_toNat, BitVec.setWidth_eq, headerPlus]
  | reg r => rw [relTarget, wrapI_add_sext _ _ _ (by decide), BitVec.signExtend_eq, teamReg_eq_plainSrc, headerPlus]

/-- A branch that transfers when it is taken, and else ends its clause. -/
theorem branches_of_transfer {i : Instr} {takes : Issue → Bool} {target : Issue → Nat}
    (runs : ∀ s iss, Issues s iss i → exec i s =
      .next (conclude s iss i (if takes iss then transfer iss (hashed s iss i) (target iss) else .ends (hashed s iss i)))) :
    Branches i takes target := by
  refine fun s iss issues => ⟨fun falls => ?_, fun taken => transfersTo_of_exec ?_⟩
  · rw [runs s iss issues, falls]
    rfl
  · rw [runs s iss issues, taken, if_pos rfl]

/-- A branch that is taken as soon as a lane is active. -/
theorem branches_of_active {i : Instr} {target : Issue → Nat}
    (runs : ∀ s, exec i s = run i s (fun iss s => if iss.act == 0 then .ends s else transfer iss s (target iss))) :
    Branches i (fun iss => iss.act != 0) target :=
  branches_of_transfer fun s iss issues => by
    rw [runs, run_of_issues issues, bne]
    cases iss.act == 0 <;> rfl

/-! ### The lanes that pass a branch's predicate -/

/-- The lanes of the team that pass, negated or not. -/
def passMask (iss : Issue) (pa : Fin 8) (neg : Bool) : LaneMask := if neg then ~~~NMap.getD iss.team.pred pa.val 0 else NMap.getD iss.team.pred pa.val 0

theorem passMask_getLsbD (iss : Issue) (pa : Fin 8) (neg : Bool) {l : Nat} (hl : l < 1024) : (passMask iss pa neg).getLsbD l = guarded iss pa neg l := by
  cases neg <;> simp [passMask, guarded, Team.p, hl]

theorem passing_eq_passMask (iss : Issue) (m : LaneMask) (pa : Fin 8) (neg : Bool) : passing iss m pa neg = passMask iss pa neg &&& m :=
  BitVec.and_comm _ _

theorem passing_bne_zero (iss : Issue) (m : LaneMask) (pa : Fin 8) (neg : Bool) :
    (passing iss m pa neg != 0) = (List.range 1024).any (fun l => m.getLsbD l && guarded iss pa neg l) := by
  rw [passing_eq_passMask, and_bne_zero, Bool.eq_iff_iff, List.any_eq_true, List.any_eq_true]
  exact exists_congr fun l => and_congr_right fun hl => by rw [passMask_getLsbD _ _ _ (List.mem_range.mp hl)]

theorem passing_beq_self (iss : Issue) (m : LaneMask) (pa : Fin 8) (neg : Bool) :
    (passing iss m pa neg == m) = (List.range 1024).all (fun l => !m.getLsbD l || guarded iss pa neg l) := by
  rw [passing_eq_passMask, and_beq_self, Bool.eq_iff_iff, List.all_eq_true, List.all_eq_true]
  exact forall₂_congr fun l hl => by rw [passMask_getLsbD _ _ _ (List.mem_range.mp hl)]

end Sys2Proof.Machine

namespace Sys2Proof.Claims
open Sys2Proof.Machine

/-- Settles O12: each branch is a transfer under its condition; CALL and LOOP write their scalar first. -/
theorem branchResults : Obligations.BranchResults := by
  unfold Obligations.BranchResults
  intro b r pa neg
  simp only [← relTarget_eq_headerPlus, ← ctlSrc_eq_plainSrc]
  refine ⟨branches_of_active fun s => exec_bra s b, branches_of_active fun s => exec_jmp s b, branches_of_active fun s => exec_ret s (.s r),
    branches_of_transfer fun s iss issues => ?_, branches_of_transfer fun s iss issues => ?_, fun s iss => ⟨fun issues => ⟨fun idle => ?_, fun active => ?_⟩,
    fun issues => ⟨fun idle => ?_, fun active last => ?_, fun active more => ?_⟩⟩⟩
  · rw [exec_brany, execBrany, run_of_issues issues, ← passing_bne_zero, bne]
    cases passing iss iss.val pa neg == 0 <;> rfl
  · rw [exec_brall, execBrall, run_of_issues issues, ← passing_beq_self]
  · rw [exec_call, execCall, run_of_issues issues, if_pos (iss.idle idle)]
    rfl
  · refine transfersTo_of_exec ?_
    rw [exec_call, execCall, run_of_issues issues]
    simp only [iss.active active, Bool.false_eq_true, if_false]
    rfl
  · rw [exec_loop, execLoop, run_of_issues issues, if_pos (iss.idle idle)]
    rfl
  · rw [exec_loop, execLoop, run_of_issues issues]
    simp only [iss.active active, last, Bool.false_eq_true, if_false]
    rfl
  · refine transfersTo_of_exec ?_
    have counts : (iss.team.s r.val - 1 == 0) = false := by
      rw [beq_eq_false_iff_ne, Ne, sub_eq_zero]
      exact more
    rw [exec_loop, execLoop, run_of_issues issues]
    simp only [iss.active active, counts, Bool.false_eq_true, if_false]

end Sys2Proof.Claims
end

section
/-! Moves between lanes (R166): every lane takes a register of its source lane as it stood. -/

namespace Sys2Proof.Machine
open Claims

/-- Every lane has a value. -/
theorem laneOuts_some (lanes : List Nat) (val : Nat → Nat) (tag : Nat → Bool) :
    laneOuts lanes (fun l => some (val l)) tag = lanes.map (fun l => { lane := l, val := val l, tag := tag l }) :=
  congrFun List.filterMap_eq_map lanes

theorem opdC_hashed (s : State) (iss : Issue) (i : Instr) (b : Option Src) : opdC (hashed s iss i) iss b = opdC s iss b := by
  unfold opdC
  split
  · rfl
  · rw [opdB_congr (hashed_cores s iss i) (hashed_free s iss i)]
  · rfl

theorem opdReg_hashed (s : State) (iss : Issue) (i : Instr) (k : Nat) (r : Reg) : opdReg (hashed s iss i) iss k r = opdReg s iss k r :=
  opdReg_congr (hashed_cores s iss i) (hashed_free s iss i) iss k r

/-- The results of a move, lane by lane. -/
def moved (s : State) (iss : Issue) (a : Reg) (b : Option Src) (from' : Nat → Nat → Nat) (l : Nat) : Nat × Bool :=
  opdAt iss.team iss.ty.width (from' l (opdAt iss.team 32 l (opdC s iss b)).1) (opdReg s iss 0 a)

section
variable {s : State} {iss : Issue} {d a : Reg} {b : Option Src} {from' : Nat → Nat → Nat}

theorem exchange_idle (idle : iss.act = 0) : exchange iss s d a b from' = .done s := by
  rw [exchange, if_pos (iss.idle idle)]

theorem exchange_waits (active : iss.act ≠ 0) (low : iss.low.isSome) (busy : portsReady s iss.team none none b = false) :
    exchange iss s d a b from' = .wait .none s := by
  simp only [exchange, iss.active active, low, busy, Bool.not_false, Bool.and_self, Bool.false_eq_true, if_false, if_true]

theorem exchange_moves (active : iss.act ≠ 0) (ports : iss.low.isSome → portsReady s iss.team none none b) :
    exchange iss s d a b from' = .done (writeOut { popAll s iss none b with free := s.free + 1 } iss iss.ty.width (scalarExt iss.ty) d
      (laneOuts (lanesOf iss.act iss.team.n) (fun l => some (moved s iss a b from' l).1)
        (fun l => (opdAt iss.team 32 l (opdC s iss b)).2 || (moved s iss a b from' l).2))) := by
  simp only [exchange, iss.active active, notWaiting ports, Bool.false_eq_true, if_false, laneOuts_some]
  rfl

end

/-- The first lane of a row of 32. -/
theorem row_start (l : Nat) : l / 32 * 32 = l - l % 32 := by omega

/-- A lane's place in its row. -/
theorem row_lane (l : Nat) : l - l / 32 * 32 = l % 32 := by omega

/-- An exchange moves as its source lanes are named. -/
theorem moves_of_exchange {i : Instr} {d a : Reg} {b : Option Src} {from' source : Issue → Nat → Nat → Nat}
    (runs : ∀ s, exec i s = run i s (fun iss s => exchange iss s d a b (source iss))) (named : source = from') : Moves i d a b from' := by
  subst named
  intro s iss issues c x
  rw [runs, run_of_issues issues]
  refine ⟨fun idle => ?_, fun active ports => ?_, fun active low busy => ?_⟩
  · rw [exchange_idle idle]; rfl
  · rw [exchange_moves active (by simpa using ports)]
    have writes := writeOut_writes (readState s iss i none b) iss iss.ty.width (scalarExt iss.ty) d (lanesOf iss.act iss.team.n) (fun l => some (x l).1)
      (fun l => (c l).2 || (x l).2) (issues.readState_team? none b) (lanesOf_nodup _ _) (fun _ _ _ => lanesOf_lt)
    simp only [moved, opdC_hashed, opdReg_hashed, hashed_free]
    exact ⟨_, writes, rfl⟩
  · rw [exchange_waits active low (by simpa using busy)]; rfl

end Sys2Proof.Machine

namespace Sys2Proof.Claims
open Sys2Proof.Machine

/-- Settles O10: each form names its source lanes, counted within the quad, the row of 32 or the team. -/
theorem exchangeResults : Obligations.ExchangeResults := by
  unfold Obligations.ExchangeResults
  refine fun d a b k => ⟨moves_of_exchange (fun s => exec_qswap s .x1 d a) rfl, moves_of_exchange (fun s => exec_qswap s .x2 d a) rfl,
    moves_of_exchange (fun s => exec_qswap s .x3 d a) rfl, moves_of_exchange (fun s => exec_qbcast s k d a) ?_,
    moves_of_exchange (fun s => exec_shfl s .idx d a b) ?_, moves_of_exchange (fun s => exec_shfl s .up d a b) ?_,
    moves_of_exchange (fun s => exec_shfl s .dn d a b) ?_, moves_of_exchange (fun s => exec_shfl s .xor d a b) ?_,
    moves_of_exchange (fun s => exec_tshfl s .idx d a b) rfl, moves_of_exchange (fun s => exec_tshfl s .up d a b) rfl,
    moves_of_exchange (fun s => exec_tshfl s .dn d a b) rfl⟩
  · funext iss l _
    omega
  · funext iss l c
    rw [shflFrom, row_start]
  · funext iss l c
    rw [shflFrom, row_lane]
  · funext iss l c
    rw [shflFrom, row_start]
    exact if_congr (by omega) rfl rfl
  · funext iss l c
    rw [shflFrom, row_lane, row_start]
    rfl

end Sys2Proof.Claims
end

section
/-! Rounding without draws (R90, R92): outside rst a result does not depend on the generator. -/

namespace Sys2Proof.Machine

theorem pickMag_noDraw {mode : Mode} (fixed : mode ≠ .rst) (neg extra : Bool) (q n d : Nat) (u v : Word) :
    pickMag mode neg extra q n d u = pickMag mode neg extra q n d v := by
  cases mode with
  | rst => exact absurd rfl fixed
  | rne => rfl
  | rtz => rfl
  | rdn => rfl
  | rup => rfl
  | rna => rfl

theorem roundMag_noDraw {mode : Mode} (fixed : mode ≠ .rst) (f : Fmt) (sat ftz neg : Bool) (n d : Nat) (u v : Word) :
    roundMag f mode sat ftz neg n d u = roundMag f mode sat ftz neg n d v := by
  simp only [roundMag, pickMag_noDraw fixed _ _ _ _ _ u v]

theorem roundF_noDraw {mode : Mode} (fixed : mode ≠ .rst) (t : Ty) (sat ftz : Bool) (x : EVal) (u v : Word) :
    (roundF t mode sat ftz x u).1 = (roundF t mode sat ftz x v).1 := by
  have still : (mode == .rst) = false := beq_eq_false_iff_ne.mpr fixed
  cases x with
  | nan => rfl
  | inf neg => rfl
  | fin neg n d => simp only [roundF, still, Bool.false_eq_true, if_false, roundMag_noDraw fixed _ _ _ _ _ _ u v]

theorem toElem_noDraw {iss : Issue} (fixed : iss.mode ≠ .rst) (e : EVal) (u v : Word) : (toElem iss e u).1 = (toElem iss e v).1 := by
  unfold toElem
  split
  · exact roundF_noDraw fixed ..
  · rfl

/-- Elements that do not depend on the generator are computed apart. -/
theorem eachElem_fst {f : Nat → Nat → Nat → Word → Nat × Word} {value : Nat → Nat → Nat → Nat} (noDraw : ∀ x y z g, (f x y z g).1 = value x y z)
    (t : Ty) (x y z : Nat) (g : Word) :
    (eachElem t f x y z g).1 = ofElements t.ew ((List.range t.count).map (fun i => value (element t x i) (element t y i) (element t z i))) := by
  have go (ls : List Nat) (acc : List Nat) (g : Word) : (ls.foldl (fun ((acc, g) : List Nat × Word) i =>
      let (e, g1) := f (element t x i) (element t y i) (element t z i) g
      (acc ++ [e], g1)) (acc, g)).1 = acc ++ ls.map (fun i => value (element t x i) (element t y i) (element t z i)) := by
    induction ls generalizing acc g with
    | nil => simp
    | cons i ls ih =>
      let e := f (element t x i) (element t y i) (element t z i) g
      exact (ih (acc ++ [e.1]) e.2).trans (by simp [e, noDraw])
  exact congrArg (ofElements t.ew) ((go _ [] g).trans (List.nil_append _))

theorem combineStep_noDraw {iss : Issue} (fixed : iss.mode ≠ .rst) (f : EVal → EVal → EVal) (x y : Nat) (g : Word) :
    (combineStep iss f x y g).1 = (combineStep iss f x y 1).1 := by
  have noDraw (x y z : Nat) (g : Word) : (exact iss (fun a b _ => f a b) x y z g).1 = (exact iss (fun a b _ => f a b) x y z 1).1 := toElem_noDraw fixed ..
  exact (eachElem_fst noDraw ..).trans (eachElem_fst noDraw ..).symm

end Sys2Proof.Machine
end

section
/-! Combinations over lanes in ascending order (R167): what a scan and a reduction come to outside rst. -/

namespace Sys2Proof.Machine
open Claims

/-- A value and its poison combined with those of some lanes, one after another. -/
def carried (step : Nat → Nat → Nat) (v : Nat → Nat × Bool) (acc : Nat × Bool) (ls : List Nat) : Nat × Bool :=
  (ls.foldl (fun a l => step a (v l).1) acc.1, acc.2 || ls.any (fun l => (v l).2))

section
variable {f : Nat → Nat → Word → Nat × Word} {step : Nat → Nat → Nat} (noDraw : ∀ x y g, (f x y g).1 = step x y) (v : Nat → Nat × Bool)

theorem carried_cons (acc : Nat × Bool) (l : Nat) (ls : List Nat) :
    carried step v acc (l :: ls) = carried step v (step acc.1 (v l).1, acc.2 || (v l).2) ls := by
  simp only [carried, List.foldl_cons, List.any_cons, Bool.or_assoc]

include noDraw

theorem scanGo_fst_cons (gen : Nat → Word) (acc : Nat × Bool) (k : Nat) (x : Nat × Bool) (rest : List (Nat × Nat × Bool)) :
    (scanGo f gen acc ((k, x) :: rest)).1 = (step acc.1 x.1, acc.2 || x.2) :: (scanGo f gen (step acc.1 x.1, acc.2 || x.2) rest).1 := by
  simp only [scanGo, ← noDraw acc.1 x.1 (gen k)]

/-- A scan gives each lane what the lanes up to it carry. -/
theorem scanGo_upTo (gen : Nat → Word) (acc : Nat × Bool) (ls : List Nat) (sorted : ls.Pairwise (· < ·)) :
    (scanGo f gen acc (ls.map (fun l => (l, v l)))).1 = ls.map (fun l => carried step v acc (ls.filter (fun k => decide (k ≤ l)))) := by
  induction ls generalizing acc with
  | nil => rfl
  | cons l ls ih =>
    obtain ⟨above, sorted⟩ := List.pairwise_cons.mp sorted
    have first : ls.filter (fun k => decide (k ≤ l)) = [] := List.filter_eq_nil_iff.mpr fun k hk => by simpa using above k hk
    rw [List.map_cons, scanGo_fst_cons noDraw, ih _ sorted, List.map_cons, List.filter_cons_of_pos (by simp), first, carried_cons]
    refine congrArg₂ _ (by simp [carried]) (List.map_congr_left fun m hm => ?_)
    rw [List.filter_cons_of_pos (by simpa using (above m hm).le), carried_cons]

/-- A scan that is delayed by a lane gives each lane what the lanes below it carry. -/
theorem scanGo_below (gen : Nat → Word) (acc : Nat × Bool) (ls : List Nat) (sorted : ls.Pairwise (· < ·)) :
    ls.zip (acc :: (scanGo f gen acc ((ls.drop 1).zip ((ls.map v).take (ls.length - 1)))).1) =
      ls.map (fun l => (l, carried step v acc (ls.filter (fun k => decide (k < l))))) := by
  induction ls generalizing acc with
  | nil => rfl
  | cons l ls ih =>
    obtain ⟨above, sorted⟩ := List.pairwise_cons.mp sorted
    have first : ls.filter (fun k => decide (k < l)) = [] := List.filter_eq_nil_iff.mpr fun k hk => by simpa using (above k hk).le
    rw [List.zip_cons_cons, List.map_cons, List.map_cons, List.filter_cons_of_neg (by simp), first]
    refine congrArg₂ _ (by simp [carried]) ?_
    have rest : ls.map (fun m => (m, carried step v acc ((l :: ls).filter (fun k => decide (k < m))))) =
        ls.map (fun m => (m, carried step v (step acc.1 (v l).1, acc.2 || (v l).2) (ls.filter (fun k => decide (k < m))))) :=
      List.map_congr_left fun m hm => by rw [List.filter_cons_of_pos (by simpa using above m hm), carried_cons]
    rw [rest, ← ih _ sorted]
    cases ls with
    | nil => rfl
    | cons m ms =>
      exact congrArg (List.zip (m :: ms)) (scanGo_fst_cons noDraw gen acc m (v l) _)

theorem redxGo_fst (acc : Nat × Bool) (g : Word) (ls : List Nat) : (redxGo f acc g (ls.map v)).1 = carried step v acc ls := by
  induction ls generalizing acc g with
  | nil => simp [redxGo, carried]
  | cons l ls ih => simp only [List.map_cons, redxGo, ih, carried_cons, noDraw]

end

theorem lanesOf_sorted (m : LaneMask) (n : Nat) : (lanesOf m n).Pairwise (· < ·) := List.Pairwise.filter _ List.pairwise_lt_range

end Sys2Proof.Machine
end

section
/-! Scans, reductions and matches (R167, R168): over the lanes that are active and no helpers. -/

namespace Sys2Proof.Machine
open Claims

variable {s : State} {iss : Issue} {i : Instr}

/-- The lowest lane that is no helper is the first of those lanes. -/
theorem Issues.low_eq (issues : Issues s iss i) : iss.low = (lanesOf iss.val iss.team.n).head? := by
  obtain ⟨-, -, -, -, eq⟩ := issueOf_some issues.issue
  rw [eq]
  rfl

theorem Issues.val_eq (issues : Issues s iss i) : iss.val = iss.act &&& iss.team.real := by
  obtain ⟨-, -, -, -, eq⟩ := issueOf_some issues.issue
  rw [eq]
  rfl

/-- With such a lane, some lane is active, and it is the first of them. -/
theorem Issues.lanes_of_low (issues : Issues s iss i) (low : iss.low.isSome) : ∃ k ks, lanesOf iss.val iss.team.n = k :: ks ∧ iss.low = some k ∧ iss.act ≠ 0 := by
  rw [issues.low_eq] at low ⊢
  cases lanes : lanesOf iss.val iss.team.n with
  | nil => rw [lanes] at low; cases low
  | cons k ks =>
    refine ⟨k, ks, rfl, rfl, fun idle => ?_⟩
    rw [issues.val_eq, idle] at lanes
    simp [lanesOf] at lanes

/-- Register a in a lane, with its poison mark. -/
def source (s : State) (iss : Issue) (a : Reg) (l : Nat) : Nat × Bool := opdAt iss.team iss.ty.width l (opdReg s iss 0 a)

theorem source_hashed (s : State) (iss : Issue) (i : Instr) (a : Reg) : source (hashed s iss i) iss a = source s iss a := by
  funext l
  rw [source, opdReg_hashed, source]

/-- An instruction that writes values to the lanes that are active and no helpers. -/
theorem writesReal_of_writeOut {d : Reg} {val : Nat → Nat} {tag : Nat → Bool} (issues : Issues s iss i)
    (runs : exec i s = .next (conclude s iss i (.done (writeOut { hashed s iss i with free := s.free + 1 } iss iss.ty.width (scalarExt iss.ty) d
      ((lanesOf iss.val iss.team.n).map (fun l => { lane := l, val := val l, tag := tag l })))))) : WritesReal i s iss d val tag := by
  rw [← laneOuts_some] at runs
  exact ⟨_, writeOut_writes _ iss iss.ty.width (scalarExt iss.ty) d _ _ tag ⟨_, issues.hashed_team?⟩ (lanesOf_nodup _ _) (fun _ _ _ => lanesOf_lt), runs⟩

/-! ### Scans -/

/-- The lanes whose values SCAN combines for a lane (R167). -/
def scanned (m : ScanMode) (ks : List Nat) (l : Nat) : List Nat :=
  match m with
  | .xadd => ks.filter (fun k => decide (k < l))
  | _ => ks.filter (fun k => decide (k ≤ l))

/-- The results of SCAN over the lanes k and ks as its body lists them, from values v and what the first lane carries. -/
def scanOuts (m : ScanMode) (f : Nat → Nat → Word → Nat × Word) (gen : Nat → Word) (v : Nat → Nat × Bool) (acc : Nat × Bool) (k : Nat)
    (ks : List Nat) : List LaneOut :=
  match m with
  | .xadd => { lane := k, val := 0, tag := false } ::
      (ks.zip (acc :: (scanGo f gen acc ((ks.drop 1).zip ((ks.map v).take (ks.length - 1)))).1)).map (fun x => { lane := x.1, val := x.2.1, tag := x.2.2 })
  | _ => ((k :: ks).zip (acc :: (scanGo f gen acc (ks.zip (ks.map v))).1)).map (fun x => { lane := x.1, val := x.2.1, tag := x.2.2 })

theorem exec_scan_fixed {m : ScanMode} {d a : Reg} {k : Nat} {ks : List Nat} (issues : Issues s iss (.scan m d a)) (active : iss.act ≠ 0)
    (type : tyArith iss.ty = true) (fixed : iss.mode ≠ .rst) (lanes : lanesOf iss.val iss.team.n = k :: ks) :
    exec (.scan m d a) s = .next (conclude s iss (.scan m d a) (.done (writeOut { hashed s iss (.scan m d a) with free := s.free + 1 } iss iss.ty.width
      (scalarExt iss.ty) d (scanOuts m (combineStep iss (scanOp iss m)) iss.team.g (source s iss a)
        (asResult iss (source s iss a k).1, (source s iss a k).2) k ks)))) := by
  have still : (iss.mode == .rst && iss.ty.isFloat) = false := by rw [beq_eq_false_iff_ne.mpr fixed, Bool.false_and]
  rw [exec_scan, execScan, run_of_issues issues, ← source_hashed s iss (.scan m d a)]
  simp only [iss.active active, type, still, lanes, Bool.not_true, Bool.false_eq_true, if_false, List.map_cons, hashed_free]
  cases m <;> rfl

theorem zip_map_self {α : Type} (g : Nat → α) (ls : List Nat) : ls.zip (ls.map g) = ls.map (fun l => (l, g l)) := by
  simpa using List.zip_map' (f := id) (g := g) (l := ls)

/-- The results of SCAN are what its lanes' combinations carry. -/
theorem scanOuts_eq (fixed : iss.mode ≠ .rst) (m : ScanMode) (gen : Nat → Word) (v : Nat → Nat × Bool) {k : Nat} {ks : List Nat}
    (sorted : (k :: ks).Pairwise (· < ·)) :
    scanOuts m (combineStep iss (scanOp iss m)) gen v (asResult iss (v k).1, (v k).2) k ks =
      (k :: ks).map (fun l => { lane := l, val := combined iss (scanOp iss m) (fun j => (v j).1) (scanned m (k :: ks) l)
                                tag := (scanned m (k :: ks) l).any (fun j => (v j).2) }) := by
  obtain ⟨above, rest⟩ := List.pairwise_cons.mp sorted
  have noDraw := combineStep_noDraw fixed (scanOp iss m)
  have upTo : ks.filter (fun j => decide (j ≤ k)) = [] := List.filter_eq_nil_iff.mpr fun j hj => by simpa using above j hj
  have below : ks.filter (fun j => decide (j < k)) = [] := List.filter_eq_nil_iff.mpr fun j hj => by simpa using (above j hj).le
  have inclusive : ((k :: ks).zip ((asResult iss (v k).1, (v k).2) ::
      (scanGo (combineStep iss (scanOp iss m)) gen (asResult iss (v k).1, (v k).2) (ks.zip (ks.map v))).1)).map
        (fun x => ({ lane := x.1, val := x.2.1, tag := x.2.2 } : LaneOut)) =
      (k :: ks).map (fun l => { lane := l, val := combined iss (scanOp iss m) (fun j => (v j).1) ((k :: ks).filter (fun j => decide (j ≤ l)))
                                tag := ((k :: ks).filter (fun j => decide (j ≤ l))).any (fun j => (v j).2) }) := by
    rw [zip_map_self, scanGo_upTo noDraw v gen _ ks rest, List.zip_cons_cons, zip_map_self, List.map_cons, List.map_cons, List.map_map,
      List.filter_cons_of_pos (by simp), upTo]
    refine congrArg₂ _ (by simp [combined]) (List.map_congr_left fun l hl => ?_)
    rw [List.filter_cons_of_pos (by simpa using (above l hl).le)]
    rfl
  cases m with
  | add => exact inclusive
  | max => exact inclusive
  | min => exact inclusive
  | xadd =>
    rw [scanOuts, scanGo_below noDraw v gen _ ks rest, List.map_cons, List.map_map]
    refine congrArg₂ _ (by simp [scanned, below, combined]) (List.map_congr_left fun l hl => ?_)
    rw [scanned, List.filter_cons_of_pos (by simpa using above l hl)]
    rfl

/-- Outside rst SCAN gives each lane the combination of its lanes. -/
theorem writesReal_scan {m : ScanMode} {d a : Reg} (issues : Issues s iss (.scan m d a)) (low : iss.low.isSome) (type : tyArith iss.ty = true)
    (fixed : iss.mode ≠ .rst) :
    WritesReal (.scan m d a) s iss d (fun l => combined iss (scanOp iss m) (fun k => (source s iss a k).1) (scanned m (lanesOf iss.val iss.team.n) l))
      (fun l => (scanned m (lanesOf iss.val iss.team.n) l).any (fun k => (source s iss a k).2)) := by
  obtain ⟨k, ks, lanes, -, active⟩ := issues.lanes_of_low low
  have sorted := lanesOf_sorted iss.val iss.team.n
  refine writesReal_of_writeOut issues ?_
  rw [lanes] at sorted ⊢
  rw [exec_scan_fixed issues active type fixed lanes, scanOuts_eq fixed m _ _ sorted]

end Sys2Proof.Machine
end

section
/-! Reductions, matches (R167, R168) and refused types (R136). -/

namespace Sys2Proof.Machine
open Claims

variable {s : State} {iss : Issue}

/-! ### Reductions -/

/-- What REDX comes to over some lanes (R167). -/
def reduced (iss : Issue) (m : RedxMode) (x : Nat → Nat) (ks : List Nat) : Nat :=
  match m with
  | .add => combined iss (fun y z => y.add iss.mode z) x ks
  | .min => combined iss EVal.min x ks
  | .max => combined iss EVal.max x ks
  | .or => ks.foldl (fun acc l => acc ||| x l) 0

/-- A step of REDX without its draw. -/
def redxValue (iss : Issue) (m : RedxMode) (x y : Nat) : Nat := (redxStep iss m x y 1).1

theorem redxStep_noDraw (fixed : iss.mode ≠ .rst) (m : RedxMode) (x y : Nat) (g : Word) : (redxStep iss m x y g).1 = redxValue iss m x y := by
  cases m with
  | add => exact combineStep_noDraw fixed ..
  | min => exact combineStep_noDraw fixed ..
  | max => exact combineStep_noDraw fixed ..
  | or => rfl

/-- A reduction is what its first lane's value carries over the others; only an OR takes that value as it is. -/
theorem reduced_cons (m : RedxMode) (v : Nat → Nat × Bool) (k : Nat) (ks : List Nat) :
    (reduced iss m (fun l => (v l).1) (k :: ks), (k :: ks).any (fun l => (v l).2)) =
      carried (redxValue iss m) v (if m == .or then v k else (asResult iss (v k).1, (v k).2)) ks := by
  cases m with
  | add => rfl
  | min => rfl
  | max => rfl
  | or => simp only [reduced, List.foldl_cons, Nat.zero_or]; rfl

theorem exec_redx_fixed {m : RedxMode} {d a : Reg} {k : Nat} {ks : List Nat} (issues : Issues s iss (.redx m d a)) (active : iss.act ≠ 0)
    (type : tyArith iss.ty = true) (fixed : iss.mode ≠ .rst) (lanes : lanesOf iss.val iss.team.n = k :: ks) (low : iss.low = some k) :
    let r := (redxGo (redxStep iss m) (if m == .or then source s iss a k else (asResult iss (source s iss a k).1, (source s iss a k).2)) (iss.team.g k)
      (ks.map (source s iss a))).1
    exec (.redx m d a) s = .next (conclude s iss (.redx m d a) (.done (writeOut { hashed s iss (.redx m d a) with free := s.free + 1 } iss iss.ty.width
      (scalarExt iss.ty) d ((k :: ks).map (fun l => { lane := l, val := r.1, tag := r.2 }))))) := by
  have still : (iss.mode == .rst && iss.ty.isFloat) = false := by rw [beq_eq_false_iff_ne.mpr fixed, Bool.false_and]
  rw [exec_redx, execRedx, run_of_issues issues, ← source_hashed s iss (.redx m d a)]
  simp only [iss.active active, type, still, lanes, low, Bool.not_true, Bool.false_eq_true, if_false, List.map_cons, hashed_free]
  rfl

/-- Outside rst REDX gives every lane the reduction of them all. -/
theorem writesReal_redx {m : RedxMode} {d a : Reg} (issues : Issues s iss (.redx m d a)) (low : iss.low.isSome) (type : tyArith iss.ty = true)
    (fixed : iss.mode ≠ .rst) :
    WritesReal (.redx m d a) s iss d (fun _ => reduced iss m (fun l => (source s iss a l).1) (lanesOf iss.val iss.team.n))
      (fun _ => (lanesOf iss.val iss.team.n).any (fun l => (source s iss a l).2)) := by
  obtain ⟨k, ks, lanes, first, active⟩ := issues.lanes_of_low low
  refine writesReal_of_writeOut issues ?_
  rw [exec_redx_fixed issues active type fixed lanes first, redxGo_fst (redxStep_noDraw fixed m), ← reduced_cons, lanes]

/-! ### Matches -/

/-- A word written as the sum of its bits. -/
def bitSum (p : Nat → Bool) (n : Nat) : Nat := ((List.range n).filter p).foldl (fun acc j => acc + 2 ^ j) 0

theorem bitSum_succ (p : Nat → Bool) (n : Nat) : bitSum p (n + 1) = if p n then bitSum p n + 2 ^ n else bitSum p n := by
  rw [bitSum, List.range_succ, List.filter_append, List.foldl_append, ← bitSum]
  cases h : p n <;> simp [h]

theorem bitSum_lt (p : Nat → Bool) (n : Nat) : bitSum p n < 2 ^ n := by
  induction n with
  | zero => exact Nat.zero_lt_one
  | succ n ih =>
    rw [bitSum_succ, Nat.pow_succ]
    split <;> omega

theorem bitSum_testBit (p : Nat → Bool) (n i : Nat) : (bitSum p n).testBit i = (decide (i < n) && p i) := by
  induction n with
  | zero => exact Nat.zero_testBit i
  | succ n ih =>
    have bit : (2 ^ n + bitSum p n).testBit i = (decide (n = i) || (bitSum p n).testBit i) := by
      rw [← Nat.mul_one (2 ^ n), Nat.two_pow_add_eq_or_of_lt (bitSum_lt p n), Nat.testBit_or, Nat.mul_one, Nat.testBit_two_pow]
    rw [bitSum_succ]
    by_cases last : n = i
    · subst last
      cases h : p n <;> simp [h, Nat.add_comm _ (2 ^ n), bit, ih]
    · have below : decide (i < n + 1) = decide (i < n) := decide_eq_decide.mpr (by omega)
      rw [below, ← ih]
      split
      · rw [Nat.add_comm, bit, decide_eq_false last, Bool.false_or]
      · rfl

/-- The lanes of lane l's row that hold its value (R168). -/
def rowMatches (s : State) (iss : Issue) (a : Reg) (l i : Nat) : Bool :=
  iss.val.getLsbD (l - l % 32 + i) && (source s iss a (l - l % 32 + i)).1 == (source s iss a l).1

/-- Whether a lane of that row has poison. -/
def rowPoison (s : State) (iss : Issue) (a : Reg) (l : Nat) : Bool :=
  (List.range 32).any (fun i => iss.val.getLsbD (l - l % 32 + i) && (source s iss a (l - l % 32 + i)).2)

theorem exec_matchRow_vector {r : Fin 96} {a : Reg} (issues : Issues s iss (.matchRow (.v r) a)) :
    exec (.matchRow (.v r) a) s = .next (conclude s iss (.matchRow (.v r) a) (.done (writeOut (hashed s iss (.matchRow (.v r) a)) iss iss.ty.width (wordExt iss.ty) (.v r)
      ((lanesOf iss.val iss.team.n).map (fun l => { lane := l, val := bitSum (rowMatches s iss a l) 32, tag := rowPoison s iss a l }))))) := by
  rw [exec_matchRow, execMatchRow, run_of_issues issues]
  simp only [row_start, List.map_map, opdReg_hashed]
  rfl

/-- MATCH.all compares every lane with the first (R168). -/
theorem exec_matchAll_lanes {p : Fin 8} {a : Reg} {k : Nat} {ks : List Nat} (issues : Issues s iss (.matchAll p a)) (lanes : lanesOf iss.val iss.team.n = k :: ks) :
    exec (.matchAll p a) s = .next (conclude s iss (.matchAll p a) (.done ((hashed s iss (.matchAll p a)).updTeam iss.tid (fun t => t.writeP p.val iss.val
      (if ks.all (fun l => (source s iss a l).1 == (source s iss a k).1) then BitVec.allOnes 1024 else 0))))) := by
  rw [exec_matchAll, execMatchAll, run_of_issues issues]
  simp only [lanes, List.map_cons, opdReg_hashed, List.all_map]
  rfl

end Sys2Proof.Machine

namespace Sys2Proof.Claims
open Sys2Proof.Machine

/-- Settles O11: what the lanes carry in ascending order; the bits of a row's word one by one; every lane compared with the first. -/
theorem scanReduceAndMatchResults : Obligations.ScanReduceAndMatchResults := by
  unfold Obligations.ScanReduceAndMatchResults
  intro d a p s iss ks x tag add upTo below
  refine ⟨fun low type fixed _ => ⟨fun issues => writesReal_scan issues low type fixed, fun issues => writesReal_scan issues low type fixed,
    fun issues => writesReal_scan issues low type fixed, fun issues => writesReal_scan issues low type fixed⟩,
    fun low type fixed => ⟨fun issues => writesReal_redx issues low type fixed, fun issues => writesReal_redx issues low type fixed,
    fun issues => writesReal_redx issues low type fixed, fun issues => writesReal_redx issues low type fixed⟩, fun issues vector => ?_, fun issues low => ?_⟩
  · obtain ⟨r, rfl⟩ : ∃ r, d = .v r := by
      cases d with
      | v r => exact ⟨r, rfl⟩
      | s _ => cases vector
      | q _ => cases vector
    rw [exec_matchRow_vector issues, ← laneOuts_some]
    exact ⟨fun l => bitSum (rowMatches s iss a l) 32, _, fun l i _ => (bitSum_testBit _ 32 i).trans (Bool.and_assoc ..).symm,
      writeOut_writes _ iss iss.ty.width (wordExt iss.ty) (.v r) _ _ _ ⟨_, issues.hashed_team?⟩ (lanesOf_nodup _ _) (fun _ _ _ => lanesOf_lt), rfl⟩
  · obtain ⟨k, ks', lanes, -, -⟩ := issues.lanes_of_low low
    rw [exec_matchAll_lanes issues lanes]
    refine ⟨_, SetsPred_congr (setsPred_writeP _ iss p.val iss.val _ issues.hashed_team?) (fun _ _ => rfl) (fun l hl _ => ?_), rfl⟩
    rw [uniform_getLsbD _ hl, show ks = k :: ks' from lanes, List.headD_cons, List.all_cons, beq_self_eq_true, Bool.true_and]
    rfl

/-- Settles O38: every arithmetic instruction checks its type once a lane is active, and so do SCAN and REDX. -/
theorem typeFaults : Obligations.TypeFaults := by
  unfold Obligations.TypeFaults
  refine fun d a b sm rm => ⟨⟨typeFault_of_arith fun s => exec_add s d a b, typeFault_of_arith fun s => exec_sub s d a b,
    typeFault_of_arith fun s => exec_mul s d a b,
    typeFault_of_arith fun s => exec_fma s d a b, typeFault_of_arith fun s => exec_fms s d a b, typeFault_of_arith fun s => exec_fnma s d a b,
    typeFault_of_arith fun s => exec_min s d a b, typeFault_of_arith fun s => exec_max s d a b, typeFault_of_arith fun s => exec_clamp s d a b,
    typeFault_of_arith fun s => exec_abs s d a, typeFault_of_arith fun s => exec_neg s d a, typeFault_of_arith fun s => exec_mulhi s d a b⟩,
    ⟨typeFault_of_arith fun s => exec_div s d a b, typeFault_of_arith fun s => exec_rem s d a b, typeFault_of_arith fun s => exec_sqrt s d a,
    typeFault_of_arith fun s => exec_rsq s d a, typeFault_of_arith fun s => exec_rcp s d a, typeFault_of_arith fun s => exec_exp2 s d a,
    typeFault_of_arith fun s => exec_log2 s d a, typeFault_of_arith fun s => exec_sin s d a, typeFault_of_arith fun s => exec_cos s d a,
    typeFault_of_arith fun s => exec_tanh s d a, typeFault_of_arith fun s => exec_frc s d a, typeFault_of_arith fun s => exec_rnd s d a⟩,
    fun s iss _ refused active => ⟨fun issues => ?_, fun issues => ?_⟩⟩
  · rw [Traps, exec_scan, execScan, run_of_issues issues]
    simp only [iss.active active, refused, Bool.not_false, Bool.false_eq_true, if_false, if_true]
    rfl
  · rw [Traps, exec_redx, execRedx, run_of_issues issues]
    simp only [iss.active active, refused, Bool.not_false, Bool.false_eq_true, if_false, if_true]
    rfl

end Sys2Proof.Claims
end

section
/-! Why a store to the own scratchpad need not complete (R178, R214): an ST128 at an offset of 8 modulo 16 can reach over the end of a line, and its last bytes
wait in the Parenthesis while an engine's operation owns the next line. The machine is the one of LD128's counterexample. -/

namespace Sys2Proof.Claims
open Sys2Proof.Machine

/-- The store of 16 bytes from v4 to v7 at s1. -/
def lineEndStore : Instr := .st128 .plain (.v 4) (.s 1) (.lit 0)

theorem lineEndStore_issues : Issues lineEnd lineEndIssue lineEndStore := ⟨rfl, by decide +kernel, by decide +kernel, rfl⟩

/-- One request of the store stays outstanding. -/
theorem lineEndStore_waits : (match exec lineEndStore lineEnd with
    | .next s' => s'.reqs.isEmpty
    | .fault _ => true
    | .refused _ => true) = false := by decide +kernel

/-- Refutes O16: with an operand that reaches into a line that an engine's operation owns, ST128 leaves a request outstanding (R214), while the statement
asks that the line of the operand's first byte alone is free. -/
theorem not_storeResults : ¬ Obligations.StoreResults := by
  unfold Obligations.StoreResults
  intro h
  obtain ⟨-, -, -, -, store⟩ := h .plain (.v 4) (.s 1) (.lit 0)
  obtain ⟨s', -, done, ⟨-, -, rest, -⟩, -⟩ := store lineEnd lineEndIssue lineEndLaunch lineEndGroup 0 248 lineEndStore_issues lineEnd_settled
    (by decide +kernel) (by decide +kernel) (by decide +kernel) (by decide +kernel) lineEnd_inScratch
  have none' : s'.reqs = [] := congrArg State.reqs rest
  have waits := lineEndStore_waits
  rw [lineEndStore, done] at waits
  simp [goesOn, none'] at waits

end Sys2Proof.Claims
end

section
/-! Why a barrier need not end with the team that arrives last as O21 says it: the statement speaks of every state and asks of the entries of the team map that each
under the number of the arriving team is that team. In a map that is not canonical and lists it twice, the barrier's arrival is noted in the first entry alone,
and the second one, which the barrier's test counts as well (R201), has not arrived. -/

namespace Sys2Proof.Claims
open Sys2Proof.Machine

/-- The machine of the counterexample to LD128, with its team listed twice. -/
def listedTwice : State := { lineEnd with teams := [(1, lineEndTeam), (1, lineEndTeam)] }

/-- The fragment as it issues. -/
def listedTwiceIssue : Issue := mkIssue listedTwice 1 0 lineEndTeam lineEndFrag lineEndClause

theorem listedTwice_issues : Issues listedTwice listedTwiceIssue .bar := ⟨rfl, by decide +kernel, by decide +kernel, rfl⟩

/-- Nothing but the team itself is in the map. -/
theorem mem_listedTwice {u : Nat} {t : Team} (h : (u, t) ∈ listedTwice.teams) : u = 1 ∧ t = lineEndTeam := by
  simp only [listedTwice, List.mem_cons, Prod.mk.injEq, List.not_mem_nil, or_false, or_self] at h
  exact h

/-- The barrier does not end: no mark of a fence has been given out. -/
theorem listedTwice_bar : (match exec .bar listedTwice with
    | .next s' => s'.mem.seq
    | .fault _ => 1
    | .refused _ => 1) = 0 := by decide +kernel

/-- Refutes O21: where the team map is not canonical and lists the team that arrives twice, the barrier waits on, while the statement lets it end. -/
theorem not_fenceAndBarrierResults : ¬ Obligations.FenceAndBarrierResults := by
  unfold Obligations.FenceAndBarrierResults
  intro h
  obtain ⟨-, -, barriers, -⟩ := h .all .team 0 (.lit 0) listedTwice listedTwiceIssue
  obtain ⟨-, -, arrive⟩ := barriers .bar 3 (.inl ⟨rfl, rfl⟩) listedTwice_issues
  obtain ⟨-, last⟩ := arrive nofun (by decide +kernel) nofun
  obtain ⟨s2, done, seq, -⟩ := last nofun rfl
    (fun u t there other => absurd (mem_listedTwice there).1 other) (fun u t there _ => (mem_listedTwice there).2)
  have waits := listedTwice_bar
  rw [done] at waits
  simp only [goesOn, State.occupy_mem, finish_mem, seq] at waits
  exact absurd waits (by simp)

end Sys2Proof.Claims
end

section
/-! Why the copies of a sync page need not stand after a write-update as O50 says it (R282): the statement speaks of every state. In one whose map of cores is not
canonical and lists a core twice, the copies that are kept are at the end those of the entry listed last, while a core is read in the entry listed first. -/

namespace Sys2Proof.Claims
open Sys2Proof.Machine

/-- A leaf of a page of 4 KiB at 2^30 of local HBM: valid, readable, writable, of a sync page, accessed and dirty. -/
def syncLeaf : DWord := BitVec.ofNat 64 (2 ^ 48 + 0x3087)

/-- The copies of core 0 as its first entry has them: the sector that is written. The translation of the page is cached there. -/
def firstEntry : CoreSt := { CoreSt.reset with tlb := [{ ctx := 0, va := 2 ^ 38, size := 4096, leaf := syncLeaf, entry := 0 }], ro := [2 ^ 24] }

/-- A second entry of core 0, with a copy of another sector. -/
def secondEntry : CoreSt := { CoreSt.reset with ro := [2 ^ 24 + 1] }

/-- The store of four bytes that the update is for. -/
def updatePart : LanePart := { lane := 0, va := 2 ^ 38, off := 0, len := 4, data := [1, 0, 0, 0], tag := false }

/-- Its request. -/
def updateReq : Req :=
  { id := 7, inst := 6, team := 1, entry := 0, pc := 2 ^ 38 + 4, op := .store .rel 4, path := 0, half := 2 ^ 31, parts := [updatePart], signed := false, ty := 0
    place := .update, since := 0, pa := some (2 ^ 30), answer := [], counted := false, twins := [], arrived := 0, again := false, via := none }

/-- The write-update, acknowledged by all. -/
def acknowledged : Update := { id := 8, req := 7, inb := none, sectors := [2 ^ 24], waiting := [] }

/-- The machine before the switch, core 0 listed twice. -/
def coreTwice : State :=
  let s := State.reset.withFetchWord 32 0
  { s with cores := [(0, firstEntry), (0, secondEntry)], reqs := [updateReq], mem := { s.mem with updates := [acknowledged] } }

/-- Its team. -/
def coreTwiceTeam : Team := (coreTwice.team? 1).getD Team.blank

/-- What the store's address reaches, and the state once it has been translated. -/
def updateAim : Aim × State := (coreTwice.updMem (fun m => { m with updates := [] })).aim coreTwiceTeam 0 (2 ^ 38) .write false false

def updatePlace : Loc := { space := 0, x := 0, y := 0, addr := 2 ^ 30 }
def updateHit : Hit := { ap := 0, dev := 0, addr := 2 ^ 30, sync := true, c := false, rap := false, ha := false, pasid := 0 }

theorem updateAim_eq : updateAim = (.at' updatePlace updateHit, updateAim.2) := by
  have h : updateAim.1 = .at' updatePlace updateHit := by decide +kernel
  rw [← h]

theorem coreTwice_nothingPending : NothingPending coreTwice := ⟨rfl, rfl, rfl⟩

/-- Core 0 holds a copy of the sector before the switch. -/
theorem copy_before : NSet.has (updateAim.2.coreSt 0).ro (sectorOf updatePlace.addr) = true := by decide +kernel

/-- After it, it does not. -/
theorem no_copy_after : (match exec (.updateSwitch 8) coreTwice with
    | .next s' => NSet.has (s'.coreSt 0).ro (sectorOf updatePlace.addr)
    | .fault _ => true
    | .refused _ => true) = false := by decide +kernel

/-- Refutes O50: where the map of cores is not canonical and lists a core twice, the core loses its copy of a sync page that has been updated. -/
theorem not_cacheAndLockEvents : ¬ Obligations.CacheAndLockEvents := by
  unfold Obligations.CacheAndLockEvents
  intro h
  obtain ⟨-, -, -, -, -, switch, -⟩ := h coreTwice 0 0
  obtain ⟨s', done, -, -, -, copies⟩ := switch acknowledged updateReq coreTwiceTeam updatePart updatePlace updateHit updateAim.2 .rel 4 rfl rfl rfl rfl rfl rfl
    (by decide +kernel) rfl rfl (.inr rfl) updateAim_eq rfl coreTwice_nothingPending rfl rfl rfl
  have after := no_copy_after
  rw [show acknowledged.id = 8 from rfl] at done
  simp only [done, copies rfl 0 copy_before] at after
  exact absurd after (by simp)

end Sys2Proof.Claims
end

section
/-! How an instruction ends (R60, R119, R325): done, held at its word or trapped by what its body answers. A result of one word for all lanes, as the memory
and system chapters have it (R186, R228). Counts and signed operands modulo a power of two (R191, R204). -/

namespace Sys2Proof.Machine
open Sys2Proof.Claims

section
variable {i : Instr} {s s' : State} {iss : Issue} {body : Issue → State → Eff}

theorem Issues.completes (issues : Issues s iss i) (runs : exec i s = run i s body) (ends : body iss (hashed s iss i) = .done s') : Completes i s iss s' := by
  rw [Completes, runs, run_of_issues issues, ends]; rfl

theorem Issues.waits {l : Latch} (issues : Issues s iss i) (runs : exec i s = run i s body) (ends : body iss (hashed s iss i) = .wait l s') :
    Waits i s iss l s' := by
  rw [Waits, runs, run_of_issues issues, ends]; rfl

theorem Issues.traps {c lane d0 : Nat} (issues : Issues s iss i) (runs : exec i s = run i s body) (ends : body iss (hashed s iss i) = .stop c lane d0 0) :
    Traps i s iss c lane d0 := by
  rw [Traps, runs, run_of_issues issues, ends]; rfl

/-- Hashing a word changes a team's fragments alone. -/
theorem hashTeam_but_frags (iss : Issue) (i : Instr) (t : Team) : { hashTeam iss i t with frags := [] } = { t with frags := [] } := by
  unfold hashTeam
  split
  · rfl
  · rfl
  · split <;> rfl

end

/-! ### One word for all lanes -/

theorem writeAll_writes (s : State) (iss : Issue) (w : Nat) (ext : Nat → Nat) (d : Reg) (x : Nat) (tag : Bool) (there : ∃ t, s.team? iss.tid = some t) :
    Writes s iss w ext d (inLanes (outLanes iss d) (fun _ => some (x % 2 ^ w))) (fun _ => tag) (writeAll s iss w ext d x tag) := by
  have writes := writeOut_writes s iss w ext d (outLanes iss d) (fun _ => some (x % 2 ^ w)) (fun _ => tag) there (outLanes_nodup iss d)
    (by rintro r rfl l hl; exact lanesOf_lt hl)
  simpa only [writeAll, laneOuts, Option.map_some, List.filterMap_eq_map'] using writes

theorem writeWide_wide {s : State} {iss : Issue} (d : Reg) (x : Nat) (there : ∃ t, s.team? iss.tid = some t) : Wide s iss d x (writeWide s iss d x false) := by
  cases d with
  | v r => exact writeAll_writes s iss iss.ty.width id (.v r) x false there
  | s r => exact writeAll_writes s iss 64 id (.s r) x false there
  | q r => exact writeAll_writes s iss 64 id (.q r) x false there

theorem writeStatus_status {s : State} {iss : Issue} (d : Reg) (x : Nat) (there : ∃ t, s.team? iss.tid = some t) : Status s iss d x (writeStatus s iss d x) :=
  writeAll_writes s iss 32 (wordExt iss.ty) d x false there

theorem Issues.givesWide {i : Instr} {s : State} {iss : Issue} {body : Issue → State → Eff} {d : Reg} {x : Nat} (issues : Issues s iss i)
    (runs : exec i s = run i s body) (ends : body iss (hashed s iss i) = .done (writeWide (hashed s iss i) iss d x false)) :
    GivesWide i s (hashed s iss i) iss d x :=
  ⟨_, writeWide_wide d x ⟨_, issues.hashed_team?⟩, issues.completes runs ends⟩

theorem Issues.givesStatus {i : Instr} {s : State} {iss : Issue} {body : Issue → State → Eff} {d : Reg} {x : Nat} (issues : Issues s iss i)
    (runs : exec i s = run i s body) (ends : body iss (hashed s iss i) = .done (writeStatus (hashed s iss i) iss d x)) :
    GivesStatus i s (hashed s iss i) iss d x :=
  ⟨_, writeStatus_status d x ⟨_, issues.hashed_team?⟩, issues.completes runs ends⟩

/-! ### Signed counts -/

theorem wrapI_eq_toNat (x : Int) (n : Nat) : wrapI x n = (BitVec.ofInt n x).toNat := by rw [wrapI, BitVec.toNat_ofInt]

theorem wrap64_eq_toInt (x : Int) : wrap64 x = (BitVec.ofInt 64 x).toInt := by
  rw [wrap64, sext_eq_toInt _ _ (by decide), wrapI_eq_toNat, BitVec.ofNat_toNat, BitVec.setWidth_eq]

theorem signedSrc_eq (iss : Issue) (l : Nat) (b : Src) : signedSrc iss l b = signedWord iss l b := by
  cases b with
  | lit w => simp only [signedSrc, signedWord, sext_eq_toInt w.toNat 32 (by decide), BitVec.ofNat_toNat, BitVec.setWidth_eq]
  | reg r =>
    cases r with
    | v n => simp only [signedSrc, signedWord, teamReg, Bool.false_eq_true, if_false, sext_eq_toInt _ 32 (by decide), BitVec.ofNat_toNat, BitVec.setWidth_eq]
    | s n => simp only [signedSrc, signedWord, sext_eq_toInt _ 64 (by decide), BitVec.ofNat_toNat, BitVec.setWidth_eq]
    | q n => rfl

end Sys2Proof.Machine
end

section
/-! PHHDR, PHEND, PHWAIT and PHRD on the phase header of a core (R191-R197). -/

namespace Sys2Proof.Machine
open Sys2Proof.Claims

variable {s : State} {iss : Issue} {l : Nat}

/-! ### Heads of a launch -/

/-- A launch with another phase header and state of a core. -/
def Launch.withHead (q : Launch) (core : Nat) (h : CorePhase) : Launch := { q with heads := NMap.put q.heads core h }

@[simp] theorem Launch.withHead_head_same (q : Launch) (core : Nat) (h : CorePhase) : (q.withHead core h).head core = h := by
  simp [Launch.head, Launch.withHead, NMap.getD]

theorem Launch.withHead_head_other (q : Launch) {core c : Nat} (h : CorePhase) (other : c ≠ core) : (q.withHead core h).head c = q.head c := by
  simp [Launch.head, Launch.withHead, NMap.getD, NMap.look_put_other _ _ other]

theorem State.phaseOf_of_launch {q : Launch} {t : Team} (there : s.launch? t.launch = some q) : s.phaseOf t = (q.head t.core).hdr.phase := by
  simp only [State.phaseOf, there]

@[simp] theorem hashed_launch? (s : State) (iss : Issue) (i : Instr) (k : Nat) : (hashed s iss i).launch? k = s.launch? k := by
  simp only [State.launch?, hashed_launches]

@[simp] theorem hashed_phaseOf (s : State) (iss : Issue) (i : Instr) (t : Team) : (hashed s iss i).phaseOf t = s.phaseOf t := by
  simp only [State.phaseOf, hashed_launch?]

@[simp] theorem hashed_unreleased (s : State) (iss : Issue) (i : Instr) (k : Nat) : (hashed s iss i).unreleased k = s.unreleased k := by
  simp only [State.unreleased, hashed_launch?]

/-! ### PHHDR (R194) -/

/-- What PHHDR adds to a header. -/
def CorePhase.count (cur : Bool) (x : Int) (h : CorePhase) : CorePhase :=
  { h with hdr := if cur then { h.hdr with expect := wrap64 (h.hdr.expect + x) } else { h.hdr with nextexp := wrap64 (h.hdr.nextexp + x) } }

theorem needsLane_phhdr (cur : Bool) (b : Src) : NeedsLane (.phhdr cur b) :=
  fun s _ issues idle => issues.completes (exec_phhdr s cur b) (by simp only [idle])

theorem completes_phhdr {cur : Bool} {b : Src} (issues : Issues s iss (.phhdr cur b)) (low : iss.low = some l)
    (before : (cur && iss.team.phaseDone) = false) :
    Completes (.phhdr cur b) s iss ((hashed s iss (.phhdr cur b)).updLaunch iss.team.launch (fun q =>
      q.withHead iss.team.core ((q.head iss.team.core).count cur (signedSrc iss l b)))) :=
  issues.completes (exec_phhdr s cur b) (by simp only [low, before, Bool.false_eq_true, if_false]; rfl)

theorem waits_phhdr {b : Src} (issues : Issues s iss (.phhdr true b)) (low : iss.low = some l) (after : iss.team.phaseDone = true) :
    Waits (.phhdr true b) s iss .none (hashed s iss (.phhdr true b)) :=
  issues.waits (exec_phhdr s true b) (by simp only [low, after, Bool.and_self, if_true])

/-- Where PHHDR completes. -/
theorem goes_phhdr {cur : Bool} {b : Src} (issues : Issues s iss (.phhdr cur b)) (before : cur = false ∨ iss.team.phaseDone = false) :
    ∃ s', exec (.phhdr cur b) s = .next (goesOn s' iss (.phhdr cur b)) := by
  cases low : iss.low with
  | none => exact ⟨_, needsLane_phhdr cur b s iss issues low⟩
  | some l => exact ⟨_, completes_phhdr issues low (by rcases before with h | h <;> simp [h])⟩

/-- The header of the core is counted, no other one. -/
theorem heads_after_count {q : Launch} {k core : Nat} (s1 : State) (there : s1.launch? k = some q) (f : CorePhase → CorePhase) :
    ∃ q', (s1.updLaunch k (fun q => q.withHead core (f (q.head core)))).launch? k = some q' ∧ q'.head core = f (q.head core) ∧
      ∀ c, c ≠ core → q'.head c = q.head c :=
  ⟨_, by rw [State.updLaunch_launch?_same, there]; rfl, Launch.withHead_head_same _ _ _, fun _ other => Launch.withHead_head_other _ _ other⟩

theorem CorePhase.count_next (b : Src) (h : CorePhase) : h.count false (signedSrc iss l b) =
    { h with hdr := { h.hdr with nextexp := (BitVec.ofInt 64 (h.hdr.nextexp + signedWord iss l b)).toInt } } := by
  simp only [CorePhase.count, signedSrc_eq, wrap64_eq_toInt, Bool.false_eq_true, if_false]

theorem CorePhase.count_current (b : Src) (h : CorePhase) : h.count true (signedSrc iss l b) =
    { h with hdr := { h.hdr with expect := (BitVec.ofInt 64 (h.hdr.expect + signedWord iss l b)).toInt } } := by
  simp only [CorePhase.count, signedSrc_eq, wrap64_eq_toInt, if_true]

/-! ### PHEND (R195) -/

/-- The lanes that a restart brings back: those of every fragment. -/
def Team.allLanes (t : Team) : LaneMask := t.frags.foldl (fun m f => m ||| f.2.mask) 0

theorem getLsbD_foldl_or (frags : List (Nat × Fragment)) (k : Nat) (m : LaneMask) :
    (frags.foldl (fun m f => m ||| f.2.mask) m).getLsbD k = (m.getLsbD k || frags.any (fun e => e.2.mask.getLsbD k)) := by
  induction frags generalizing m with
  | nil => simp
  | cons f fs ih => simp [ih, Bool.or_assoc]

theorem Team.allLanes_getLsbD (t : Team) (k : Nat) : t.allLanes.getLsbD k = t.frags.any (fun e => e.2.mask.getLsbD k) := by
  simp [Team.allLanes, getLsbD_foldl_or]

/-- The team after its PHEND. -/
def Team.phaseEnd (iss : Issue) (phase mark : Nat) (t : Team) : Team :=
  { t with phaseDone := true, rpc := nextClause iss, restartMask := iss.team.allLanes, lastPhase := phase, phMark := mark, retries := 0 }

@[simp] theorem State.phaseTest_teams (s : State) (launch core : Nat) : (s.phaseTest launch core).teams = s.teams := by
  unfold State.phaseTest
  split
  · rfl
  · split
    · rfl
    · extract_lets here
      split
      · exact State.updLaunch_teams _ _ _
      · rfl

theorem completes_phend (issues : Issues s iss .phend) (first : iss.team.phaseDone = false)
    (done : s.reqs.any (fun r => r.team == iss.tid && r.pendingWrite) = false) :
    Completes .phend s iss
      (((hashed s iss .phend).updTeam iss.tid (Team.phaseEnd iss (s.phaseOf iss.team) s.nextId)).phaseTest iss.team.launch iss.team.core) :=
  issues.completes (exec_phend s) (by
    simp only [first, hashed_reqs, done, Bool.or_self, Bool.false_eq_true, if_false, hashed_phaseOf, hashed_nextId]
    rfl)

theorem waits_phend (issues : Issues s iss .phend) (again : iss.team.phaseDone = true) : Waits .phend s iss .none (hashed s iss .phend) :=
  issues.waits (exec_phend s) (by simp only [again, Bool.true_or, if_true])

theorem team?_after_phend (issues : Issues s iss .phend) (phase mark : Nat) :
    ((((hashed s iss .phend).updTeam iss.tid (Team.phaseEnd iss phase mark)).phaseTest iss.team.launch iss.team.core)).team? iss.tid =
      some ((hashTeam iss .phend iss.team).phaseEnd iss phase mark) := by
  rw [State.team?_congr (State.phaseTest_teams _ _ _), State.updTeam_team?_same, issues.hashed_team?]
  rfl

/-! ### PHWAIT (R197) -/

variable {d a : Reg} {pb : Fin 8}

/-- How far the phase of a team is beyond a token, modulo 2^16. -/
def State.phaseDelta (s : State) (iss : Issue) (x : Nat) : Nat := (BitVec.ofNat 16 (s.phaseOf iss.team) - BitVec.ofNat 16 x).toNat

theorem State.phaseDelta_eq (s : State) (iss : Issue) (x : Nat) : (s.phaseOf iss.team + 65536 - x % 65536) % 65536 = s.phaseDelta iss x := by
  simp only [State.phaseDelta, BitVec.toNat_sub, BitVec.toNat_ofNat]
  omega

/-- Whether a PHWAIT finds that its phase has not been committed and released. -/
def State.phaseAhead (s : State) (iss : Issue) (x : Nat) : Prop :=
  s.phaseDelta iss x = 0 ∨ s.phaseDelta iss x = 1 ∧ s.unreleased iss.team.launch = true

/-- What a PHWAIT that does not come back to a phase it waited for answers. -/
def phwaitBody (d : Reg) (pb : Fin 8) (iss : Issue) (s : State) (x : Nat) : Eff :=
  if s.phaseDelta iss x = 0 || (s.phaseDelta iss x = 1 && s.unreleased iss.team.launch) then .wait (.waiting (phwaitKey x)) s
  else if s.phaseDelta iss x < 32768 then phwaitDone iss s d pb (s.phaseDelta iss x)
  else .stop 16 0 0 0

theorem phwaitBody_ahead {x : Nat} (ahead : s.phaseAhead iss x) : phwaitBody d pb iss s x = .wait (.waiting (phwaitKey x)) s := by
  unfold phwaitBody
  exact if_pos (by rcases ahead with h | ⟨h, held⟩ <;> simp [*])

theorem phwaitBody_passed {x : Nat} (passed : 1 ≤ s.phaseDelta iss x) (near : s.phaseDelta iss x < 2 ^ 15)
    (released : s.phaseDelta iss x = 1 → s.unreleased iss.team.launch = false) : phwaitBody d pb iss s x = phwaitDone iss s d pb (s.phaseDelta iss x) := by
  unfold phwaitBody
  rw [if_neg (by simp only [Bool.or_eq_true, Bool.and_eq_true, decide_eq_true_eq]; rintro (h | ⟨h, held⟩); · omega
                 · simp [released h] at held), if_pos (by omega)]

theorem phwaitBody_stale {x : Nat} (far : 2 ^ 15 ≤ s.phaseDelta iss x) : phwaitBody d pb iss s x = .stop 16 0 0 0 := by
  unfold phwaitBody
  rw [if_neg (by simp only [Bool.or_eq_true, Bool.and_eq_true, decide_eq_true_eq]; omega), if_neg (by omega)]

theorem needsLane_phwait (d a : Reg) (pb : Fin 8) : NeedsLane (.phwait d a pb) :=
  fun s _ issues idle => issues.completes (exec_phwait s d a pb) (by simp only [idle])

section
variable (issues : Issues s iss (.phwait d a pb)) (low : iss.low = some l) (ready : portsReady s iss.team (some d) none none)

@[simp] theorem hashed_phaseDelta (s : State) (iss : Issue) (i : Instr) (x : Nat) : (hashed s iss i).phaseDelta iss x = s.phaseDelta iss x := by
  simp only [State.phaseDelta, hashed_phaseOf]

include low ready in
/-- A PHWAIT that is not registered with a phase, nor released from one, compares. -/
theorem phwait_body (fresh : ∀ k, iss.frag.latch ≠ .waiting k) (unreleased : ∀ v, iss.frag.latch ≠ .done v) {e : Eff}
    (gives : phwaitBody d pb iss (hashed s iss (.phwait d a pb)) (teamReg iss false l a) = e) (issues : Issues s iss (.phwait d a pb)) :
    exec (.phwait d a pb) s = .next (conclude s iss (.phwait d a pb) e) := by
  rw [exec_phwait, execPhwait, run_of_issues issues, ← gives]
  simp only [low, portsReady_hashed, ready, Bool.not_true, Bool.false_eq_true, if_false, State.phaseDelta_eq]
  rw [phwaitKey, Nat.mod_mod]
  rfl

include issues low ready in
theorem completes_phwait_released {v : Nat} (released : iss.frag.latch = .done v) : exec (.phwait d a pb) s =
    .next (conclude s iss (.phwait d a pb) (phwaitDone iss (hashed s iss (.phwait d a pb)) d pb v)) := by
  rw [exec_phwait, execPhwait, run_of_issues issues]
  simp only [low, portsReady_hashed, ready, Bool.not_true, Bool.false_eq_true, if_false, released]

end

/-- The team after a PHWAIT: what it reads comes after the commit (R263), and the predicate says whether the phase is stale. -/
def Team.phasePassed (iss : Issue) (pb : Fin 8) (seq x : Nat) (t : Team) : Team :=
  { t with acq := seq }.writeP pb.val iss.act (if 2 ≤ x then BitVec.allOnes 1024 else 0)

theorem Team.phasePassed_acq (pb : Fin 8) (seq x : Nat) (t : Team) : (t.phasePassed iss pb seq x).acq = seq := rfl

theorem Team.phasePassed_but (pb : Fin 8) (seq x : Nat) (t : Team) :
    { t.phasePassed iss pb seq x with pred := [], acq := 0 } = { t with pred := [], acq := 0 } := rfl

theorem Team.phasePassed_p (pb : Fin 8) (seq x : Nat) (t : Team) (k : Nat) {m : Nat} (lane : m < 1024) :
    (t.phasePassed iss pb seq x).p k m = if k = pb.val ∧ iss.act.getLsbD m = true then decide (2 ≤ x) else t.p k m := by
  rw [Team.phasePassed, Team.writeP_p _ _ _ _ _ _ lane]
  refine ite_congr rfl (fun _ => ?_) (fun _ => rfl)
  by_cases stale : 2 ≤ x
  · rw [if_pos stale, decide_eq_true stale, BitVec.getLsbD_allOnes, decide_eq_true lane]
  · simp [stale]

theorem writeWide_team? {s1 : State} {t : Team} (there : s1.team? iss.tid = some t) (d : Reg) (x : Nat) :
    ∃ t', (writeWide s1 iss d x false).team? iss.tid = some t' := by
  have kept := Writes.keepsTeams (writeWide_wide d x ⟨t, there⟩) iss.tid
  exact Option.isSome_iff_exists.mp (by rw [kept, there]; rfl)

/-- What a PHWAIT that ends leaves: its result, then the acquire and the predicate. -/
theorem phwaitDone_eq (issues : Issues s iss (.phwait d a pb)) (x : Nat) : ∃ t1,
    (writeWide (hashed s iss (.phwait d a pb)) iss d x false).team? iss.tid = some t1 ∧
    phwaitDone iss (hashed s iss (.phwait d a pb)) d pb x =
      .done ((writeWide (hashed s iss (.phwait d a pb)) iss d x false).updTeam iss.tid (fun _ => t1.phasePassed iss pb s.mem.seq x)) := by
  obtain ⟨t1, there⟩ := writeWide_team? issues.hashed_team? d x
  refine ⟨t1, there, ?_⟩
  rw [phwaitDone, hashed_mem]
  exact congrArg Eff.done (State.updTeam_congr _ _ (fun t ht => by rw [there] at ht; cases ht; rfl))

/-- Where PHWAIT completes. -/
theorem goes_phwait (issues : Issues s iss (.phwait d a pb)) (ready : portsReady s iss.team (some d) none none)
    (ends : (∃ v, iss.frag.latch = .done v) ∨ ((∀ k, iss.frag.latch ≠ .waiting k) ∧ ∃ l, iss.low = some l ∧ 1 ≤ s.phaseDelta iss (teamReg iss false l a) ∧
      s.phaseDelta iss (teamReg iss false l a) < 2 ^ 15 ∧ (s.phaseDelta iss (teamReg iss false l a) = 1 → s.unreleased iss.team.launch = false))) :
    ∃ s', exec (.phwait d a pb) s = .next (goesOn s' iss (.phwait d a pb)) := by
  rcases ends with ⟨v, released⟩ | ⟨fresh, l, low, passed, near, free⟩
  · cases low : iss.low with
    | none => exact ⟨_, needsLane_phwait d a pb s iss issues low⟩
    | some l => exact ⟨_, completes_phwait_released issues low ready released⟩
  · by_cases released : ∃ v, iss.frag.latch = .done v
    · obtain ⟨v, released⟩ := released
      exact ⟨_, completes_phwait_released issues low ready released⟩
    · refine ⟨_, phwait_body low ready fresh (not_exists.mp released) (phwaitBody_passed ?_ ?_ ?_) issues⟩ <;> simpa using ‹_›

/-! ### PHRD (R196) -/

variable {fld : PhField}

theorem completes_phrd {q : Launch} (issues : Issues s iss (.phrd fld d)) (active : iss.act ≠ 0) (ready : portsReady s iss.team (some d) none none)
    (there : s.launch? iss.team.launch = some q) :
    GivesWide (.phrd fld d) s (hashed s iss (.phrd fld d)) iss d (phField (q.head iss.team.core).hdr fld) :=
  issues.givesWide (exec_phrd s fld d) (by
    simp only [Issue.active iss active, portsReady_hashed, ready, Bool.not_true, Bool.false_eq_true, if_false, hashed_launch?, there])

/-- Where PHRD completes. -/
theorem goes_phrd (issues : Issues s iss (.phrd fld d)) (may : iss.act = 0 ∨ portsReady s iss.team (some d) none none) :
    ∃ s', exec (.phrd fld d) s = .next (goesOn s' iss (.phrd fld d)) := by
  by_cases idle : iss.act = 0
  · exact ⟨_, issues.completes (exec_phrd s fld d) (by simp only [Issue.idle iss idle, if_true]; rfl)⟩
  · have ready := may.resolve_left idle
    exact ⟨_, issues.completes (exec_phrd s fld d) (by
      simp only [Issue.active iss idle, portsReady_hashed, ready, Bool.not_true, Bool.false_eq_true, if_false]; rfl)⟩

theorem phField_eq (h : PhaseHdr) (fld : PhField) : phField h fld = match fld with
    | .phase => h.phase
    | .exp => (BitVec.ofInt 64 h.expect).toNat
    | .next => (BitVec.ofInt 64 h.nextexp).toNat
    | .flags => h.overrun.toNat + 2 * h.late.toNat := by
  cases fld <;> simp only [phField, wrapI_eq_toNat]

end Sys2Proof.Machine

namespace Sys2Proof.Claims
open Sys2Proof.Machine

/-- Settles O20, instruction by instruction: where it completes, and what it does. -/
theorem phaseResults : Obligations.PhaseResults := by
  unfold Obligations.PhaseResults
  refine fun b d a pb fld => ⟨⟨needsLane_phhdr true b, needsLane_phhdr false b, needsLane_phwait d a pb⟩, fun s iss cur => goes_phhdr,
    fun s iss issues first done => ⟨_, completes_phend issues first done⟩, fun s iss => goes_phwait, fun s iss => goes_phrd, ?_⟩
  intro s iss l q there core h x wrap heads
  have source : x l = signedWord iss l b := by rcases b with (n | n | n) | w <;> rfl
  have phase : s.phaseOf iss.team = h.hdr.phase := State.phaseOf_of_launch there
  refine ⟨fun issues low => ?_, waits_phhdr, fun issues low before => ?_, waits_phend, fun issues first none' => ?_, fun issues low ready fresh unreleased => ?_,
    fun v issues low ready released early => ?_, fun issues active ready => ?_⟩
  · refine ⟨_, completes_phhdr issues low rfl, ?_⟩
    have counted := heads_after_count (core := core) (hashed s iss (.phhdr false b)) (by simpa using there) (CorePhase.count false (signedSrc iss l b))
    simpa only [heads, wrap, source, ← CorePhase.count_next b h] using counted
  · refine ⟨_, completes_phhdr issues low (by simp [before]), ?_⟩
    have counted := heads_after_count (core := core) (hashed s iss (.phhdr true b)) (by simpa using there) (CorePhase.count true (signedSrc iss l b))
    simpa only [heads, wrap, source, ← CorePhase.count_current b h] using counted
  · refine ⟨_, _, completes_phend issues first ?_, team?_after_phend issues _ _, rfl, phase, rfl, iss.team.allLanes_getLsbD, rfl, rfl, ?_⟩
    · simp only [List.any_eq_false, Bool.and_eq_true, beq_iff_eq, not_and]
      exact fun r mem own => absurd own (none' r mem)
    · exact congrArg (fun t : Team => { t with phaseDone := false, lastPhase := 0, rpc := 0, restartMask := 0, phMark := 0, retries := 0 })
        (hashTeam_but_frags iss .phend iss.team)
  · have delta : (BitVec.ofNat 16 h.hdr.phase - BitVec.ofNat 16 (teamReg iss false l a)).toNat = s.phaseDelta iss (teamReg iss false l a) := by
      rw [State.phaseDelta, phase]
    simp only [delta]
    refine ⟨fun ahead => ?_, fun passed near free => ?_, fun far => ?_⟩
    · exact phwait_body low ready fresh unreleased (phwaitBody_ahead (by simpa [State.phaseAhead] using ahead)) issues
    · obtain ⟨t1, written, ends⟩ := phwaitDone_eq issues (s.phaseDelta iss (teamReg iss false l a))
      refine ⟨_, _, writeWide_wide d _ ⟨_, issues.hashed_team?⟩, ?_, t1, _, written, rfl, Team.phasePassed_acq _ _ _ _,
        fun k m lane => Team.phasePassed_p _ _ _ _ k lane, Team.phasePassed_but _ _ _ _⟩
      exact phwait_body low ready fresh unreleased (by rw [phwaitBody_passed (by simpa) (by simpa) (by simpa), hashed_phaseDelta, ends]) issues
    · exact phwait_body low ready fresh unreleased (phwaitBody_stale (by simpa)) issues
  · obtain ⟨t1, -, ends⟩ := phwaitDone_eq issues v
    refine ⟨_, _, writeWide_wide d _ ⟨_, issues.hashed_team?⟩, ?_, t1.phasePassed iss pb s.mem.seq v, rfl, Team.phasePassed_acq _ _ _ _, fun m lane on => ?_⟩
    · exact (completes_phwait_released issues low ready released).trans (by rw [ends]; rfl)
    · rw [Team.phasePassed_p _ _ _ _ _ lane, if_pos ⟨rfl, on⟩, decide_eq_false (by omega)]
  · have gives := completes_phrd issues active ready there
    rw [phField_eq] at gives
    exact gives

end Sys2Proof.Claims
end

section
/-! What records and writes at home leave (R179, R252, R261, R264, R361). A record in a ring, an error count and a line logged change of memory the host's alone;
a write of committed data, an invalidation and the settling of versions change of memory the committed data, the versions and the copies too. Each is
stated as one equation of states seen without those parts. -/

namespace Sys2Proof.Machine

/-! ### The parts that stay -/

/-- A launch without the words kept for its fetches. -/
def Launch.noWords (l : Launch) : Launch := { l with icache := [] }

/-- Memory without the host's. -/
def MemSt.noHost (m : MemSt) : MemSt := { m with host := Store.empty }

/-- Memory without what is written at homes: committed data, versions, copies, and the host's. -/
def MemSt.noHome (m : MemSt) : MemSt := { m.noHost with hbm := Store.empty, pend := [], peerPend := [], xcopies := [] }

/-- A state without what records change: contexts, kept words, error counts and vectors, host memory. -/
def State.noRecords (s : State) : State :=
  { s with launches := s.launches.map (fun e => (e.1, e.2.noWords)), ctxs := [], mgmt := { s.mgmt with errors := [], vectors := [] }, mem := s.mem.noHost }

/-- A state without what records and writes at home change: also copies in cores and the free choices made. -/
def State.noWrites (s : State) : State :=
  { s with free := 0, cores := [], launches := s.launches.map (fun e => (e.1, e.2.noWords)), ctxs := [],
           mgmt := { s.mgmt with errors := [], vectors := [] }, mem := s.mem.noHome }

theorem State.noWrites_of_noRecords {s s' : State} (h : s'.noRecords = s.noRecords) : s'.noWrites = s.noWrites :=
  congrArg (fun t : State => { t with free := 0, cores := [], mem := t.mem.noHome }) h

section
variable {s s' : State}

theorem State.noRecords_mem (h : s'.noRecords = s.noRecords) : s'.mem.noHost = s.mem.noHost := congrArg State.mem h
theorem State.noRecords_hbm (h : s'.noRecords = s.noRecords) : s'.mem.hbm = s.mem.hbm := (congrArg MemSt.hbm (State.noRecords_mem h) :)
theorem State.noWrites_mem (h : s'.noWrites = s.noWrites) : s'.mem.noHome = s.mem.noHome := congrArg State.mem h
theorem State.noWrites_teams (h : s'.noWrites = s.noWrites) : s'.teams = s.teams := (congrArg State.teams h :)

theorem State.noWrites_launch? (h : s'.noWrites = s.noWrites) (k : Nat) : (s'.launch? k).map Launch.noWords = (s.launch? k).map Launch.noWords := by
  have same : s'.launches.map (fun e => (e.1, e.2.noWords)) = s.launches.map (fun e => (e.1, e.2.noWords)) := (congrArg State.launches h :)
  simp only [State.launch?, ← NMap.look_mapVal, same]

theorem State.noWrites_homeOf (h : s'.noWrites = s.noWrites) (pa : Nat) : s'.homeOf pa = s.homeOf pa := by
  have svc : s'.svc = s.svc := (congrArg State.svc h :)
  have service : s'.inService = s.inService := funext₂ fun kind unit => by simp only [State.inService, svc]
  simp only [State.homeOf, service]

end

/-! ### Records -/

theorem Launch.keepWord_noWords (w : Writer) (l : Launch) (x : Nat × Word × Word) : (l.keepWord w x).noWords = l.noWords := by
  unfold Launch.keepWord
  extract_lets own h
  split <;> rfl

@[simp] theorem State.keepWords_noRecords (s : State) (w : Writer) (ws : List (Nat × Word × Word)) : (s.keepWords w ws).noRecords = s.noRecords := by
  unfold State.keepWords
  split
  · rfl
  · simp only [State.noRecords, List.map_map, Function.comp_def, foldl_keeps Launch.noWords (Launch.keepWord_noWords w)]

@[simp] theorem State.updCtx_noRecords (s : State) (c : Nat) (f : Ctx → Ctx) : (s.updCtx c f).noRecords = s.noRecords := by
  unfold State.updCtx
  split <;> rfl

@[simp] theorem State.countError_noRecords (s : State) (k : Nat) : (s.countError k).noRecords = s.noRecords := rfl

@[simp] theorem State.hostWrite_noRecords (s : State) (w : Writer) (a : Nat) (data : List Byte) : (s.hostWrite w a data).noRecords = s.noRecords :=
  (State.keepWords_noRecords _ w _).trans rfl

@[simp] theorem State.ringWrite_noRecords (s : State) (c : Ctx) (r : List Byte) : (s.ringWrite c r).noRecords = s.noRecords :=
  calc (s.ringWrite c r).noRecords
    _ = ((s.hostWrite none _ r).updCtx c.num (fun c => { c with crTail := c.crTail + 1 })).noRecords := rfl
    _ = s.noRecords := by rw [State.updCtx_noRecords, State.hostWrite_noRecords]

@[simp] theorem State.record_noRecords (s : State) (ctx : Nat) (r : List Byte) (team : Nat) : (s.record ctx r team).noRecords = s.noRecords := by
  unfold State.record
  split
  · rfl
  · split_ifs <;> simp

@[simp] theorem State.event_noRecords (s : State) (ctx kind core slot low d0 d1 : Nat) : (s.event ctx kind core slot low d0 d1).noRecords = s.noRecords :=
  State.record_noRecords _ _ _ _

@[simp] theorem State.logLine_noRecords (s : State) (w : Writer) (pa : Nat) : (s.logLine w pa).noRecords = s.noRecords := by
  unfold State.logLine
  split
  · rfl
  · split
    · rfl
    · dsimp only
      split_ifs <;> simp

/-! ### Writes at home -/

@[simp] theorem State.logLine_noWrites (s : State) (w : Writer) (pa : Nat) : (s.logLine w pa).noWrites = s.noWrites :=
  State.noWrites_of_noRecords (State.logLine_noRecords s w pa)

/-- The committed data after a write of it. -/
@[simp] theorem State.commitWrite_hbm (s : State) (w : Writer) (pa : Nat) (data : List Byte) (tag : Bool) :
    (s.commitWrite w pa data tag).mem.hbm = s.mem.hbm.write pa data tag := by
  unfold State.commitWrite
  extract_lets s1 s2
  have logged : s1.mem.hbm = s.mem.hbm := State.noRecords_hbm (by simp [s1])
  rw [State.keepWords_mem, ← logged]
  rfl

theorem State.commitWrite_noWrites (s : State) (w : Writer) (pa : Nat) (data : List Byte) (tag : Bool) : (s.commitWrite w pa data tag).noWrites = s.noWrites := by
  unfold State.commitWrite
  extract_lets s1 s2
  calc (s2.keepWords w (changedWords s.mem.hbm.bytes s2.mem.hbm.bytes pa data.length)).noWrites
    _ = s2.noWrites := State.noWrites_of_noRecords (State.keepWords_noRecords _ _ _)
    _ = s1.noWrites := rfl
    _ = s.noWrites := by simp only [s1, State.logLine_noWrites]

@[simp] theorem State.commitWrite_pend (s : State) (w : Writer) (pa : Nat) (data : List Byte) (tag : Bool) : (s.commitWrite w pa data tag).mem.pend = s.mem.pend := by
  unfold State.commitWrite
  extract_lets s1 s2
  have logged : s1.mem.pend = s.mem.pend := (congrArg MemSt.pend (State.noRecords_mem (s := s) (s' := s1) (by simp [s1])) :)
  rw [State.keepWords_mem, ← logged]
  rfl

@[simp] theorem State.commitWrite_peerPend (s : State) (w : Writer) (pa : Nat) (data : List Byte) (tag : Bool) :
    (s.commitWrite w pa data tag).mem.peerPend = s.mem.peerPend := by
  unfold State.commitWrite
  extract_lets s1 s2
  have logged : s1.mem.peerPend = s.mem.peerPend := (congrArg MemSt.peerPend (State.noRecords_mem (s := s) (s' := s1) (by simp [s1])) :)
  rw [State.keepWords_mem, ← logged]
  rfl

@[simp] theorem State.invalidate_noWrites (s : State) (pa n : Nat) : (s.invalidate pa n).noWrites = s.noWrites := rfl

theorem State.homeWrite_noWrites (s : State) (w : Writer) (pa : Nat) (data : List Byte) (tag : Bool) : (s.homeWrite w pa data tag).noWrites = s.noWrites := by
  unfold State.homeWrite
  extract_lets s1
  have written : s1.noWrites = s.noWrites := by rw [State.invalidate_noWrites, State.commitWrite_noWrites]
  split
  · rfl
  · exact Eq.trans rfl written

/-- The committed data after a write in the home order. -/
@[simp] theorem State.homeWrite_hbm (s : State) (w : Writer) (pa : Nat) {data : List Byte} (some' : data ≠ []) (tag : Bool) :
    (s.homeWrite w pa data tag).mem.hbm = s.mem.hbm.write pa data tag := by
  unfold State.homeWrite
  extract_lets s1
  have written : s1.mem.hbm = s.mem.hbm.write pa data tag := Eq.trans rfl (State.commitWrite_hbm s w pa data tag)
  rw [if_neg (by simpa using some')]
  exact written

/-! ### Versions settled -/

theorem chooseBytes_noWrites (offer : State → Nat → List (Writer × PByte)) (g : Nat) (s : State) : (chooseBytes offer g s).2.noWrites = s.noWrites := by
  unfold chooseBytes
  refine foldl_keeps (fun p : List (Nat × Writer × PByte) × State => p.2.noWrites) (fun p i => ?_) _ _
  dsimp only
  split <;> rfl

theorem State.settleGranule_noWrites (offer : State → Nat → List (Writer × PByte)) (s : State) (g : Nat) : (s.settleGranule offer g).noWrites = s.noWrites := by
  unfold State.settleGranule
  have chosen := chooseBytes_noWrites offer g s
  generalize chooseBytes offer g s = p at chosen ⊢
  obtain ⟨got, s1⟩ := p
  have logged : (got.foldl (fun s x => s.logLine x.2.1 x.1) s1).noWrites = s.noWrites :=
    (foldl_keeps State.noWrites (fun s _ => State.logLine_noWrites s _ _) got s1).trans chosen
  cases got with
  | nil => exact logged
  | cons x xs =>
    refine (State.invalidate_noWrites _ _ _).trans (Eq.trans ?_ logged)
    dsimp only
    split
    · exact State.commitWrite_noWrites _ _ _ _ _
    · exact foldl_keeps State.noWrites (fun s _ => State.commitWrite_noWrites s _ _ _ _) _ _

theorem State.settle_noWrites (s : State) (sel : Pend → Nat → Bool) (selp : PeerPend → Nat → Bool) : (s.settle sel selp).noWrites = s.noWrites :=
  foldl_keeps State.noWrites (State.settleGranule_noWrites _) _ s

end Sys2Proof.Machine
end

section
/-! Counters (R73, R203, R249, R250): the check of a counter address, and what an update leaves: the counter, its waiters, the slots that watch it. -/

namespace Sys2Proof.Machine
open Sys2Proof.Claims

/-! ### The check of a counter address (R203) -/

section
variable {s : State} {iss : Issue} {va o : Nat}

theorem counterAt_beyond (beyond : 2 ^ 57 ≤ va) : counterAt s iss va = .error 4 := by
  simp only [counterAt, if_pos beyond]

theorem counterAt_below (below : va < winBase 0) : counterAt s iss va = .error 11 := by
  have near : ¬ 2 ^ 57 ≤ va := by simp only [winBase] at below; omega
  have plain : isWindow va = false := by simp only [isWindow, decide_eq_false_iff_not]; omega
  simp only [counterAt, if_neg near, plain, Bool.false_and, Bool.false_eq_true, if_false, Bool.not_false, Bool.true_or, if_true]

/-- The counter at an offset of the window, where it lies in the context's range. -/
def counterInRange (s : State) (iss : Issue) (o : Nat) : Except Nat Nat :=
  match s.ctx? iss.ctx with
  | none => .error 10
  | some c => if c.ctrLo (o / 32768) ≤ o % 32768 / 8 && o % 32768 / 8 ≤ c.ctrHi (o / 32768) then .ok o else .error 10

/-- An address in the counter window comes to its alignment and the context's range. -/
theorem counterAt_window (inside : o < 65536) :
    counterAt s iss (winBase 4 + o) = if o % 8 != 0 then .error 11 else counterInRange s iss o := by
  have near : ¬ 2 ^ 57 ≤ winBase 4 + o := by simp only [winBase]; omega
  have window : isWindow (winBase 4 + o) = true := by rw [isWindow, decide_eq_true_eq]; simp only [winBase]; omega
  have number : (winBase 4 + o - winBase 0) / 2 ^ 32 = 4 := by simp only [winBase]; omega
  have offset : (winBase 4 + o - winBase 0) % 2 ^ 32 = o := by simp only [winBase]; omega
  have span : ¬ winSpan 4 ≤ o := by simp only [winSpan]; omega
  simp only [counterAt, if_neg near, number, offset, window, span, decide_false, Bool.and_false, Bool.false_eq_true, if_false, Bool.not_true, Bool.false_or, bne_self_eq_false]
  rfl

theorem counterAt_misaligned (inside : o < 65536) (odd : o % 8 ≠ 0) : counterAt s iss (winBase 4 + o) = .error 11 := by
  rw [counterAt_window inside, if_pos (by simpa using odd)]

/-- Counter n of a die, by the context's range. -/
theorem counterAt_counter {d n : Nat} {c : Ctx} (die : d < 2) (number : n < 4096) (there : s.ctx? iss.ctx = some c) :
    counterAt s iss (winBase 4 + counterAddr d n) = if c.ctrLo d ≤ n && n ≤ c.ctrHi d then .ok (counterAddr d n) else .error 10 := by
  have aligned : ¬ (counterAddr d n % 8 != 0) = true := by simp only [counterAddr, bne_iff_ne]; omega
  have d' : counterAddr d n / 32768 = d := by simp only [counterAddr]; omega
  have n' : counterAddr d n % 32768 / 8 = n := by simp only [counterAddr]; omega
  rw [counterAt_window (by simp only [counterAddr]; omega), if_neg aligned, counterInRange, there, d', n']

theorem counterAt_outside {d n : Nat} {c : Ctx} (die : d < 2) (number : n < 4096) (there : s.ctx? iss.ctx = some c) (outside : n < c.ctrLo d ∨ c.ctrHi d < n) :
    counterAt s iss (winBase 4 + counterAddr d n) = .error 10 := by
  rw [counterAt_counter die number there, if_neg (by simp only [Bool.and_eq_true, decide_eq_true_eq]; omega)]

@[simp] theorem hashed_ctx? (s : State) (iss : Issue) (i : Instr) (k : Nat) : (hashed s iss i).ctx? k = s.ctx? k := by simp only [State.ctx?, hashed_ctxs]

@[simp] theorem hashed_counterAt (s : State) (iss : Issue) (i : Instr) (va : Nat) : counterAt (hashed s iss i) iss va = counterAt s iss va := by
  simp only [counterAt, hashed_ctx?]

theorem counterAt_of_atCounter {l : Nat} {a : Reg} {d n : Nat} (at' : AtCounter s iss l a d n) :
    counterAt s iss (teamReg iss true l a) = .ok (counterAddr d n) := by
  obtain ⟨c, there, low, high⟩ := at'.range
  rw [at'.addr, counterAt_counter at'.bound.1 at'.bound.2 there, if_pos (by simp only [Bool.and_eq_true, decide_eq_true_eq]; exact ⟨low, high⟩)]

/-- An instruction that stops where the check of its address gives a cause. -/
theorem checksCounter_of_stops {i : Instr} {a : Reg} (stops : ∀ {s iss l c}, Issues s iss i → iss.low = some l → iss.frag.latch = .none →
    Machine.counterAt s iss (teamReg iss true l a) = .error c → Traps i s iss c 0 (teamReg iss true l a)) : ChecksCounter i a := by
  intro s iss l issues low latch va
  refine ⟨fun beyond => ?_, fun below => ?_, fun d n c address die number there outside => ?_, fun o address inside odd => ?_⟩
  · exact stops issues low latch (counterAt_beyond beyond)
  · exact stops issues low latch (counterAt_below below)
  · exact stops issues low latch (by rw [show teamReg iss true l a = _ from address]; exact counterAt_outside die number there outside)
  · exact stops issues low latch (by rw [show teamReg iss true l a = _ from address]; exact counterAt_misaligned inside odd)

end

/-! ### Waiters -/

/-- A fragment that an update of a counter to v reaches in WAITCT goes on. -/
def Fragment.wake (addr v : Nat) (f : Fragment) : Fragment :=
  match f.latch with
  | .counter a th => if a == addr && decide (th ≤ v) then { f with latch := .done 0 } else f
  | _ => f

def Team.wake (addr v : Nat) (t : Team) : Team := { t with frags := t.frags.map (fun e => (e.1, e.2.wake addr v)) }

theorem State.wakeCounter_eq (s : State) (addr : Nat) :
    s.wakeCounter addr = { s with teams := s.teams.map (fun e => (e.1, e.2.wake addr (s.counter addr))) } := by
  unfold State.wakeCounter Team.wake
  dsimp only
  congr 3
  funext ⟨k, t⟩
  congr 2
  refine congrArg (fun f => List.map f t.frags) (funext fun ⟨e, f⟩ => ?_)
  simp only [Fragment.wake]
  cases f.latch with
  | counter a th => dsimp only; split <;> rfl
  | _ => rfl

theorem Fragment.wake_waits {addr v th : Nat} {f : Fragment} (waits : (f.wake addr v).latch = .counter addr th) : v < th := by
  unfold Fragment.wake at waits
  split at waits
  · next a th' latch =>
    split at waits
    · cases waits
    · next late =>
      rw [latch] at waits
      cases waits
      simpa using late
  · next other => exact absurd waits (other addr th)

/-- After its waiters have been tested, none is left that the counter reaches. -/
theorem Team.wake_waits {addr v th e : Nat} {f : Fragment} {t : Team} (there : (t.wake addr v).frag? e = some f) (waits : f.latch = .counter addr th) :
    v < th := by
  rw [Team.frag?, Team.wake, NMap.look_mapVal] at there
  obtain ⟨g, -, rfl⟩ := Option.map_eq_some_iff.mp there
  exact Fragment.wake_waits waits

/-! ### Slots that watch (R249) and held records (R52) -/

@[simp] theorem State.slotTest_mem (s : State) (k : Nat) : (s.slotTest k).mem = s.mem := by
  unfold State.slotTest
  split
  · rfl
  · split <;> rfl

@[simp] theorem State.slotTest_teams (s : State) (k : Nat) : (s.slotTest k).teams = s.teams := by
  unfold State.slotTest
  split
  · rfl
  · split <;> rfl

@[simp] theorem State.depTest_teams (s : State) (n : Nat) : (s.depTest n).teams = s.teams := by unfold State.depTest; dsimp only; split <;> rfl
@[simp] theorem State.depTest_conj (s : State) (n : Nat) : (s.depTest n).conj = s.conj := by unfold State.depTest; dsimp only; split <;> rfl

theorem State.counter_congr {s s' : State} (h : s'.mem.ctr = s.mem.ctr) (addr : Nat) : s'.counter addr = s.counter addr := by simp only [State.counter, h]

/-- An armed slot that is left by the test of some slots was armed before; its own test leaves it only where its counter is below its threshold. -/
theorem slotTest_armed {s : State} {key k : Nat} {x : CjSlot} (look : NMap.look (s.slotTest key).conj.slots k = some x) (armed : x.st = .armed) :
    NMap.look s.conj.slots k = some x ∧ (k = key → s.counter (refAddr x.trig) < x.thresh) := by
  unfold State.slotTest at look
  cases there : NMap.look s.conj.slots key with
  | none =>
    simp only [there] at look
    exact ⟨look, fun e => by rw [e, there] at look; cases look⟩
  | some y =>
    simp only [there] at look
    split at look
    · by_cases own : k = key
      · subst own
        rw [State.updConj_conj, NMap.look_put_same] at look
        cases look
        cases armed
      · rw [State.updConj_conj, NMap.look_put_other _ _ own] at look
        exact ⟨look, fun e => absurd e own⟩
    · next below =>
      refine ⟨look, fun e => ?_⟩
      rw [e, there] at look
      cases look
      simpa [armed] using below

theorem foldl_slotTest_armed {keys : List Nat} {s : State} {k : Nat} {x : CjSlot} (look : NMap.look (keys.foldl State.slotTest s).conj.slots k = some x)
    (armed : x.st = .armed) : NMap.look s.conj.slots k = some x ∧ (k ∈ keys → s.counter (refAddr x.trig) < x.thresh) := by
  induction keys generalizing s with
  | nil => exact ⟨look, fun h => absurd h (by simp)⟩
  | cons key keys ih =>
    obtain ⟨later, test⟩ := ih look
    obtain ⟨before, own⟩ := slotTest_armed later armed
    refine ⟨before, fun mem => ?_⟩
    rcases List.mem_cons.mp mem with e | mem
    · exact own e
    · rw [← State.counter_congr (congrArg MemSt.ctr (State.slotTest_mem s key))]
      exact test mem

/-! ### Updates -/

theorem Store.setDword_tagged (m : Store) {a : Nat} (aligned : a % 8 = 0) (x : DWord) : (m.setDword a x).tagged a 8 = false := by
  simp only [Store.tagged, List.any_eq_false, mem_granules]
  rintro g ⟨-, low, high⟩
  have own : a = 8 * g := by omega
  subst own
  simp [Store.setDword, Store.has_poison_write, leBytes_length]

/-- The state an update leaves before the slots and the records that watch are tested. -/
theorem State.setCounter_ctr (s : State) (o : Nat) (x : DWord) : (s.setCounter o x).mem.ctr = s.mem.ctr.setDword o x := by
  unfold State.setCounter
  extract_lets s1 keys s2
  have tested : s2.mem = s1.mem := foldl_keeps State.mem State.slotTest_mem keys s1
  rw [foldl_keeps State.mem State.depTest_mem, tested]
  rfl

theorem State.counter_setDword {s s' : State} {o : Nat} {x : DWord} (aligned : o % 8 = 0) (written : s'.mem.ctr = s.mem.ctr.setDword o x) :
    s'.counter o = x.toNat := by
  rw [State.counter, written, Store.setDword_tagged _ aligned, if_neg (by simp), Store.dword_setDword]

theorem State.setCounter_teams (s : State) {o : Nat} (aligned : o % 8 = 0) (x : DWord) :
    (s.setCounter o x).teams = s.teams.map (fun e => (e.1, e.2.wake o x.toNat)) := by
  unfold State.setCounter
  extract_lets s1 keys s2
  have tested : s2.teams = s1.teams := foldl_keeps State.teams State.slotTest_teams keys s1
  rw [foldl_keeps State.teams State.depTest_teams, tested]
  simp only [s1, State.wakeCounter_eq]
  rw [State.counter_setDword (s := s) aligned rfl]
  rfl

theorem State.setCounter_team? (s : State) {o : Nat} (aligned : o % 8 = 0) (x : DWord) (u : Nat) :
    (s.setCounter o x).team? u = (s.team? u).map (Team.wake o x.toNat) := by
  rw [State.team?, State.setCounter_teams s aligned, NMap.look_mapVal]
  rfl

theorem State.setCounter_armed {s : State} {o k : Nat} {v : DWord} {x : CjSlot} (aligned : o % 8 = 0) (look : NMap.look (s.setCounter o v).conj.slots k = some x)
    (armed : x.st = .armed) (watches : refAddr x.trig = o) : v.toNat < x.thresh := by
  unfold State.setCounter at look
  extract_lets s1 keys s2 at look
  rw [foldl_keeps State.conj State.depTest_conj] at look
  obtain ⟨before, test⟩ := foldl_slotTest_armed look armed
  have below := test (List.mem_map.mpr ⟨(k, x), List.mem_filter.mpr ⟨NMap.mem_of_look before, by simp [armed, watches]⟩, rfl⟩)
  have written : s1.mem.ctr = s.mem.ctr.setDword o v := rfl
  rwa [watches, State.counter_setDword aligned written] at below

/-- What an update of a counter leaves (R203, R249). -/
theorem State.setCounter_becomes {s0 s : State} (same : s.mem.ctr = s0.mem.ctr) {o : Nat} (aligned : o % 8 = 0) (x : DWord) :
    CounterBecomes s0 (s.setCounter o x) o x.toNat := by
  refine ⟨State.counter_setDword aligned (State.setCounter_ctr s o x), fun c outside => ?_, fun u t e f th there frag waits => ?_, fun k y look armed watches => ?_⟩
  · rw [State.setCounter_ctr, ← same]
    exact Store.bytes_write_outside _ _ _ _ outside
  · rw [State.setCounter_team? s aligned] at there
    obtain ⟨t0, -, rfl⟩ := Option.map_eq_some_iff.mp there
    exact Team.wake_waits frag waits
  · exact State.setCounter_armed aligned look armed watches

end Sys2Proof.Machine
end

section
/-! WAITCT, CTSET, CTADD and CTRD (R203-R205): where nothing of the team's accesses is under way, a counter instruction comes to its counter, counted on a path and,
with release, behind a fence; of its team these change the counts alone. -/

namespace Sys2Proof.Machine
open Sys2Proof.Claims

variable {s : State} {iss : Issue}

/-! ### Teams up to their counts of accesses -/

/-- A team without its paths and the mark that it merged early. -/
def Team.uncounted (t : Team) : Team := { t with paths := [], early := false }

/-- Every team is there as it was, but for those, and no counter has changed. -/
structure OnlyCounts (s s' : State) : Prop where
  teams : ∀ u, (s'.team? u).map Team.uncounted = (s.team? u).map Team.uncounted
  ctr : s'.mem.ctr = s.mem.ctr

theorem OnlyCounts.refl (s : State) : OnlyCounts s s := ⟨fun _ => rfl, rfl⟩

theorem OnlyCounts.trans {s s' s'' : State} (h : OnlyCounts s s') (h' : OnlyCounts s' s'') : OnlyCounts s s'' :=
  ⟨fun u => (h'.teams u).trans (h.teams u), h'.ctr.trans h.ctr⟩

theorem OnlyCounts.of_eq {s s' : State} (teams : s'.teams = s.teams) (ctr : s'.mem.ctr = s.mem.ctr) : OnlyCounts s s' :=
  ⟨fun u => by rw [State.team?_congr teams], ctr⟩

theorem OnlyCounts.updTeam (s : State) (u : Nat) {f : Team → Team} (counts : ∀ t, (f t).uncounted = t.uncounted) : OnlyCounts s (s.updTeam u f) := by
  refine ⟨fun v => ?_, by rw [State.updTeam_mem]⟩
  by_cases own : v = u
  · subst own
    rw [State.updTeam_team?_same, Option.map_map]
    exact congrArg (fun g => Option.map g (s.team? v)) (funext counts)
  · rw [State.updTeam_team?_other _ _ own]

theorem OnlyCounts.foldl {α : Type} {f : State → α → State} (h : ∀ s x, OnlyCounts s (f s x)) (l : List α) (s : State) : OnlyCounts s (l.foldl f s) := by
  induction l generalizing s with
  | nil => exact .refl s
  | cons x l ih => exact (h s x).trans (ih _)

theorem OnlyCounts.settle (s : State) (sel : Pend → Nat → Bool) (selp : PeerPend → Nat → Bool) : OnlyCounts s (s.settle sel selp) :=
  .of_eq (State.settle_teams s sel selp) (congrArg MemSt.ctr (State.noWrites_mem (State.settle_noWrites s sel selp)) :)

theorem OnlyCounts.markEarly (s : State) (sel : Pend → Nat → Bool) : OnlyCounts s (s.markEarly sel) := by
  refine .foldl (fun s p => ?_) _ s
  split
  · exact .updTeam s _ (fun _ => rfl)
  · exact .refl s

theorem OnlyCounts.mergeTeam (s : State) (t : Team) : OnlyCounts s (s.mergeTeam t) := .trans (.markEarly s _) (.settle _ _ _)

theorem OnlyCounts.release (s : State) (t : Team) : OnlyCounts s (s.fenceDo t .st .device) :=
  .trans (s' := s.publish (fun p => p.team == t.id)) (.of_eq rfl rfl) (.mergeTeam _ t)

theorem Team.countPaths_uncounted (ps : List Nat) (inst : Nat) (t : Team) : (t.countPaths ps inst).uncounted = t.uncounted :=
  foldl_keeps Team.uncounted (f := fun t p => t.setPath p (t.path p ++ [inst])) (fun _ _ => rfl) ps t

theorem OnlyCounts.countOnce (s : State) (u path : Nat) : OnlyCounts s (s.countOnce u path) :=
  .trans (s' := s.fresh.2) (.of_eq rfl rfl) (.trans (.updTeam _ u (Team.countPaths_uncounted [path] _)) (.updTeam _ u (fun _ => rfl)))

theorem OnlyCounts.team? {s s' : State} (h : OnlyCounts s s') {u : Nat} {t : Team} (there : s.team? u = some t) :
    ∃ t', s'.team? u = some t' ∧ t'.uncounted = t.uncounted := by
  have same := h.teams u
  rw [there, Option.map_some] at same
  exact Option.map_eq_some_iff.mp same

/-- Counting an access touches a team and gives out a number. -/
theorem State.countOnce_rest (s : State) (u path : Nat) : { s.countOnce u path with teams := [], nextId := 0 } = { s with teams := [], nextId := 0 } := by
  unfold State.countOnce State.retire
  dsimp only
  exact (congrArg (fun t : State => { t with nextId := 0 }) (State.updTeam_rest _ _ _)).trans
    (congrArg (fun t : State => { t with nextId := 0 }) (State.updTeam_rest s.fresh.2 _ _))

theorem State.countOnce_mem (s : State) (u path : Nat) : (s.countOnce u path).mem = s.mem :=
  (congrArg State.mem (State.countOnce_rest s u path) :)

theorem hashed_rest (s : State) (iss : Issue) (i : Instr) : { hashed s iss i with teams := [] } = { s with teams := [] } := by
  rcases hashed_cases s iss i with h | ⟨h, -⟩
  · rw [h]; exact State.updTeam_rest s _ _
  · rw [h]

/-! ### A counter instruction (R204) -/

theorem quiet_hashed (quiet : Claims.Quiet s iss) (i : Instr) : Claims.Quiet (hashed s iss i) iss where
  key := quiet.key
  noLock := quiet.noLock
  noOver := quiet.noOver
  none' := by rw [hashed_reqs]; exact quiet.none'
  room := quiet.room
  single := by simpa using quiet.single

/-- What a counter instruction does before it reads or updates its counter. -/
def State.counterBefore (s : State) (iss : Issue) (rel : Bool) : State := (if rel then s.fenceDo iss.team .st .device else s).countOnce iss.tid 3

theorem OnlyCounts.counterBefore (s : State) (iss : Issue) (rel : Bool) : OnlyCounts s (s.counterBefore iss rel) := by
  refine .trans ?_ (.countOnce _ iss.tid 3)
  split
  · exact .release s iss.team
  · exact .refl s

theorem counterOp_idle {a : Reg} {rel update : Bool} {f : Nat → Nat → State → Eff} (idle : iss.low = none) : counterOp iss s a rel update f = .done s := by
  simp only [counterOp, idle]

theorem counterOp_stops {a : Reg} {rel update : Bool} {f : Nat → Nat → State → Eff} {l c : Nat} (low : iss.low = some l)
    (bad : counterAt s iss (teamReg iss true l a) = .error c) : counterOp iss s a rel update f = .stop c 0 (teamReg iss true l a) 0 := by
  simp only [counterOp, low, bad]

theorem counterOp_reaches {a : Reg} {rel update : Bool} {f : Nat → Nat → State → Eff} {l o : Nat} (quiet : Claims.Quiet s iss) (low : iss.low = some l)
    (at' : counterAt s iss (teamReg iss true l a) = .ok o) : counterOp iss s a rel update f = f l o (s.counterBefore iss rel) := by
  have mine : s.reqs.filter (fun r => r.team == iss.tid) = [] := List.filter_eq_nil_iff.mpr (fun r mem => by simpa using quiet.none' r mem)
  have room : iss.team.pathRoom [3] = true := by simpa [Team.pathRoom] using quiet.room 3
  cases there : s.launch? iss.team.launch with
  | none =>
    simp only [counterOp, low, at', mine, quiet.noLock, quiet.noOver, room, there, List.any_nil, List.isEmpty_nil, Bool.not_true, Bool.and_false, Bool.or_false, Bool.false_eq_true,
      if_false, State.counterBefore, quiet.key]
  | some q =>
    have settled : q.tentative = false := by rw [Launch.tentative, quiet.single q there]
    simp only [counterOp, low, at', mine, quiet.noLock, quiet.noOver, room, there, settled, List.any_nil, List.isEmpty_nil, Bool.not_true, Bool.and_false, Bool.or_false,
      Bool.false_eq_true, if_false, State.counterBefore, quiet.key]

/-! ### The instructions -/

section
variable {rel : Bool} {d a : Reg} {b : Src} {l die n : Nat}

theorem needsLane_waitct (a : Reg) (b : Src) : NeedsLane (.waitct a b) := fun s _ issues idle => issues.completes (exec_waitct s a b) (by simp only [idle])
theorem needsLane_ctset (rel : Bool) (a : Reg) (b : Src) : NeedsLane (.ctset rel a b) :=
  fun s _ issues idle => issues.completes (exec_ctset s rel a b) (counterOp_idle idle)
theorem needsLane_ctadd (rel : Bool) (d a : Reg) (b : Src) : NeedsLane (.ctadd rel d a b) :=
  fun s _ issues idle => issues.completes (exec_ctadd s rel d a b) (counterOp_idle idle)
theorem needsLane_ctrd (d a : Reg) : NeedsLane (.ctrd d a) := fun s _ issues idle => issues.completes (exec_ctrd s d a) (counterOp_idle idle)

theorem checksCounter_waitct (a : Reg) (b : Src) : ChecksCounter (.waitct a b) a :=
  checksCounter_of_stops fun {s _ _ _} issues low latch bad => issues.traps (exec_waitct s a b) (by simp only [low, latch, hashed_counterAt, bad])
theorem checksCounter_ctset (rel : Bool) (a : Reg) (b : Src) : ChecksCounter (.ctset rel a b) a :=
  checksCounter_of_stops fun {s _ _ _} issues low _ bad => issues.traps (exec_ctset s rel a b) (counterOp_stops low (by rwa [hashed_counterAt]))
theorem checksCounter_ctadd (rel : Bool) (d a : Reg) (b : Src) : ChecksCounter (.ctadd rel d a b) a :=
  checksCounter_of_stops fun {s _ _ _} issues low _ bad => issues.traps (exec_ctadd s rel d a b) (counterOp_stops low (by rwa [hashed_counterAt]))
theorem checksCounter_ctrd (d a : Reg) : ChecksCounter (.ctrd d a) a :=
  checksCounter_of_stops fun {s _ _ _} issues low _ bad => issues.traps (exec_ctrd s d a) (counterOp_stops low (by rwa [hashed_counterAt]))

/-- The team after what it reads comes behind the fences so far (R174). -/
def State.acquired (s : State) (u seq : Nat) : State := s.updTeam u (fun t => { t with acq := seq })

@[simp] theorem hashed_counter (s : State) (iss : Issue) (i : Instr) (o : Nat) : (hashed s iss i).counter o = s.counter o :=
  State.counter_congr (by rw [hashed_mem]) o

@[simp] theorem hashed_waitsBehind (s : State) (iss : Issue) (i : Instr) (t : Team) : t.waitsBehind (hashed s iss i) = t.waitsBehind s := by
  simp only [Team.waitsBehind, State.acquiring, hashed_reqs]

theorem completes_waitct (at' : AtCounter s iss l a die n) (issues : Issues s iss (.waitct a b))
    (reached : (∃ v, iss.frag.latch = .done v) ∨
      (iss.frag.latch = .none ∧ iss.team.waitsBehind s = false ∧ teamSrc iss false l b ≤ s.counter (counterAddr die n))) :
    Completes (.waitct a b) s iss ((hashed s iss (.waitct a b)).acquired iss.tid s.mem.seq) := by
  refine issues.completes (exec_waitct s a b) ?_
  rcases reached with ⟨v, woken⟩ | ⟨latch, free, above⟩
  · simp only [at'.lane, woken, hashed_mem]
    rfl
  · simp only [at'.lane, latch, hashed_counterAt, counterAt_of_atCounter at', hashed_waitsBehind, free, hashed_counter, above, Bool.false_eq_true, if_false, if_true, hashed_mem]
    rfl

theorem waits_waitct (at' : AtCounter s iss l a die n) (issues : Issues s iss (.waitct a b)) (latch : iss.frag.latch = .none)
    (free : iss.team.waitsBehind s = false) (below : s.counter (counterAddr die n) < teamSrc iss false l b) :
    Waits (.waitct a b) s iss (.counter (counterAddr die n) (teamSrc iss false l b)) (hashed s iss (.waitct a b)) :=
  issues.waits (exec_waitct s a b) (by
    simp only [at'.lane, latch, hashed_counterAt, counterAt_of_atCounter at', hashed_waitsBehind, free, hashed_counter, if_neg (Nat.not_le.mpr below), Bool.false_eq_true, if_false])

theorem counterAddr_aligned (die n : Nat) : counterAddr die n % 8 = 0 := by simp only [counterAddr]; omega

/-- The 64-bit word of a signed source. -/
theorem ofNat_wrapI_signedSrc (iss : Issue) (l : Nat) (b : Src) : BitVec.ofNat 64 (wrapI (signedSrc iss l b) 64) = BitVec.ofInt 64 (signedWord iss l b) := by
  rw [wrapI_eq_toNat, BitVec.ofNat_toNat, BitVec.setWidth_eq, signedSrc_eq]

theorem completes_ctset (quiet : Claims.Quiet s iss) (at' : AtCounter s iss l a die n) (issues : Issues s iss (.ctset rel a b)) :
    Completes (.ctset rel a b) s iss
      ((((hashed s iss (.ctset rel a b)).counterBefore iss rel).irreversible iss.tid).setCounter (counterAddr die n) (BitVec.ofInt 64 (signedWord iss l b))) :=
  issues.completes (exec_ctset s rel a b) (by
    rw [counterOp_reaches (quiet_hashed quiet _) at'.lane (by rw [hashed_counterAt]; exact counterAt_of_atCounter at'), ofNat_wrapI_signedSrc])

theorem ctr_counterBefore (s : State) (iss : Issue) (i : Instr) (rel : Bool) : ((hashed s iss i).counterBefore iss rel).mem.ctr = s.mem.ctr := by
  rw [(OnlyCounts.counterBefore _ iss rel).ctr, hashed_mem]

/-- The team once its access is counted and cannot be undone (R258). -/
theorem team?_irreversible {i : Instr} (issues : Issues s iss i) (rel : Bool) : ∃ t, (((hashed s iss i).counterBefore iss rel).irreversible iss.tid).team? iss.tid = some t ∧
    t.irrev = min 65535 (iss.team.irrev + 1) ∧
    { t with paths := [], early := false, irrev := 0 } = { hashTeam iss i iss.team with paths := [], early := false, irrev := 0 } := by
  obtain ⟨t, there, same⟩ := (OnlyCounts.counterBefore (hashed s iss i) iss rel).team? issues.hashed_team?
  refine ⟨_, State.updTeam_team? _ there, ?_, (congrArg (fun t : Team => { t with irrev := 0 }) same :)⟩
  have count : t.irrev = iss.team.irrev :=
    ((congrArg Team.irrev same :) : t.irrev = (hashTeam iss i iss.team).irrev).trans (congrArg Team.irrev (hashTeam_quiet iss i iss.team) :)
  rw [← count]

theorem writeOut_mem (s : State) (iss : Issue) (w : Nat) (ext : Nat → Nat) (d : Reg) (outs : List LaneOut) : (writeOut s iss w ext d outs).mem = s.mem := by
  unfold writeOut
  split
  · exact State.updTeam_mem _ _ _
  · split
    · rfl
    · exact State.updTeam_mem _ _ _
  · split
    · rfl
    · unfold State.pushPort
      split
      · rfl
      · split
        · exact State.updTeam_mem _ _ _
        · rfl

theorem writeWide_mem (s : State) (iss : Issue) (d : Reg) (x : Nat) (tag : Bool) : (writeWide s iss d x tag).mem = s.mem := by
  cases d <;> exact writeOut_mem _ _ _ _ _ _

theorem State.addCounter_of_clear {s : State} {o : Nat} (clear : s.mem.ctr.tagged o 8 = false) (x : DWord) :
    s.addCounter o x = s.setCounter o (s.mem.ctr.dword o + x) := by
  rw [State.addCounter, if_neg (by simp [clear]), State.counter, if_neg (by simp [clear]), BitVec.ofNat_toNat, BitVec.setWidth_eq]

theorem completes_ctadd (quiet : Claims.Quiet s iss) (at' : AtCounter s iss l a die n) (clear : s.mem.ctr.tagged (counterAddr die n) 8 = false)
    (issues : Issues s iss (.ctadd rel d a b)) : Completes (.ctadd rel d a b) s iss
      ((writeWide (((hashed s iss (.ctadd rel d a b)).counterBefore iss rel).irreversible iss.tid) iss d (s.counter (counterAddr die n)) false).setCounter (counterAddr die n)
        (s.mem.ctr.dword (counterAddr die n) + BitVec.ofInt 64 (signedWord iss l b))) := by
  refine issues.completes (exec_ctadd s rel d a b) ?_
  have same := ctr_counterBefore s iss (.ctadd rel d a b) rel
  have written : (writeWide (((hashed s iss (.ctadd rel d a b)).counterBefore iss rel).irreversible iss.tid) iss d
      (s.counter (counterAddr die n)) false).mem.ctr = s.mem.ctr := by
    rw [writeWide_mem, State.irreversible, State.updTeam_mem, same]
  rw [counterOp_reaches (quiet_hashed quiet _) at'.lane (by rw [hashed_counterAt]; exact counterAt_of_atCounter at')]
  simp only [same, clear, State.counter_congr same, Bool.false_eq_true, if_false]
  exact congrArg Eff.done ((State.addCounter_of_clear (by rw [written, clear]) _).trans (by rw [written, ofNat_wrapI_signedSrc]))

theorem completes_ctrd (quiet : Claims.Quiet s iss) (at' : AtCounter s iss l a die n) (clear : s.mem.ctr.tagged (counterAddr die n) 8 = false)
    (issues : Issues s iss (.ctrd d a)) : Completes (.ctrd d a) s iss
      ((writeWide ((hashed s iss (.ctrd d a)).countOnce iss.tid 3) iss d (s.counter (counterAddr die n)) false).acquired iss.tid s.mem.seq) := by
  refine issues.completes (exec_ctrd s d a) ?_
  have same : ((hashed s iss (.ctrd d a)).countOnce iss.tid 3).mem = s.mem := by
    rw [State.countOnce_mem, hashed_mem]
  rw [counterOp_reaches (quiet_hashed quiet _) at'.lane (by rw [hashed_counterAt]; exact counterAt_of_atCounter at')]
  simp only [State.counterBefore, same, clear, State.counter_congr (congrArg MemSt.ctr same), Bool.false_eq_true, if_false]
  rfl

end

end Sys2Proof.Machine

namespace Sys2Proof.Claims
open Sys2Proof.Machine

/-- Settles O22, instruction by instruction: the check of its address, and what it does where nothing of the team's accesses is under way. -/
theorem counterResults : Obligations.CounterResults := by
  unfold Obligations.CounterResults
  refine fun rel d a b => ⟨⟨needsLane_waitct a b, needsLane_ctset rel a b, needsLane_ctadd rel d a b, needsLane_ctrd d a⟩,
    ⟨checksCounter_waitct a b, checksCounter_ctset rel a b, checksCounter_ctadd rel d a b, checksCounter_ctrd d a⟩, ?_⟩
  intro s iss l die n at' o x acquired plain
  have aligned : o % 8 = 0 := counterAddr_aligned die n
  refine ⟨completes_waitct at', waits_waitct at', fun quiet issues => ?_, fun quiet clear issues => ?_, fun quiet clear issues => ?_⟩
  · obtain ⟨t, there, count, same⟩ := team?_irreversible issues rel
    refine ⟨_, _, completes_ctset quiet at' issues, State.setCounter_becomes ?_ aligned x,
      (State.setCounter_team? _ aligned x _).trans (congrArg _ there), count, ?_⟩
    · rw [State.irreversible, State.updTeam_mem, ctr_counterBefore]
    · exact (congrArg (fun t : Team => { t with frags := [] }) same).trans (congrArg plain (hashTeam_but_frags iss _ iss.team))
  · obtain ⟨t, there, count, same⟩ := team?_irreversible issues rel
    obtain ⟨t2, written⟩ := writeWide_team? there d (s.counter o)
    refine ⟨_, _, _, _, t, t2, _, issues.hashed_team?, there, same, count, writeWide_wide d _ ⟨t, there⟩, written,
      (State.setCounter_team? _ aligned _ _).trans (congrArg _ written), rfl, State.setCounter_becomes ?_ aligned _, completes_ctadd quiet at' clear issues⟩
    rw [writeWide_mem, State.irreversible, State.updTeam_mem, ctr_counterBefore]
  · obtain ⟨t, there, same⟩ := (OnlyCounts.countOnce (hashed s iss (.ctrd d a)) iss.tid 3).team? issues.hashed_team?
    refine ⟨_, _, _, t, issues.hashed_team?, there, (congrArg (fun t : Team => { t with irrev := 0 }) same :), ?_, writeWide_wide d _ ⟨t, there⟩,
      completes_ctrd quiet at' clear issues⟩
    exact (State.countOnce_rest _ _ _).trans (congrArg (fun t : State => { t with nextId := 0 }) (hashed_rest s iss _))

end Sys2Proof.Claims
end

section
/-! LOCK, TRYLK, UNLOCK and LKQRY (R186-R190): the table of R188 line by line for an attempt at the home, a lock given back where nobody waits, and the word of a
line. -/

namespace Sys2Proof.Machine
open Sys2Proof.Claims

variable {s : State} {iss : Issue} {d a : Reg} {l pa timeout : Nat} {tryOnly : Bool}

/-! ### Bytes of a storage -/

theorem Store.read_getElem (m : Store) (x n : Nat) {j : Nat} (inside : j < (m.read x n).length) : (m.read x n)[j] = m.bytes.read (x + j) := by
  simp [Store.read, Memory.readN]

theorem Store.read_length (m : Store) (x n : Nat) : (m.read x n).length = n := by simp [Store.read, Memory.readN]

/-! ### Locks of lines -/

theorem lineOf_lineOf (pa : Nat) : lineOf (lineOf pa) = lineOf pa := by simp only [lineOf]; omega

theorem State.lockAt_lineOf (s : State) (pa : Nat) : s.lockAt (lineOf pa) = s.lockAt pa := by simp only [State.lockAt, lineOf_lineOf]
theorem State.ownerAt_lineOf (s : State) (pa : Nat) : s.ownerAt (lineOf pa) = s.ownerAt pa := by simp only [State.ownerAt, lineOf_lineOf]

theorem State.lockAt_line {k : LineLock} (there : s.lockAt pa = some k) : k.line = lineOf pa := by
  simpa using List.find?_some there

theorem State.lockAt_congr {s s' : State} (h : s'.mem.locks = s.mem.locks) (pa : Nat) : s'.lockAt pa = s.lockAt pa := by simp only [State.lockAt, h]

theorem State.locksOf_congr {s s' : State} (h : s'.mem.locks = s.mem.locks) (u : Nat) : s'.locksOf u = s.locksOf u := by simp only [State.locksOf, h]

@[simp] theorem hashed_lockAt (s : State) (iss : Issue) (i : Instr) (pa : Nat) : (hashed s iss i).lockAt pa = s.lockAt pa :=
  State.lockAt_congr (by rw [hashed_mem]) pa

/-- A change of the locks that keeps their lines changes the lock of a line so. -/
theorem find?_map_line (locks : List LineLock) (line : Nat) {f : LineLock → LineLock} (keeps : ∀ k, (f k).line = k.line) :
    (locks.map f).find? (fun k => k.line == line) = (locks.find? (fun k => k.line == line)).map f := by
  rw [List.find?_map]
  exact congrArg (Option.map f) (congrArg (fun p => locks.find? p) (funext fun k => by rw [Function.comp_apply, keeps]))

/-! ### An attempt at the home (R187, R188) -/

section
variable {t : Team} {k : LineLock}

theorem lockAttempt_own (there : s.lockAt pa = some k) (own : k.holder = t.id) (present : k.absent = false) :
    s.lockAttempt t pa tryOnly = (.status 2, s) := by
  simp only [State.lockAttempt, State.lockAt_lineOf, there, own, present, beq_self_eq_true, Bool.not_false, Bool.and_self, if_true]

/-- The state once a team waits for a line. -/
def State.queued (s : State) (t : Team) (line : Nat) : State :=
  (s.updCore t.core (fun c => { c with waiters := c.waiters ++ [t.id] })).updMem (fun m =>
    { m with locks := m.locks.map (fun x => if x.line == line then { x with queue := x.queue ++ [(t.id, s.clk)] } else x) })

theorem State.queued_hbm (s : State) (t' : Team) (line : Nat) : (s.queued t' line).mem.hbm = s.mem.hbm := rfl

theorem State.queued_lockAt (s : State) (t' : Team) (pa : Nat) : (s.queued t' (lineOf pa)).lockAt pa =
    (s.lockAt pa).map (fun x => if x.line == lineOf pa then { x with queue := x.queue ++ [(t'.id, s.clk)] } else x) :=
  find?_map_line s.mem.locks (lineOf pa) (fun k => by split <;> rfl)

theorem State.queued_queue (there : s.lockAt pa = some k) (t' : Team) : ((s.queued t' (lineOf pa)).lockAt pa).map (fun k => k.queue) = some (k.queue ++ [(t'.id, s.clk)]) := by
  rw [State.queued_lockAt, there, Option.map_some, Option.map_some, if_pos (beq_iff_eq.mpr (State.lockAt_line there))]

section
variable (there : s.lockAt pa = some k) (other : k.holder ≠ t.id)
include there other

theorem lockAttempt_full (full : 8 ≤ (s.locksOf t.id).length) : s.lockAttempt t pa tryOnly = (.status 4, s) := by
  simp only [State.lockAttempt, State.lockAt_lineOf, there, beq_eq_false_iff_ne.mpr other, Bool.false_and, Bool.false_eq_true, if_false, full, if_true]

theorem lockAttempt_try (room : (s.locksOf t.id).length < 8) : s.lockAttempt t pa true = (.status 5, s) := by
  simp only [State.lockAttempt, State.lockAt_lineOf, there, beq_eq_false_iff_ne.mpr other, Bool.false_and, Bool.false_eq_true, if_false, Nat.not_le.mpr room, if_true]

theorem lockAttempt_waits (room : (s.locksOf t.id).length < 8) (slots : (s.coreSt t.core).waiters.length < 32) :
    s.lockAttempt t pa false = (.queued, s.queued t (lineOf pa)) := by
  simp only [State.lockAttempt, State.lockAt_lineOf, there, beq_eq_false_iff_ne.mpr other, Bool.false_and, Bool.false_eq_true, if_false, Nat.not_le.mpr room,
    Nat.not_le.mpr slots]
  rfl

end

/-- A free line as it is taken: the locked copy and the checkpoint are its bytes. -/
def State.takenLine (s : State) (t : Team) (line : Nat) : LineLock :=
  let data : Store := { bytes := Memory.writeN [] line (s.mem.hbm.read line 256), poison := markedIn s.mem.hbm.poison line }
  { line := line, holder := t.id, absent := false, check := data, copy := data, queue := [], handoffs := 0, timer := 0, order := s.nextId }

/-- The state once it has been taken. -/
def State.taken (s : State) (t : Team) (line : Nat) : State :=
  { (s.invalidate line 256).updMem (fun m => { m with locks := m.locks ++ [s.takenLine t line] }) with nextId := s.nextId + 1 }

theorem lockAttempt_free (free : s.lockAt pa = none) (room : (s.locksOf t.id).length < 8) (owner : s.ownerAt pa = none) (updates : s.mem.updates = [])
    (pending : NothingPending s) : s.lockAttempt t pa tryOnly = (.status 0, s.taken t (lineOf pa)) := by
  simp only [State.lockAttempt, State.lockAt_lineOf, free, Nat.not_le.mpr room, State.ownerAt_lineOf, owner, updates, NothingPending.claimLine pending,
    Option.isSome_none, List.any_nil, Bool.or_self, Bool.false_eq_true, if_false]
  rfl

theorem State.taken_team? (line u : Nat) : (s.taken t line).team? u = s.team? u := rfl
theorem State.taken_hbm (line : Nat) : (s.taken t line).mem.hbm = s.mem.hbm := rfl
theorem State.taken_seq (line : Nat) : (s.taken t line).mem.seq = s.mem.seq := rfl

theorem State.taken_lockAt (free : s.lockAt pa = none) : (s.taken t (lineOf pa)).lockAt pa = some (s.takenLine t (lineOf pa)) := by
  have none' : s.mem.locks.find? (fun k => k.line == lineOf pa) = none := free
  have own : ((s.takenLine t (lineOf pa)).line == lineOf pa) = true := beq_self_eq_true _
  have taken : (s.taken t (lineOf pa)).mem.locks = s.mem.locks ++ [s.takenLine t (lineOf pa)] := rfl
  rw [State.lockAt, taken, List.find?_append, none', Option.none_or, List.find?_singleton, own, if_pos rfl]

theorem State.takenLine_line (line : Nat) : (s.takenLine t line).line = line := rfl

theorem State.takenLine_copy (line : Nat) {c : Nat} (inside : c < 256) :
    (s.takenLine t line).copy.bytes.read (line + c) = s.mem.hbm.bytes.read (line + c) := by
  have lt : c < (s.mem.hbm.read line 256).length := by rwa [Store.read_length]
  simp only [State.takenLine]
  rw [Memory.read_writeN_same _ _ _ c lt, Store.read_getElem]

end

/-! ### LOCK and TRYLK -/

/-- The end of a LOCK or TRYLK. -/
theorem lockDone_eq (s : State) (iss : Issue) (d : Reg) (v : Nat) : lockDone iss s d v =
    .done ((writeStatus s iss d v).updTeam iss.tid (fun t => { t with lockOut := false, acq := if v = 0 then s.mem.seq else t.acq })) := by
  unfold lockDone
  by_cases zero : v = 0
  · simp only [zero, beq_self_eq_true, if_true, State.updTeam_updTeam]
  · simp only [beq_eq_false_iff_ne.mpr zero, Bool.false_eq_true, zero, if_false]

theorem lockDone_fails (s : State) (iss : Issue) (d : Reg) {v : Nat} (fails : v ≠ 0) : lockDone iss s d v =
    .done ((writeStatus s iss d v).updTeam iss.tid (fun t => { t with lockOut := false })) := by
  simp only [lockDone_eq, fails, if_false]

theorem lockIssue_idle (idle : iss.low = none) : lockIssue iss s d a timeout tryOnly = .done s := by simp only [lockIssue, idle]

theorem lockIssue_ends {v : Nat} (low : iss.low = some l) (ended : iss.frag.latch = .done v) : lockIssue iss s d a timeout tryOnly = lockDone iss s d v := by
  simp only [lockIssue, low, ended]

/-- A LOCK or TRYLK issues for the first time, nothing of its team under way, its address in local HBM. -/
structure LockIssues (s : State) (iss : Issue) (a : Reg) (l pa : Nat) : Prop where
  low : iss.low = some l
  latch : iss.frag.latch = .none
  clear : teamTag iss true l a = false
  aim : ∃ h, s.lockAim iss.team l (teamReg iss true l a) .both = (.at' { space := 0, x := 0, y := 0, addr := pa } h, s)
  free : s.lockHeldBack iss = false
  none' : ∀ r ∈ s.reqs, r.team ≠ iss.tid

theorem LockIssues.no_request (ready : LockIssues s iss a l pa) (va : Nat) :
    s.reqs.filter (fun x => x.team == iss.tid && x.place != .answered && x.parts.any (fun q => q.va / 256 == va / 256)) = [] :=
  List.filter_eq_nil_iff.mpr (fun r mem => by simp [beq_eq_false_iff_ne.mpr (ready.none' r mem)])

theorem LockIssues.status {v : Nat} {s3 : State} (ready : LockIssues s iss a l pa)
    (attempt : { s with nextId := s.nextId + 1 }.lockAttempt iss.team pa tryOnly = (.status v, s3)) :
    lockIssue iss s d a timeout tryOnly = lockDone iss s3 d v := by
  obtain ⟨h, aim⟩ := ready.aim
  simp only [lockIssue, ready.low, ready.latch, ready.clear, aim, ready.free, ready.no_request, State.fresh, attempt, Bool.false_eq_true, if_false, List.isEmpty_nil,
    Bool.not_true]

/-- The request of a LOCK or TRYLK (R186). -/
def lockRequest (s : State) (iss : Issue) (d a : Reg) (l timeout : Nat) (tryOnly : Bool) : Req :=
  let va := teamReg iss true l a
  { id := s.nextId, inst := s.nextId, team := iss.tid, entry := iss.entry, pc := iss.frag.pc, op := .lock d (s.clk + timeout) (timeout != 0) tryOnly
    path := 0, half := va / 128, parts := [{ lane := l, va := va, off := 0, len := 0, data := [], tag := false }]
    signed := false, ty := 0, place := .queue 0, since := s.clk, pa := none, answer := [], counted := false, twins := [], arrived := 0, again := false, via := none }

theorem LockIssues.waits {s3 : State} (ready : LockIssues s iss a l pa)
    (attempt : { s with nextId := s.nextId + 1 }.lockAttempt iss.team pa tryOnly = (.queued, s3)) :
    lockIssue iss s d a timeout tryOnly = .wait (.waiting 1) ((s3.placeReq (lockRequest s iss d a l timeout tryOnly) .lockWait).updTeam iss.tid
      (fun t => { t.countPaths [0] s.nextId with lockOut := true })) := by
  obtain ⟨h, aim⟩ := ready.aim
  simp only [lockIssue, ready.low, ready.latch, ready.clear, aim, ready.free, ready.no_request, State.fresh, attempt, Bool.false_eq_true, if_false, List.isEmpty_nil,
    Bool.not_true]
  rfl

theorem State.placeReq_lockWait (s : State) (r : Req) : { s.placeReq r .lockWait with reqs := [] } = { s with reqs := [] } := by
  unfold State.placeReq
  dsimp only
  split <;> rfl

@[simp] theorem State.placeReq_lockWait_mem (s : State) (r : Req) : (s.placeReq r .lockWait).mem = s.mem := (congrArg State.mem (s.placeReq_lockWait r) :)
@[simp] theorem State.placeReq_lockWait_teams (s : State) (r : Req) : (s.placeReq r .lockWait).teams = s.teams :=
  (congrArg State.teams (s.placeReq_lockWait r) :)
@[simp] theorem State.placeReq_lockWait_cores (s : State) (r : Req) : (s.placeReq r .lockWait).cores = s.cores :=
  (congrArg State.cores (s.placeReq_lockWait r) :)

/-- The state while a LOCK waits in the queue of its line, given the state it was issued in. -/
def State.lockWaits (s : State) (iss : Issue) (pa : Nat) (r : Req) (f : Team → Team) : State :=
  ((s.queued iss.team (lineOf pa)).placeReq r .lockWait).updTeam iss.tid f

section
variable (s iss pa) (r : Req) (f : Team → Team)

theorem State.lockWaits_mem : (s.lockWaits iss pa r f).mem = (s.queued iss.team (lineOf pa)).mem := by
  rw [State.lockWaits, State.updTeam_mem, State.placeReq_lockWait_mem]

theorem State.lockWaits_team? {t : Team} (there : s.team? iss.tid = some t) : (s.lockWaits iss pa r f).team? iss.tid = some (f t) := by
  refine State.updTeam_team? f ?_
  rw [State.team?_congr (State.placeReq_lockWait_teams _ r)]
  exact there

theorem State.queued_waiters (t : Team) (line : Nat) : ((s.queued t line).coreSt t.core).waiters = (s.coreSt t.core).waiters ++ [t.id] :=
  congrArg CoreSt.waiters (State.updCore_coreSt_same s t.core (fun c => { c with waiters := c.waiters ++ [t.id] }))

theorem State.lockWaits_waiters :
    ((s.lockWaits iss pa r f).coreSt iss.team.core).waiters = (s.coreSt iss.team.core).waiters ++ [iss.team.id] := by
  rw [← State.queued_waiters s iss.team (lineOf pa), State.coreSt, State.coreSt, State.lockWaits, State.updTeam_cores, State.placeReq_lockWait_cores]

end

/-- The state in which a LOCK or TRYLK that issues attempts to take its line: a number has been given out. -/
def State.lockStart (s : State) (iss : Issue) (i : Instr) : State := { hashed s iss i with nextId := s.nextId + 1 }

section
variable {i : Instr}

@[simp] theorem State.lockStart_mem : (s.lockStart iss i).mem = s.mem := hashed_mem s iss i
@[simp] theorem State.lockStart_clk : (s.lockStart iss i).clk = s.clk := hashed_clk s iss i
@[simp] theorem State.lockStart_lockAt : (s.lockStart iss i).lockAt pa = s.lockAt pa := State.lockAt_congr (by rw [State.lockStart_mem]) pa
@[simp] theorem State.lockStart_locksOf (u : Nat) : (s.lockStart iss i).locksOf u = s.locksOf u := State.locksOf_congr (by rw [State.lockStart_mem]) u
@[simp] theorem State.lockStart_ownerAt : (s.lockStart iss i).ownerAt pa = s.ownerAt pa := by rw [State.ownerAt, State.lockStart_mem, State.ownerAt]
@[simp] theorem State.lockStart_coreSt (c : Nat) : (s.lockStart iss i).coreSt c = s.coreSt c := by
  rw [State.coreSt, State.coreSt, show (s.lockStart iss i).cores = s.cores from hashed_cores s iss i]

theorem Issues.lockStart_team? (issues : Issues s iss i) : (s.lockStart iss i).team? iss.tid = some (hashTeam iss i iss.team) := issues.hashed_team?

variable {v : Nat} {s3 : State}

theorem LockIssues.start_status (ready : LockIssues (hashed s iss i) iss a l pa)
    (attempt : (s.lockStart iss i).lockAttempt iss.team pa tryOnly = (.status v, s3)) :
    lockIssue iss (hashed s iss i) d a timeout tryOnly = lockDone iss s3 d v :=
  ready.status (by rw [hashed_nextId]; exact attempt)

/-- A LOCK that joins the queue of its line. -/
theorem LockIssues.start_waits (ready : LockIssues (hashed s iss i) iss a l pa)
    (attempt : (s.lockStart iss i).lockAttempt iss.team pa tryOnly = (.queued, (s.lockStart iss i).queued iss.team (lineOf pa))) :
    ∃ r f, (∀ t : Team, (f t).lockOut = true) ∧
      lockIssue iss (hashed s iss i) d a timeout tryOnly = .wait (.waiting 1) ((s.lockStart iss i).lockWaits iss pa r f) :=
  ⟨_, _, fun _ => rfl, ready.waits (by rw [hashed_nextId]; exact attempt)⟩

/-- The state once a LOCK or TRYLK has taken a free line. -/
def State.lockTaken (s : State) (iss : Issue) (i : Instr) (d : Reg) (pa : Nat) : State :=
  (writeStatus ((s.lockStart iss i).taken iss.team (lineOf pa)) iss d 0).updTeam iss.tid (fun t => { t with lockOut := false, acq := s.mem.seq })

theorem State.lockTaken_mem (i : Instr) (d : Reg) (pa : Nat) : (s.lockTaken iss i d pa).mem = ((s.lockStart iss i).taken iss.team (lineOf pa)).mem := by
  rw [State.lockTaken, State.updTeam_mem]
  exact writeOut_mem _ _ _ _ _ _

theorem lockDone_zero : lockDone iss ((s.lockStart iss i).taken iss.team (lineOf pa)) d 0 = .done (s.lockTaken iss i d pa) := by
  rw [lockDone_eq, State.taken_seq, State.lockStart_mem]
  rfl

theorem State.lockTaken_team? (issues : Issues s iss i) (d : Reg) (pa : Nat) : ∃ t, (s.lockTaken iss i d pa).team? iss.tid = some t ∧ t.acq = s.mem.seq := by
  have there : ((s.lockStart iss i).taken iss.team (lineOf pa)).team? iss.tid = some (hashTeam iss i iss.team) := by
    rw [State.taken_team?, issues.lockStart_team?]
  have kept := Writes.keepsTeams (writeStatus_status d 0 ⟨_, there⟩) iss.tid
  obtain ⟨t, written⟩ := Option.isSome_iff_exists.mp (by rw [kept, there]; rfl :
    ((writeStatus ((s.lockStart iss i).taken iss.team (lineOf pa)) iss d 0).team? iss.tid).isSome = true)
  exact ⟨_, State.updTeam_team? _ written, rfl⟩

end

/-! ### UNLOCK and LKQRY -/

theorem lockTouch_at {need : Need} {go : Nat → State → Eff}
    (aim : ∃ h, s.lockAim iss.team l (teamReg iss true l a) need = (.at' { space := 0, x := 0, y := 0, addr := pa } h, s)) :
    lockTouch iss s a l need go = go pa s := by
  obtain ⟨h, aim⟩ := aim
  simp only [lockTouch, aim]

theorem State.heldBy_none_of_free {t : Team} (free : s.lockAt pa = none) : s.heldBy t pa = none := by simp only [State.heldBy, free]

theorem State.heldBy_none_of_other {t : Team} {k : LineLock} (there : s.lockAt pa = some k) (other : k.holder ≠ t.id) : s.heldBy t pa = none := by
  simp only [State.heldBy, there, beq_eq_false_iff_ne.mpr other, Bool.false_and, Bool.false_eq_true, if_false]

theorem State.heldBy_some {t : Team} {k : LineLock} (there : s.lockAt pa = some k) (own : k.holder = t.id) (present : k.absent = false) :
    s.heldBy t pa = some k := by
  simp only [State.heldBy, there, own, present, beq_self_eq_true, Bool.not_false, Bool.and_self, if_true]

@[simp] theorem hashed_touchWaits (s : State) (iss : Issue) (i : Instr) (t : Team) (va : Nat) : (hashed s iss i).touchWaits t va = s.touchWaits t va := by
  simp only [State.touchWaits, hashed_reqs]

theorem no_write {reqs : List Req} {u : Nat} (written : ∀ r ∈ reqs, r.team = u → r.writes = false) : reqs.any (fun r => r.team == u && r.writes) = false :=
  List.any_eq_false.mpr (fun r mem => by simpa using written r mem)

section
variable (issues : Issues s iss (.unlock d a)) (at' : LocksAt s iss (.unlock d a) a l .both pa)
  (may : s.touchWaits iss.team (teamReg iss true l a) = false) (written : ∀ r ∈ s.reqs, r.team = iss.tid → r.writes = false)
include issues at' may written

theorem unlock_not_held (held : (hashed s iss (.unlock d a)).heldBy iss.team pa = none) :
    GivesStatus (.unlock d a) s (hashed s iss (.unlock d a)) iss d 3 := by
  obtain ⟨low, clear, aim⟩ := at'
  exact issues.givesStatus (exec_unlock s d a) (by
    simp only [low, clear, Bool.false_eq_true, if_false, lockTouch_at aim, hashed_touchWaits, may, hashed_reqs, no_write written, Bool.or_self, held])

theorem unlock_held {k : LineLock} (held : (hashed s iss (.unlock d a)).heldBy iss.team pa = some k) : Completes (.unlock d a) s iss
    (writeStatus (((hashed s iss (.unlock d a)).passLock k k.copy).irreversible iss.tid) iss d 0) := by
  obtain ⟨low, clear, aim⟩ := at'
  exact issues.completes (exec_unlock s d a) (by
    simp only [low, clear, Bool.false_eq_true, if_false, lockTouch_at aim, hashed_touchWaits, may, hashed_reqs, no_write written, Bool.or_self, held])

end

/-! ### A locked copy written home -/

/-- A dword of a locked copy goes home where it differs there (R188). -/
def State.dwordHome (w : Writer) (line : Nat) (data : Store) (s : State) (i : Nat) : State :=
  if data.read (line + 8 * i) 8 == s.mem.hbm.read (line + 8 * i) 8 && data.tagged (line + 8 * i) 8 == s.mem.hbm.tagged (line + 8 * i) 8 then s
  else s.homeWrite w (line + 8 * i) (data.read (line + 8 * i) 8) (data.tagged (line + 8 * i) 8)

theorem State.dwordHome_noWrites (w : Writer) (line : Nat) (data : Store) (s : State) (i : Nat) : (s.dwordHome w line data i).noWrites = s.noWrites := by
  unfold State.dwordHome
  split
  · rfl
  · exact State.homeWrite_noWrites _ _ _ _ _

/-- Afterwards the bytes of that dword are the copy's, the others as before. -/
theorem State.dwordHome_read (w : Writer) (line : Nat) (data : Store) (s : State) (i c : Nat) :
    (s.dwordHome w line data i).mem.hbm.bytes.read c =
      if line + 8 * i ≤ c ∧ c < line + 8 * i + 8 then data.bytes.read c else s.mem.hbm.bytes.read c := by
  unfold State.dwordHome
  split
  · next same =>
    obtain ⟨bytes, -⟩ := Bool.and_eq_true_iff.mp same
    split
    · next inside =>
      obtain ⟨j, rfl⟩ : ∃ j, c = line + 8 * i + j := ⟨c - (line + 8 * i), by omega⟩
      have lt : j < 8 := by omega
      have home := Store.read_getElem s.mem.hbm (line + 8 * i) 8 (by rwa [Store.read_length])
      have copy := Store.read_getElem data (line + 8 * i) 8 (by rwa [Store.read_length])
      rw [← home, ← copy]
      simp only [beq_iff_eq.mp bytes]
    · rfl
  · rw [State.homeWrite_hbm _ _ _ (by rw [← List.length_pos_iff, Store.read_length]; decide)]
    split
    · next inside =>
      obtain ⟨j, rfl⟩ : ∃ j, c = line + 8 * i + j := ⟨c - (line + 8 * i), by omega⟩
      have lt : j < (data.read (line + 8 * i) 8).length := by rw [Store.read_length]; omega
      exact (Memory.read_writeN_same _ _ _ j lt).trans (Store.read_getElem data _ 8 lt)
    · exact Store.byte_write_other _ _ _ _ _ (by rw [Store.read_length]; omega)

/-- All dwords of a line gone home. -/
theorem foldl_dwordHome_read (w : Writer) (line : Nat) (data : Store) (n : Nat) (s : State) (c : Nat) :
    ((List.range n).foldl (State.dwordHome w line data) s).mem.hbm.bytes.read c =
      if line ≤ c ∧ c < line + 8 * n then data.bytes.read c else s.mem.hbm.bytes.read c := by
  induction n with
  | zero => rw [if_neg (by omega)]; rfl
  | succ n ih =>
    rw [List.range_succ, List.foldl_append, List.foldl_cons, List.foldl_nil, State.dwordHome_read, ih]
    by_cases last : line + 8 * n ≤ c ∧ c < line + 8 * n + 8
    · rw [if_pos last, if_pos (by omega)]
    · rw [if_neg last]
      exact if_congr (by omega) rfl rfl

/-- The writes of a team's lock. -/
def State.lockWriter (s : State) (k : LineLock) : Writer := some (match s.team? k.holder with | some t => (s.ctxOf t.launch, t.launch) | none => (0, 0))

/-- A lock that nobody waits for is given back. -/
theorem passLock_home {k : LineLock} (nobody : k.queue = []) (data : Store) : s.passLock k data =
    (List.range 32).foldl (State.dwordHome (s.lockWriter k) k.line data) (s.updMem (fun m => { m with locks := m.locks.filter (fun x => x.line != k.line) })) := by
  simp only [State.passLock, nobody]
  rfl

theorem passLock_home_noWrites {k : LineLock} (nobody : k.queue = []) (data : Store) :
    (s.passLock k data).noWrites = (s.updMem (fun m => { m with locks := m.locks.filter (fun x => x.line != k.line) })).noWrites := by
  rw [passLock_home nobody]
  exact foldl_keeps State.noWrites (State.dwordHome_noWrites _ _ _) _ _

theorem passLock_home_read {k : LineLock} (nobody : k.queue = []) (data : Store) {c : Nat} (inside : c < 256) :
    (s.passLock k data).mem.hbm.bytes.read (k.line + c) = data.bytes.read (k.line + c) := by
  rw [passLock_home nobody, foldl_dwordHome_read, if_pos (by omega)]

theorem passLock_home_lockAt {k : LineLock} (nobody : k.queue = []) (data : Store) (there : s.lockAt pa = some k) : (s.passLock k data).lockAt pa = none := by
  have locks : (s.passLock k data).mem.locks = s.mem.locks.filter (fun x => x.line != k.line) :=
    (congrArg MemSt.locks (State.noWrites_mem (passLock_home_noWrites nobody data)) :)
  rw [State.lockAt, locks, List.find?_eq_none]
  intro x mem
  obtain ⟨-, other⟩ := List.mem_filter.mp mem
  rw [State.lockAt_line there] at other
  simpa using other

theorem passLock_home_team? {k : LineLock} (nobody : k.queue = []) (data : Store) (u : Nat) : (s.passLock k data).team? u = s.team? u :=
  State.team?_congr (State.noWrites_teams (passLock_home_noWrites nobody data)) u

/-! ### The word of a line (R190) -/

theorem lkqry_reads (issues : Issues s iss (.lkqry d a)) (at' : LocksAt s iss (.lkqry d a) a l .read pa)
    (may : s.touchWaits iss.team (teamReg iss true l a) = false) :
    GivesWide (.lkqry d a) s (hashed s iss (.lkqry d a)) iss d (lockWord (hashed s iss (.lkqry d a)) iss pa) := by
  obtain ⟨low, clear, aim⟩ := at'
  exact issues.givesWide (exec_lkqry s d a) (by simp only [low, clear, Bool.false_eq_true, if_false, lockTouch_at aim, hashed_touchWaits, may])

theorem lockWord_free (free : s.lockAt pa = none) : lockWord s iss pa = 0 := by simp only [lockWord, free]

theorem lockWord_other {k : LineLock} {h : Team} (there : s.lockAt pa = some k) (holder : s.team? k.holder = some h) (other : k.holder ≠ iss.tid)
    (short : k.queue.length < 2 ^ 14) :
    lockWord s iss pa = 2 ^ 63 + k.queue.length * 2 ^ 48 + h.core * 2 ^ 40 + h.slot * 2 ^ 36 + k.handoffs := by
  have length : min 16383 k.queue.length = k.queue.length := by omega
  simp only [lockWord, there, holder, beq_eq_false_iff_ne.mpr other, Bool.false_eq_true, if_false, Nat.add_zero, length]

end Sys2Proof.Machine

namespace Sys2Proof.Claims
open Sys2Proof.Machine

/-- Settles O19, the table of R188 line by line. -/
theorem lockResults : Obligations.LockResults := by
  unfold Obligations.LockResults
  refine fun d a b => ⟨⟨?_, ?_, ?_, ?_⟩, ?_⟩
  · exact fun s _ issues idle => issues.completes (exec_lock s d a b) (lockIssue_idle idle)
  · exact fun s _ issues idle => issues.completes (exec_trylk s d a) (lockIssue_idle idle)
  · exact fun s _ issues idle => issues.completes (exec_unlock s d a) (by simp only [idle])
  · exact fun s _ issues idle => issues.completes (exec_lkqry s d a) (by simp only [idle])
  intro s iss l pa takes
  have each : ∀ (i : Instr) (tryOnly : Bool) (timeout : Issue → Nat), exec i s = run i s (fun iss s => lockIssue iss s d a (timeout iss) tryOnly) →
      takes i tryOnly := by
    intro i tryOnly timeout runs issues ⟨low, clear, aim⟩ key
    refine ⟨fun v ended => ?_, fun latch free none' => ?_⟩
    · refine ⟨_, _, writeStatus_status d v ⟨_, issues.hashed_team?⟩, issues.completes runs ?_, rfl⟩
      rw [lockIssue_ends low ended, lockDone_eq, hashed_mem]
    have ready : LockIssues (hashed s iss i) iss a l pa := by
      refine ⟨low, latch, clear, aim, ?_, by rwa [hashed_reqs]⟩
      simpa only [State.lockHeldBack, hashed_reqs, hashed_launch?] using free
    -- a status other than 0
    have fails : ∀ v, v ≠ 0 → (s.lockStart iss i).lockAttempt iss.team pa tryOnly = (.status v, s.lockStart iss i) →
        ∃ s1 s2, Status (s.lockStart iss i) iss d v s1 ∧ s2 = s1.updTeam iss.tid (fun t => { t with lockOut := false }) ∧ Completes i s iss s2 :=
      fun v nonzero attempt => ⟨_, _, writeStatus_status d v ⟨_, issues.lockStart_team?⟩, rfl,
        issues.completes runs ((ready.start_status attempt).trans (lockDone_fails _ iss d nonzero))⟩
    refine ⟨fun k there own present => ?_, fun k there other full => ?_, fun k there other room try' => ?_, fun k there other room lock' slots => ?_,
      fun free room owner updates parts pend peers => ?_⟩
    · exact fails 2 (by decide) (lockAttempt_own (k := k) (by simpa using there) (by rw [own, key]) present)
    · exact fails 4 (by decide) (lockAttempt_full (k := k) (by simpa using there) (by rwa [key]) (by simpa [key] using full))
    · subst try'
      exact fails 5 (by decide) (lockAttempt_try (k := k) (by simpa using there) (by rwa [key]) (by simpa [key] using room))
    · subst lock'
      have attempt := lockAttempt_waits (s := s.lockStart iss i) (t := iss.team) (k := k) (by simpa using there) (by rwa [key]) (by simpa [key] using room) (by simpa using slots)
      obtain ⟨r, f, out, gives⟩ := ready.start_waits (d := d) (timeout := timeout iss) attempt
      refine ⟨_, issues.waits runs gives, ⟨_, State.lockWaits_team? _ iss pa r f issues.lockStart_team?, out _⟩, ?_, ?_, ?_⟩
      · simp only [State.lockWaits_waiters, State.lockStart_coreSt, key]
      · rw [State.lockAt_congr (congrArg MemSt.locks (State.lockWaits_mem _ iss pa r f)), State.queued_queue (k := k) (by simpa using there), State.lockStart_clk, key]
      · rw [State.lockWaits_mem, State.queued_hbm, State.lockStart_mem]
    · have pending : NothingPending (s.lockStart iss i) := ⟨by simpa using pend, by simpa using peers, by simpa using parts⟩
      have none'' : (s.lockStart iss i).lockAt pa = none := by simpa using free
      have attempt := lockAttempt_free (t := iss.team) (tryOnly := tryOnly) none'' (by simpa [key] using room) (by simpa using owner) (by simpa using updates) pending
      obtain ⟨t, there, acquired⟩ := State.lockTaken_team? issues d pa
      refine ⟨_, (s.lockStart iss i).takenLine iss.team (lineOf pa), issues.completes runs ((ready.start_status attempt).trans lockDone_zero), ?_, key, rfl, rfl, rfl, rfl, fun c inside => ?_, ?_, t, there, acquired⟩
      · rw [State.lockAt_congr (congrArg MemSt.locks (State.lockTaken_mem i d pa)), State.taken_lockAt none'']
      · rw [State.takenLine_line, State.takenLine_copy _ inside, State.lockStart_mem]
      · rw [State.lockTaken_mem, State.taken_hbm, State.lockStart_mem]
  refine ⟨each _ _ _ (exec_lock s d a b), each _ _ _ (exec_trylk s d a), fun issues at' may written key => ?_, fun issues at' may => ?_⟩
  · exact ⟨fun free => unlock_not_held issues at' may written (State.heldBy_none_of_free (by simpa using free)),
      fun k there other => unlock_not_held issues at' may written (State.heldBy_none_of_other (k := k) (by simpa using there) (by rwa [key])),
      fun k there own present nobody => by
        have here : (hashed s iss (.unlock d a)).lockAt pa = some k := by simpa using there
        have back : ((hashed s iss (.unlock d a)).passLock k k.copy).team? iss.tid = some (hashTeam iss (.unlock d a) iss.team) := by
          rw [passLock_home_team? nobody, issues.hashed_team?]
        have after := State.updTeam_team? (fun t => { t with irrev := min 65535 (t.irrev + 1) }) back
        have count : (hashTeam iss (.unlock d a) iss.team).irrev = iss.team.irrev := (congrArg Team.irrev (hashTeam_quiet iss _ iss.team) :)
        refine ⟨((hashed s iss (.unlock d a)).passLock k k.copy).irreversible iss.tid, ⟨_, writeStatus_status d 0 ⟨_, after⟩,
          unlock_held issues at' may written (State.heldBy_some here (by rw [own, key]) present)⟩, ?_, fun c inside => ?_, _, after, by rw [count]⟩
        · rw [State.irreversible, State.lockAt_congr (congrArg MemSt.locks (State.updTeam_mem _ _ _)), passLock_home_lockAt nobody _ here]
        · rw [State.irreversible, State.updTeam_mem, passLock_home_read nobody _ inside]⟩
  · have reads := lkqry_reads issues at' may
    refine ⟨fun free => ?_, fun k h there holder other core slot handoffs short => ?_⟩
    · rwa [lockWord_free (by simpa using free)] at reads
    · have here : (hashed s iss (.lkqry d a)).team? k.holder = some h := by rw [hashed_team?_other _ _ _ other, holder]
      rwa [lockWord_other (by simpa using there) here other short] at reads

end Sys2Proof.Claims
end

section
/-! Pending versions settled where no byte has two offers (R263, R264, R350): every byte offered is in the committed data, no other byte of it changes, and what was
selected is gone from the versions. -/

namespace Sys2Proof.Machine

/-! ### One granule -/

/-- The bytes that are offered in a granule, each with its first offer. -/
def granuleBytes (offer : Nat → List (Writer × PByte)) (g : Nat) : NMap (Writer × PByte) :=
  (List.range 8).filterMap (fun i => (offer (8 * g + i)).head?.map (fun x => (8 * g + i, x)))

theorem look_filterMap_offers (f : Nat → Option (Writer × PByte)) (g c : Nat) (is : List Nat) :
    NMap.look (is.filterMap (fun i => (f (8 * g + i)).map (fun x => (8 * g + i, x)))) c = if ∃ i ∈ is, 8 * g + i = c then f c else none := by
  induction is with
  | nil => rfl
  | cons i is ih =>
    rw [List.filterMap_cons]
    by_cases own : 8 * g + i = c
    · rw [if_pos ⟨i, List.mem_cons_self, own⟩, own]
      cases here : f c with
      | none =>
        dsimp only [Option.map_none]
        rw [ih]
        exact ite_eq_right_iff.mpr (fun _ => here)
      | some x => exact if_pos rfl
    · have rest : (∃ j ∈ i :: is, 8 * g + j = c) ↔ ∃ j ∈ is, 8 * g + j = c := by simp [own]
      simp only [rest]
      cases f (8 * g + i) with
      | none => exact ih
      | some x => exact (if_neg own).trans ih

theorem granuleBytes_look (offer : Nat → List (Writer × PByte)) (g c : Nat) :
    NMap.look (granuleBytes offer g) c = if c / 8 = g then (offer c).head? else none := by
  rw [granuleBytes, look_filterMap_offers (fun pa => (offer pa).head?)]
  refine if_congr ?_ rfl rfl
  constructor
  · rintro ⟨i, mem, rfl⟩
    have := List.mem_range.mp mem
    omega
  · exact fun own => ⟨c % 8, List.mem_range.mpr (by omega), by omega⟩

theorem granuleBytes_keys_sublist (offer : Nat → List (Writer × PByte)) (g : Nat) (is : List Nat) :
    ((is.filterMap (fun i => (offer (8 * g + i)).head?.map (fun x => (8 * g + i, x)))).map Prod.fst).Sublist (is.map (fun i => 8 * g + i)) := by
  induction is with
  | nil => exact .slnil
  | cons i is ih =>
    rw [List.filterMap_cons]
    cases (offer (8 * g + i)).head? with
    | none => exact .cons _ ih
    | some x => exact .cons_cons _ ih

theorem granuleBytes_nodup (offer : Nat → List (Writer × PByte)) (g : Nat) : ((granuleBytes offer g).map Prod.fst).Nodup :=
  (granuleBytes_keys_sublist offer g _).nodup (List.Nodup.map (fun _ _ h => by omega) List.nodup_range)

/-- A granule that is offered whole is offered byte after byte. -/
theorem granuleBytes_full {offer : Nat → List (Writer × PByte)} {g : Nat} (full : (granuleBytes offer g).length = 8) :
    (granuleBytes offer g).map Prod.fst = List.range' (8 * g) 8 := by
  refine ((granuleBytes_keys_sublist offer g _).eq_of_length ?_).trans ?_
  · rw [List.length_map, ← granuleBytes, full, List.length_map, List.length_range]
  · rw [List.range'_eq_map_range]

/-- Bytes written one by one. -/
def Memory.writeBytes (m : Memory) (got : NMap (Writer × PByte)) : Memory := got.foldl (fun m x => Memory.write m x.1 x.2.2.val) m

theorem Memory.read_writeBytes (m : Memory) {got : NMap (Writer × PByte)} (nodup : (got.map Prod.fst).Nodup) (c : Nat) :
    Memory.read (m.writeBytes got) c = ((NMap.look got c).map (fun x => x.2.val)).getD (Memory.read m c) := by
  induction got generalizing m with
  | nil => rfl
  | cons x xs ih =>
    obtain ⟨k, v⟩ := x
    obtain ⟨new, rest⟩ := List.nodup_cons.mp nodup
    rw [Memory.writeBytes, List.foldl_cons, ← Memory.writeBytes, ih _ rest, Memory.read_write]
    by_cases own : k = c
    · have none' : NMap.look xs c = none := by
        cases there : NMap.look xs c with
        | none => rfl
        | some y => exact absurd (List.mem_map_of_mem (f := Prod.fst) (NMap.mem_of_look there)) (own ▸ new)
      simp [NMap.look, own, none']
    · simp [NMap.look, own, Ne.symm own]

/-- Bytes that follow on one another are written as one. -/
theorem Memory.writeN_eq_writeBytes (m : Memory) {a : Nat} {got : NMap (Writer × PByte)} (follow : got.map Prod.fst = List.range' a got.length) :
    Memory.writeN m a (got.map (fun x => x.2.2.val)) = m.writeBytes got := by
  induction got generalizing m a with
  | nil => rfl
  | cons x xs ih =>
    rw [List.map_cons, List.length_cons, List.range'_succ, List.cons.injEq] at follow
    rw [List.map_cons, Memory.writeN, ih _ follow.2, ← follow.1]
    rfl

theorem foldl_commitWrite_bytes (got : NMap (Writer × PByte)) (s : State) :
    (got.foldl (fun (s : State) x => s.commitWrite x.2.1 x.1 [x.2.2.val] x.2.2.tag) s).mem.hbm.bytes = s.mem.hbm.bytes.writeBytes got := by
  induction got generalizing s with
  | nil => rfl
  | cons x xs ih =>
    rw [List.foldl_cons, ih, State.commitWrite_hbm]
    rfl

/-- Where no byte has two offers, nothing is chosen. -/
theorem foldl_choose_single {offer : State → Nat → List (Writer × PByte)} {g : Nat} {s : State} (is : List Nat) (got : List (Nat × Writer × PByte))
    (single : ∀ i ∈ is, (offer s (8 * g + i)).length ≤ 1) : is.foldl (fun (p : List (Nat × Writer × PByte) × State) i =>
      match offer p.2 (8 * g + i) with
      | [] => (p.1, p.2)
      | [x] => (p.1 ++ [(8 * g + i, x)], p.2)
      | x :: xs => let (k, s1) := p.2.pick (xs.length + 1); (p.1 ++ [(8 * g + i, ((x :: xs)[k]?).getD x)], s1)) (got, s) =
    (got ++ is.filterMap (fun i => (offer s (8 * g + i)).head?.map (fun x => (8 * g + i, x))), s) := by
  induction is generalizing got with
  | nil => simp
  | cons i is ih =>
    have one := single i List.mem_cons_self
    have later := fun got => ih got (fun j mem => single j (List.mem_cons_of_mem i mem))
    rw [List.foldl_cons, List.filterMap_cons]
    match here : offer s (8 * g + i) with
    | [] => simpa [here] using later got
    | [x] => simpa [here] using later (got ++ [(8 * g + i, x)])
    | x :: y :: zs => simp [here] at one

theorem chooseBytes_single {offer : State → Nat → List (Writer × PByte)} {g : Nat} {s : State} (single : ∀ pa, (offer s pa).length ≤ 1) :
    chooseBytes offer g s = (granuleBytes (offer s) g, s) :=
  foldl_choose_single (List.range 8) [] (fun _ _ => single _)

/-- The committed bytes after one granule has been settled. -/
theorem State.settleGranule_bytes {offer : State → Nat → List (Writer × PByte)} {g : Nat} {s : State} (single : ∀ pa, (offer s pa).length ≤ 1) :
    (s.settleGranule offer g).mem.hbm.bytes = s.mem.hbm.bytes.writeBytes (granuleBytes (offer s) g) := by
  unfold State.settleGranule
  rw [chooseBytes_single single]
  have full := granuleBytes_full (offer := offer s) (g := g)
  generalize granuleBytes (offer s) g = got at full ⊢
  have logged : (got.foldl (fun s x => s.logLine x.2.1 x.1) s).mem.hbm = s.mem.hbm :=
    State.noRecords_hbm (foldl_keeps State.noRecords (fun s _ => State.logLine_noRecords s _ _) got s)
  cases got with
  | nil => exact congrArg Store.bytes logged
  | cons x xs =>
    refine Eq.trans (b := ((if (x :: xs).length == 8 then _ else _ : State)).mem.hbm.bytes) rfl ?_
    split
    · next eight =>
      have eight := beq_iff_eq.mp eight
      rw [State.commitWrite_hbm, logged]
      exact Memory.writeN_eq_writeBytes _ (by rw [full eight, eight])
    · rw [foldl_commitWrite_bytes, logged]

/-! ### A selection of versions -/

theorem State.logLine_pend (s : State) (w : Writer) (pa : Nat) : (s.logLine w pa).mem.pend = s.mem.pend ∧ (s.logLine w pa).mem.peerPend = s.mem.peerPend :=
  have same := State.noRecords_mem (State.logLine_noRecords s w pa)
  ⟨(congrArg MemSt.pend same :), (congrArg MemSt.peerPend same :)⟩

/-- The versions themselves. -/
def State.versions (s : State) : List Pend × List PeerPend := (s.mem.pend, s.mem.peerPend)

theorem State.logLine_versions (s : State) (w : Writer) (pa : Nat) : (s.logLine w pa).versions = s.versions :=
  Prod.ext (s.logLine_pend w pa).1 (s.logLine_pend w pa).2

theorem State.commitWrite_versions (s : State) (w : Writer) (pa : Nat) (data : List Byte) (tag : Bool) : (s.commitWrite w pa data tag).versions = s.versions :=
  Prod.ext (s.commitWrite_pend w pa data tag) (s.commitWrite_peerPend w pa data tag)

theorem chooseBytes_versions (offer : State → Nat → List (Writer × PByte)) (g : Nat) (s : State) : (chooseBytes offer g s).2.versions = s.versions := by
  unfold chooseBytes
  refine foldl_keeps (fun p : List (Nat × Writer × PByte) × State => p.2.versions) (fun p i => ?_) _ _
  dsimp only
  split <;> rfl

/-- Settling a granule leaves the versions, until all have been settled. -/
theorem State.settleGranule_versions (offer : State → Nat → List (Writer × PByte)) (s : State) (g : Nat) : (s.settleGranule offer g).versions = s.versions := by
  unfold State.settleGranule
  have chosen := chooseBytes_versions offer g s
  generalize chooseBytes offer g s = p at chosen ⊢
  obtain ⟨got, s1⟩ := p
  have logged : (got.foldl (fun s x => s.logLine x.2.1 x.1) s1).versions = s.versions :=
    (foldl_keeps State.versions (fun s _ => State.logLine_versions s _ _) got s1).trans chosen
  cases got with
  | nil => exact logged
  | cons x xs =>
    refine Eq.trans (b := ((if (x :: xs).length == 8 then _ else _ : State)).versions) rfl (Eq.trans ?_ logged)
    split
    · exact State.commitWrite_versions _ _ _ _ _
    · exact foldl_keeps State.versions (fun s _ => State.commitWrite_versions s _ _ _ _) _ _

/-- What a selection offers at an address. -/
def State.allOffers (sel : Pend → Nat → Bool) (selp : PeerPend → Nat → Bool) (s : State) (pa : Nat) : List (Writer × PByte) :=
  s.offered sel pa ++ s.offeredPeer selp pa

theorem State.ctxOf_noWrites {s s' : State} (h : s'.noWrites = s.noWrites) (k : Nat) : s'.ctxOf k = s.ctxOf k := by
  have same := State.noWrites_launch? h k
  unfold State.ctxOf
  cases there : s.launch? k with
  | none => rw [there] at same; rw [Option.map_eq_none_iff.mp same]
  | some l =>
    rw [there] at same
    obtain ⟨l', there', e⟩ := Option.map_eq_some_iff.mp same
    rw [there']
    exact (congrArg Launch.ctx e :)

theorem State.allOffers_congr {sel : Pend → Nat → Bool} {selp : PeerPend → Nat → Bool} {s s' : State} (h : s'.noWrites = s.noWrites)
    (versions : s'.versions = s.versions) : s'.allOffers sel selp = s.allOffers sel selp := by
  funext pa
  have pend : s'.mem.pend = s.mem.pend := (congrArg Prod.fst versions :)
  have peers : s'.mem.peerPend = s.mem.peerPend := (congrArg Prod.snd versions :)
  simp only [State.allOffers, State.offered, State.offeredPeer, pend, peers, State.ctxOf_noWrites h]

section
variable {sel : Pend → Nat → Bool} {selp : PeerPend → Nat → Bool} {s : State}

theorem foldl_settleGranule_read (gs : List Nat) {s : State} (single : ∀ pa, (s.allOffers sel selp pa).length ≤ 1) (c : Nat) :
    (gs.foldl (State.settleGranule (State.allOffers sel selp)) s).mem.hbm.bytes.read c =
      if c / 8 ∈ gs then ((s.allOffers sel selp c).head?.map (fun x => x.2.val)).getD (s.mem.hbm.bytes.read c) else s.mem.hbm.bytes.read c := by
  induction gs generalizing s with
  | nil => rfl
  | cons g gs ih =>
    have kept : (s.settleGranule (State.allOffers sel selp) g).allOffers sel selp = s.allOffers sel selp :=
      State.allOffers_congr (State.settleGranule_noWrites _ s g) (State.settleGranule_versions _ s g)
    have first : (s.settleGranule (State.allOffers sel selp) g).mem.hbm.bytes.read c =
        if c / 8 = g then ((s.allOffers sel selp c).head?.map (fun x => x.2.val)).getD (s.mem.hbm.bytes.read c) else s.mem.hbm.bytes.read c := by
      rw [State.settleGranule_bytes single, Memory.read_writeBytes _ (granuleBytes_nodup _ g), granuleBytes_look]
      split <;> rfl
    rw [List.foldl_cons, ih (by rw [kept]; exact single), kept, first]
    by_cases own : c / 8 = g
    · rw [if_pos own, if_pos (show c / 8 ∈ g :: gs by simp [own])]
      split
      · cases (s.allOffers sel selp c).head? <;> rfl
      · rfl
    · simp only [own, if_false, List.mem_cons, false_or]

/-! ### The addresses that are settled -/

theorem NSet.mem_foldl_addIf {α : Type} (P : α → Bool) (key : α → Nat) (l : List α) (acc : NSet) (x : Nat) :
    x ∈ l.foldl (fun acc e => if P e then NSet.add acc (key e) else acc) acc ↔ x ∈ acc ∨ ∃ e ∈ l, P e = true ∧ key e = x := by
  induction l generalizing acc with
  | nil => simp
  | cons e l ih =>
    rw [List.foldl_cons, ih]
    by_cases h : P e = true
    · simp only [h, if_true, NSet.mem_add, List.exists_mem_cons_iff, true_and]
      constructor
      · rintro ((rfl | mem) | later)
        · exact .inr (.inl rfl)
        · exact .inl mem
        · exact .inr (.inr later)
      · rintro (mem | rfl | later)
        · exact .inl (.inr mem)
        · exact .inl (.inl rfl)
        · exact .inr later
    · simp [h]

theorem mem_granulesOf {as : NSet} {g : Nat} : g ∈ granulesOf as ↔ ∃ x ∈ as, x / 8 = g := by
  have := NSet.mem_foldl_addIf (fun _ => true) (fun x : Nat => x / 8) as [] g
  simpa [granulesOf] using this

/-- Folding a set over lists of entries, each kept where a test holds. -/
theorem NSet.mem_foldl_entries {β : Type} (P : β → Nat → Bool) (entries : β → NMap PByte) (ps : List β) (acc : NSet) (x : Nat) :
    x ∈ ps.foldl (fun acc p => (entries p).foldl (fun acc e => if P p e.1 then NSet.add acc e.1 else acc) acc) acc ↔
      x ∈ acc ∨ ∃ p ∈ ps, ∃ e ∈ entries p, P p e.1 = true ∧ e.1 = x := by
  induction ps generalizing acc with
  | nil => simp
  | cons p ps ih =>
    rw [List.foldl_cons, ih, NSet.mem_foldl_addIf (fun e : Nat × PByte => P p e.1) Prod.fst]
    simp only [List.exists_mem_cons_iff, or_assoc]

theorem mem_pendKeys {ps : List Pend} {x : Nat} : x ∈ pendKeys ps sel ↔ ∃ p ∈ ps, ∃ e ∈ p.bytes, sel p e.1 = true ∧ e.1 = x := by
  rw [pendKeys, NSet.mem_foldl_entries sel Pend.bytes]
  simp

/-- The addresses at which settle has something to settle. -/
def State.settleKeys (sel : Pend → Nat → Bool) (selp : PeerPend → Nat → Bool) (s : State) : NSet :=
  s.mem.peerPend.foldl (fun acc p => p.bytes.foldl (fun acc e => if selp p e.1 then NSet.add acc e.1 else acc) acc)
    ((pendKeys s.mem.pend sel).filter (fun pa => !(s.offered sel pa).isEmpty))

theorem State.mem_settleKeys {x : Nat} (offered : s.allOffers sel selp x ≠ []) : x ∈ s.settleKeys sel selp := by
  rw [State.settleKeys, NSet.mem_foldl_entries selp PeerPend.bytes]
  rcases not_and_or.mp (mt List.append_eq_nil_iff.mpr offered) with own | peer
  · refine .inl (List.mem_filter.mpr ⟨mem_pendKeys.mpr ?_, by simpa using own⟩)
    obtain ⟨y, mem⟩ := List.exists_mem_of_ne_nil _ own
    obtain ⟨p, there, some'⟩ := List.mem_filterMap.mp mem
    cases look : NMap.look p.bytes x with
    | none => simp [look] at some'
    | some b =>
      refine ⟨p, there, (x, b), NMap.mem_of_look look, ?_, rfl⟩
      simp only [look] at some'
      split at some'
      · next taken => exact (Bool.and_eq_true_iff.mp taken).1
      · cases some'
  · obtain ⟨y, mem⟩ := List.exists_mem_of_ne_nil _ peer
    obtain ⟨p, there, some'⟩ := List.mem_filterMap.mp mem
    split at some'
    · next taken =>
      obtain ⟨b, look, -⟩ := Option.map_eq_some_iff.mp some'
      exact .inr ⟨p, there, (x, b), NMap.mem_of_look look, taken, rfl⟩
    · cases some'

/-- The committed bytes after a selection of versions has settled, no byte of it with two offers. -/
theorem State.settle_read (single : ∀ pa, (s.allOffers sel selp pa).length ≤ 1) (c : Nat) : (s.settle sel selp).mem.hbm.bytes.read c =
    ((s.allOffers sel selp c).head?.map (fun x => x.2.val)).getD (s.mem.hbm.bytes.read c) := by
  have settled : (s.settle sel selp).mem.hbm.bytes.read c =
      ((granulesOf (s.settleKeys sel selp)).foldl (State.settleGranule (State.allOffers sel selp)) s).mem.hbm.bytes.read c := rfl
  rw [settled, foldl_settleGranule_read _ single]
  split
  · rfl
  · next outside =>
    have none' : s.allOffers sel selp c = [] := by
      by_contra some'
      exact outside (mem_granulesOf.mpr ⟨c, State.mem_settleKeys some', rfl⟩)
    rw [none']
    rfl

/-- The team's versions once a selection has settled. -/
theorem State.settle_pend : (s.settle sel selp).mem.pend = (s.mem.pend.map (fun p =>
      let bytes := p.bytes.filter (fun e => !(sel p e.1 && NSet.has ((pendKeys s.mem.pend sel).filter (fun pa => !(s.offered sel pa).isEmpty)) e.1))
      { p with bytes := bytes, spilled := keepLines p.spilled bytes })).filter (fun p => !p.bytes.isEmpty) := by
  have kept := congrArg Prod.fst (foldl_keeps State.versions (State.settleGranule_versions (State.allOffers sel selp)) (granulesOf (s.settleKeys sel selp)) s)
  exact (congrArg (fun ps : List Pend => (ps.map (fun p =>
      let bytes := p.bytes.filter (fun e => !(sel p e.1 && NSet.has ((pendKeys s.mem.pend sel).filter (fun pa => !(s.offered sel pa).isEmpty)) e.1))
      { p with bytes := bytes, spilled := keepLines p.spilled bytes })).filter (fun p => !p.bytes.isEmpty)) kept :)

theorem State.settle_peerPend : (s.settle sel selp).mem.peerPend = (s.mem.peerPend.map (fun p =>
      let bytes := p.bytes.filter (fun e => !selp p e.1)
      { p with bytes := bytes, spilled := keepLines p.spilled bytes })).filter (fun p => !p.bytes.isEmpty) := by
  have kept := congrArg Prod.snd (foldl_keeps State.versions (State.settleGranule_versions (State.allOffers sel selp)) (granulesOf (s.settleKeys sel selp)) s)
  exact (congrArg (fun ps : List PeerPend => (ps.map (fun p =>
      let bytes := p.bytes.filter (fun e => !selp p e.1)
      { p with bytes := bytes, spilled := keepLines p.spilled bytes })).filter (fun p => !p.bytes.isEmpty)) kept :)

end

end Sys2Proof.Machine
end

section
/-! Arrivals, phases raised and committed, and the messages of peers (R191, R192, R263, R281, R297, R299, R328, R344). -/

namespace Sys2Proof.Machine
open Sys2Proof.Claims

variable {s s' : State} {k : Nat} {l : Launch}

theorem State.launch?_of_noWrites (h : s'.noWrites = s.noWrites) (there : s.launch? k = some l) :
    ∃ l', s'.launch? k = some l' ∧ l'.noWords = l.noWords := by
  have same := State.noWrites_launch? h k
  rw [there] at same
  exact Option.map_eq_some_iff.mp same

theorem State.updLaunch_there (f : Launch → Launch) (there : s.launch? k = some l) : (s.updLaunch k f).launch? k = some (f l) := by
  rw [State.updLaunch_launch?_same, there, Option.map_some]

theorem State.updLaunch_rest (s : State) (k : Nat) (f : Launch → Launch) : { s.updLaunch k f with launches := [] } = { s with launches := [] } := by
  unfold State.updLaunch
  split <;> rfl

theorem State.homeOf_of_svc (h : s'.svc = s.svc) (pa : Nat) : s'.homeOf pa = s.homeOf pa := by
  have service : s'.inService = s.inService := funext₂ fun kind unit => by simp only [State.inService, h]
  simp only [State.homeOf, service]

/-! ### Arrivals (R191, R344) -/

/-- The launch l has h on a core, and its other headers as before. -/
def State.HasHead (s' : State) (l : Launch) (core : Nat) (h : CorePhase) : Prop :=
  ∃ l', s'.launch? l.id = some l' ∧ NMap.look l'.heads core = some h ∧ ∀ c, c ≠ core → NMap.look l'.heads c = NMap.look l.heads c

theorem hasHead_put {core : Nat} (there : s.launch? l.id = some l) (h : CorePhase) :
    (s.updLaunch l.id (fun l => { l with heads := NMap.put l.heads core h })).HasHead l core h :=
  ⟨_, State.updLaunch_there _ there, NMap.look_put_same _ _ _, fun _ other => NMap.look_put_other _ _ other⟩

theorem State.HasHead.of_noRecords {core : Nat} {h : CorePhase} (has : s.HasHead l core h) (same : s'.noRecords = s.noRecords) : s'.HasHead l core h := by
  obtain ⟨l1, there, own, others⟩ := has
  obtain ⟨l2, there', e⟩ := State.launch?_of_noWrites (State.noWrites_of_noRecords same) there
  have heads : l2.heads = l1.heads := (congrArg Launch.heads e :)
  exact ⟨l2, there', heads ▸ own, heads ▸ others⟩

/-- A record of an anomaly leaves the headers. -/
theorem State.HasHead.anomaly {core bit phase : Nat} {h : CorePhase} (has : s.HasHead l core h) (l0 : Launch) (c0 : Nat) (id : l0.id = l.id) :
    (s.anomaly l0 c0 bit phase).HasHead l core h := by
  unfold State.anomaly
  split
  · exact has
  · obtain ⟨l1, there, own, others⟩ := has
    have noted : (s.updLaunch l0.id (fun l => { l with reported := NSet.add l.reported bit })).HasHead l core h :=
      ⟨{ l1 with reported := NSet.add l1.reported bit }, by rw [id]; exact State.updLaunch_there _ there, own, others⟩
    exact noted.of_noRecords (State.event_noRecords _ _ _ _ _ _ _ _)

section
variable {core phase : Nat} {h : CorePhase} (there : s.launch? l.id = some l) (head : NMap.look l.heads core = some h)

theorem Launch.head_of_look (head : NMap.look l.heads core = some h) : l.head core = h := by simp only [Launch.head, NMap.getD, head]

include there head

theorem arrive_current (now : phase % 65536 = h.hdr.phase) : (s.arrive l core phase).HasHead l core
    { h with hdr := { h.hdr with expect := h.hdr.expect - 1, overrun := h.hdr.overrun || decide (h.hdr.expect ≤ 0) } } := by
  have below : (h.hdr.expect - 1 < 0) ↔ h.hdr.expect ≤ 0 := by omega
  unfold State.arrive
  simp only [Launch.head_of_look head, now, beq_self_eq_true, if_true, below]
  split
  · exact (hasHead_put there _).anomaly l core rfl
  · exact hasHead_put there _

theorem arrive_next (later : phase % 65536 ≠ h.hdr.phase) (next : phase % 65536 = (h.hdr.phase + 1) % 65536) :
    (s.arrive l core phase).HasHead l core { h with hdr := { h.hdr with nextexp := h.hdr.nextexp - 1 } } := by
  unfold State.arrive
  simp only [Launch.head_of_look head, beq_eq_false_iff_ne.mpr later, Bool.false_eq_true, if_false, beq_iff_eq.mpr next, if_true]
  exact hasHead_put there _

theorem arrive_late (later : phase % 65536 ≠ h.hdr.phase) (far : phase % 65536 ≠ (h.hdr.phase + 1) % 65536) :
    (s.arrive l core phase).HasHead l core { h with hdr := { h.hdr with late := true } } := by
  unfold State.arrive
  simp only [Launch.head_of_look head, beq_eq_false_iff_ne.mpr later, Bool.false_eq_true, if_false, beq_eq_false_iff_ne.mpr far]
  split
  · next late =>
    have same : { h with hdr := { h.hdr with late := true } } = h := by rw [← late]
    exact ⟨l, there, by rw [same]; exact head, fun _ _ => rfl⟩
  · exact (hasHead_put there _).anomaly l core rfl

end

/-! ### What waits for a commit is released (R192, R197, R281) -/

/-- Cores of a launch begin to flush: of its headers the state moves, and its versions keep their addresses. -/
structure FlushesOnly (k : Nat) (s s' : State) : Prop where
  teams : s'.teams = s.teams
  hbm : s'.mem.hbm = s.mem.hbm
  pend : ∀ p' ∈ s'.mem.pend, ∃ p ∈ s.mem.pend, p'.launch = p.launch ∧ p'.phase = p.phase ∧ p'.bytes.map Prod.fst = p.bytes.map Prod.fst
  launch : ∀ l, s.launch? k = some l → ∃ l', s'.launch? k = some l' ∧ { l' with heads := [] } = { l with heads := [] } ∧
    ∀ c h, NMap.look l.heads c = some h → ∃ h', NMap.look l'.heads c = some h' ∧ h'.hdr = h.hdr ∧ (h.st ≠ .raised → h'.st ≠ .raised)

theorem FlushesOnly.refl (s : State) : FlushesOnly k s s :=
  ⟨rfl, rfl, fun p mem => ⟨p, mem, rfl, rfl, rfl⟩, fun l there => ⟨l, there, rfl, fun _ h look => ⟨h, look, rfl, id⟩⟩⟩

theorem FlushesOnly.trans {s'' : State} (h : FlushesOnly k s s') (h' : FlushesOnly k s' s'') : FlushesOnly k s s'' := by
  refine ⟨h'.teams.trans h.teams, h'.hbm.trans h.hbm, fun p2 mem2 => ?_, fun l there => ?_⟩
  · obtain ⟨p1, mem1, launch1, phase1, keys1⟩ := h'.pend p2 mem2
    obtain ⟨p, mem, launch, phase, keys⟩ := h.pend p1 mem1
    exact ⟨p, mem, launch1.trans launch, phase1.trans phase, keys1.trans keys⟩
  · obtain ⟨l1, there1, same1, heads1⟩ := h.launch l there
    obtain ⟨l2, there2, same2, heads2⟩ := h'.launch l1 there1
    refine ⟨l2, there2, same2.trans same1, fun c x look => ?_⟩
    obtain ⟨x1, look1, hdr1, st1⟩ := heads1 c x look
    obtain ⟨x2, look2, hdr2, st2⟩ := heads2 c x1 look1
    exact ⟨x2, look2, hdr2.trans hdr1, st2 ∘ st1⟩

theorem FlushesOnly.foldl {α : Type} {f : State → α → State} (h : ∀ s x, FlushesOnly k s (f s x)) (xs : List α) (s : State) : FlushesOnly k s (xs.foldl f s) := by
  induction xs generalizing s with
  | nil => exact .refl s
  | cons x xs ih => exact (h s x).trans (ih _)

theorem FlushesOnly.flushCore (s : State) (launch core : Nat) : FlushesOnly k s (s.flushCore launch core) := by
  refine ⟨rfl, rfl, fun p' mem => ?_, fun l there => ⟨l, there, rfl, fun _ h look => ⟨h, look, rfl, id⟩⟩⟩
  obtain ⟨p, there, rfl⟩ := List.mem_map.mp mem
  exact ⟨p, there, rfl, rfl, by simp [Function.comp_def]⟩

theorem FlushesOnly.phaseTest (s : State) (core : Nat) : FlushesOnly k s (s.phaseTest k core) := by
  unfold State.phaseTest
  split
  · exact .refl s
  · next l there =>
    split
    · exact .refl s
    · next h head =>
      extract_lets here
      split
      · refine (FlushesOnly.flushCore s k core).trans ⟨State.updLaunch_teams _ _ _, by rw [State.updLaunch_mem], by
          rw [State.updLaunch_mem]; exact fun p mem => ⟨p, mem, rfl, rfl, rfl⟩, fun l1 there1 => ?_⟩
        have e : l1 = l := Option.some.inj (there1.symm.trans there)
        subst e
        refine ⟨_, State.updLaunch_there _ there1, rfl, fun c x look => ?_⟩
        by_cases own : c = core
        · subst own
          have e : x = h := Option.some.inj (look.symm.trans head)
          subst e
          exact ⟨_, NMap.look_put_same _ _ _, rfl, fun _ => by simp⟩
        · exact ⟨x, (NMap.look_put_other _ _ own).trans look, rfl, id⟩
      · exact .refl s

/-- A team of the launch once the commit has been applied everywhere. -/
def Team.released (k phase : Nat) (t : Team) : Team :=
  if t.launch != k then t
  else { t with phaseDone := t.passed phase, frags := t.frags.map (fun e => (e.1, { e.2 with latch := Machine.released phase e.2.latch })) }

/-- Nothing is released while the commit has still to reach a die, a peer or a member. -/
theorem releaseTest_unreleased (held : s.unreleased k = true) : s.releaseTest k = s := by
  unfold State.releaseTest
  split
  · rfl
  · rw [if_pos held]

theorem releaseTest_released (there : s.launch? k = some l) (free : s.unreleased k = false) :
    FlushesOnly k { s with teams := s.teams.map (fun e => (e.1, e.2.released k l.phase)) } (s.releaseTest k) := by
  have each : (fun e : Nat × Team => (e.1, e.2.released k l.phase)) = fun (u, t) => if t.launch != k then (u, t)
      else (u, { t with phaseDone := t.passed l.phase, frags := t.frags.map (fun (e, f) => (e, { f with latch := Machine.released l.phase f.latch })) }) := by
    funext ⟨u, t⟩
    by_cases other : (t.launch != k) = true
    · simp only [Team.released, other, if_true]
    · simp only [Team.released, other, Bool.false_eq_true, if_false]
  unfold State.releaseTest
  simp only [there, free, Bool.false_eq_true, if_false, each]
  refine .foldl (fun s c => ?_) _ _
  split
  · exact .phaseTest s c
  · exact .refl s

theorem State.unreleased_congr {l' : Launch} (there : s.launch? k = some l) (there' : s'.launch? k = some l') (same : { l' with heads := [] } = { l with heads := [] }) :
    s'.unreleased k = s.unreleased k := by
  have dies : l'.dies = l.dies := (congrArg Launch.dies same :)
  have wait : l'.peerWait = l.peerWait := (congrArg Launch.peerWait same :)
  have md : l'.md = l.md := (congrArg Launch.md same :)
  simp only [State.unreleased, there, there', dies, wait, md]

/-- What the release of a launch leaves: its committed data, its launch but for the states of cores, its versions at their addresses, and its teams, released
or as they were. -/
structure Releases (k : Nat) (l : Launch) (s s' : State) : Prop where
  hbm : s'.mem.hbm = s.mem.hbm
  pend : ∀ p' ∈ s'.mem.pend, ∃ p ∈ s.mem.pend, p'.launch = p.launch ∧ p'.phase = p.phase ∧ p'.bytes.map Prod.fst = p.bytes.map Prod.fst
  launch : ∃ l', s'.launch? k = some l' ∧ { l' with heads := [] } = { l with heads := [] } ∧
    ∀ c h, NMap.look l.heads c = some h → ∃ h', NMap.look l'.heads c = some h' ∧ h'.hdr = h.hdr ∧ (h.st ≠ .raised → h'.st ≠ .raised)
  teams : (s'.unreleased k = true ∧ s'.teams = s.teams) ∨
    s'.teams = s.teams.map (fun e => (e.1, e.2.released k l.phase))

theorem releaseTest_releases (there : s.launch? k = some l) : Releases k l s (s.releaseTest k) := by
  cases held : s.unreleased k with
  | true =>
    have still := releaseTest_unreleased held
    have same : FlushesOnly k s (s.releaseTest k) := by rw [still]; exact .refl s
    exact ⟨same.hbm, same.pend, same.launch l there, .inl ⟨by rw [still, held], same.teams⟩⟩
  | false =>
    have flushes := releaseTest_released there held
    exact ⟨flushes.hbm, flushes.pend, flushes.launch l there, .inr flushes.teams⟩

/-! ### A die applies a commit (R281) -/

theorem commitDie_noWrites (s : State) (k d : Nat) : (s.commitDie k d).noWrites = s.noWrites := by
  unfold State.commitDie
  split
  · rfl
  · extract_lets sel drop
    exact Eq.trans rfl (State.settle_noWrites s _ _)

/-- A version as a commit that takes a selection leaves it; sectors with the channel's commit tag are dropped from the L1. -/
def Pend.dropped (sel : Pend → Nat → Bool) (tagged : Pend → Bool) (p : Pend) : Pend :=
  let bytes := p.bytes.filter (fun e => !sel p e.1)
  { p with bytes := if tagged p then bytes.map (fun (a, b) => (a, { b with kept := false })) else bytes, spilled := keepLines p.spilled bytes }

theorem Pend.mem_dropped {sel : Pend → Nat → Bool} {tagged : Pend → Bool} {p : Pend} {e : Nat × PByte} (mem : e ∈ (p.dropped sel tagged).bytes) :
    sel p e.1 = false ∧ ∃ b, (e.1, b) ∈ p.bytes := by
  unfold Pend.dropped at mem
  dsimp only at mem
  split at mem
  · obtain ⟨⟨a, b⟩, there, rfl⟩ := List.mem_map.mp mem
    obtain ⟨there, out⟩ := List.mem_filter.mp there
    exact ⟨by simpa using out, b, there⟩
  · obtain ⟨there, out⟩ := List.mem_filter.mp mem
    exact ⟨by simpa using out, e.2, there⟩

theorem commitDie_eq (there : s.launch? k = some l) (d : Nat) : s.commitDie k d =
    (s.settle (s.commitSel k l.phase d) (s.commitPeerSel k l.phase d)).updMem (fun m => { m with
      pend := (m.pend.map (Pend.dropped (s.commitSel k l.phase d) (fun p => p.launch == k && p.phase != l.phase && coreDie p.core == d))).filter
        (fun p => !p.bytes.isEmpty) }) := by
  unfold State.commitDie
  rw [there]
  rfl

theorem mem_settle_pend {sel : Pend → Nat → Bool} {selp : PeerPend → Nat → Bool} {p : Pend} (mem : p ∈ (s.settle sel selp).mem.pend) :
    ∃ p0 ∈ s.mem.pend, p.launch = p0.launch ∧ p.phase = p0.phase ∧ ∀ e ∈ p.bytes, e ∈ p0.bytes := by
  rw [State.settle_pend] at mem
  obtain ⟨p0, mem0, rfl⟩ := List.mem_map.mp (List.mem_filter.mp mem).1
  exact ⟨p0, mem0, rfl, rfl, fun e there => (List.mem_filter.mp there).1⟩

/-- The versions that are left when a die has applied a commit: what is homed there and belongs to phases before is gone. -/
theorem commitDie_pend (there : s.launch? k = some l) {d : Nat} {p : Pend} (mem : p ∈ (s.commitDie k d).mem.pend) :
    p.bytes ≠ [] ∧ (p.launch = k → p.phase ≠ l.phase → ∀ e ∈ p.bytes, s.homeOf e.1 / 64 ≠ d) ∧
    ∃ p0 ∈ s.mem.pend, p.launch = p0.launch ∧ p.phase = p0.phase ∧ ∀ e ∈ p.bytes, ∃ b, (e.1, b) ∈ p0.bytes := by
  rw [commitDie_eq there, State.updMem_mem] at mem
  obtain ⟨mem, some'⟩ := List.mem_filter.mp mem
  obtain ⟨p1, mem1, rfl⟩ := List.mem_map.mp mem
  obtain ⟨p0, mem0, launch, phase, bytes⟩ := mem_settle_pend mem1
  refine ⟨by simpa using some', fun own old e at' home => ?_, p0, mem0, launch, phase, fun e at' => ?_⟩
  · have out := (Pend.mem_dropped at').1
    have own' : p1.launch = k := own
    have old' : p1.phase ≠ l.phase := old
    simp [State.commitSel, own', old', home] at out
  · obtain ⟨-, b, there⟩ := Pend.mem_dropped at'
    exact ⟨b, bytes _ there⟩

section
variable {q : Pend} {d : Nat} (pend : s.mem.pend = [q]) (peers : s.mem.peerPend = [])
include pend

include peers in
/-- One version is offered where it holds a byte that is selected. -/
theorem allOffers_one {sel : Pend → Nat → Bool} {selp : PeerPend → Nat → Bool} (taken : ∀ pa b, NMap.look q.bytes pa = some b → sel q pa = true) (pa : Nat) :
    s.allOffers sel selp pa = ((NMap.look q.bytes pa).map (fun b => (some (s.ctxOf q.launch, q.launch), b))).toList := by
  simp only [State.allOffers, State.offered, State.offeredPeer, pend, peers, List.filterMap_nil, List.append_nil, List.filterMap_cons, List.any_cons, List.any_nil,
    Bool.or_false]
  cases look : NMap.look q.bytes pa with
  | none => rfl
  | some b => cases lost : b.lost <;> simp [taken pa b look, lost]

variable (there : s.launch? k = some l) (own : q.launch = k) (old : q.phase ≠ l.phase) (homes : ∀ e ∈ q.bytes, s.homeOf e.1 / 64 = d)
include there own old homes

theorem commitDie_one_pend : (s.commitDie k d).mem.pend = [] := by
  by_contra some'
  obtain ⟨p, mem⟩ := List.exists_mem_of_ne_nil _ some'
  obtain ⟨bytes, gone, p0, mem0, launch, phase, from'⟩ := commitDie_pend there mem
  rw [pend, List.mem_singleton] at mem0
  subst mem0
  obtain ⟨e, at'⟩ := List.exists_mem_of_ne_nil _ bytes
  obtain ⟨b, before⟩ := from' e at'
  exact gone (launch.trans own) (by rwa [phase]) e at' (homes (e.1, b) before)

include peers in
theorem commitDie_one_read (pa : Nat) : (s.commitDie k d).mem.hbm.bytes.read pa =
    ((NMap.look q.bytes pa).map PByte.val).getD (s.mem.hbm.bytes.read pa) := by
  have taken : ∀ pa b, NMap.look q.bytes pa = some b → s.commitSel k l.phase d q pa = true := fun pa b look => by
    have home := homes (pa, b) (NMap.mem_of_look look)
    simp [State.commitSel, own, old, home]
  have offers := allOffers_one (selp := s.commitPeerSel k l.phase d) pend peers taken
  have single : ∀ pa, (s.allOffers (s.commitSel k l.phase d) (s.commitPeerSel k l.phase d) pa).length ≤ 1 := fun pa => by
    rw [offers]
    cases NMap.look q.bytes pa <;> simp
  rw [commitDie_eq there, State.updMem_mem]
  refine (State.settle_read single pa).trans ?_
  rw [offers]
  cases NMap.look q.bytes pa <;> rfl

end

/-! ### The commit of a launch (R192, R281) -/

/-- A core's header in the next phase. -/
def CorePhase.advance (new : Nat) (h : CorePhase) : CorePhase := { hdr := { h.hdr with phase := new, expect := h.hdr.nextexp, nextexp := 0 }, st := .isOpen }

/-- A team that has passed the phase, or has ended, starts its counts again (R258, R328). -/
def Team.commit (k phase : Nat) (t : Team) : Team := if t.launch == k && (t.passed phase || t.status == .ended) then { t with irrev := 0, early := false } else t

/-- The state in which the versions of a commit settle: the headers advanced. order: the dies that owe the commit, in the order in which they apply it. -/
structure Advanced (k : Nat) (l : Launch) (order : List Nat) (s s3 : State) : Prop where
  teams : s3.teams = s.teams.map (fun e => (e.1, e.2.commit k l.phase))
  mem : s3.mem = s.mem
  svc : s3.svc = s.svc
  launch : s3.launch? k = some { l with phase := (l.phase + 1) % 65536, heads := l.heads.map (fun e => (e.1, e.2.advance ((l.phase + 1) % 65536))), peers := []
                                        peerWait := l.peerDevs.filter (· != s.fab.self), dies := order.drop 1 }

/-- The die that applies a commit first does so, and the other one is told. -/
def State.applyFirst (s : State) (k : Nat) (order : List Nat) : State :=
  match order with
  | d :: rest => rest.foldl (fun (s : State) e => s.send (.commit k e) 0 (conjStop d) (conjStop e)) (s.commitDie k d)
  | [] => s

/-- The dies that owe a commit. -/
def State.owing (s : State) (k new : Nat) : List Nat := (List.range 2).filter (s.commitOwed k new)

/-- The choice among two dies that owe a commit is free. -/
def State.orderOf (s : State) (dies : List Nat) : List Nat × State :=
  let p := if dies.length == 2 then s.pick 2 else (0, s)
  (if p.1 == 0 then dies else dies.reverse, p.2)

/-- The state with the headers of a launch advanced. -/
def State.advance (s : State) (l : Launch) (k : Nat) (order : List Nat) (s0 : State) : State :=
  let new := (l.phase + 1) % 65536
  let s1 : State := { s0 with
    fab := { s0.fab with discards := s0.fab.discards.filter (fun d => d.2.1 != k) }, teams := s0.teams.map (fun e => (e.1, e.2.commit k l.phase)) }
  (s1.updLaunch k (fun x => { x with
    phase := new, heads := x.heads.map (fun e => (e.1, e.2.advance new)), peers := [], peerWait := x.peerDevs.filter (· != s.fab.self), dies := order.drop 1 })).updCtx l.ctx (fun c => { c with exhausted := NSet.rem c.exhausted k })

theorem commitLaunch_eq (there : s.launch? k = some l) : s.commitLaunch k =
    ((s.advance l k (s.orderOf (s.owing k ((l.phase + 1) % 65536))).1 (s.orderOf (s.owing k ((l.phase + 1) % 65536))).2).applyFirst k
      (s.orderOf (s.owing k ((l.phase + 1) % 65536))).1).releaseTest k := by
  have team : (fun e : Nat × Team => (e.1, e.2.commit k l.phase)) = fun (u, t) =>
      if t.launch == k && (t.passed l.phase || t.status == .ended) then (u, { t with irrev := 0, early := false }) else (u, t) := by
    funext ⟨u, t⟩
    by_cases own : (t.launch == k && (t.passed l.phase || t.status == .ended)) = true
    · simp only [Team.commit, own, if_true]
    · simp only [Team.commit, own, Bool.false_eq_true, if_false]
  unfold State.commitLaunch State.advance
  simp only [there, team]
  rfl

theorem State.orderOf_state (s : State) (dies : List Nat) : { (s.orderOf dies).2 with free := 0 } = { s with free := 0 } := by
  unfold State.orderOf
  dsimp only
  split <;> rfl

theorem State.orderOf_single (s : State) (d : Nat) : s.orderOf [d] = ([d], s) := rfl

/-- The state that a commit settles in, and the one from which it is released. -/
theorem commitLaunch_advanced (there : s.launch? k = some l) : ∃ order s3, Advanced k l order s s3 ∧ s.commitLaunch k = (s3.applyFirst k order).releaseTest k ∧
    ∀ d, s.owing k ((l.phase + 1) % 65536) = [d] → order = [d] := by
  refine ⟨_, _, ?_, commitLaunch_eq there, fun d one => by rw [one, State.orderOf_single]⟩
  generalize s.owing k ((l.phase + 1) % 65536) = dies
  have same := s.orderOf_state dies
  generalize (s.orderOf dies).1 = order
  generalize (s.orderOf dies).2 = s0 at same ⊢
  have teams : s0.teams = s.teams := (congrArg State.teams same :)
  have mem : s0.mem = s.mem := (congrArg State.mem same :)
  have svc : s0.svc = s.svc := (congrArg State.svc same :)
  have launches : s0.launches = s.launches := (congrArg State.launches same :)
  unfold State.advance
  extract_lets new fab s1
  have there1 : s1.launch? k = some l := by rw [← there, State.launch?, State.launch?, ← launches]
  refine ⟨?_, ?_, ?_, ?_⟩
  · rw [State.updCtx_teams, State.updLaunch_teams, ← teams]
  · rw [State.updCtx_mem, State.updLaunch_mem, ← mem]
  · rw [State.updCtx_svc, State.updLaunch_svc, ← svc]
  · rw [State.launch?, State.updCtx_launches]
    exact State.updLaunch_there _ there1

/-- Packets of a commit leave all but the network. -/
theorem foldl_send_commit (s : State) (k d : Nat) (rest : List Nat) :
    { rest.foldl (fun (s : State) e => s.send (.commit k e) 0 (conjStop d) (conjStop e)) s with net := s.net } = s :=
  foldl_keeps (fun t : State => { t with net := s.net }) (f := fun (s : State) e => s.send (.commit k e) 0 (conjStop d) (conjStop e)) (fun _ _ => rfl) rest s

theorem applyFirst_noWrites (s : State) (k : Nat) (order : List Nat) : { (s.applyFirst k order).noWrites with net := s.net } = s.noWrites := by
  cases order with
  | nil => rfl
  | cons d rest =>
    have sent := congrArg (fun t : State => { t.noWrites with net := s.net }) (foldl_send_commit (s.commitDie k d) k d rest)
    exact (Eq.trans rfl sent).trans (congrArg (fun t : State => { t with net := s.net }) (commitDie_noWrites s k d))

theorem applyFirst_teams (s : State) (k : Nat) (order : List Nat) : (s.applyFirst k order).teams = s.teams :=
  (congrArg State.teams (applyFirst_noWrites s k order) :)

theorem applyFirst_launch? (order : List Nat) (there : s.launch? k = some l) : ∃ l', (s.applyFirst k order).launch? k = some l' ∧ l'.noWords = l.noWords := by
  exact State.launch?_of_noWrites (s' := { s.applyFirst k order with net := s.net }) (applyFirst_noWrites s k order) there

/-! ### Teams through a commit -/

theorem Team.commit_registers (k phase : Nat) (t : Team) : SameRegisters t (t.commit k phase) := by
  unfold Team.commit
  split <;> exact ⟨rfl, rfl, rfl, rfl, rfl, rfl, rfl, rfl⟩

theorem Team.released_registers (k phase : Nat) (t : Team) : SameRegisters t (t.released k phase) := by
  unfold Team.released
  split <;> exact ⟨rfl, rfl, rfl, rfl, rfl, rfl, rfl, rfl⟩

section
variable {t : Team} {phase new : Nat}

theorem Team.commit_irrev (own : t.launch = k) (passed : t.passed phase = true) : (t.commit k phase).irrev = 0 := by
  simp only [Team.commit, own, passed, beq_self_eq_true, Bool.true_or, Bool.and_self, if_true]

theorem Team.commit_passes (k phase : Nat) (t : Team) : { t.commit k phase with irrev := 0, early := false } = { t with irrev := 0, early := false } := by
  unfold Team.commit
  split <;> rfl

theorem Team.released_irrev (k phase : Nat) (t : Team) : (t.released k phase).irrev = t.irrev := by
  unfold Team.released
  split <;> rfl

theorem Team.released_phaseDone (own : t.launch = k) : (t.released k phase).phaseDone = t.passed phase := by
  simp only [Team.released, own, bne_self_eq_false, Bool.false_eq_true, if_false]

theorem Team.released_frag? (own : t.launch = k) (e : Nat) :
    (t.released k phase).frag? e = (t.frag? e).map (fun f => { f with latch := Machine.released phase f.latch }) := by
  simp only [Team.released, own, bne_self_eq_false, Bool.false_eq_true, if_false]
  exact NMap.look_mapVal t.frags (fun f => { f with latch := Machine.released phase f.latch }) e

/-- A team that has passed a phase has not passed another. -/
theorem Team.not_passed (passed : t.passed phase = true) (other : new ≠ phase) : t.passed new = false := by
  obtain ⟨-, last⟩ := Bool.and_eq_true_iff.mp passed
  simp [Team.passed, beq_iff_eq.mp last, Ne.symm other]

/-- A team of the launch once the commit's release has been tested: counted anew, and released or not. -/
theorem team_of_commit {s4 : State} (there : s.team? k = some t) {l : Launch} {j : Nat} (advanced : s4.teams = s.teams.map (fun e => (e.1, e.2.commit j phase)))
    (rel : Releases j l s4 s') : (s'.unreleased j = true ∧ s'.team? k = some (t.commit j phase)) ∨
      s'.team? k = some ((t.commit j phase).released j l.phase) := by
  have first : s4.team? k = some (t.commit j phase) := by
    rw [State.team?, advanced, NMap.look_mapVal, ← State.team?, there]
    rfl
  rcases rel.teams with ⟨held, teams⟩ | teams
  · exact .inl ⟨held, by rw [State.team?_congr teams, first]⟩
  · refine .inr ?_
    rw [State.team?, teams, NMap.look_mapVal, ← State.team?, first]
    rfl

end

/-! ### The commit as a whole -/

/-- What is committed of a launch. -/
structure Commits (k : Nat) (l : Launch) (s s' : State) : Prop where
  launch : ∃ l', s'.launch? k = some l' ∧ l'.phase = (l.phase + 1) % 65536 ∧ l'.peers = [] ∧ l'.peerWait = l.peerDevs.filter (· != s.fab.self) ∧
    ∀ c h, NMap.look l.heads c = some h → ∃ h', NMap.look l'.heads c = some h' ∧ h'.st ≠ .raised ∧ h'.hdr = (h.advance ((l.phase + 1) % 65536)).hdr
  teams : ∀ u t, s.team? u = some t → (s'.unreleased k = true ∧ s'.team? u = some (t.commit k l.phase)) ∨
    s'.team? u = some ((t.commit k l.phase).released k ((l.phase + 1) % 65536))
  one : ∀ (q : Pend) d, s.mem.pend = [q] → s.mem.peerPend = [] → q.launch = k → q.phase ≠ (l.phase + 1) % 65536 → d < 2 → (∀ e ∈ q.bytes, s.homeOf e.1 / 64 = d) →
    q.bytes ≠ [] → s'.mem.pend = [] ∧ ∀ pa, s'.mem.hbm.bytes.read pa = ((NMap.look q.bytes pa).map PByte.val).getD (s.mem.hbm.bytes.read pa)

/-- One die owes the commit where all bytes are homed there. -/
theorem owing_one {q : Pend} {d new : Nat} (pend : s.mem.pend = [q]) (peers : s.mem.peerPend = []) (own : q.launch = k) (old : q.phase ≠ new) (die : d < 2)
    (homes : ∀ e ∈ q.bytes, s.homeOf e.1 / 64 = d) (some' : q.bytes ≠ []) : s.owing k new = [d] := by
  have owed : s.commitOwed k new = fun e => d == e := by
    funext e
    obtain ⟨x, mem⟩ := List.exists_mem_of_ne_nil _ some'
    simp only [State.commitOwed, pend, peers, List.any_cons, List.any_nil, Bool.or_false, State.commitSel, own, beq_self_eq_true, bne_iff_ne.mpr old, Bool.true_and]
    rw [Bool.eq_iff_iff, List.any_eq_true]
    constructor
    · rintro ⟨y, mem', home⟩
      rwa [homes y mem'] at home
    · exact fun same => ⟨x, mem, by rwa [homes x mem]⟩
  rw [State.owing, owed]
  interval_cases d <;> rfl

theorem commitLaunch_commits (there : s.launch? k = some l) : Commits k l s (s.commitLaunch k) := by
  obtain ⟨order, s3, adv, steps, single⟩ := commitLaunch_advanced there
  obtain ⟨l4, there4, same4⟩ := applyFirst_launch? order adv.launch
  have rel := releaseTest_releases there4
  rw [← steps] at rel
  have heads4 : l4.heads = l.heads.map (fun e => (e.1, e.2.advance ((l.phase + 1) % 65536))) := (congrArg Launch.heads same4 :)
  have phase4 : l4.phase = (l.phase + 1) % 65536 := (congrArg Launch.phase same4 :)
  refine ⟨?_, fun u t team => ?_, fun q d pend peers own old die homes some' => ?_⟩
  · obtain ⟨l', there', same', heads'⟩ := rel.launch
    refine ⟨l', there', (congrArg Launch.phase same' :).trans phase4, (congrArg Launch.peers same' :).trans (congrArg Launch.peers same4 :),
      (congrArg Launch.peerWait same' :).trans (congrArg Launch.peerWait same4 :), fun c h look => ?_⟩
    obtain ⟨h', look', hdr, st⟩ := heads' c (h.advance ((l.phase + 1) % 65536)) (by rw [heads4, NMap.look_mapVal, look]; rfl)
    exact ⟨h', look', st (by simp [CorePhase.advance]), hdr⟩
  · have teams4 := (applyFirst_teams s3 k order).trans adv.teams
    simpa only [phase4] using team_of_commit team teams4 rel
  · have order' := single d (owing_one pend peers own old die homes some')
    subst order'
    have pend3 : s3.mem.pend = [q] := by rw [adv.mem, pend]
    have peers3 : s3.mem.peerPend = [] := by rw [adv.mem, peers]
    have homes3 : ∀ e ∈ q.bytes, s3.homeOf e.1 / 64 = d := fun e mem => by
      rw [← homes e mem, State.homeOf_of_svc adv.svc]
    refine ⟨List.eq_nil_iff_forall_not_mem.mpr (fun p mem => ?_), fun pa => ?_⟩
    · obtain ⟨p0, mem0, -⟩ := rel.pend p mem
      rw [show (s3.applyFirst k [d]).mem.pend = [] from commitDie_one_pend pend3 adv.launch own old homes3] at mem0
      cases mem0
    · rw [rel.hbm, ← adv.mem]
      exact commitDie_one_read pend3 peers3 adv.launch own old homes3 pa

/-! ### The events -/

/-- A member that is not the initiator commits nothing by itself (R299). -/
theorem mdCommitTest_second {m : MdState} (there : s.launch? k = some l) (member : l.md = some m) (second : m.initiator = false) : s.mdCommitTest k = s := by
  unfold State.mdCommitTest
  simp only [there, Option.bind_some, member, second, Bool.false_and, Bool.false_eq_true, if_false]

section
variable (there : s.launch? k = some l)
include there

theorem gives_phaseRaise {c : Nat} {h : CorePhase} (head : NMap.look l.heads c = some h) (flushed : h.st = .flushing) (all : h.hdr.expect ≤ 0)
    (stores : s.storesOut k c = false) (loads : s.loadsOut k c = false) : exec (.phaseRaise k c) s =
      .next ((s.updLaunch k (fun l => l.withHead c { h with st := .raised })).send (.join k c) 0 (coreStop c) (conjStop (coreDie c))) := by
  rw [exec_phaseRaise, execPhaseRaise, there]
  simp only [head, flushed, all, stores, loads, beq_self_eq_true, decide_true, Bool.not_false, Bool.and_self, if_true]
  rfl

theorem phaseRaise_waits {c : Nat} {h : CorePhase} (head : NMap.look l.heads c = some h)
    (waits : h.st ≠ .flushing ∨ 0 < h.hdr.expect ∨ s.storesOut k c = true ∨ s.loadsOut k c = true) : exec (.phaseRaise k c) s = .next s := by
  rw [exec_phaseRaise, execPhaseRaise, there]
  dsimp only
  rw [head]
  refine if_neg ?_
  simp only [Bool.and_eq_true, beq_iff_eq, decide_eq_true_eq, Bool.not_eq_true', not_and, Bool.not_eq_false]
  intro ⟨⟨flushed, all⟩, stores⟩
  rcases waits with h | h | h | h
  · exact absurd flushed h
  · omega
  · rw [h] at stores; cases stores
  · exact h

theorem phaseCommit_waits (waits : s.treeUp l = false ∨ s.unreleased k = true) : exec (.phaseCommit k) s = .next s := by
  rw [exec_phaseCommit, execPhaseCommit, there]
  exact if_pos (by rcases waits with h | h <;> simp [h])

theorem phaseCommit_commits (up : s.treeUp l = true) (free : s.unreleased k = false) (single : l.md = none) :
    exec (.phaseCommit k) s = .next (s.commitLaunch k) := by
  rw [exec_phaseCommit, execPhaseCommit, there]
  simp only [up, free, single, Bool.not_true, Bool.or_self, Bool.false_eq_true, if_false]

theorem phaseCommit_member {m : MdState} (up : s.treeUp l = true) (free : s.unreleased k = false) (member : l.md = some m) (alive : l.dead = false)
    (second : m.initiator = false) (first : m.sentRaised = false) : exec (.phaseCommit k) s =
      .next (s.updLaunch k (fun l => { l with md := some { m with sentRaised := true, raised := NSet.add m.raised s.fab.self } })) := by
  have after := State.updLaunch_there (fun l => { l with md := some { m with sentRaised := true, raised := NSet.add m.raised s.fab.self } }) there
  rw [exec_phaseCommit, execPhaseCommit, there]
  simp only [up, free, member, alive, first, Bool.not_true, Bool.or_self, Bool.false_eq_true, if_false]
  rw [mdCommitTest_second after rfl second]

theorem commitBroadcast_waits {die : Fin 2} (waits : die.val ∉ l.dies ∨ s.net.carries (.commit k die.val) = true) : exec (.commitBroadcast k die) s = .next s := by
  rw [exec_commitBroadcast, execCommitBroadcast, there]
  exact if_pos (by rcases waits with h | h <;> simp [h])

theorem commitBroadcast_applies {die : Fin 2} (owed : die.val ∈ l.dies) (come : s.net.carries (.commit k die.val) = false) : exec (.commitBroadcast k die) s =
    .next (((s.commitDie k die.val).updLaunch k (fun l => { l with dies := l.dies.filter (· != die.val) })).releaseTest k) := by
  rw [exec_commitBroadcast, execCommitBroadcast, there]
  exact if_neg (by simp [owed, come])

theorem peerCommitAck_waits {dev : Nat} (waits : dev ∉ l.peerWait) : exec (.peerCommitAck k dev) s = .next s := by
  rw [exec_peerCommitAck, execPeerCommitAck, there]
  exact if_pos (by simp [waits])

theorem peerCommitAck_counts {dev : Nat} (owed : dev ∈ l.peerWait) : exec (.peerCommitAck k dev) s =
    .next ((s.updLaunch k (fun l => { l with peerWait := l.peerWait.filter (· != dev) })).releaseTest k) := by
  rw [exec_peerCommitAck, execPeerCommitAck, there]
  exact if_neg (by simp [owed])

end

/-! ### A peer's versions (R297) -/

/-- The versions of one phase of a peer's launch. -/
def ofPeer (src launch phase : Nat) (p : PeerPend) (_ : Nat) : Bool := p.dev == src && p.launch == launch && p.phase == phase % 65536

theorem ofPeer_iff {src launch phase pa : Nat} {p : PeerPend} :
    ofPeer src launch phase p pa = true ↔ p.dev = src ∧ p.launch = launch ∧ p.phase = phase % 65536 := by
  simp [ofPeer, and_assoc]

theorem settle_peer_pend {selp : PeerPend → Nat → Bool} (whole : ∀ p ∈ s.mem.pend, p.bytes ≠ [] ∧ keepLines p.spilled p.bytes = p.spilled) :
    (s.settle noPend selp).mem.pend = s.mem.pend := by
  rw [State.settle_pend]
  have each : ∀ p ∈ s.mem.pend, (let bytes := p.bytes.filter (fun e => !(noPend p e.1 &&
      NSet.has ((pendKeys s.mem.pend noPend).filter (fun pa => !(s.offered noPend pa).isEmpty)) e.1)); { p with bytes := bytes, spilled := keepLines p.spilled bytes }) = p := by
    intro p mem
    have all : p.bytes.filter (fun e => !(noPend p e.1 && NSet.has ((pendKeys s.mem.pend noPend).filter (fun pa => !(s.offered noPend pa).isEmpty)) e.1)) = p.bytes :=
      List.filter_eq_self.mpr (fun e _ => rfl)
    simp only [all, (whole p mem).2]
  rw [List.map_congr_left each, List.map_id', List.filter_eq_self]
  exact fun p mem => by simpa using (whole p mem).1

theorem mem_settle_peerPend {src launch phase : Nat} {p : PeerPend} (mem : p ∈ (s.settle noPend (ofPeer src launch phase)).mem.peerPend) (pa : Nat) :
    ofPeer src launch phase p pa = false := by
  rw [State.settle_peerPend] at mem
  obtain ⟨mem, some'⟩ := List.mem_filter.mp mem
  obtain ⟨p0, -, rfl⟩ := List.mem_map.mp mem
  by_contra named
  have all : ∀ a, ofPeer src launch phase p0 a = true := fun _ => Bool.eq_true_of_not_eq_false named
  simp [all] at some'

theorem settle_keeps_peerPend {src launch phase : Nat} {p : PeerPend} (mem : p ∈ s.mem.peerPend) (other : ∀ pa, ofPeer src launch phase p pa = false)
    (some' : p.bytes ≠ []) (spilled : keepLines p.spilled p.bytes = p.spilled) : p ∈ (s.settle noPend (ofPeer src launch phase)).mem.peerPend := by
  rw [State.settle_peerPend]
  refine List.mem_filter.mpr ⟨List.mem_map.mpr ⟨p, mem, ?_⟩, by simpa using some'⟩
  have all : p.bytes.filter (fun e => !ofPeer src launch phase p e.1) = p.bytes := List.filter_eq_self.mpr (fun e _ => by rw [other]; rfl)
  simp only [all, spilled]

/-- One version of the peer alone settles byte for byte. -/
theorem settle_peer_read {src launch phase : Nat} {q : PeerPend} (one : s.mem.peerPend = [q]) (named : ∀ pa, ofPeer src launch phase q pa = true) (pa : Nat) :
    (s.settle noPend (ofPeer src launch phase)).mem.hbm.bytes.read pa = ((NMap.look q.bytes pa).map PByte.val).getD (s.mem.hbm.bytes.read pa) := by
  have none' : ∀ pa, s.offered noPend pa = [] := fun pa => by
    refine List.filterMap_eq_nil_iff.mpr (fun p _ => ?_)
    split
    · simp [noPend]
    · rfl
  have offers : ∀ pa, s.allOffers noPend (ofPeer src launch phase) pa = ((NMap.look q.bytes pa).map (fun b => ((none : Writer), b))).toList := fun pa => by
    rw [State.allOffers, none', List.nil_append, State.offeredPeer, one]
    cases look : NMap.look q.bytes pa <;> simp [named, look]
  rw [State.settle_read (fun pa => by rw [offers]; cases NMap.look q.bytes pa <;> simp), offers]
  cases NMap.look q.bytes pa <;> rfl

end Sys2Proof.Machine

namespace Sys2Proof.Claims
open Sys2Proof.Machine

/-- Settles O51, event by event. -/
theorem phaseEvents : Obligations.PhaseEvents := by
  unfold Obligations.PhaseEvents
  refine fun s core slot phase k => ⟨fun l h on there head => ?_, fun stray => ⟨fun c ctx => ?_, fun ctx => ?_⟩, fun l there id => ?_⟩
  · have arrives : exec (.arrival core slot phase) s = .next (s.arrive l core.val phase) := by
      rw [exec_arrival, execArrival, State.arrival, on]
    exact ⟨fun now => ⟨_, arrives, arrive_current there head now⟩, fun later next => ⟨_, arrives, arrive_next there head later next⟩,
      fun later far => ⟨_, arrives, arrive_late there head later far⟩⟩
  · rw [exec_arrival, execArrival, State.arrival, stray]
    simp only [ctx]
  · refine ⟨s.countError 3, ?_, NMap.getD_set_same 0 s.mgmt.errors 3 (NMap.getD s.mgmt.errors 3 0 + 1), rfl⟩
    rw [exec_arrival, execArrival, State.arrival, stray]
    simp only [ctx]
  intro new
  refine ⟨fun c h head => ⟨fun flushed all stores loads => ?_, phaseRaise_waits there head⟩, phaseCommit_waits there, fun up free single => ?_,
    fun m up free member alive second first => ?_, fun die => ⟨commitBroadcast_waits there, fun owed come => ?_⟩,
    fun dev => ⟨peerCommitAck_waits there, fun owed => ?_⟩, fun src task => ⟨?_, ?_⟩⟩
  · refine ⟨_, gives_phaseRaise there head flushed all stores loads, ?_, ?_, l.withHead c { h with st := .raised }, State.updLaunch_there _ there,
      NMap.look_put_same _ _ _, rfl, fun d other => NMap.look_put_other _ _ other⟩
    · exact (congrArg (fun t : State => { t with net := s.net }) (State.updLaunch_rest s k _) :)
    · simp [State.send, NetSt.carries]
  · have commits := commitLaunch_commits there
    refine ⟨_, phaseCommit_commits there up free single, ?_, fun u t team own => ?_, fun q d pend peers own' old die homes some' => ?_⟩
    · obtain ⟨l', there', phase', peers', wait', heads'⟩ := commits.launch
      exact ⟨l', there', phase', peers', wait', heads'⟩
    · have own' : (t.commit k l.phase).launch = k := (congrArg Team.launch (Team.commit_passes k l.phase t) :).trans own
      have passed : ∀ n, (t.commit k l.phase).passed n = t.passed n := fun n =>
        (congrArg (fun t : Team => t.passed n) (Team.commit_passes k l.phase t) :)
      have frags : ∀ e, (t.commit k l.phase).frag? e = t.frag? e := fun e => (congrArg (fun t : Team => t.frag? e) (Team.commit_passes k l.phase t) :)
      rcases commits.teams u t team with ⟨held, after⟩ | after
      · exact ⟨_, after, Team.commit_registers k l.phase t, Team.commit_irrev own, fun off => by simp [held] at off, fun off => by simp [held] at off⟩
      · refine ⟨_, after, (Team.commit_registers k l.phase t).trans (Team.released_registers k _ _), fun gone => ?_, fun _ gone => ?_, fun _ e f look => ?_⟩
        · rw [Team.released_irrev, Team.commit_irrev own gone]
        · rw [Team.released_phaseDone own', passed, Team.not_passed gone (by omega)]
        · exact ⟨_, by rw [Team.released_frag? own', frags, look]; rfl, rfl⟩
    · obtain ⟨gone, reads⟩ := commits.one q d pend peers own' old die homes some'
      exact ⟨gone, fun pa b look => by rw [reads, look]; rfl, fun pa look => by rw [reads, look]; rfl⟩
  · exact ⟨_, phaseCommit_member there up free member alive second first, State.updLaunch_there _ there, State.updLaunch_mem _ _ _, State.updLaunch_teams _ _ _⟩
  · obtain ⟨l1, there1, same1⟩ := State.launch?_of_noWrites (commitDie_noWrites s k die.val) there
    have rel := releaseTest_releases (State.updLaunch_there (fun l => { l with dies := l.dies.filter (· != die.val) }) there1)
    refine ⟨_, commitBroadcast_applies there owed come, ?_, fun p mem own old e at' => ?_⟩
    · obtain ⟨l', there', same', -⟩ := rel.launch
      refine ⟨l', there', (congrArg Launch.dies same' :).trans ?_, (congrArg Launch.phase same' :).trans (congrArg Launch.phase same1 :)⟩
      exact congrArg (List.filter (· != die.val)) (congrArg Launch.dies same1 :)
    · obtain ⟨p1, mem1, launch1, phase1, keys1⟩ := rel.pend p mem
      rw [State.updLaunch_mem] at mem1
      obtain ⟨-, gone, -⟩ := commitDie_pend there mem1
      have key : e.1 ∈ p1.bytes.map Prod.fst := keys1 ▸ List.mem_map_of_mem at'
      obtain ⟨e1, at1, same⟩ := List.mem_map.mp key
      rw [← same]
      exact gone (launch1.symm.trans own) (by rwa [← phase1]) e1 at1
  · have rel := releaseTest_releases (State.updLaunch_there (fun l => { l with peerWait := l.peerWait.filter (· != dev) }) there)
    obtain ⟨l', there', same', -⟩ := rel.launch
    exact ⟨_, peerCommitAck_counts there owed, rel.hbm.trans (by rw [State.updLaunch_mem]), l', there', (congrArg Launch.peerWait same' :), (congrArg Launch.phase same' :)⟩
  · refine ⟨s.settle noPend (ofPeer src k phase), rfl, fun p mem named => ?_, fun p mem other some' spilled => ?_, settle_peer_pend, State.settle_teams _ _ _,
      fun q one named => ⟨fun pa b look => ?_, fun pa look => ?_⟩⟩
    · exact Bool.eq_false_iff.mp (mem_settle_peerPend mem 0) (ofPeer_iff.mpr named)
    · exact settle_keeps_peerPend mem (fun pa => by rw [← Bool.not_eq_true, ofPeer_iff]; exact other) some' spilled
    · rw [settle_peer_read one (fun _ => ofPeer_iff.mpr named), look]; rfl
    · rw [settle_peer_read one (fun _ => ofPeer_iff.mpr named), look]; rfl
  · refine ⟨_, rfl, rfl, rfl, fun p => ?_⟩
    rw [State.updMem_mem]
    simp only [List.mem_filter, Bool.not_eq_true', ← Bool.not_eq_true, Bool.and_eq_true, beq_iff_eq]

end Sys2Proof.Claims
end

section
/-! Atomics and reductions on the own scratchpad (R181-R185): where nothing of the team's accesses is outstanding, the request is served as it issues: it is
performed at the scratchpad and its answer delivered, and of the machine the team, its group's scratchpad and the numbers given out change. -/

namespace Sys2Proof.Machine
open Sys2Proof.Claims

/-! ### The own scratchpad window (R67, R71) -/

/-- Offset o of a team's scratchpad. -/
def Team.scratchAt (t : Team) (o : Nat) : Loc := { space := 1, x := t.launch, y := t.group, addr := o }

/-- A launch's scratchpad is smaller than its window. -/
theorem Launch.scratch_lt (l : Launch) : l.scratch < 2 ^ 32 := by
  have field : recBits l.record 181 172 < 2 ^ 10 := Nat.mod_lt _ (by decide)
  unfold Launch.scratch
  omega

theorem isWindow_scratch (o : Nat) : isWindow (winBase 1 + o) = true := by simp [isWindow, winBase]; omega

section
variable {s : State} {t : Team} {l : Launch} {o lane : Nat}

theorem locateWindow_scratch (launch : s.launch? t.launch = some l) (inside : o < l.scratch) :
    locateWindow s t lane (winBase 1 + o) = .ok (t.scratchAt o) := by
  have small := Nat.lt_trans inside l.scratch_lt
  have window : (winBase 1 + o - winBase 0) / 2 ^ 32 = 1 := by simp only [winBase]; omega
  have offset : (winBase 1 + o - winBase 0) % 2 ^ 32 = o := by simp only [winBase]; omega
  simp only [locateWindow, launch, window, offset, if_pos inside]
  rfl

theorem aim_scratch (launch : s.launch? t.launch = some l) (inside : o < l.scratch) (need : Need) (atom ld64 : Bool) :
    s.aim t lane (winBase 1 + o) need atom ld64 = (.at' (t.scratchAt o) Hit.none', s) := by
  have small := Nat.lt_trans inside l.scratch_lt
  have mapped : ¬ 2 ^ 57 ≤ winBase 1 + o := by simp only [winBase]; omega
  have noCounter : decide (winBase 4 ≤ winBase 1 + o) = false := decide_eq_false (by simp only [winBase]; omega)
  simp only [State.aim, if_neg mapped, isWindow_scratch, noCounter, locateWindow_scratch launch inside, Bool.false_and, Bool.false_eq_true, if_false, if_true]

theorem pathAt_scratch (launch : s.launch? t.launch = some l) (inside : o < l.scratch) : s.pathAt t lane (winBase 1 + o) = 1 := by
  simp only [State.pathAt, isWindow_scratch, if_true, locateWindow_scratch launch inside]
  rfl

theorem store_scratch {g : Group} (group : s.group? t.launch t.group = some g) : s.store (t.scratchAt o) = g.scratch := by
  simp only [State.store, Team.scratchAt, group]

end

/-! ### A request served where it issues -/

/-- Nothing keeps an access of a team from offset o of its scratchpad. -/
structure Reaches (s : State) (t : Team) (l : Launch) (o : Nat) : Prop where
  there : s.team? t.id = some t
  launch : s.launch? t.launch = some l
  inside : o < l.scratch
  free : NMap.look s.mem.owned (t.scratchAt o).key = none
  none' : ∀ r ∈ s.reqs, r.team ≠ t.id
  noOver : t.ovflow = []
  noCast : s.fab.mcast = []

/-- A request of a team for one element at offset o of its scratchpad, in a lane that is no helper. -/
structure AsksOne (t : Team) (o : Nat) (r : Req) (p : LanePart) : Prop where
  team : r.team = t.id
  parts : r.parts = [p]
  va : p.va = winBase 1 + o
  real : t.real.getLsbD p.lane = true
  atomic : r.op.isAtomic = true
  noTwins : r.twins = []

/-- What an answer of one part brings to its team (R183, R265). -/
def Team.receive (r : Req) (seq : Nat) (p : LanePart) (a : List Byte × Bool) (t : Team) : Team :=
  match r.op with
  | .atomic _ _ d =>
    let t' := t.deliverOld ((Ty.ofCode r.ty).getD .s32) d p a.1 a.2
    if r.signed then { t' with acq := seq } else t'
  | _ => t

theorem ReqOp.atomic_cases {op : ReqOp} (atomic : op.isAtomic = true) : (∃ k code d, op = .atomic k code d) ∨ ∃ k code, op = .reduce k code := by
  cases op with
  | load cls n d => cases atomic
  | store cls n => cases atomic
  | lock a b c d => cases atomic
  | atomic k code d => exact .inl ⟨k, code, d, rfl⟩
  | reduce k code => exact .inr ⟨k, code, rfl⟩

section
variable {s : State} {t : Team} {l : Launch} {o : Nat} {r : Req} {p : LanePart}

theorem Reaches.mustWait (h : Reaches s t l o) (r : Req) : s.mustWait t r (t.scratchAt o) = none := by
  simp only [State.mustWait, h.free]
  simp [Team.scratchAt]

theorem mustUpdate_scratch (r : Req) : s.mustUpdate t r (t.scratchAt o) Hit.none' = false := by
  simp [State.mustUpdate, Team.scratchAt]

theorem Reaches.performAll (h : Reaches s t l o) (asks : AsksOne t o r p) :
    State.performAll t r none r.parts s =
      (.answer [(s.performPart t r none p (t.scratchAt o) Hit.none').1], (s.performPart t r none p (t.scratchAt o) Hit.none').2) := by
  have own : ((t.scratchAt o).space == 7 || (t.scratchAt o).space == 8) = false := rfl
  simp only [asks.parts, State.performAll, asks.real, asks.va, aim_scratch h.launch h.inside, h.mustWait, mustUpdate_scratch, own, State.performBytes, asks.noTwins,
    List.isEmpty_nil, Bool.false_eq_true, if_false, if_true]

theorem Reaches.perform (h : Reaches s t l o) (asks : AsksOne t o r p) :
    s.perform t r = (.answer [(s.performPart t r none p (t.scratchAt o) Hit.none').1], (s.performPart t r none p (t.scratchAt o) Hit.none').2) := by
  obtain ⟨k, code, d, op⟩ | ⟨k, code, op⟩ := ReqOp.atomic_cases asks.atomic
  · simp only [State.perform, op, h.performAll asks]
  · simp only [State.perform, op, h.performAll asks]

/-- What leaves for a peer's list are stores. -/
theorem leave_atomic (r : Req) (atomic : r.op.isAtomic = true) (s : State) (t : Team) : s.leave t r = s := by
  unfold State.leave
  split
  · rfl
  · split
    · next op => simp [op, ReqOp.isAtomic] at atomic
    · rfl

/-- Where no request of a team is kept, none goes on when one is answered. -/
theorem State.issueNext_none (none' : ∀ x ∈ s.reqs, x.team ≠ r.team) : s.issueNext r = s := by
  have noNext (p q : Req → Bool) : s.reqs.find? (fun x => x.team == r.team && p x && q x) = none :=
    List.find?_eq_none.mpr (fun x mem => by simp [none' x mem])
  simp only [State.issueNext, noNext]

theorem Team.withNoOvflow {t : Team} (noOver : t.ovflow = []) : { t with ovflow := [] } = t := by rw [← noOver]

/-- An untagged answer of one part comes to its team, of which no request is kept. -/
theorem State.deliver_one {a : List Byte × Bool} (asks : AsksOne t o r p) (there : s.team? t.id = some t) (none' : ∀ x ∈ s.reqs, x.team ≠ t.id)
    (older : ∀ x ∈ s.reqs, x.id ≠ r.id) (noOver : t.ovflow = []) (clear : a.2 = false) :
    s.deliver r [a] = (s.updTeam t.id (Team.receive r s.mem.seq p a)).retire t.id := by
  have kept : s.reqs.filter (fun x => x.id != r.id) = s.reqs := List.filter_eq_self.mpr (fun x mem => by simpa using older x mem)
  have noNext (f : Team → Team) : (s.updTeam t.id f).issueNext r = s.updTeam t.id f :=
    State.issueNext_none (by simpa [asks.team] using none')
  simp only [State.deliver, kept, asks.team, asks.parts, there, List.any_cons, List.any_nil, clear, Bool.or_false, Bool.false_and, Bool.false_eq_true, if_false, noNext]
  refine congrArg (State.retire · t.id) (State.updTeam_congr s t.id fun x found => ?_)
  obtain rfl : t = x := Option.some.inj (there.symm.trans found)
  obtain ⟨k, code, d, op⟩ | ⟨k, code, op⟩ := ReqOp.atomic_cases asks.atomic
  · simp only [Team.receive, op, noOver, List.filter_nil, Team.withNoOvflow noOver, List.isEmpty_nil, Bool.or_true, if_true, asks.real, clear, List.zip_cons_cons,
      List.zip_nil_left, List.foldl_cons, List.foldl_nil]
  · simp only [Team.receive, op, noOver, List.filter_nil, Team.withNoOvflow noOver, List.isEmpty_nil, Bool.or_true, if_true]

/-- The team's group after its scratchpad is written, the answer delivered. -/
def State.answered (s : State) (t : Team) (r : Req) (p : LanePart) (a : List Byte × Bool) (f : Group → Group) : State :=
  ((s.updGroup t.launch t.group f).updTeam t.id (Team.receive r s.mem.seq p a)).retire t.id

variable {a : List Byte × Bool} {f : Group → Group}

theorem Reaches.serve (h : Reaches s t l o) (asks : AsksOne t o r p) (older : ∀ x ∈ s.reqs, x.id ≠ r.id) (clear : a.2 = false)
    (wrote : s.performPart t r none p (t.scratchAt o) Hit.none' = (a, s.updGroup t.launch t.group f)) : s.serve r = s.answered t r p a f := by
  have team : s.team? r.team = some t := asks.team ▸ h.there
  simp only [State.serve, team, h.perform asks, wrote, State.updGroup_fab, h.noCast, List.any_nil, Bool.false_eq_true, if_false, leave_atomic r asks.atomic]
  exact State.deliver_one (s := s.updGroup t.launch t.group f) asks h.there h.none' older h.noOver clear

theorem Reaches.issueReq (h : Reaches s t l o) (asks : AsksOne t o r p) (older : ∀ x ∈ s.reqs, x.id ≠ r.id) (clear : a.2 = false)
    (wrote : s.performPart t r none p (t.scratchAt o) Hit.none' = (a, s.updGroup t.launch t.group f)) : s.issueReq r = s.answered t r p a f := by
  have noSame (q : Req → Bool) (q' : Req → Bool) : s.reqs.filter (fun x => x.team == t.id && q x && q' x) = [] :=
    List.filter_eq_nil_iff.mpr (fun x mem => by simp [h.none' x mem])
  have near : (t.scratchAt o).away = false := rfl
  simp only [State.issueReq, asks.team, h.there, asks.parts, asks.va, noSame, aim_scratch h.launch h.inside, near, isWindow_scratch, List.any_cons, List.any_nil,
    Bool.false_and, Bool.or_false, Bool.false_eq_true, if_false, List.isEmpty_nil, Bool.not_true, if_true]
  exact h.serve asks older clear wrote

end

/-! ### The issue (R170-R174, R258) -/

section
variable {s : State} {iss : Issue} {t : Team} {l : Launch} {o : Nat}

/-- The team of an issue counts the instruction on path 1 (R82) and among those that cannot be undone (R258). -/
def Team.counted (inst : Nat) (t : Team) : Team := { t.setPath 1 (t.path 1 ++ [inst]) with irrev := min 65535 (t.irrev + 1) }

theorem Team.counted_regs (t : Team) (inst : Nat) : (t.counted inst).vec = t.vec ∧ (t.counted inst).vtag = t.vtag ∧ (t.counted inst).scal = t.scal ∧
    (t.counted inst).stag = t.stag ∧ (t.counted inst).acq = t.acq := ⟨rfl, rfl, rfl, rfl, rfl⟩

/-- The state in which the request of an atomic issues. -/
def State.atomIssued (s : State) (u : Nat) : State := { s.updTeam u (Team.counted s.nextId) with nextId := s.nextId + 2 }

/-- The request of an atomic in one lane, as that state issues it. -/
def atomReq (s : State) (iss : Issue) (op : ReqOp) (ord : Order) (p : LanePart) : Req := newReq iss op ord false (s.nextId + 1) s.nextId 1 s.clk p []

theorem aliasesOf_atomic {op : ReqOp} (atomic : op.isAtomic = true) (all ps : List LanePart) : aliasesOf op all ps = [] := by
  obtain ⟨k, code, d, rfl⟩ | ⟨k, code, rfl⟩ := ReqOp.atomic_cases atomic
  · rfl
  · rfl

theorem checkParts_scratch {g : Group} {p : LanePart} (settled : Settled s iss l g) (inside : o < l.scratch) (op : ReqOp) (va : p.va = winBase 1 + o) :
    State.checkParts iss.team op [p] s = (none, s) := by
  by_cases real : iss.team.real.getLsbD p.lane
  · simp [State.checkParts, real, va, aim_scratch settled.launch inside]
  · simp [State.checkParts, real]

theorem memWaits_scratch {g : Group} {p : LanePart} (settled : Settled s iss l g) (inside : o < l.scratch) {op : ReqOp} (atomic : op.isAtomic = true) (ord : Order)
    (va : p.va = winBase 1 + o) : s.memWaits iss op ord [p] = false := by
  have mine : s.reqs.filter (fun r => r.team == iss.team.id) = [] :=
    List.filter_eq_nil_iff.mpr (fun r mem => by simpa [settled.key] using settled.none' r mem)
  have sure : l.tentative = false := by rw [Launch.tentative, settled.single]
  obtain ⟨k, code, d, rfl⟩ | ⟨k, code, rfl⟩ := ReqOp.atomic_cases atomic
  · simp [State.memWaits, mine, settled.noOver, settled.noLock, settled.launch, sure, va, aim_scratch settled.launch inside]
  · simp [State.memWaits, mine, settled.noOver, settled.noLock, settled.launch, sure, va, aim_scratch settled.launch inside]

/-- An atomic's instruction is counted before its request issues. -/
def State.atomCounted (s : State) (u : Nat) (op : ReqOp) (lanes : List Nat) : State :=
  (({ s with nextId := s.nextId + 1 }.updTeam u (fun t => t.countPaths [1] s.nextId)).irreversible u).updTeam u (op.clearTags lanes)

theorem clearTags_atomic {op : ReqOp} (atomic : op.isAtomic = true) (lanes : List Nat) (t : Team) : op.clearTags lanes t = t := by
  obtain ⟨k, code, d, rfl⟩ | ⟨k, code, rfl⟩ := ReqOp.atomic_cases atomic
  · rfl
  · rfl

theorem atomCounted_eq (s : State) (u : Nat) {op : ReqOp} (atomic : op.isAtomic = true) (lanes : List Nat) :
    s.atomCounted u op lanes = { s.updTeam u (Team.counted s.nextId) with nextId := s.nextId + 1 } := by
  simp only [State.atomCounted, State.irreversible, State.updTeam_updTeam, clearTags_atomic atomic]
  unfold State.updTeam
  dsimp only [State.team?]
  split <;> rfl

theorem Reaches.atomIssued {s : State} {t0 : Team} {g : Group} (settled : Settled s iss l g) (inside : o < l.scratch)
    (free : NMap.look s.mem.owned (scratchLoc iss o).key = none) (there : s.team? iss.tid = some t0) (same : { t0 with frags := [] } = { iss.team with frags := [] }) :
    Reaches (s.atomIssued iss.tid) (t0.counted s.nextId) l o := by
  have id : t0.id = iss.tid := ((congrArg Team.id same :) : t0.id = iss.team.id).trans settled.key
  have launch : t0.launch = iss.team.launch := (congrArg Team.launch same :)
  have group : t0.group = iss.team.group := (congrArg Team.group same :)
  exact {
    there := by
      change (s.updTeam iss.tid (Team.counted s.nextId)).team? t0.id = _
      rw [id, State.updTeam_team? _ there]
    launch := by
      change (s.updTeam iss.tid _).launch? t0.launch = _
      rw [launch, State.launch?, State.updTeam_launches]
      exact settled.launch
    inside := inside
    free := by
      change NMap.look (s.updTeam iss.tid _).mem.owned (t0.scratchAt o).key = _
      rw [State.updTeam_mem, Team.scratchAt, launch, group]
      exact free
    none' := by
      change ∀ r ∈ (s.updTeam iss.tid _).reqs, r.team ≠ t0.id
      rw [State.updTeam_reqs, id]
      exact settled.none'
    noOver := ((congrArg Team.ovflow same :) : t0.ovflow = iss.team.ovflow).trans settled.noOver
    noCast := by
      change (s.updTeam iss.tid _).fab.mcast = []
      rw [State.updTeam_fab]
      exact settled.noCast }

/-- An atomic of one lane passes its check and waits, is counted, and issues its one request (R170-R174, R82, R258). -/
theorem memIssue_counted {s : State} {g : Group} {op : ReqOp} {ord : Order} {n : Nat} {ask : LaneAsk} {skipped : State → State} (settled : Settled s iss l g)
    (inside : o < l.scratch) (atomic : op.isAtomic = true) (nonempty : iss.val ≠ 0) (aligned : ask.ea % n = 0) (ea : ask.ea = winBase 1 + o) (atag : ask.atag = false)
    (dtag : ask.dtag = false) :
    let p : LanePart := { lane := ask.lane, va := ask.ea, off := 0, len := n, data := ask.data, tag := ask.dtag }
    memIssue iss s op n true ord true [ask] skipped =
      .done ((State.issueGroup iss op ord false s.nextId (fun p => s.pathAt iss.team p.lane p.va) [p] (s.atomCounted iss.tid op [ask.lane]) [p]).retire iss.tid) := by
  intro p
  have room : iss.team.pathRoom [1] = true := by simpa [Team.pathRoom] using settled.room 1
  have counts : op.irreversible true = true := by
    obtain ⟨k, code, d, rfl⟩ | ⟨k, code, rfl⟩ := ReqOp.atomic_cases atomic
    · rfl
    · rfl
  have va : p.va = winBase 1 + o := ea
  have onePart : askParts n true ask = [p] := rfl
  have path : (NSet.add [] 1) = [1] := rfl
  have oneGroup : groupParts [p] = [[p]] := rfl
  have active : (iss.val != 0) = true := bne_iff_ne.mpr nonempty
  have onPath : s.pathAt iss.team p.lane p.va = 1 := by rw [va, pathAt_scratch settled.launch inside]
  have windows : isWindow p.va = true := by rw [va, isWindow_scratch]
  simp only [memIssue, List.filter_cons, List.filter_nil, atag, dtag, Bool.not_false, if_true, List.flatMap_cons, List.flatMap_nil, onePart, List.append_nil, List.find?_cons,
    List.find?_nil, aligned, bne_self_eq_false, Bool.and_false, Bool.false_and, checkParts_scratch settled inside op va, memWaits_scratch settled inside atomic ord va,
    onPath, path, room, List.all_cons, List.all_nil, windows, counts, active, Bool.not_true, Bool.or_false, Bool.and_true, Bool.false_eq_true, if_false, List.any_cons, List.any_nil,
    List.map_cons, List.map_nil, List.foldl_cons, List.foldl_nil, oneGroup, settled.key]
  rfl

/-- A group of parts issues as one request while its team runs. -/
theorem issueGroup_running {s : State} {u : Team} {op : ReqOp} {p : LanePart} (found : s.team? iss.team.id = some u) (running : u.status = .running)
    (atomic : op.isAtomic = true) (ord : Order) (counted : Bool) (inst : Nat) (pathOf : LanePart → Nat) (all rest : List LanePart) :
    State.issueGroup iss op ord counted inst pathOf all s (p :: rest) =
      { s with nextId := s.nextId + 1 }.issueReq (newReq iss op ord counted s.nextId inst (pathOf p) s.clk p rest) := by
  simp only [State.issueGroup, found, running, beq_self_eq_true, if_true, aliasesOf_atomic atomic]
  rfl

theorem memIssue_scratch {s : State} {t0 : Team} {g : Group} {op : ReqOp} {ord : Order} {n : Nat} {ask : LaneAsk} {a : List Byte × Bool} {f : Group → Group}
    {skipped : State → State}
    (settled : Settled s iss l g) (inside : o < l.scratch) (free : NMap.look s.mem.owned (scratchLoc iss o).key = none)
    (there : s.team? iss.tid = some t0) (same : { t0 with frags := [] } = { iss.team with frags := [] }) (atomic : op.isAtomic = true)
    (real : iss.team.real.getLsbD ask.lane = true) (nonempty : iss.val ≠ 0) (aligned : ask.ea % n = 0) (ea : ask.ea = winBase 1 + o) (atag : ask.atag = false)
    (dtag : ask.dtag = false) (clear : a.2 = false) :
    let p : LanePart := { lane := ask.lane, va := ask.ea, off := 0, len := n, data := ask.data, tag := ask.dtag }
    (wrote : (s.atomIssued iss.tid).performPart (t0.counted s.nextId) (atomReq s iss op ord p) none p ((t0.counted s.nextId).scratchAt o) Hit.none' =
      (a, (s.atomIssued iss.tid).updGroup t0.launch t0.group f)) →
    memIssue iss s op n true ord true [ask] skipped =
      .done (((s.atomIssued iss.tid).answered (t0.counted s.nextId) (atomReq s iss op ord p) p a f).retire iss.tid) := by
  intro p wrote
  rw [memIssue_counted settled inside atomic nonempty aligned ea atag dtag]
  have reaches := Reaches.atomIssued settled inside free there same
  have id : t0.id = iss.tid := ((congrArg Team.id same :) : t0.id = iss.team.id).trans settled.key
  have running : (t0.counted s.nextId).status = .running := ((congrArg Team.status same :) : t0.status = iss.team.status).trans settled.runs
  have asks : AsksOne (t0.counted s.nextId) o (atomReq s iss op ord p) p :=
    { team := settled.key.trans id.symm, parts := rfl, va := ea, real := ((congrArg Team.real same :) : t0.real = iss.team.real) ▸ real, atomic := atomic, noTwins := rfl }
  have found : (s.atomCounted iss.tid op [ask.lane]).team? iss.team.id = some (t0.counted s.nextId) := by
    rw [atomCounted_eq s iss.tid atomic, settled.key]
    exact State.updTeam_team? _ there
  have issues : State.issueGroup iss op ord false s.nextId (fun p => s.pathAt iss.team p.lane p.va) [p] (s.atomCounted iss.tid op [ask.lane]) [p] =
      (s.atomIssued iss.tid).issueReq (atomReq s iss op ord p) := by
    have onPath : s.pathAt iss.team p.lane p.va = 1 := by rw [show p.va = winBase 1 + o from ea, pathAt_scratch settled.launch inside]
    have counted := atomCounted_eq s iss.tid atomic [ask.lane]
    have next : { s.atomCounted iss.tid op [ask.lane] with nextId := (s.atomCounted iss.tid op [ask.lane]).nextId + 1 } = s.atomIssued iss.tid := by rw [counted]; rfl
    have clk : (s.atomCounted iss.tid op [ask.lane]).clk = s.clk := by rw [counted]; exact State.updTeam_clk s _ _
    have id' : (s.atomCounted iss.tid op [ask.lane]).nextId = s.nextId + 1 := by rw [counted]
    rw [issueGroup_running found running atomic, onPath, next, clk, id']
    rfl
  have older (x : Req) (mem : x ∈ (s.atomIssued iss.tid).reqs) : x.id ≠ s.nextId + 1 := by
    have before := settled.older x (by rwa [State.atomIssued, State.updTeam_reqs] at mem)
    omega
  rw [issues, reaches.issueReq asks older clear wrote]

end

/-! ### What it leaves -/

/-- A team without its registers and their marks. -/
def Team.noRegs (t : Team) : Team := { t with vec := [], vtag := [], scal := [], stag := [] }

theorem Team.deliverOld_noRegs (t : Team) (ty : Ty) (d : Reg) (p : LanePart) (data : List Byte) : (t.deliverOld ty d p data false).noRegs = t.noRegs := by
  cases d with
  | v r => exact (congrArg (fun t : Team => { t with scal := [], stag := [] }) (Team.writeLane_noVec t ty.width r _) :)
  | s r => rfl
  | q r => rfl

/-- A team without its acquire mark. -/
def Team.noAcq (t : Team) : Team := { t with acq := 0 }

/-- A team without its counts of accesses. -/
def Team.noCounts (t : Team) : Team := { t with paths := [], irrev := 0 }

/-- A team that is another counted, but for its registers and acquire mark, is that other but for these and its counts. -/
theorem Team.but_counts {t t0 : Team} {inst : Nat} (same : t.noRegs.noAcq = (t0.counted inst).noRegs.noAcq) (paths : NMap (List Nat)) :
    { { t with paths := paths } with vec := [], vtag := [], scal := [], stag := [], paths := [], acq := 0, irrev := 0 } =
      { t0 with vec := [], vtag := [], scal := [], stag := [], paths := [], acq := 0, irrev := 0 } := by
  have counts := congrArg Team.noCounts same
  simpa only [Team.noRegs, Team.noAcq, Team.noCounts, Team.counted, Team.setPath] using counts

theorem State.retire_team? {s : State} {u : Nat} {t : Team} (there : s.team? u = some t) : ∃ paths, (s.retire u).team? u = some { t with paths := paths } :=
  ⟨_, State.updTeam_team? _ there⟩

theorem State.retire_rest (s : State) (u : Nat) : { s.retire u with teams := [] } = { s with teams := [] } := State.updTeam_rest s u _

section
variable {s : State} {n m : Nat} {f : Group → Group} (kept : ∀ x : Group, (f x).launch = x.launch ∧ (f x).num = x.num)
include kept

theorem State.updGroup_group? (n' m' : Nat) : (s.updGroup n m f).group? n' m' = (s.group? n' m').map (fun x => if x.launch == n && x.num == m then f x else x) := by
  have same : (fun x : Group => x.launch == n' && x.num == m') ∘ (fun x => if x.launch == n && x.num == m then f x else x) = (fun x => x.launch == n' && x.num == m') := by
    funext x
    simp only [Function.comp_apply]
    split
    · rw [(kept x).1, (kept x).2]
    · rfl
  simp only [State.group?, State.updGroup, List.find?_map, same]

theorem State.updGroup_group?_same {g : Group} (group : s.group? n m = some g) : (s.updGroup n m f).group? n m = some (f g) := by
  rw [State.updGroup_group? kept, group, Option.map_some, if_pos (List.find?_some group)]

theorem State.updGroup_group?_other {n' m' : Nat} (other : ¬ (n' = n ∧ m' = m)) : (s.updGroup n m f).group? n' m' = s.group? n' m' := by
  rw [State.updGroup_group? kept]
  cases found : s.group? n' m' with
  | none => rfl
  | some x =>
    have key : (x.launch == n' && x.num == m') = true := List.find?_some (p := fun x : Group => x.launch == n' && x.num == m') found
    simp only [Bool.and_eq_true, beq_iff_eq] at key
    obtain ⟨rfl, rfl⟩ := key
    rw [Option.map_some, if_neg (by simpa using other)]

end

/-- The state in which an atomic of one lane is done. -/
def State.atomDone (s : State) (iss : Issue) (t0 : Team) (op : ReqOp) (ord : Order) (p : LanePart) (a : List Byte × Bool) (f : Group → Group) : State :=
  ((s.atomIssued iss.tid).answered (t0.counted s.nextId) (atomReq s iss op ord p) p a f).retire iss.tid

section
variable {s : State} {iss : Issue} {t0 : Team} (op : ReqOp) (ord : Order) (p : LanePart) (a : List Byte × Bool) (f : Group → Group)

theorem atomDone_rest : { s.atomDone iss t0 op ord p a f with teams := [], nextId := 0 } = { s.updGroup t0.launch t0.group f with teams := [], nextId := 0 } := by
  have drop {s s' : State} (same : { s with teams := [] } = { s' with teams := [] }) : { s with teams := [], nextId := 0 } = { s' with teams := [], nextId := 0 } :=
    congrArg (fun s : State => { s with nextId := 0 }) same
  have counted := congrArg (fun s : State => ({ s with nextId := 0 }.updGroup t0.launch t0.group f)) (State.updTeam_rest s iss.tid (Team.counted s.nextId))
  exact (drop (State.retire_rest _ _)).trans ((drop (State.retire_rest _ _)).trans ((drop (State.updTeam_rest _ _ _)).trans counted))

theorem atomDone_team?_other (id : t0.id = iss.tid) {u : Nat} (other : u ≠ iss.tid) : (s.atomDone iss t0 op ord p a f).team? u = s.team? u := by
  have other' : u ≠ (t0.counted s.nextId).id := id ▸ other
  exact (State.updTeam_team?_other _ _ other).trans ((State.updTeam_team?_other _ _ other').trans ((State.updTeam_team?_other _ _ other').trans
    (State.updTeam_team?_other s _ other)))

theorem atomDone_team? (id : t0.id = iss.tid) (there : s.team? iss.tid = some t0) :
    ∃ paths, (s.atomDone iss t0 op ord p a f).team? iss.tid = some { Team.receive (atomReq s iss op ord p) s.mem.seq p a (t0.counted s.nextId) with paths := paths } := by
  have received : (((s.atomIssued iss.tid).updGroup t0.launch t0.group f).updTeam iss.tid
      (Team.receive (atomReq s iss op ord p) (s.atomIssued iss.tid).mem.seq p a)).team? iss.tid =
        some (Team.receive (atomReq s iss op ord p) s.mem.seq p a (t0.counted s.nextId)) := by
    rw [show (s.atomIssued iss.tid).mem = s.mem from State.updTeam_mem s _ _]
    exact State.updTeam_team? _ (State.updTeam_team? (s := s) (Team.counted s.nextId) there)
  obtain ⟨_, once⟩ := State.retire_team? received
  obtain ⟨paths, twice⟩ := State.retire_team? once
  refine ⟨paths, ?_⟩
  unfold State.atomDone State.answered
  rw [show (t0.counted s.nextId).id = iss.tid from id]
  exact twice

end

/-! ### The element and its operands (R181) -/

/-- A group with another content of its scratchpad. -/
def Group.holding (m : Store) (g : Group) : Group := { g with scratch := m }

/-- A storage after an atomic on an element that is not marked. -/
def Store.atomed (m : Store) (o : Nat) (ty : Ty) (op x x2 : Nat) : Store :=
  m.write o (leBytes (ty.width / 8) (atomNew ty op (leNat (m.read o (ty.width / 8))) x x2)) false

section
variable {s : State} {t : Team} {r : Req} {p : LanePart} {g : Group} {o code : Nat}

theorem performPart_atomic {k : Fin 9} {d : Reg} {ty : Ty} (op : r.op = .atomic k code d) (type' : (Ty.ofCode r.ty).getD .s32 = ty)
    (group : s.group? t.launch t.group = some g) (clear : g.scratch.tagged o (ty.width / 8) = false) (untagged : p.tag = false) :
    s.performPart t r none p (t.scratchAt o) Hit.none' = ((leBytes (ty.width / 8) (leNat (g.scratch.read o (ty.width / 8))), false),
      s.updGroup t.launch t.group (Group.holding (g.scratch.atomed o ty k.val (leNat (p.data.take (ty.width / 8)))
        (leNat ((p.data.drop (ty.width / 8)).take (ty.width / 8)))))) := by
  have space : ((t.scratchAt o).space == 0) = false := rfl
  have at' : (t.scratchAt o).addr = o := rfl
  simp only [State.performPart, op, type', space, Bool.false_eq_true, if_false, at', store_scratch group, atomStore, clear, untagged, Bool.false_and, Bool.or_false]
  rfl

theorem performPart_reduce {k : Fin 6} {ty : Ty} (op : r.op = .reduce k code) (type' : (Ty.ofCode r.ty).getD .s32 = ty)
    (group : s.group? t.launch t.group = some g) (clear : g.scratch.tagged o (ty.width / 8) = false) (untagged : p.tag = false) :
    s.performPart t r none p (t.scratchAt o) Hit.none' = (([], false),
      s.updGroup t.launch t.group (Group.holding (g.scratch.atomed o ty k.val (leNat (p.data.take (ty.width / 8))) 0))) := by
  have space : ((t.scratchAt o).space == 0) = false := rfl
  have at' : (t.scratchAt o).addr = o := rfl
  simp only [State.performPart, op, type', space, Bool.false_eq_true, if_false, at', store_scratch group, atomStore, clear, untagged, Bool.false_and, Bool.or_false]
  rfl

end

theorem Ty.bytes_pow (t : Ty) : 256 ^ (t.width / 8) = 2 ^ t.width := by
  rcases t.width_eq with w | w <;> rw [w] <;> norm_num

theorem leNat_leBytes_of_lt {t : Ty} {x : Nat} (small : x < 2 ^ t.width) : leNat (leBytes (t.width / 8) x) = x := by
  rw [leNat_leBytes, Ty.bytes_pow, Nat.mod_eq_of_lt small]

theorem leNat_lt (data : List Byte) : leNat data < 256 ^ data.length := by
  induction data with
  | nil => exact Nat.one_pos
  | cons b bs ih =>
    have low := b.isLt
    simp only [leNat, List.length_cons, Nat.pow_succ]
    omega

theorem leBytes_getElem {n x k : Nat} (inside : k < (leBytes n x).length) : (leBytes n x)[k] = BitVec.ofNat 8 (x / 256 ^ k) := by
  induction n generalizing x k with
  | zero => simp [leBytes] at inside
  | succ n ih =>
    cases k with
    | zero => simp [leBytes]
    | succ k =>
      simp only [leBytes, List.getElem_cons_succ, ih, Nat.div_div_eq_div_mul, Nat.pow_succ, Nat.mul_comm]

/-- The bytes of a number that is written. -/
theorem Store.read_write_leBytes (m : Store) (o x : Nat) {n k : Nat} (inside : k < n) :
    (m.write o (leBytes n x) false).bytes.read (o + k) = BitVec.ofNat 8 (x / 256 ^ k) := by
  have written := Store.read_write m o (leBytes n x) false
  rw [leBytes_length] at written
  have byte : k < ((m.write o (leBytes n x) false).read o n).length := by rwa [Store.read_length]
  rw [← Store.read_getElem _ o n byte]
  simp only [written, leBytes_getElem]

section
variable (iss : Issue) (d : Reg) (next : Bool) (lane : Nat)

theorem atomReg_word : (atomReg iss d next lane).1 = atomWord iss d next lane := by
  cases d with
  | v r =>
    simp only [atomReg, atomWord, opdAt]
    split <;> rfl
  | s r => rfl
  | q r => rfl

theorem atomWord_lt : atomWord iss d next lane < 2 ^ iss.ty.width := by
  rw [← atomReg_word]
  cases d with
  | v r => exact opdAt_lt iss.ty.width_eq ..
  | s r => exact Nat.mod_lt _ (Nat.two_pow_pos _)
  | q r => exact Nat.two_pow_pos _

end

/-- The request of an atomic is performed at the type of the mood (R85). -/
theorem Issues.ofCode_typeCode {s : State} {iss : Issue} {i : Instr} (issues : Issues s iss i) : (Ty.ofCode (typeCode iss)).getD .s32 = iss.ty := by
  obtain ⟨-, -, -, -, eq⟩ := issueOf_some issues.issue
  have ty : iss.ty = (Ty.ofCode (bitsN iss.cl.mood.toNat 26 23)).getD .s32 := by
    conv_lhs => rw [eq]
    rfl
  rw [ty, typeCode]
  split
  · rfl
  · next high =>
    obtain ⟨k, code⟩ := Nat.exists_eq_add_of_le' (Nat.le_of_not_lt high)
    rw [code]
    rfl

/-! ### The old value delivered (R183) -/

section
variable (t : Team) (ty : Ty) (p : LanePart) {old : Nat}

theorem Team.deliverOld_vector (r : Fin 96) (lane : p.lane < 1024) (small : old < 2 ^ ty.width) :
    let t' := t.deliverOld ty (.v r) p (leBytes (ty.width / 8) old) false
    t'.scal = t.scal ∧ t'.stag = t.stag ∧ ∀ q m, m < 1024 → t'.v q m =
      if m = p.lane ∧ r.val ≤ q ∧ q < r.val + ty.width / 32 then BitVec.ofNat 32 (old / 2 ^ (32 * (q - r.val))) else t.v q m := by
  intro t'
  have noVec := Team.writeLane_noVec t ty.width r.val { lane := p.lane, val := old, tag := false }
  have written : t' = t.writeLane ty.width r.val { lane := p.lane, val := old, tag := false } := by
    simp only [t', Team.deliverOld, Bool.false_eq_true, if_false, leNat_leBytes_of_lt small]
  rw [written]
  refine ⟨(congrArg Team.scal noVec :), (congrArg Team.stag noVec :), fun q m below => ?_⟩
  rw [Team.writeLane_v t ty.width r.val _ lane below]
  dsimp only
  by_cases own : m = p.lane
  · rcases ty.width_eq with w | w <;> rw [w]
    · by_cases first' : q = r.val
      · simp [own, first']
      · rw [if_pos own, if_neg first', if_neg (by omega), if_neg (by omega)]
    · by_cases first' : q = r.val
      · simp [own, first']
      · by_cases second : q = r.val + 1
        · simp [own, second]
        · rw [if_pos own, if_neg first', if_neg (by omega), if_neg (by omega)]
  · simp [own]

theorem Team.deliverOld_scalar (r : Fin 24) (small : old < 2 ^ ty.width) :
    let t' := t.deliverOld ty (.s r) p (leBytes (ty.width / 8) old) false
    t'.vec = t.vec ∧ t'.vtag = t.vtag ∧ ∀ q, t'.s q =
      if q = r.val then BitVec.ofNat 64 (if ty.width = 32 then scalarExt ty old else old) else t.s q := by
  intro t'
  have one : (ty.width / 32 = 1) = (ty.width = 32) := by rcases ty.width_eq with w | w <;> simp [w]
  have written : t' = t.setS r.val (BitVec.ofNat 64 (if ty.width = 32 then scalarExt ty old else old)) false := by
    simp only [t', Team.deliverOld, Bool.false_eq_true, if_false, leNat_leBytes_of_lt small, one]
  rw [written]
  refine ⟨rfl, rfl, fun q => ?_⟩
  by_cases own : q = r.val
  · rw [own, Team.setS_s_same, if_pos rfl]
  · rw [Team.setS_s_other t _ _ own, if_neg own]

end

/-! ### An atomic of one lane -/

/-- An atomic instruction of one lane on element o of its team's scratchpad, unmarked and in reach. -/
structure AtElement (s : State) (iss : Issue) (i : Instr) (l : Launch) (g : Group) (ask : LaneAsk) (o : Nat) : Prop where
  issues : Issues s iss i
  settled : Settled s iss l g
  inside : InScratch s iss l o (iss.ty.width / 8)
  aligned : o % (iss.ty.width / 8) = 0
  clear : g.scratch.tagged o (iss.ty.width / 8) = false
  lane : ask.lane ∈ lanesOf iss.val iss.team.n
  ea : ask.ea = winBase 1 + o
  atag : ask.atag = false
  dtag : ask.dtag = false

theorem settled_hashed {s : State} {iss : Issue} {l : Launch} {g : Group} (settled : Settled s iss l g) (i : Instr) : Settled (hashed s iss i) iss l g where
  key := settled.key
  runs := settled.runs
  launch := by simpa using settled.launch
  group := by simpa [State.group?] using settled.group
  single := settled.single
  noLock := settled.noLock
  noOver := settled.noOver
  room := settled.room
  none' := by simpa using settled.none'
  older := by simpa using settled.older
  noCast := by simpa using settled.noCast

namespace AtElement

variable {s : State} {iss : Issue} {i : Instr} {l : Launch} {g : Group} {ask : LaneAsk} {o : Nat}

/-- Its one part. -/
def part (iss : Issue) (ask : LaneAsk) : LanePart := { lane := ask.lane, va := ask.ea, off := 0, len := iss.ty.width / 8, data := ask.data, tag := ask.dtag }

/-- The team as it hashes the word. -/
abbrev team (iss : Issue) (i : Instr) : Team := hashTeam iss i iss.team

theorem within (e : AtElement s iss i l g ask o) : o < l.scratch := by
  obtain ⟨fits, -, -⟩ := e.inside
  rcases iss.ty.width_eq with w | w <;> rw [w] at fits <;> omega

theorem aligned_ea (e : AtElement s iss i l g ask o) : ask.ea % (iss.ty.width / 8) = 0 := by
  have aligned := e.aligned
  rw [e.ea]
  rcases iss.ty.width_eq with w | w <;> simp only [w, winBase] at aligned ⊢ <;> omega

theorem val_ne (e : AtElement s iss i l g ask o) : iss.val ≠ 0 := by
  intro idle
  have lane := e.lane
  simp [lanesOf, idle] at lane

theorem real (e : AtElement s iss i l g ask o) : iss.team.real.getLsbD ask.lane = true := by
  have active := (mem_lanesOf.mp e.lane).2
  rw [e.issues.val_eq, BitVec.getLsbD_and, Bool.and_eq_true] at active
  exact active.2

theorem team_id (e : AtElement s iss i l g ask o) : (team iss i).id = iss.tid :=
  ((congrArg Team.id (hashTeam_but_frags iss i iss.team) :) : (team iss i).id = iss.team.id).trans e.settled.key

theorem group (e : AtElement s iss i l g ask o) :
    ((hashed s iss i).atomIssued iss.tid).group? (team iss i).launch (team iss i).group = some g := by
  have launch : (team iss i).launch = iss.team.launch := (congrArg Team.launch (hashTeam_but_frags iss i iss.team) :)
  have num : (team iss i).group = iss.team.group := (congrArg Team.group (hashTeam_but_frags iss i iss.team) :)
  have groups : ((hashed s iss i).atomIssued iss.tid).groups = s.groups := (State.updTeam_groups _ _ _).trans (hashed_groups s iss i)
  rw [launch, num, State.group?, groups]
  exact e.settled.group

/-- The instruction's issue where its part, performed, answers a and leaves m in the scratchpad. -/
theorem done (e : AtElement s iss i l g ask o) {op : ReqOp} {ord : Order} {a : List Byte × Bool} {m : Store} (atomic : op.isAtomic = true) (clear : a.2 = false)
    (performed : ((hashed s iss i).atomIssued iss.tid).performPart ((team iss i).counted s.nextId) (atomReq (hashed s iss i) iss op ord (part iss ask)) none (part iss ask)
      (((team iss i).counted s.nextId).scratchAt o) Hit.none' =
        (a, ((hashed s iss i).atomIssued iss.tid).updGroup (team iss i).launch (team iss i).group (Group.holding m))) (skipped : State → State) :
    memIssue iss (hashed s iss i) op (iss.ty.width / 8) true ord true [ask] skipped =
      .done ((hashed s iss i).atomDone iss (team iss i) op ord (part iss ask) a (Group.holding m)) := by
  obtain ⟨-, -, free⟩ := e.inside
  refine memIssue_scratch (settled_hashed e.settled i) e.within (by simpa using free) e.issues.hashed_team? (hashTeam_but_frags iss i iss.team) atomic e.real e.val_ne e.aligned_ea
    e.ea e.atag e.dtag clear ?_
  rw [hashed_nextId]
  exact performed

/-- A team that hashes the word and counts the access keeps its registers and acquire mark. -/
theorem counted_regs (iss : Issue) (i : Instr) (inst : Nat) :
    let t := (team iss i).counted inst
    t.vec = iss.team.vec ∧ t.vtag = iss.team.vtag ∧ t.scal = iss.team.scal ∧ t.stag = iss.team.stag ∧ t.acq = iss.team.acq := by
  have hash := hashTeam_but_frags iss i iss.team
  obtain ⟨vec, vtag, scal, stag, acq⟩ := Team.counted_regs (team iss i) inst
  exact ⟨vec.trans (congrArg Team.vec hash :), vtag.trans (congrArg Team.vtag hash :), scal.trans (congrArg Team.scal hash :), stag.trans (congrArg Team.stag hash :),
    acq.trans (congrArg Team.acq hash :)⟩

/-- Delivery changes a team's registers and its acquire mark. -/
theorem receive_noRegs (r : Req) (seq : Nat) (p : LanePart) (data : List Byte) (t : Team) :
    (Team.receive r seq p (data, false) t).noRegs.noAcq = t.noRegs.noAcq := by
  unfold Team.receive
  split
  · next d op =>
    have same := congrArg Team.noAcq (Team.deliverOld_noRegs t ((Ty.ofCode r.ty).getD .s32) d p data)
    dsimp only
    split
    · exact same
    · exact same
  · rfl

/-- The scratchpad with the element written. -/
def written (iss : Issue) (g : Group) (o x : Nat) : Store := g.scratch.write o (leBytes (iss.ty.width / 8) x) false

/-- The state in which the instruction is done, its element holding x and the answer delivered. -/
def final (s : State) (iss : Issue) (i : Instr) (g : Group) (ask : LaneAsk) (o : Nat) (op : ReqOp) (ord : Order) (data : List Byte) (x : Nat) : State :=
  (hashed s iss i).atomDone iss (team iss i) op ord (part iss ask) (data, false) (Group.holding (written iss g o x))

/-- Its team, up to the paths. -/
def finalTeam (s : State) (iss : Issue) (i : Instr) (ask : LaneAsk) (op : ReqOp) (ord : Order) (data : List Byte) : Team :=
  Team.receive (atomReq (hashed s iss i) iss op ord (part iss ask)) s.mem.seq (part iss ask) (data, false) ((team iss i).counted s.nextId)

section
variable {op : ReqOp} {ord : Order} {data : List Byte} {x : Nat}

theorem final_rest : { final s iss i g ask o op ord data x with teams := [], nextId := 0, groups := [] } = { s with teams := [], nextId := 0, groups := [] } := by
  have done := congrArg (fun s : State => { s with groups := [] })
    (atomDone_rest (s := hashed s iss i) (iss := iss) (t0 := team iss i) op ord (part iss ask) (data, false) (Group.holding (written iss g o x)))
  have hash := congrArg (fun s : State => { s with nextId := 0, groups := [] }) (hashed_rest s iss i)
  exact done.trans hash

theorem final_group? (l' m' : Nat) : (final s iss i g ask o op ord data x).group? l' m' =
    (s.updGroup iss.team.launch iss.team.group (Group.holding (written iss g o x))).group? l' m' := by
  have launch : (team iss i).launch = iss.team.launch := (congrArg Team.launch (hashTeam_but_frags iss i iss.team) :)
  have num : (team iss i).group = iss.team.group := (congrArg Team.group (hashTeam_but_frags iss i iss.team) :)
  have groups := congrArg State.groups (atomDone_rest (s := hashed s iss i) (iss := iss) (t0 := team iss i) op ord (part iss ask) (data, false) (Group.holding (written iss g o x)))
  rw [launch, num] at groups
  simp only [State.updGroup, hashed_groups] at groups
  rw [State.group?, State.group?]
  exact congrArg (List.find? _) groups

theorem final_team? (e : AtElement s iss i l g ask o) :
    ∃ paths, (final s iss i g ask o op ord data x).team? iss.tid = some { finalTeam s iss i ask op ord data with paths := paths } := by
  obtain ⟨paths, there⟩ := atomDone_team? op ord (part iss ask) (data, false) (Group.holding (written iss g o x)) e.team_id e.issues.hashed_team?
  rw [hashed_mem, hashed_nextId] at there
  exact ⟨paths, there⟩

theorem finalTeam_noRegs : (finalTeam s iss i ask op ord data).noRegs.noAcq = ((team iss i).counted s.nextId).noRegs.noAcq := receive_noRegs ..

/-- Besides its team's registers and counts the instruction changes its element alone. -/
theorem onlyScratch (e : AtElement s iss i l g ask o) {paths : NMap (List Nat)}
    (there : (final s iss i g ask o op ord data x).team? iss.tid = some { finalTeam s iss i ask op ord data with paths := paths }) :
    OnlyScratch s iss i g o (iss.ty.width / 8) x (final s iss i g ask o op ord data x) { finalTeam s iss i ask op ord data with paths := paths } := by
  have kept (y : Group) : (Group.holding (written iss g o x) y).launch = y.launch ∧ (Group.holding (written iss g o x) y).num = y.num := ⟨rfl, rfl⟩
  refine ⟨there, fun u other => ?_, final_rest, ⟨_, e.issues.hashed_team?, ?_⟩, ⟨Group.holding (written iss g o x) g, ?_, rfl, fun k inside => ?_, fun c outside => ?_⟩, fun l' m' other => ?_⟩
  · exact (atomDone_team?_other _ _ _ _ _ e.team_id other).trans (hashed_team?_other s iss i other)
  · exact Team.but_counts finalTeam_noRegs paths
  · rw [final_group?]
    exact State.updGroup_group?_same kept e.settled.group
  · exact Store.read_write_leBytes _ _ _ inside
  · exact Store.byte_write_other _ _ _ _ _ (by rwa [leBytes_length])
  · rw [final_group?]
    exact State.updGroup_group?_other kept other

theorem finalTeam_irrev : (finalTeam s iss i ask op ord data).irrev = min 65535 (iss.team.irrev + 1) := by
  have count : (team iss i).irrev = iss.team.irrev := (congrArg Team.irrev (hashTeam_but_frags iss i iss.team) :)
  rw [← count]
  exact (congrArg Team.irrev (finalTeam_noRegs (s := s) (iss := iss) (i := i) (ask := ask) (op := op) (ord := ord) (data := data)) :)

end

/-! ### Fetch-atomics (R181-R183) -/

/-- What the team of a fetch-atomic is in the end. -/
theorem finalTeam_atomic {ord : Order} {data : List Byte} {k : Fin 9} {d : Reg} (issues : Issues s iss i) : finalTeam s iss i ask (.atomic k (typeCode iss) d) ord data =
    if ord.acq then { ((team iss i).counted s.nextId).deliverOld iss.ty d (part iss ask) data false with acq := s.mem.seq }
    else ((team iss i).counted s.nextId).deliverOld iss.ty d (part iss ask) data false := by
  rw [← issues.ofCode_typeCode]
  rfl

theorem finalTeam_acq {ord : Order} {data : List Byte} {k : Fin 9} {d : Reg} (issues : Issues s iss i) :
    (finalTeam s iss i ask (.atomic k (typeCode iss) d) ord data).acq = if ord.acq then s.mem.seq else iss.team.acq := by
  obtain ⟨-, -, -, -, acq⟩ := counted_regs iss i s.nextId
  have kept : (((team iss i).counted s.nextId).deliverOld iss.ty d (part iss ask) data false).acq = iss.team.acq :=
    (congrArg Team.acq (Team.deliverOld_noRegs ((team iss i).counted s.nextId) iss.ty d (part iss ask) data)).trans acq
  rw [finalTeam_atomic issues]
  split
  · rfl
  · exact kept

theorem finalTeam_regs {ord : Order} {data : List Byte} {k : Fin 9} {d : Reg} (issues : Issues s iss i) :
    (finalTeam s iss i ask (.atomic k (typeCode iss) d) ord data).noAcq = (((team iss i).counted s.nextId).deliverOld iss.ty d (part iss ask) data false).noAcq := by
  rw [finalTeam_atomic issues]
  split <;> rfl

/-- A reduction leaves its team's registers and acquire mark (R184). -/
theorem finalTeam_reduce {ord : Order} {k : Fin 6} {code : Nat} {data : List Byte} :
    let t' := finalTeam s iss i ask (.reduce k code) ord data
    t'.vec = iss.team.vec ∧ t'.vtag = iss.team.vtag ∧ t'.scal = iss.team.scal ∧ t'.stag = iss.team.stag ∧ t'.acq = iss.team.acq := counted_regs iss i s.nextId

/-- Its team's vector registers, where the old value goes there. -/
theorem finalTeam_vector {ord : Order} {k : Fin 9} {r : Fin 96} {old : Nat} (e : AtElement s iss i l g ask o) (small : old < 2 ^ iss.ty.width) :
    let t' := finalTeam s iss i ask (.atomic k (typeCode iss) (.v r)) ord (leBytes (iss.ty.width / 8) old)
    t'.scal = iss.team.scal ∧ t'.stag = iss.team.stag ∧ ∀ q m, m < 1024 → t'.v q m =
      if m = ask.lane ∧ r.val ≤ q ∧ q < r.val + iss.ty.width / 32 then BitVec.ofNat 32 (old / 2 ^ (32 * (q - r.val))) else iss.team.v q m := by
  intro t'
  have regs : t'.noAcq = _ := finalTeam_regs e.issues
  obtain ⟨vec0, -, scal0, stag0, -⟩ := counted_regs iss i s.nextId
  obtain ⟨scal, stag, vec⟩ := Team.deliverOld_vector ((team iss i).counted s.nextId) iss.ty (part iss ask) r (lanesOf_lt e.lane) small
  refine ⟨(congrArg Team.scal regs).trans (scal.trans scal0), (congrArg Team.stag regs).trans (stag.trans stag0), fun q m below =>
    (congrArg (fun t : Team => t.v q m) regs).trans ((vec q m below).trans ?_)⟩
  rw [Team.v, vec0]
  rfl

/-- Its team's scalar registers, where the old value goes there. -/
theorem finalTeam_scalar {ord : Order} {k : Fin 9} {r : Fin 24} {old : Nat} (e : AtElement s iss i l g ask o) (small : old < 2 ^ iss.ty.width) :
    let t' := finalTeam s iss i ask (.atomic k (typeCode iss) (.s r)) ord (leBytes (iss.ty.width / 8) old)
    t'.vec = iss.team.vec ∧ t'.vtag = iss.team.vtag ∧ ∀ q, t'.s q =
      if q = r.val then BitVec.ofNat 64 (if iss.ty.width = 32 then scalarExt iss.ty old else old) else iss.team.s q := by
  intro t'
  have regs : t'.noAcq = _ := finalTeam_regs e.issues
  obtain ⟨vec0, vtag0, scal0, -, -⟩ := counted_regs iss i s.nextId
  obtain ⟨vec, vtag, scal⟩ := Team.deliverOld_scalar ((team iss i).counted s.nextId) iss.ty (part iss ask) r small
  refine ⟨(congrArg Team.vec regs).trans (vec.trans vec0), (congrArg Team.vtag regs).trans (vtag.trans vtag0), fun q =>
    (congrArg (fun t : Team => t.s q) regs).trans ((scal q).trans ?_)⟩
  rw [Team.s, scal0]
  rfl

end AtElement

/-! ### The instructions (R181-R185) -/

/-- What an atomic asks in a lane: ATCAS sends both its operands. -/
def atomAsk (iss : Issue) (cas : Bool) (d a : Reg) (b : Src) (lane : Nat) : LaneAsk :=
  let n := iss.ty.width / 8
  { lane := lane, ea := effAddr iss a b lane, atag := addrTag iss a b lane
    data := if cas then leBytes n (atomReg iss d false lane).1 ++ leBytes n (atomReg iss d true lane).1 else leBytes n (atomReg iss d false lane).1
    dtag := (atomReg iss d false lane).2 || (cas && (atomReg iss d true lane).2) }

section
variable (iss : Issue) (cas : Bool) (d a : Reg) (b : Src) (lane : Nat)

theorem atomAsk_first : leNat ((atomAsk iss cas d a b lane).data.take (iss.ty.width / 8)) = atomWord iss d false lane := by
  have first : (atomAsk iss cas d a b lane).data.take (iss.ty.width / 8) = leBytes (iss.ty.width / 8) (atomReg iss d false lane).1 := by
    cases cas with
    | false => exact List.take_of_length_le (le_of_eq (leBytes_length _ _))
    | true => exact List.take_left' (leBytes_length _ _)
  rw [first, atomReg_word, leNat_leBytes_of_lt (atomWord_lt iss d false lane)]

theorem atomAsk_second : leNat (((atomAsk iss cas d a b lane).data.drop (iss.ty.width / 8)).take (iss.ty.width / 8)) =
    if cas then atomWord iss d true lane else 0 := by
  cases cas with
  | false =>
    have none' : (atomAsk iss false d a b lane).data.drop (iss.ty.width / 8) = [] := List.drop_of_length_le (le_of_eq (leBytes_length _ _))
    rw [none', List.take_nil]
    rfl
  | true =>
    have second : (atomAsk iss true d a b lane).data.drop (iss.ty.width / 8) = leBytes (iss.ty.width / 8) (atomReg iss d true lane).1 :=
      List.drop_left' (leBytes_length _ _)
    rw [second, List.take_of_length_le (by rw [leBytes_length]), atomReg_word, leNat_leBytes_of_lt (atomWord_lt iss d true lane), if_pos rfl]

end

theorem Issues.mem_of_low {s : State} {iss : Issue} {i : Instr} (issues : Issues s iss i) {lane : Nat} (low : iss.low = some lane) : lane ∈ lanesOf iss.val iss.team.n :=
  List.mem_of_mem_head? (issues.low_eq ▸ low)

theorem Issues.act_of_mem {s : State} {iss : Issue} {i : Instr} (issues : Issues s iss i) {lane : Nat} (mem : lane ∈ lanesOf iss.val iss.team.n) : (iss.act == 0) = false := by
  refine beq_eq_false_iff_ne.mpr fun idle => ?_
  rw [issues.val_eq, idle] at mem
  simp [lanesOf] at mem

/-- The old value lies within the width of the type. -/
theorem leNat_read_lt (m : Store) (o : Nat) (ty : Ty) : leNat (m.read o (ty.width / 8)) < 2 ^ ty.width := by
  have small := leNat_lt (m.read o (ty.width / 8))
  rwa [Store.read_length, Ty.bytes_pow] at small

/-- How a fetch-atomic is ordered (R173). -/
def atomOrder (ord : AtOrder) : Order := { acq := ord == .acq || ord == .ar, rel := ord == .rel || ord == .ar }

/-- A fetch-atomic whose operand is in one lane asks for that lane alone. -/
theorem fetchAtomic_one {s : State} {iss : Issue} {k : Fin 9} {d : Reg} {lane : Nat} (active : (iss.act == 0) = false) (types : atomTypes iss.ty k.val = true)
    (low : iss.low = some lane) (lanes : d.isV = true → lanesOf iss.val iss.team.n = [lane]) (noPort : ∀ q, d ≠ .q q) (ord : AtOrder) (a : Reg) (b : Src) :
    fetchAtomic iss s k ord d a b =
      memIssue iss s (.atomic k (typeCode iss) d) (iss.ty.width / 8) true (atomOrder ord) true [atomAsk iss (k == 7) d a b lane] (fun s => s) := by
  cases d with
  | v r =>
    simp only [fetchAtomic, active, types, lanes rfl, List.isEmpty_cons, Bool.not_true, Bool.false_eq_true, if_false]
    rfl
  | s r =>
    simp only [fetchAtomic, active, types, low, Option.toList_some, List.isEmpty_cons, Bool.not_true, Bool.false_eq_true, if_false]
    rfl
  | q r => exact absurd rfl (noPort r)

/-- The operands that are sent are not marked. -/
theorem atomAsk_dtag {iss : Issue} {cas : Bool} {d : Reg} {lane : Nat} (first : atomTag iss d false lane = false) (second : cas = true → atomTag iss d true lane = false)
    (a : Reg) (b : Src) : (atomAsk iss cas d a b lane).dtag = false := by
  cases cas with
  | false => exact Bool.or_eq_false_iff.mpr ⟨first, rfl⟩
  | true => exact Bool.or_eq_false_iff.mpr ⟨first, second rfl⟩

theorem atomicScratch_of_runs {i : Instr} {k : Fin 9} {ord : AtOrder} {d a : Reg} {b : Src} {new' : Ty → Nat → Nat → Nat → Nat}
    (runs : ∀ s, exec i s = run i s (fun iss s => fetchAtomic iss s k ord d a b))
    (same : ∀ ty old x y, x < 2 ^ ty.width → y < 2 ^ ty.width → atomNew ty k.val old x (if k == 7 then y else 0) = new' ty old x y) :
    AtomicScratch i k.val ord d a b new' := by
  intro s iss l g lane o issues settled types low lanes plain tag tag2 ea inside aligned clear noPort w old
  have mem := issues.mem_of_low low
  have untagged := atomAsk_dtag (cas := k == 7) tag (fun cas => tag2 (by rw [eq_of_beq cas]; rfl)) a b
  have e : AtElement s iss i l g (atomAsk iss (k == 7) d a b lane) o :=
    { issues := issues, settled := settled, inside := inside, aligned := aligned, clear := clear, lane := mem, ea := ea, atag := plain, dtag := untagged }
  have small : old < 2 ^ iss.ty.width := leNat_read_lt ..
  have performed := performPart_atomic (t := (AtElement.team iss i).counted s.nextId)
    (r := atomReq (hashed s iss i) iss (.atomic k (typeCode iss) d) (atomOrder ord) (AtElement.part iss (atomAsk iss (k == 7) d a b lane)))
    (p := AtElement.part iss (atomAsk iss (k == 7) d a b lane)) rfl issues.ofCode_typeCode e.group clear untagged
  rw [show (AtElement.part iss (atomAsk iss (k == 7) d a b lane)).data = (atomAsk iss (k == 7) d a b lane).data from rfl, atomAsk_first,
    atomAsk_second, Store.atomed, same _ _ _ _ (atomWord_lt ..) (atomWord_lt ..)] at performed
  have ends := (fetchAtomic_one (s := hashed s iss i) (issues.act_of_mem mem) types low lanes noPort ord a b).trans (e.done rfl rfl performed _)
  obtain ⟨paths, there⟩ := e.final_team? (op := .atomic k (typeCode iss) d) (ord := atomOrder ord) (data := leBytes (iss.ty.width / 8) old)
    (x := new' iss.ty old (atomWord iss d false lane) (atomWord iss d true lane))
  refine ⟨_, _, issues.completes (runs s) ends, e.onlyScratch there, AtElement.finalTeam_irrev, ?_, ?_, ?_⟩
  · refine (AtElement.finalTeam_acq issues :).trans ?_
    simp [atomOrder]
  · rintro r rfl
    exact e.finalTeam_vector small
  · rintro r rfl
    exact e.finalTeam_scalar small

/-- A reduction in one lane asks for that lane. -/
theorem reduction_one {s : State} {iss : Issue} {k : Fin 6} {lane : Nat} (active : (iss.act == 0) = false) (types : atomTypes iss.ty k.val = true)
    (lanes : lanesOf iss.val iss.team.n = [lane]) (rel : Bool) (d a : Reg) (b : Src) :
    reduction iss s k rel d a b =
      memIssue iss s (.reduce k (typeCode iss)) (iss.ty.width / 8) true { acq := false, rel := rel } true [atomAsk iss false d a b lane] (fun s => s) := by
  simp only [reduction, active, types, lanes, List.isEmpty_cons, Bool.not_true, Bool.false_eq_true, if_false]
  rfl

theorem reducesScratch_of_runs {i : Instr} {k : Fin 6} {rel : Bool} {d a : Reg} {b : Src} {new' : Ty → Nat → Nat → Nat}
    (runs : ∀ s, exec i s = run i s (fun iss s => reduction iss s k rel d a b)) (same : ∀ ty old x, atomNew ty k.val old x 0 = new' ty old x) :
    ReducesScratch i k.val d a b new' := by
  intro s iss l g lane o issues settled types lanes plain tag ea inside aligned clear w
  have mem : lane ∈ lanesOf iss.val iss.team.n := by rw [lanes]; exact List.mem_singleton_self lane
  have untagged := atomAsk_dtag (cas := false) tag (fun cas => nomatch cas) a b
  have e : AtElement s iss i l g (atomAsk iss false d a b lane) o :=
    { issues := issues, settled := settled, inside := inside, aligned := aligned, clear := clear, lane := mem, ea := ea, atag := plain, dtag := untagged }
  have performed := performPart_reduce (t := (AtElement.team iss i).counted s.nextId)
    (r := atomReq (hashed s iss i) iss (.reduce k (typeCode iss)) { acq := false, rel := rel } (AtElement.part iss (atomAsk iss false d a b lane)))
    (p := AtElement.part iss (atomAsk iss false d a b lane)) rfl issues.ofCode_typeCode e.group clear untagged
  rw [show (AtElement.part iss (atomAsk iss false d a b lane)).data = (atomAsk iss false d a b lane).data from rfl, atomAsk_first, Store.atomed, same] at performed
  have ends := (reduction_one (s := hashed s iss i) (issues.act_of_mem mem) types lanes rel d a b).trans (e.done rfl rfl performed _)
  obtain ⟨paths, there⟩ := e.final_team? (op := .reduce k (typeCode iss)) (ord := { acq := false, rel := rel }) (data := [])
    (x := new' iss.ty (leNat (g.scratch.read o (iss.ty.width / 8))) (atomWord iss d false lane))
  exact ⟨_, _, issues.completes (runs s) ends, e.onlyScratch there, AtElement.finalTeam_irrev,
    AtElement.finalTeam_reduce (s := s) (ask := atomAsk iss false d a b lane) (ord := { acq := false, rel := rel }) (k := k) (code := typeCode iss) (data := [])⟩

end Sys2Proof.Machine

namespace Sys2Proof.Claims
open Sys2Proof.Machine

/-- Settles O17: each instruction is one of two forms, whose one request is served as it issues; what is left is its new value. -/
theorem atomicResults : Obligations.AtomicResults := by
  unfold Obligations.AtomicResults
  intro ord rel d a b by'
  refine ⟨atomicScratch_of_runs (exec_atadd · ord d a b) fun _ _ _ _ _ _ => rfl, atomicScratch_of_runs (exec_atmin · ord d a b) fun _ _ _ _ _ _ => rfl,
    atomicScratch_of_runs (exec_atmax · ord d a b) fun _ _ _ _ _ _ => rfl, atomicScratch_of_runs (exec_atand · ord d a b) fun _ _ _ _ _ _ => rfl,
    atomicScratch_of_runs (exec_ator · ord d a b) fun _ _ _ _ _ _ => rfl, atomicScratch_of_runs (exec_atxor · ord d a b) fun _ _ _ _ _ _ => rfl,
    atomicScratch_of_runs (exec_atxch · ord d a b) fun _ _ _ _ inX _ => Nat.mod_eq_of_lt inX,
    atomicScratch_of_runs (exec_atcas · ord d a b) fun _ old x _ _ inY => congrArg (fun y => if old = x then y else old) (Nat.mod_eq_of_lt inY),
    atomicScratch_of_runs (exec_atinc · ord d a b) fun _ _ _ _ _ _ => rfl,
    reducesScratch_of_runs (exec_rdadd · rel d a b) fun _ _ _ => rfl, reducesScratch_of_runs (exec_rdmin · rel d a b) fun _ _ _ => rfl,
    reducesScratch_of_runs (exec_rdmax · rel d a b) fun _ _ _ => rfl, reducesScratch_of_runs (exec_rdand · rel d a b) fun _ _ _ => rfl,
    reducesScratch_of_runs (exec_rdor · rel d a b) fun _ _ _ => rfl, reducesScratch_of_runs (exec_rdxor · rel d a b) fun _ _ _ => rfl⟩

end Sys2Proof.Claims
end
